-- ==== Sys2Proof/Word.lean ====
section
/-! DEFINITION. The word and byte types of the register file and of the memories (R2: registers are 32 bits wide). -/

namespace Sys2Proof

/-- A 32-bit register word (R2). -/
abbrev Word := BitVec 32

/-- One byte of a memory or of a message. -/
abbrev Byte := BitVec 8

end Sys2Proof
end

