-- ==== Sys2Proof/Machine/Messages.lean ====
section
/-! DEFINITION. The names and messages that commands carry and the device sends: access origins (R372), device states,
roles and arm states (R1), Tyesh frames, the messages of the partner, the witness and the station, and the emissions that
make up the model's observation port. -/

namespace Sys2Proof.Machine

open Sys2Proof

/-- The access origins, with the codes of R372. -/
inductive Origin where
  | device | pcie | uart
  | svc (n : Fin 4)
  | partner | witness | jtag
  deriving DecidableEq, Repr

/-- The device states of R1 that have a code (R460; OFF answers no access). -/
inductive DState where
  | boot | config | discover | sync | armed | run | degraded | blocked | halt
  deriving DecidableEq, Repr

/-- The roles of R292, with the codes of TOP_STAT.ROLE. -/
inductive Role where
  | solo | active | standby | syncing | witness | faulted
  deriving DecidableEq, Repr

/-- The arm states of R1, with the codes of TOP_ARMSTATE. -/
inductive ArmState where
  | blocked | deblocking | running | blocking
  deriving DecidableEq, Repr

/-- The epoch states of R377. -/
inductive EpState where
  | idle | staging | validating | valid | applying
  deriving DecidableEq, Repr

/-- The degraded modes of R347. -/
inductive Deg where
  | saf | clk
  | ring (p : Fin 48)
  deriving DecidableEq, Repr

/-- A Tyesh frame on the fibre (R66 to R72): header bits, 128-bit slots in order of position, trailer word. Each number
holds the bits as R66 numbers them. `whole` is false for a frame cut off before its trailer. -/
structure Frame where
  hdr : BitVec 256
  slots : List (BitVec 128)
  trailer : BitVec 64
  whole : Bool
  deriving DecidableEq, Repr

/-- The pair that an origin is. -/
def Origin.pairOf (o : Origin) : Option Nat :=
  match o with
  | .svc n => some n.val
  | _ => none

/-- State SRAM and DDR4 as a pair sees them: from 0x4000_0000, and through the window that MEM_DWIN places at 0x8000_0000 (R415, R419). -/
def isPairMem (addr : Nat) : Bool :=
  (decide (0x40000000 ≤ addr) && decide (addr < 0x40800000)) || (decide (0x80000000 ≤ addr) && decide (addr < 0x90000000))

/-- What the device drives on a ball or answers with. -/
inductive Pin where
  | safeOkA | safeOkB | syncOut | trigIo | clkOut | attnN | cycMark | safeOkMon
  /-- a GPIO without its alternate function; all of them -/
  | gpio (n : Nat)
  | gpios
  | wit (u : Fin 2)
  /-- a lane's transmit balls; all lanes' -/
  | lane (n : Nat)
  | lanes
  deriving DecidableEq, Repr

/-- The levels a pin takes (R122, R459). -/
inductive Level where
  | low | high | highZ | released | idle | driven
  deriving DecidableEq, Repr

/-- How an access ends for its origin (R5, R6, R357, R452). -/
inductive Answer where
  | data (v : Word)
  | written
  | completerAbort
  | unsupportedRequest
  | busError
  | jtagError
  deriving DecidableEq, Repr

/-- A command for one cell and window: MODE, EDGE1, EDGE2 (R68). -/
structure CellCmd where
  mode : Nat
  edge1 : Nat
  edge2 : Nat
  deriving DecidableEq, Repr

/-- Registers carried by a message: BAR0 offsets, rising, and words. -/
abbrev Words := List (Nat × Word)

/-- An arm's record in CMDS (R302): i_k in mA, v_mv, NSTALE, n and w of R224. -/
structure CmdsArm where
  ik : Int
  vmv : Int
  nstale : Nat
  n : Nat
  w : Nat
  deriving DecidableEq, Repr

/-- CMDS (R302): target cycle, len(k+2), UNWRAP port mask, arm block mask, arm records, commands of the mapped cells, and the
time stamps of R296 in 2⁻⁸ ns: departure t1 and the arrival t4 of the receiver's last message; the sender's health word (R314). -/
structure Cmds where
  cyc : Word
  len2 : Nat
  unwrap : BitVec 48
  block : BitVec 12
  t1 : BitVec 40
  t4 : BitVec 40
  health : Word
  arms : List CmdsArm
  cells : List (Nat × CellCmd)
  deriving DecidableEq, Repr

/-- STAT (R299, R305): health word, departure t3, echo of t2, ports on which the sender sends cycle frames; the lowest cast
segment that has not arrived, from 1, 0 for none (R325). DESIGN CHOICE, log entry 74. -/
structure Stat where
  health : Word
  t3 : BitVec 40
  t2 : BitVec 40
  ports : BitVec 48
  lost : Nat
  deriving DecidableEq, Repr

/-- PAIR (R295): identity, the values that the checks compare, whether checks 0x01 to 0x07 pass, time stamps, and the cycle
timer's boundary and number (R296). -/
structure PairMsg where
  unit : Nat
  role : Role
  fwver : Word
  digests : List Word
  ccv : BitVec 64
  epoch : Word
  config : BitVec 64
  passed : Bool
  t1 : BitVec 40
  t4 : BitVec 40
  running : Bool
  t0 : BitVec 48
  cyc : Word
  deriving DecidableEq, Repr

/-- A hand-over in progress (R254): length L, whether F is the fixed start value T, and T. -/
structure HandOver where
  len : Nat
  fixed : Bool
  start : Int
  deriving DecidableEq, Repr

/-- What an EPOCH message says (R328): a group of the staged epoch as register values, the apply cycle or instant, or that the
epoch was discarded. -/
inductive EpochMsg where
  | group (index total : Nat) (recs : Words)
  | commit (j : Option Word) (a0 : Option (BitVec 48))
  | abort
  /-- an accepted CCV confirmation (R345) -/
  | confirm (v : BitVec 64)
  deriving DecidableEq, Repr

/-- A message on the Solder lanes (R299), by its values; Solder.lean has its bytes. DEDUCED, log entry 31. -/
inductive SolderMsg where
  | blk (mask : Nat)
  /-- cycle and signal slots 0 to 63 -/
  | islot (cyc : Word) (vals : List Word)
  /-- port, cycle, receiving end, WPOS, and per position VCAP, AUX, STAT, TERR (R304) -/
  | relay (port : Nat) (cyc : Word) (e wpos : Nat) (recs : List (Nat × Nat × Nat × Nat × Nat))
  /-- cycle and per arm SCH_VREF and SCH_VOFS of the active set R -/
  | ref (cyc : Word) (sets : List (Word × Word))
  | cmds (m : Cmds)
  | stat (m : Stat)
  /-- the ingot's cycle and the bytes of one segment (R309) -/
  | ingot (k : Word) (b : List Byte)
  /-- index and bytes of a segment (R325) -/
  | cast (idx : Nat) (b : List Byte)
  /-- port, result, cells; RING_DISC, RING_LINK0, RING_LINK1, RING_DINFO and words 0x10 to 0x1C of each cell (R327) -/
  | discres (port res cells : Nat) (words : List Word)
  | epoch (m : EpochMsg)
  | pair (m : PairMsg)
  deriving DecidableEq, Repr

/-- The observation port: everything the device sends to the outside, newest first in `Dev.out`. DESIGN CHOICE, log entry 5. -/
inductive Emission where
  /-- An answer to an access (R5, R6, R452). -/
  | answer (o : Origin) (off : Nat) (a : Answer)
  /-- An entry of a device-to-host ring at its index, but for its phase DW: the DWs before the phase DW and those after it
  (R359, R360). -/
  | hostEntry (ring index : Nat) (dws rest : List Word)
  /-- The phase DW of the entry, the `place`-th of its DWs, in a memory write of its own after the rest (R360). -/
  | hostPhase (ring index place : Nat) (dw : Word)
  /-- Bytes written to host memory at an address (the ATTEST report, R481). -/
  | hostWrite (addr : BitVec 64) (bytes : List Byte)
  /-- A read of host memory issued by the device (R362, R364, R375): ring, index. -/
  | hostRead (ring index : Nat)
  /-- An MSI-X vector raised (R363). -/
  | msix (vector : Nat)
  /-- A frame leaving the transmit balls of end e of port p at a TB0 instant in 2⁻¹⁶ ns (R40, R73). -/
  | frame (p e : Nat) (at_ : BitVec 48) (f : Frame)
  /-- The differential voltages of a lane's symbols from a TB0 instant on, in 1/288 mV (R99 to R113): the blocks that hold a frame, or one
  ALIGN block, or the payload blocks of a message. -/
  | line (lane : Nat) (at_ : BitVec 48) (volts : List Int)
  /-- An ALIGN block on all four Solder lanes (R106, R126): SEQ and RXUP. -/
  | align (seq : BitVec 8) (rxup : Bool)
  /-- A message, or one part of one, to the partner on the Solder lanes: header, payload and trailer (R298, R299). -/
  | solder (bytes : List Byte)
  /-- A heartbeat, verdict or answer on a witness link: link and payload bytes (R315 to R318). -/
  | witnessMsg (link : Nat) (bytes : List Byte)
  /-- The same message as its 20 code groups (R315). -/
  | witnessLine (link : Nat) (groups : List (BitVec 10))
  /-- An Ethernet frame with a safe telegram, sent on a station port (R353, R355). -/
  | telegram (port : Nat) (frame : List Byte)
  /-- A PTP message sent on a station port (R172): message type, correction data. -/
  | ptp (port : Nat) (msgType : Nat) (seq : Nat) (time : BitVec 48)
  /-- A management UART answer frame (R389). -/
  | uart (bytes : List Byte)
  /-- A level change of a ball (R459). -/
  | pin (p : Pin) (l : Level)
  /-- A ball carries a clock from now on: the source of CLK_OUT.SRC, the divisor n and the source periods it is high of each n; the source
  itself if n = 1 (R446). -/
  | clock (p : Pin) (src n high : Nat)
  /-- The boundary register drives the balls that it covers (R488, R489). -/
  | boundary (bits : List Bool)
  /-- A pulse on a ball, from a TB0 instant in ns for a width in ns (R57, R289). -/
  | pulse (p : Pin) (start : Word) (width : Nat)
  /-- An interrupt or dispatch seen by service core pair n: 0 an item dispatched, 1 pair interrupt, 2 reset, 3 wake. -/
  | pair (n : Nat) (kind : Nat) (arg : Word)
  /-- A shift result on TDO (R488). -/
  | tdo (bits : List Bool)
  deriving DecidableEq, Repr

/-- What an Announce message carries (R172): the data set of the default best-master algorithm and logAnnounceInterval. -/
structure Announce where
  domain : Nat
  prio1 : Nat
  cls : Nat
  acc : Nat
  var : Nat
  prio2 : Nat
  gmid : BitVec 64
  steps : Nat
  sender : BitVec 80
  logInt : Int
  deriving DecidableEq, Repr

/-- The perturbations (R483), in order of their registers. -/
inductive Pert where
  | dep | fwd | thr | slot | ing | hb | dly
  deriving DecidableEq, Repr

/-- An error in a DDR4 beat (R419): corrected; uncorrectable by its bits, or by its address. -/
inductive DdrFault where
  | ce | ue | adr
  deriving DecidableEq, Repr

/-- One arbitration phase of a target: banks 0 to 63, DDR4 64; FCLK cycle in the window; requesters, by port number in a bank
and by DDR4 requester number at DDR4; those of them whose access is a read-modify-write (R420). DESIGN CHOICE, log entry 46. -/
structure ArbPhase where
  target : Nat
  cycle : Nat
  reqs : List Nat
  rmw : List Nat
  deriving DecidableEq, Repr

/-- What the board offers the boot ROM: the flash, none if it does not answer; DDR4's capacity in 256 MB, 0 if it does not
train; whether the synthesiser becomes READY in time, fuses pass their redundancy check and MRAM's records are readable. -/
structure BootInput where
  flash : Option (List Byte)
  ddr : Nat
  ready : Bool
  fuses : Bool
  mram : Bool
  deriving DecidableEq, Repr

end Sys2Proof.Machine
end

