-- ==== Sys2Proof/Syntax.lean ====
section
/-! DEFINITION. The commands of spec/opcode_table.json, one constructor a row in the table's order, with their operands. `o` is
the origin of an access or write, `p` a ring port, `e` an end, `a` an arm, `n` a lane, instance, pair or time base, `v` a written
word, `hw` bits that hardware sets in the same clock, `b` bytes. -/

namespace Sys2Proof

open Sys2Proof.Machine

/-- A command to the device, an input of its surroundings, or an instant at which it acts. -/
inductive Instr where
  -- Reset and bring-up
  | porstNAssert | porstNRelease
  /-- VDD_CORE in µV and for how many ns it has lain there -/
  | brownout (uv ns : Nat)
  | srstNAssert
  | swrst (o : Origin)
  | internalResetEnd
  | boot (x : BootInput)
  | bootEnd
  | deviceDiscover (o : Origin)
  | discoveryComplete
  /-- a cause of R293 in its order, from 0 -/
  | fatalFault (cause : Fin 5)
  | deepEntry | deepExit
  -- Register accesses
  /-- BAR0 offset, byte enables; `which` numbers the counter of a flag in `hw` that has several -/
  | registerWrite (o : Origin) (off be : Nat) (v hw : Word) (which : Nat)
  | unmapped (o : Origin) (off : Nat) (wr : Bool)
  | unsupportedRequest (off : Nat)
  | gatedAccess (o : Origin) (off : Nat) (wr : Bool)
  /-- `w` numbers the wide values: 17 registers, then 6144 cells -/
  | wideLowRead (o : Origin) (w : Fin 6161) (be : Nat)
  | wideUpperRead (o : Origin) (w : Fin 6161) (be : Nat)
  /-- the base address of host ring `r` -/
  | wideLowWrite (o : Origin) (r : Fin 6) (v : Word)
  | wideUpperWrite (o : Origin) (r : Fin 6) (v : Word)
  | rcFieldRead (o : Origin) (off be : Nat) (hw : Word)
  | cycNumRead (o : Origin) (be : Nat)
  /-- `tie` says that the last set or step of the base falls in the same ACLK cycle -/
  | tbNsRead (o : Origin) (n : Fin 4) (be : Nat) (tie : Bool)
  | adcResRead (o : Origin) (x : Fin 2) (i : Fin 32) (be : Nat)
  | attnEnWrite (o : Origin) (v : Word)
  -- The control cycle
  | cycleTimerStart (o : Origin) (follow : Bool)
  | cycleTimerStopRequest (o : Origin) (follow : Bool)
  | cycleBoundary | frameDepart
  | idleFrameSend (p : Fin 48)
  /-- the levels of whole blocks at the lane's receive balls, since those of the last such command, as decided, in thirds of the peak;
  the last bit of a frame in them returns `ret` ns after t₀ -/
  | frameReceive (p : Fin 48) (e : Fin 2) (line : List Int) (ret : Nat)
  | returnDeadline
  | unwrapQualified (p : Fin 48)
  /-- the sort of an arm takes `ns` -/
  | armSort (a : Fin 12) (ns : Nat)
  | sortLate (a : Fin 12)
  | scheduleLate (a : Fin 12)
  /-- the fabric holds the engine up for `stall` ns -/
  | loopPhase (stall : Nat)
  | loopGclrWrite (o : Origin) (v : Word)
  /-- bytes of each recorder's staging buffer that have gone to DDR4 -/
  | reload (drained : List Nat)
  | scheduleCopy
  /-- a rising edge at an instant of TB0 -/
  | syncInEdge (t : BitVec 48)
  | syncloss
  -- Discovery
  | ringDiscover (o : Origin) (p : Fin 48)
  | discoveryDeferredStart
  /-- what a leader asks of its partner's end, if it does: pass, NSLOT and the 48 bits of LOAD -/
  | discoveryPass (p : Fin 48) (e : Fin 2) (ask : Option (Fin 3 × Nat × List (BitVec 48)))
  /-- levels as above, a frame's round trip -/
  | discoveryFrameReceive (p : Fin 48) (e : Fin 2) (line : List Int) (rtt : Nat)
  | discoveryPassTimeout (p : Fin 48)
  | discoveryNolock (p : Fin 48)
  /-- levels as above, a frame's residence in the end that turns it -/
  | discoveryFrameTurn (p : Fin 48) (e : Fin 2) (line : List Int) (residence : Nat)
  -- Lanes; `g` is a PLL group
  | lanePllLock (g : Fin 25)
  | lanePllLoss (g : Fin 25)
  /-- the differential amplitude in mVppd at the receive balls, and how many ns it has been so -/
  | losAssert (n : Fin 100) (amp ns : Nat)
  | losDeassert (n : Fin 100) (amp ns : Nat)
  | cdrLock (n : Fin 100)
  | cdrLockLoss (n : Fin 100)
  | blockLock (n : Fin 100)
  | lol (n : Fin 100)
  | hdrerr (n : Fin 100)
  /-- the levels of one block on each Solder lane, and each lane's delay in blocks -/
  | alignBlockReceive (lines : List (List Int)) (skew : List Nat)
  | alignBlockSend
  | laneRestart (o : Origin) (n : Fin 100)
  | laneTxeqWrite (o : Origin) (n : Fin 100) (v : Word)
  -- Time bases and PTP
  | tb0Set (o : Origin) (v : Word)
  | snap (o : Origin) (tie : Bool)
  | tb1Step (o : Origin) (v : Word)
  | tb1Slew (o : Origin) (v : Word)
  | tb1RateWrite (o : Origin) (v : Word)
  | tb3Set (o : Origin) (v : Word)
  | tb3Step (o : Origin) (v : Word)
  | tb3RateWrite (o : Origin) (v : Word)
  | tbCarry (n : Fin 4)
  | ptpSyncReceive (port : Fin 2) (domain seq : Nat) (twoStep : Bool) (t1 : Word) (corr logInt : Int)
  | followUpReceive (port : Fin 2) (domain seq : Nat) (t1 : Word) (corr : Int)
  | announceReceive (port : Fin 2) (m : Announce)
  | pdelayReqReceive (port : Fin 2) (domain seq : Nat)
  /-- TB1 captured as the request left, and ns since then -/
  | pdelayRespReceive (port : Fin 2) (domain : Nat) (t1 : BitVec 48) (ago : Nat) (t2 t3 : Word) (corr : Int)
  | announceTimeout (port : Fin 2)
  | syncTimeout | holdoverSecond
  -- Arms and schedules
  | armDeblockWrite (o : Origin) (mask : BitVec 12)
  | armBlockWrite (o : Origin) (mask : BitVec 12)
  | schEnableClear (o : Origin) (a : Fin 12)
  | aclkStop
  /-- SCH_VREF, SCH_VOFS, SCH_PCFG, SCH_PSC of an arm -/
  | shadowWrite (o : Origin) (a : Fin 12) (reg : Fin 4) (v : Word)
  /-- 16 measurements in taps -/
  | interpCalibration (g : Fin 25) (meas : List Nat)
  /-- a SET entry read for a cycle, with its bytes -/
  | setEntryReadComplete (cyc : Word) (b : List Byte)
  -- Analog inputs; `volts` are the voltages at the inputs in nV
  | adcHold (volts : List Nat)
  | adcRunStart (x : Fin 2) (volts : List Nat)
  | adcSwstart (o : Origin) (mask : BitVec 2) (volts : List Nat)
  | adcPublish (x : Fin 2) (volts : List Nat)
  | adcOwWrite (o : Origin) (reg : Fin 2) (v : Word)
  -- Recorders and TRIG_IO
  | recArm (o : Origin) (n : Fin 4)
  | recDisarm (o : Origin) (n : Fin 4)
  | recForce (o : Origin) (n : Fin 4)
  | recRead (o : Origin) (n : Fin 4)
  | recAutoTrigger (n : Fin 4)
  /-- DDR4 errors that the read meets: address and kind -/
  | recReadoutBlock (errs : List (Nat × DdrFault))
  | armout (o : Origin)
  | trigIoFall (t : BitVec 48)
  | trigIoRise (t : BitVec 48)
  | linestuck | trigIoDeferredDrive | trigIoPulseEnd
  -- Duplex operation; `groups` are a witness message's code groups (R315), `lines` the levels, in thirds, that the four Solder lanes have
  -- brought since the last command with such lines, `t2` and `t4` arrival stamps in 2⁻⁸ ns
  | verdictReceive (groups : List (BitVec 10))
  | adoption | standbyLinkLoss
  | dpxFaultWrite (o : Origin)
  | heartbeatSend
  | heartbeatReceive (link : Fin 2) (groups : List (BitVec 10))
  | witnessTimeout (u : Fin 2)
  | witnessStart | witloss
  | witnessMessageCrcError (groups : List (BitVec 10))
  | pairSend
  | pairReceive (lines : List (List Int)) (t2 : BitVec 40)
  | solderMessageSend
  | solderMessageCrcError (lines : List (List Int))
  | blkReceive (lines : List (List Int))
  | islotSend
  | islotReceive (lines : List (List Int))
  | relayReceive (lines : List (List Int))
  | refReceive (lines : List (List Int))
  | cmdsReceive (lines : List (List Int)) (t2 : BitVec 40)
  | statReceive (lines : List (List Int)) (t4 : BitVec 40)
  | ingotSegmentSend
  | ingotSegmentReceive (lines : List (List Int))
  | castSegmentReceive (lines : List (List Int))
  | discresReceive (lines : List (List Int))
  | epochReceive (lines : List (List Int))
  -- Safety functions
  /-- the ball has held a level for `held` ns -/
  | safInputFiltered (ch : Fin 4) (level : Bool) (held : Nat)
  | channelDiscrepancy (pair : Fin 2)
  /-- the level at which something outside holds the ball; none lets it go -/
  | safeOkReadbackFault (chB : Bool) (level : Option Bool)
  | safChannelMismatch
  /-- a difference that has lasted for ns -/
  | safOscillatorDifference (ppm ns : Nat)
  | sovChannelSilent (a : Fin 12) (chB : Bool)
  | safAckWrite (o : Origin)
  | degradedTimerExpiry (k : Deg)
  | degradedModeEnd (k : Deg)
  | conflockEnd
  /-- an Ethernet frame from its destination address on, without its check sequence -/
  | stationTelegramReceive (port : Fin 2) (frame : List Byte)
  | stationTelegramTimeout (port : Fin 2)
  | mismClear | statusTelegramSend
  -- Host interface; `tag` is a command's tag
  | cmdDoorbell (idx : Nat)
  | consumerIndexWrite (r : Fin 6) (idx : Nat)
  | cmdFetch (b : List Byte)
  | nop (tag : BitVec 16)
  | block (tag : BitVec 16) (mask : BitVec 12)
  | deblock (tag : BitVec 16) (mask : BitVec 12)
  | safack (tag : BitVec 16)
  | ccvconf (tag : BitVec 16) (v : BitVec 64)
  | recread (tag : BitVec 16) (n : Fin 4)
  | epopen (tag : BitVec 16)
  /-- host address and length of a group, and the bytes read there -/
  | epgroup (tag : BitVec 16) (addr : BitVec 64) (len : Word) (b : List Byte)
  | epvalid (tag : BitVec 16)
  | validationEnd
  | epcommit (tag : BitVec 16) (cyc : Word)
  | epabort (tag : BitVec 16)
  | groupApply
  /-- nonce, buffer address and length -/
  | attest (tag : BitVec 16) (nonce : BitVec 256) (addr : BitVec 64) (len : Word)
  | interruptCoalesceTimeout (r : Fin 6)
  /-- the read of a CMD entry (0), of a group (1), of a SET entry (2) -/
  | dmaReadTimeout (which : Fin 3)
  | ringEnWrite (o : Origin) (r : Fin 6) (v : Word)
  | uartFrame (b : List Byte)
  | uartFrameTimeout | auditEntryWrite
  | auditReadLatch (o : Origin) (seq : Word)
  | pcieFunctionReset (down : Bool)
  -- Service cores
  | svcEnqueue (o : Origin) (v : Word)
  | svcDone (o : Origin) (tie : Bool)
  | svcCancel (o : Origin) (v : Word)
  | affstealTimeout | tickBoundary | spillRefill (errs : List (Nat × Nat × DdrFault))
  | eventBindingFire (i : Fin 16)
  | semAcq (o : Origin) (i : Fin 64) (tie : Bool)
  | semRel (o : Origin) (i : Fin 64)
  | semClrpois (o : Origin) (i : Fin 64)
  | pairRestart (o : Origin) (n : Fin 4)
  | pairIrq (o : Origin) (n : Fin 4)
  | pairHaltWrite (o : Origin) (n : Fin 4) (halt : Bool)
  | pairLockstepMismatch (n : Fin 4)
  | pairEccError (n : Fin 4)
  | pairWatchdog (n : Fin 4)
  | pairAutoRestart (n : Fin 4)
  | pairIdleEntry (n : Fin 4)
  | pairWake (n : Fin 4)
  -- Memory and arbitration
  | arbWindowBoundary (phases : List ArbPhase)
  | starve
  /-- ARB_PORT of a port, or ARB_DDRW of a DDR4 requester; the FCLK cycle of the window in which the write falls -/
  | arbPortWrite (o : Origin) (ddr : Bool) (q : Fin 72) (v : Word) (cyc : Nat)
  | arbSlotWrite (o : Origin) (i : Fin 256) (v : Word)
  /-- fabric port, state SRAM address, and whether the read belongs to a read-modify-write -/
  | sramUncorrectable (port : Fin 72) (addr : Nat) (rmw : Bool)
  /-- addresses of the words corrected and of those found uncorrectable -/
  | scrubPass (ce ue : List Nat)
  /-- the bank and check that failed, if one did -/
  | mbistPass (bad : Option (Nat × Nat))
  -- Clocks
  | clockSourceSelect (o : Origin) (v : Word)
  | clockSwitchComplete (stopped : Bool)
  | mdllEnable (o : Origin)
  | clkMdllWrite (o : Origin) (v : Word)
  /-- D of R433 and the reference's distance from nominal in ppm -/
  | lockWindow (dv : Int) (ppm : Nat)
  | refloss
  /-- whether the root period monitor found the root off -/
  | failover (monitor : Bool)
  | clockAutoReturn
  /-- the oscillator's error in 0.01 ppm -/
  | trimWindow (err : Int)
  | trimStore
  | clkDivWrite (o : Origin) (v : Word)
  | clkOutWrite (o : Origin) (v : Word)
  | clkGateWrite (o : Origin) (one : Bool) (v : Word)
  | clkLsenWrite (o : Origin) (v : Word)
  -- Security, diagnostics, JTAG
  | secUnlock (o : Origin)
  | secKeyprog (o : Origin)
  | secKeyrev (o : Origin)
  | secOperationComplete
  | relock (o : Origin)
  | unlockExpiry
  | perturbationWrite (o : Origin) (k : Pert) (v : Word)
  | perturbationEnd (k : Pert)
  | extest (capture load : List Bool)
  | samplePreload (capture load : List Bool)
  | idcode | highz | clamp
  | regacc (wr : Bool) (off : Nat) (v : Word)
  | haltreq (mask : BitVec 4) (halt : Bool)
  | bypass (bits : List Bool)
  | jtagTapReset
  -- Further rows of the table
  | brownoutRelease (uv ns : Nat)
  | sovDiscrepancy (a : Fin 12)
  | receivingPortDown | tb1SlewAbsorbed
  | busMasterEnableChange (on : Bool)
  | attestCompletion (ok : Bool)
  | castIronOscillatorReady
  | pcieLinkUp (gen width : Nat)
  deriving DecidableEq, Repr

end Sys2Proof
end

