-- ==== Sys2Proof/WellFormed.lean ====
section
/-! DEFINITION. Commands that the surroundings can give: operands that the types admit but no access, frame or message has are
ruled out here. The meanings are total and do not depend on it. -/

namespace Sys2Proof

open Sys2Proof.Machine

/-- An offset of the 16 MB of BAR0 (R2). -/
def bar0 (off : Nat) : Bool := decide (off < 0x1000000)

/-- The four Solder lanes bring whole blocks of 65 symbols in the same block periods (R99, R104, R128). -/
def solderLines (lines : List (List Int)) : Bool :=
  lines.length == 4 && lines.all (fun l => l.length % 65 == 0 && l.length == (lines.headD []).length)

/-- Whether a command's operands are ones that occur. -/
def Instr.wellFormed (i : Instr) : Bool :=
  match i with
  -- DDR4 in 256 MB stands in 8 bits (TOP_CAP1.DDRSZ)
  | .boot x => decide (x.ddr < 256)
  -- four byte enables; flags that hardware sets against a clear only where there is one (R6, R7)
  | .registerWrite o off be _ hw _ => (bar0 off || (isPairMem off && o.pairOf.isSome)) && decide (be < 16) && (be == 15 || hw == 0)
  | .wideLowRead _ _ be => decide (be < 16)
  | .wideUpperRead _ _ be => decide (be < 16)
  | .cycNumRead _ be => decide (be < 16)
  | .tbNsRead _ _ be _ => decide (be < 16)
  | .adcResRead _ _ _ be => decide (be < 16)
  -- beyond the cell table window (R27)
  | .unmapped _ off _ => bar0 off && decide (0x460000 ≤ off)
  | .unsupportedRequest off => bar0 off
  | .gatedAccess _ off _ => bar0 off && off % 4 == 0
  | .rcFieldRead o off be _ =>
    (decide (off < 0x400000) || (isPairMem off && o.pairOf.isSome)) && off % 4 == 0 && decide (be < 16)
  -- at most 128 slots (R66)
  | .discoveryPass _ _ (some (_, n, _)) => decide (n ≤ 128)
  -- one count for each recorder instance
  | .reload l => l.length == 4
  -- 16 measurements (R229)
  | .interpCalibration _ l => l.length == 16
  -- whole blocks of 65 symbols (R99, R104)
  | .frameReceive _ _ line _ => line.length % 65 == 0
  | .discoveryFrameReceive _ _ line _ => line.length % 65 == 0
  | .discoveryFrameTurn _ _ line _ => line.length % 65 == 0
  -- one block on each of four Solder lanes (R127)
  | .alignBlockReceive lines l => lines.length == 4 && lines.all (fun x => x.length == 65) && l.length == 4
  -- a SET entry has 288 bytes (R359)
  | .setEntryReadComplete _ b => b.length == 288
  -- 24 analog inputs (R258)
  | .adcHold l => l.length == 24
  | .adcRunStart _ l => l.length == 24
  | .adcSwstart _ _ l => l.length == 24
  | .adcPublish _ l => l.length == 24
  -- a witness message takes 20 code groups (R315)
  | .verdictReceive gs => gs.length == 20
  | .heartbeatReceive _ gs => gs.length == 20
  | .witnessMessageCrcError gs => gs.length == 20
  | .pairReceive lines _ => solderLines lines
  | .solderMessageCrcError lines => solderLines lines
  | .blkReceive lines => solderLines lines
  | .islotReceive lines => solderLines lines
  | .relayReceive lines => solderLines lines
  | .refReceive lines => solderLines lines
  | .cmdsReceive lines _ => solderLines lines
  | .statReceive lines _ => solderLines lines
  | .ingotSegmentReceive lines => solderLines lines
  | .castSegmentReceive lines => solderLines lines
  | .discresReceive lines => solderLines lines
  | .epochReceive lines => solderLines lines
  -- a CMD entry has 64 bytes (R359)
  | .cmdFetch b => b.length == 64
  -- nine DDR4 requesters (R427)
  | .arbPortWrite _ ddr q _ cyc => (!ddr || decide (q.val < 9)) && decide (cyc ≤ 256)
  -- an 8-byte word of 8 MB of state SRAM (R415)
  | .sramUncorrectable _ addr _ => decide (addr < 0x800000) && addr % 8 == 0
  -- generations 1 to 4, one, two or four lanes (R356)
  | .pcieLinkUp gen width => decide (1 ≤ gen) && decide (gen ≤ 4) && (width == 1 || width == 2 || width == 4)
  | _ => true

end Sys2Proof
end

