-- ==== Sys2Proof/Decode.lean ====
section
/-! DEFINITION. Words of the opcode table. The device is a block: it takes commands, and the table gives no row a bit pattern, so
no word spells a command. -/

namespace Sys2Proof

/-- The command that a word of the opcode table spells: none of the table's rows has bits. DESIGN CHOICE, log entry 1. -/
def decodeTableWord (_nbits _w : Nat) : Option Instr := none

end Sys2Proof
end

