-- ==== Sys2Proof/Machine/Crc.lean ====
section
/-! DEFINITION. The CRCs of the manual, bit by bit: R72 (frames), R298 and R315 (partner and witness messages), R389 (UART). -/

namespace Sys2Proof.Machine

/-- One bit shifted into a CRC register, most significant bit first, without reflection. -/
def crcBit {w : Nat} (poly c : BitVec w) (b : Bool) : BitVec w :=
  if c.msb ^^ b then (c <<< 1) ^^^ poly else c <<< 1

/-- The n low bits of a number shifted in, highest first. -/
def crcBits {w : Nat} (poly : BitVec w) (c : BitVec w) (x : Nat) : Nat → BitVec w
  | 0 => c
  | n + 1 => crcBits poly (crcBit poly c (x.testBit n)) x n

/-- The 16-bit CRC of HCRC, SCRC and the UART: polynomial 0x1021, initial value 0xFFFF (R72, R389). -/
def crc16 (x n : Nat) : BitVec 16 := crcBits 0x1021 0xFFFF x n

/-- The 16-bit CRC over bytes in order. -/
def crc16Bytes (l : List (BitVec 8)) : BitVec 16 := l.foldl (fun c b => crcBits 0x1021 c b.toNat 8) 0xFFFF

/-- The 32-bit CRC register of FCRC, before the final XOR: polynomial 0x1EDC_6F41, initial value all ones (R72). -/
def crc32Bits (c : BitVec 32) (x n : Nat) : BitVec 32 := crcBits 0x1EDC6F41 c x n

/-- The 32-bit CRC over bytes in order, with its final XOR. -/
def crc32Bytes (l : List (BitVec 8)) : BitVec 32 :=
  (l.foldl (fun c b => crcBits 0x1EDC6F41 c b.toNat 8) 0xFFFFFFFF) ^^^ 0xFFFFFFFF

end Sys2Proof.Machine
end

