-- ==== Sys2Proof/Config.lean ====
section
/-! DEFINITION. The free values: what the manual bounds or leaves open and the model does not choose. Each is a constant
without a body, applied to a counter or to the operands it depends on, so that no proof can see a value of it. -/

namespace Sys2Proof

/-- The part of a frame's departure after t₀ + d_tx, as any number; the device uses it modulo the 0.5 ns of R73. -/
opaque Config.departJitter : Nat → Nat

/-- The FILL blocks that a lane has sent since its last blocks that held anything else. DESIGN CHOICE, log entry 63. -/
opaque Config.fillBlocks : Nat → Nat

/-- The payload bit of a block at which a frame begins, used modulo 128 (R73, R107). DESIGN CHOICE, log entry 63. -/
opaque Config.blockPhase : Nat → Nat

/-- Which value between the middle two of 16 measurements their median is (R229 does not say). DESIGN CHOICE, log entry 64. -/
opaque Config.medianTap : Nat → Nat

/-- Whether a witness link's running disparity is +1 before a message. PRESUMED, log entry 65. -/
opaque Config.idleDisparity : Nat → Bool

/-- The part of one ns that a glitch-free root switch costs the time bases, used modulo the 0.5 ns of R160 and R439. -/
opaque Config.switchLoss : Nat → Nat

/-- The 128-bit challenges of the entropy source (R474). DESIGN CHOICE, log entry 13. -/
opaque Config.challenge : Nat → BitVec 128

/-- Whether an XMSS-SHAKE_20_256 signature verifies under a public key for a message (R467): the key, the message bytes, the
signature bytes. The model does not compute RFC 8391. DESIGN CHOICE, log entry 21. -/
opaque Config.xmssVerifies : List (BitVec 8) → List (BitVec 8) → List (BitVec 8) → Bool

/-- The XMSS^MT signature of 5,605 bytes that the device's key makes at an index (R479, R480), byte by byte. DESIGN CHOICE, log
entry 21. -/
opaque Config.xmssmtByte : Nat → List (BitVec 8) → Nat → BitVec 8

/-- Where the scheduler's search for a free delay entry handle begins (R398, R406 name no value). -/
opaque Config.handleStart : Nat → Nat

/-- The source address of a station port (R353 names none). PRESUMED, log entry 62. -/
opaque Config.stationAddress : Nat → BitVec 48

/-- A word of the blocks' working state in state SRAM, whose layout R415 does not give, by read. DESIGN CHOICE, log entry 45. -/
opaque Config.sramWord : Nat → BitVec 32

/-- Where between 0.725 V and 0.755 V the device's brown-out monitor trips, used modulo 30,001 µV (R499). DESIGN CHOICE, log
entry 61. -/
opaque Config.brownoutTrip : Nat

/-- The levels of the GPIO balls that the device does not drive (R390), by instant. DESIGN CHOICE, log entry 11. -/
opaque Config.gpioInput : Nat → BitVec 32

/-- The error of a sine or cosine, by angle in 2⁻²⁴ turn; the device uses it within the 2⁻²³ of R242. -/
opaque Config.trigError : Nat → Nat

end Sys2Proof
end

