-- ==== Sys2Proof/Machine/RegNames.lean ====
section
/-! DEFINITION. The manual's names for the fields of its registers, each a place in the register file: BAR0 offset and bits.
A register with instances takes their numbers as arguments, in the order of its strides. Cell table fields take the cell
index c (R97, R204). The offsets and bits are those of the register tables (Machine/Regs.lean holds types and resets). -/

namespace Sys2Proof.Machine

/-- A field's place: BAR0 offset of its word and its bits [hi:lo]. -/
structure Fld where
  off : Nat
  hi : Nat
  lo : Nat
  deriving DecidableEq, Repr

/-! ### TOP -/

def TOP_ID : Nat := 0x000000
def TOP_ID_VENDOR : Fld := ⟨TOP_ID, 31, 16⟩
def TOP_ID_DEVICE : Fld := ⟨TOP_ID, 15, 0⟩
def TOP_REV : Nat := 0x000004
def TOP_REV_METAL : Fld := ⟨TOP_REV, 23, 16⟩
def TOP_REV_GRADE : Fld := ⟨TOP_REV, 11, 8⟩
def TOP_REV_STEP : Fld := ⟨TOP_REV, 7, 0⟩
def TOP_UID_LO : Nat := 0x000008
def TOP_UID_LO_UID : Fld := ⟨TOP_UID_LO, 31, 0⟩
def TOP_UID_HI : Nat := 0x00000C
def TOP_UID_HI_UID : Fld := ⟨TOP_UID_HI, 31, 0⟩
def TOP_CAP0 : Nat := 0x000010
def TOP_CAP0_SDL : Fld := ⟨TOP_CAP0, 25, 23⟩
def TOP_CAP0_PORTS : Fld := ⟨TOP_CAP0, 22, 17⟩
def TOP_CAP0_ARMS : Fld := ⟨TOP_CAP0, 16, 13⟩
def TOP_CAP0_CELLS : Fld := ⟨TOP_CAP0, 12, 0⟩
def TOP_CAP1 : Nat := 0x000014
def TOP_CAP1_SVCPAIRS : Fld := ⟨TOP_CAP1, 19, 16⟩
def TOP_CAP1_DDRSZ : Fld := ⟨TOP_CAP1, 15, 8⟩
def TOP_CAP1_CKEYS : Fld := ⟨TOP_CAP1, 7, 4⟩
def TOP_CAP1_COMPAT : Fld := ⟨TOP_CAP1, 3, 3⟩
def TOP_CAP1_WITNESS : Fld := ⟨TOP_CAP1, 2, 2⟩
def TOP_CAP1_DUPLEX : Fld := ⟨TOP_CAP1, 1, 1⟩
def TOP_CAP1_TESTEN : Fld := ⟨TOP_CAP1, 0, 0⟩
def TOP_SCRATCH : Nat := 0x000018
def TOP_SCRATCH_SCRATCH : Fld := ⟨TOP_SCRATCH, 31, 0⟩
def TOP_STAT : Nat := 0x000020
def TOP_STAT_SPATH : Fld := ⟨TOP_STAT, 22, 22⟩
def TOP_STAT_CLKDEG : Fld := ⟨TOP_STAT, 21, 21⟩
def TOP_STAT_SAFDEG : Fld := ⟨TOP_STAT, 20, 20⟩
def TOP_STAT_SAFEOK : Fld := ⟨TOP_STAT, 19, 19⟩
def TOP_STAT_ROLE : Fld := ⟨TOP_STAT, 18, 16⟩
def TOP_STAT_DSTATE : Fld := ⟨TOP_STAT, 15, 12⟩
def TOP_STAT_SECU : Fld := ⟨TOP_STAT, 7, 7⟩
def TOP_STAT_PLAT : Fld := ⟨TOP_STAT, 6, 6⟩
def TOP_STAT_SAFE : Fld := ⟨TOP_STAT, 5, 5⟩
def TOP_STAT_DPX : Fld := ⟨TOP_STAT, 4, 4⟩
def TOP_STAT_TIME : Fld := ⟨TOP_STAT, 3, 3⟩
def TOP_STAT_MEAS : Fld := ⟨TOP_STAT, 2, 2⟩
def TOP_STAT_RING : Fld := ⟨TOP_STAT, 1, 1⟩
def TOP_STAT_CTRL : Fld := ⟨TOP_STAT, 0, 0⟩
def TOP_ARMSTATE : Nat := 0x000024
def TOP_ARMSTATE_ARMST : Fld := ⟨TOP_ARMSTATE, 23, 0⟩
def TOP_ATTN_EN : Nat := 0x000028
def TOP_ATTN_EN_EN : Fld := ⟨TOP_ATTN_EN, 7, 0⟩
def TOP_DSUM_CTRL : Nat := 0x000030
def TOP_DSUM_CTRL_CTRL : Fld := ⟨TOP_DSUM_CTRL, 14, 0⟩
def TOP_DSUM_RING_LO : Nat := 0x000034
def TOP_DSUM_RING_LO_RING_LO : Fld := ⟨TOP_DSUM_RING_LO, 31, 0⟩
def TOP_DSUM_RING_HI : Nat := 0x000038
def TOP_DSUM_RING_HI_RING_HI : Fld := ⟨TOP_DSUM_RING_HI, 15, 0⟩
def TOP_DSUM_TIME : Nat := 0x00003C
def TOP_DSUM_TIME_TIME : Fld := ⟨TOP_DSUM_TIME, 1, 0⟩
def TOP_DSUM_MEAS : Nat := 0x000040
def TOP_DSUM_MEAS_MEAS : Fld := ⟨TOP_DSUM_MEAS, 4, 0⟩
def TOP_DSUM_DPX : Nat := 0x000044
def TOP_DSUM_DPX_DPX : Fld := ⟨TOP_DSUM_DPX, 4, 0⟩
def TOP_DSUM_SAFE : Nat := 0x000048
def TOP_DSUM_SAFE_SAFE : Fld := ⟨TOP_DSUM_SAFE, 0, 0⟩
def TOP_DSUM_PLAT : Nat := 0x00004C
def TOP_DSUM_PLAT_PLAT : Fld := ⟨TOP_DSUM_PLAT, 7, 0⟩
def TOP_DSUM_SECU : Nat := 0x000050
def TOP_DSUM_SECU_DIAG : Fld := ⟨TOP_DSUM_SECU, 2, 2⟩
def TOP_DSUM_SECU_AUD : Fld := ⟨TOP_DSUM_SECU, 1, 1⟩
def TOP_DSUM_SECU_SEC : Fld := ⟨TOP_DSUM_SECU, 0, 0⟩

/-! ### CLK -/

def CLK_CTRL : Nat := 0x010000
def CLK_CTRL_TRIMEN : Fld := ⟨CLK_CTRL, 3, 3⟩
def CLK_CTRL_AUTORET : Fld := ⟨CLK_CTRL, 2, 2⟩
def CLK_CTRL_MDLLEN : Fld := ⟨CLK_CTRL, 1, 1⟩
def CLK_CTRL_SEL : Fld := ⟨CLK_CTRL, 0, 0⟩
def CLK_MDLL : Nat := 0x010004
def CLK_MDLL_SEED : Fld := ⟨CLK_MDLL, 31, 16⟩
def CLK_MDLL_LOCKWIN : Fld := ⟨CLK_MDLL, 11, 8⟩
def CLK_MDLL_DITHEN : Fld := ⟨CLK_MDLL, 2, 2⟩
def CLK_MDLL_REFSEL : Fld := ⟨CLK_MDLL, 1, 0⟩
def CLK_STAT : Nat := 0x010008
def CLK_STAT_SWBUSY : Fld := ⟨CLK_STAT, 6, 6⟩
def CLK_STAT_CLKDEG : Fld := ⟨CLK_STAT, 5, 5⟩
def CLK_STAT_SRC : Fld := ⟨CLK_STAT, 4, 4⟩
def CLK_STAT_TRIMOK : Fld := ⟨CLK_STAT, 3, 3⟩
def CLK_STAT_REFOK : Fld := ⟨CLK_STAT, 2, 2⟩
def CLK_STAT_CIORDY : Fld := ⟨CLK_STAT, 1, 1⟩
def CLK_STAT_MDLLRDY : Fld := ⟨CLK_STAT, 0, 0⟩
def CLK_EVT : Nat := 0x01000C
def CLK_EVT_TRIMERR : Fld := ⟨CLK_EVT, 11, 11⟩
def CLK_EVT_OUTREF : Fld := ⟨CLK_EVT, 10, 10⟩
def CLK_EVT_CFGREF : Fld := ⟨CLK_EVT, 9, 9⟩
def CLK_EVT_GATEACC : Fld := ⟨CLK_EVT, 8, 8⟩
def CLK_EVT_GATEREF : Fld := ⟨CLK_EVT, 7, 7⟩
def CLK_EVT_FORCED : Fld := ⟨CLK_EVT, 6, 6⟩
def CLK_EVT_SWREF : Fld := ⟨CLK_EVT, 5, 5⟩
def CLK_EVT_RETURN : Fld := ⟨CLK_EVT, 4, 4⟩
def CLK_EVT_FAILOVER : Fld := ⟨CLK_EVT, 3, 3⟩
def CLK_EVT_REFLOSS : Fld := ⟨CLK_EVT, 2, 2⟩
def CLK_EVT_LOL : Fld := ⟨CLK_EVT, 1, 1⟩
def CLK_EVT_LOCK : Fld := ⟨CLK_EVT, 0, 0⟩
def CLK_ATTN_EN : Nat := 0x010010
def CLK_ATTN_EN_EN : Fld := ⟨CLK_ATTN_EN, 11, 0⟩
def CLK_LOCKCNT : Nat := 0x010014
def CLK_LOCKCNT_D : Fld := ⟨CLK_LOCKCNT, 15, 0⟩
def CLK_TRIM : Nat := 0x010018
def CLK_TRIM_TRIM : Fld := ⟨CLK_TRIM, 23, 0⟩
def CLK_CIOERR : Nat := 0x01001C
def CLK_CIOERR_ERR : Fld := ⟨CLK_CIOERR, 31, 0⟩
def CLK_DIV : Nat := 0x010020
def CLK_DIV_PDIV : Fld := ⟨CLK_DIV, 30, 24⟩
def CLK_DIV_FDIV : Fld := ⟨CLK_DIV, 20, 16⟩
def CLK_DIV_SDIV : Fld := ⟨CLK_DIV, 12, 8⟩
def CLK_DIV_ADIV : Fld := ⟨CLK_DIV, 4, 0⟩
def CLK_RETQ : Nat := 0x010024
def CLK_RETQ_RETQUAL : Fld := ⟨CLK_RETQ, 15, 0⟩
def CLK_OUT : Nat := 0x010028
def CLK_OUT_EN : Fld := ⟨CLK_OUT, 31, 31⟩
def CLK_OUT_SRC : Fld := ⟨CLK_OUT, 26, 24⟩
def CLK_OUT_DIV : Fld := ⟨CLK_OUT, 15, 0⟩
def CLK_GATE0 : Nat := 0x010030
def CLK_GATE0_ARMS : Fld := ⟨CLK_GATE0, 22, 22⟩
def CLK_GATE0_DDR : Fld := ⟨CLK_GATE0, 21, 21⟩
def CLK_GATE0_RECS : Fld := ⟨CLK_GATE0, 20, 20⟩
def CLK_GATE0_PAIR : Fld := ⟨CLK_GATE0, 19, 16⟩
def CLK_GATE0_REC : Fld := ⟨CLK_GATE0, 15, 12⟩
def CLK_GATE0_ARM : Fld := ⟨CLK_GATE0, 11, 0⟩
def CLK_GATE1 : Nat := 0x010034
def CLK_GATE1_ADC : Fld := ⟨CLK_GATE1, 25, 25⟩
def CLK_GATE1_LGRP : Fld := ⟨CLK_GATE1, 24, 0⟩
def CLK_LSEN : Nat := 0x010038
def CLK_LSEN_GPIOEN : Fld := ⟨CLK_LSEN, 3, 3⟩
def CLK_LSEN_SPIEN : Fld := ⟨CLK_LSEN, 2, 2⟩
def CLK_LSEN_I2CEN : Fld := ⟨CLK_LSEN, 1, 1⟩
def CLK_LSEN_UARTEN : Fld := ⟨CLK_LSEN, 0, 0⟩
def CLK_GATEERR : Nat := 0x01003C
def CLK_GATEERR_VALID : Fld := ⟨CLK_GATEERR, 31, 31⟩
def CLK_GATEERR_ORIGIN : Fld := ⟨CLK_GATEERR, 27, 24⟩
def CLK_GATEERR_OFFSET : Fld := ⟨CLK_GATEERR, 23, 0⟩
def CLK_GUSE0 : Nat := 0x010040
def CLK_GUSE0_USE0 : Fld := ⟨CLK_GUSE0, 22, 0⟩
def CLK_GUSE1 : Nat := 0x010044
def CLK_GUSE1_USE1 : Fld := ⟨CLK_GUSE1, 25, 0⟩

/-! ### RST -/

def RST_CTRL : Nat := 0x020000
def RST_CTRL_DISC : Fld := ⟨RST_CTRL, 1, 1⟩
def RST_CTRL_SWRST : Fld := ⟨RST_CTRL, 0, 0⟩
def RST_STAT : Nat := 0x020004
def RST_STAT_HCAUSE : Fld := ⟨RST_STAT, 15, 8⟩
def RST_STAT_PSTATE : Fld := ⟨RST_STAT, 5, 4⟩
def RST_STAT_DSTATE : Fld := ⟨RST_STAT, 3, 0⟩
def RST_CAUSE : Nat := 0x020008
def RST_CAUSE_ORIGIN : Fld := ⟨RST_CAUSE, 7, 4⟩
def RST_CAUSE_CAUSE : Fld := ⟨RST_CAUSE, 3, 0⟩
def RST_BOOT : Nat := 0x02000C
def RST_BOOT_STEP : Fld := ⟨RST_BOOT, 15, 8⟩
def RST_BOOT_RESULT : Fld := ⟨RST_BOOT, 7, 0⟩
def RST_DBREF : Nat := 0x020010
def RST_DBREF_REASON : Fld := ⟨RST_DBREF, 31, 24⟩
def RST_DBREF_ARM : Fld := ⟨RST_DBREF, 23, 20⟩
def RST_PCFG : Nat := 0x020014
def RST_PCFG_DEEPEN : Fld := ⟨RST_PCFG, 31, 31⟩
def RST_PCFG_DEEPMIN : Fld := ⟨RST_PCFG, 15, 0⟩
def RST_EVT : Nat := 0x020018
def RST_EVT_EVT : Fld := ⟨RST_EVT, 3, 0⟩
def RST_ATTN_EN : Nat := 0x02001C
def RST_ATTN_EN_EN : Fld := ⟨RST_ATTN_EN, 3, 0⟩

/-! ### CYC -/

def CYC_CTRL : Nat := 0x030000
def CYC_CTRL_FOLLOW : Fld := ⟨CYC_CTRL, 1, 1⟩
def CYC_CTRL_EN : Fld := ⟨CYC_CTRL, 0, 0⟩
def CYC_PERIOD : Nat := 0x030004
def CYC_PERIOD_PERIOD : Fld := ⟨CYC_PERIOD, 17, 0⟩
def CYC_DTX : Nat := 0x030008
def CYC_DTX_DTX : Fld := ⟨CYC_DTX, 12, 0⟩
def CYC_RESA : Nat := 0x03000C
def CYC_RESA_GUARD : Fld := ⟨CYC_RESA, 23, 16⟩
def CYC_RESA_SCH : Fld := ⟨CYC_RESA, 15, 8⟩
def CYC_RESA_SORT : Fld := ⟨CYC_RESA, 7, 0⟩
def CYC_RESB : Nat := 0x030010
def CYC_RESB_LOOP : Fld := ⟨CYC_RESB, 15, 0⟩
def CYC_RETDL : Nat := 0x030014
def CYC_RETDL_RETDL : Fld := ⟨CYC_RETDL, 17, 0⟩
def CYC_NUMINIT : Nat := 0x030018
def CYC_NUMINIT_NUMINIT : Fld := ⟨CYC_NUMINIT, 31, 0⟩
def CYC_NUM : Nat := 0x03001C
def CYC_NUM_NUM : Fld := ⟨CYC_NUM, 31, 0⟩
def CYC_T0 : Nat := 0x030020
def CYC_T0_T0 : Fld := ⟨CYC_T0, 31, 0⟩
def CYC_PHASE : Nat := 0x030024
def CYC_PHASE_PHASE : Fld := ⟨CYC_PHASE, 31, 0⟩
def CYC_STAT : Nat := 0x030028
def CYC_STAT_RUNNING : Fld := ⟨CYC_STAT, 9, 9⟩
def CYC_STAT_SYNCLOCK : Fld := ⟨CYC_STAT, 8, 8⟩
def CYC_STAT_SYNCSTEP : Fld := ⟨CYC_STAT, 6, 6⟩
def CYC_STAT_SYNCFAR : Fld := ⟨CYC_STAT, 5, 5⟩
def CYC_STAT_SYNCLOSS : Fld := ⟨CYC_STAT, 4, 4⟩
def CYC_STAT_PERCHG : Fld := ⟨CYC_STAT, 3, 3⟩
def CYC_STAT_PERERR : Fld := ⟨CYC_STAT, 2, 2⟩
def CYC_STAT_PHLATE : Fld := ⟨CYC_STAT, 1, 1⟩
def CYC_STAT_OVR : Fld := ⟨CYC_STAT, 0, 0⟩
def CYC_ATTN_EN : Nat := 0x03002C
def CYC_ATTN_EN_EN : Fld := ⟨CYC_ATTN_EN, 6, 0⟩
def CYC_OVRCNT : Nat := 0x030030
def CYC_OVRCNT_OVRCNT : Fld := ⟨CYC_OVRCNT, 31, 0⟩
def CYC_MISS_LO : Nat := 0x030034
def CYC_MISS_LO_MISS_LO : Fld := ⟨CYC_MISS_LO, 31, 0⟩
def CYC_MISS_HI : Nat := 0x030038
def CYC_MISS_HI_MISS_HI : Fld := ⟨CYC_MISS_HI, 15, 0⟩
def CYC_LATEPH : Nat := 0x03003C
def CYC_LATEPH_SCH : Fld := ⟨CYC_LATEPH, 23, 16⟩
def CYC_LATEPH_LOOP : Fld := ⟨CYC_LATEPH, 15, 8⟩
def CYC_LATEPH_SORT : Fld := ⟨CYC_LATEPH, 7, 0⟩
def CYC_MARGIN : Nat := 0x030040
def CYC_MARGIN_VALID : Fld := ⟨CYC_MARGIN, 31, 31⟩
def CYC_MARGIN_PORT : Fld := ⟨CYC_MARGIN, 23, 18⟩
def CYC_MARGIN_MARGIN : Fld := ⟨CYC_MARGIN, 17, 0⟩
def CYC_SYNCCFG : Nat := 0x030044
def CYC_SYNCCFG_WIN : Fld := ⟨CYC_SYNCCFG, 27, 16⟩
def CYC_SYNCCFG_SLEW : Fld := ⟨CYC_SYNCCFG, 3, 0⟩
def CYC_SYNCIN : Nat := 0x030048
def CYC_SYNCIN_INDLY : Fld := ⟨CYC_SYNCIN, 13, 0⟩
def CYC_SYNCOUT : Nat := 0x03004C
def CYC_SYNCOUT_OUTEN : Fld := ⟨CYC_SYNCOUT, 31, 31⟩
def CYC_SYNCOUT_WIDTH : Fld := ⟨CYC_SYNCOUT, 27, 16⟩
def CYC_SYNCOUT_OUTOFS : Fld := ⟨CYC_SYNCOUT, 11, 0⟩
def CYC_SYNCERR : Nat := 0x030050
def CYC_SYNCERR_MISSRUN : Fld := ⟨CYC_SYNCERR, 23, 16⟩
def CYC_SYNCERR_ERR : Fld := ⟨CYC_SYNCERR, 15, 0⟩

/-! ### TIM -/

def TIM_CTRL : Nat := 0x040000
def TIM_CTRL_SNAP : Fld := ⟨TIM_CTRL, 0, 0⟩
def TIM_STAT : Nat := 0x040004
def TIM_STAT_SLEWING : Fld := ⟨TIM_STAT, 4, 4⟩
def TIM_STAT_HOLDEXP : Fld := ⟨TIM_STAT, 3, 3⟩
def TIM_STAT_RXPORT : Fld := ⟨TIM_STAT, 2, 2⟩
def TIM_STAT_TB1ST : Fld := ⟨TIM_STAT, 1, 0⟩
def TIM_EVT : Nat := 0x040008
def TIM_EVT_TSETREF : Fld := ⟨TIM_EVT, 6, 6⟩
def TIM_EVT_DLYSAT : Fld := ⟨TIM_EVT, 5, 5⟩
def TIM_EVT_TERRHI : Fld := ⟨TIM_EVT, 4, 4⟩
def TIM_EVT_GMCHG : Fld := ⟨TIM_EVT, 3, 3⟩
def TIM_EVT_HOLDEXP : Fld := ⟨TIM_EVT, 2, 2⟩
def TIM_EVT_LOCKED : Fld := ⟨TIM_EVT, 1, 1⟩
def TIM_EVT_HOLDOVER : Fld := ⟨TIM_EVT, 0, 0⟩
def TIM_ATTN_EN : Nat := 0x04000C
def TIM_ATTN_EN_EN : Fld := ⟨TIM_ATTN_EN, 6, 0⟩
def TIM_TB_NS (i : Nat) : Nat := 0x040010 + 0x8 * i
def TIM_TB_NS_NS (i : Nat) : Fld := ⟨TIM_TB_NS i, 31, 0⟩
def TIM_TB_FRAC (i : Nat) : Nat := 0x040014 + 0x8 * i
def TIM_TB_FRAC_FRAC (i : Nat) : Fld := ⟨TIM_TB_FRAC i, 15, 0⟩
def TIM_WRAP : Nat := 0x040030
def TIM_WRAP_STEP : Fld := ⟨TIM_WRAP, 7, 4⟩
def TIM_WRAP_WR : Fld := ⟨TIM_WRAP, 3, 0⟩
def TIM_SNAP_NS (i : Nat) : Nat := 0x040040 + 0x8 * i
def TIM_SNAP_NS_NS (i : Nat) : Fld := ⟨TIM_SNAP_NS i, 31, 0⟩
def TIM_SNAP_FRAC (i : Nat) : Nat := 0x040044 + 0x8 * i
def TIM_SNAP_FRAC_FRAC (i : Nat) : Fld := ⟨TIM_SNAP_FRAC i, 15, 0⟩
def TIM_TB0SET : Nat := 0x040060
def TIM_TB0SET_TB0SET : Fld := ⟨TIM_TB0SET, 31, 0⟩
def TIM_TB1RATE : Nat := 0x040064
def TIM_TB1RATE_TB1RATE : Fld := ⟨TIM_TB1RATE, 31, 0⟩
def TIM_TB1STEP : Nat := 0x040068
def TIM_TB1STEP_TB1STEP : Fld := ⟨TIM_TB1STEP, 31, 0⟩
def TIM_TB1SLEW : Nat := 0x04006C
def TIM_TB1SLEW_TB1SLEW : Fld := ⟨TIM_TB1SLEW, 31, 0⟩
def TIM_TB3SET : Nat := 0x040070
def TIM_TB3SET_TB3SET : Fld := ⟨TIM_TB3SET, 31, 0⟩
def TIM_TB3STEP : Nat := 0x040074
def TIM_TB3STEP_TB3STEP : Fld := ⟨TIM_TB3STEP, 31, 0⟩
def TIM_TB3RATE : Nat := 0x040078
def TIM_TB3RATE_TB3RATE : Fld := ⟨TIM_TB3RATE, 31, 0⟩
def TIM_TERRLIM : Nat := 0x04007C
def TIM_TERRLIM_LIM : Fld := ⟨TIM_TERRLIM, 15, 0⟩
def TIM_PTPCFG : Nat := 0x040080
def TIM_PTPCFG_DOMAIN : Fld := ⟨TIM_PTPCFG, 31, 24⟩
def TIM_PTPCFG_KIS : Fld := ⟨TIM_PTPCFG, 23, 20⟩
def TIM_PTPCFG_KPS : Fld := ⟨TIM_PTPCFG, 19, 16⟩
def TIM_PTPCFG_TSMODE1 : Fld := ⟨TIM_PTPCFG, 3, 3⟩
def TIM_PTPCFG_TSMODE0 : Fld := ⟨TIM_PTPCFG, 2, 2⟩
def TIM_PTPCFG_EN1 : Fld := ⟨TIM_PTPCFG, 1, 1⟩
def TIM_PTPCFG_EN0 : Fld := ⟨TIM_PTPCFG, 0, 0⟩
def TIM_PTPTH : Nat := 0x040084
def TIM_PTPTH_STEPTH : Fld := ⟨TIM_PTPTH, 31, 16⟩
def TIM_PTPTH_LOCKTH : Fld := ⟨TIM_PTPTH, 15, 0⟩
def TIM_HOLD : Nat := 0x040088
def TIM_HOLD_HOLDLIM : Fld := ⟨TIM_HOLD, 31, 16⟩
def TIM_HOLD_HOLDSEC : Fld := ⟨TIM_HOLD, 15, 0⟩
def TIM_PTPOFS : Nat := 0x04008C
def TIM_PTPOFS_OFS : Fld := ⟨TIM_PTPOFS, 31, 0⟩
def TIM_PTPMPD : Nat := 0x040090
def TIM_PTPMPD_MPD : Fld := ⟨TIM_PTPMPD, 31, 0⟩
def TIM_GMID_LO : Nat := 0x040094
def TIM_GMID_LO_GMID_LO : Fld := ⟨TIM_GMID_LO, 31, 0⟩
def TIM_GMID_HI : Nat := 0x040098
def TIM_GMID_HI_GMID_HI : Fld := ⟨TIM_GMID_HI, 31, 0⟩
def TIM_SP_INGLAT (i : Nat) : Nat := 0x0400A0 + 0x8 * i
def TIM_SP_INGLAT_INGLAT (i : Nat) : Fld := ⟨TIM_SP_INGLAT i, 31, 0⟩
def TIM_SP_EGRLAT (i : Nat) : Nat := 0x0400A4 + 0x8 * i
def TIM_SP_EGRLAT_EGRLAT (i : Nat) : Fld := ⟨TIM_SP_EGRLAT i, 31, 0⟩
def TIM_DLYSAT_LO : Nat := 0x0400B0
def TIM_DLYSAT_LO_PORTS_LO : Fld := ⟨TIM_DLYSAT_LO, 31, 0⟩
def TIM_DLYSAT_HI : Nat := 0x0400B4
def TIM_DLYSAT_HI_PORTS_HI : Fld := ⟨TIM_DLYSAT_HI, 15, 0⟩
def TIM_KAPPA (i : Nat) : Nat := 0x040100 + 0x8 * i
def TIM_KAPPA_KAPPA (i : Nat) : Fld := ⟨TIM_KAPPA i, 31, 0⟩
def TIM_EASYM (i : Nat) : Nat := 0x040104 + 0x8 * i
def TIM_EASYM_EASYM1 (i : Nat) : Fld := ⟨TIM_EASYM i, 31, 16⟩
def TIM_EASYM_EASYM0 (i : Nat) : Fld := ⟨TIM_EASYM i, 15, 0⟩
def TIM_RTERR (i : Nat) : Nat := 0x040300 + 0x4 * i
def TIM_RTERR_NUNLOCK (i : Nat) : Fld := ⟨TIM_RTERR i, 31, 24⟩
def TIM_RTERR_WORSTPOS (i : Nat) : Fld := ⟨TIM_RTERR i, 23, 16⟩
def TIM_RTERR_MAXTERR (i : Nat) : Fld := ⟨TIM_RTERR i, 15, 0⟩

/-! ### RING -/

def RING_CTRL (i : Nat) : Nat := 0x080000 + 0x1000 * i
def RING_CTRL_UNWRAPDLY (i : Nat) : Fld := ⟨RING_CTRL i, 15, 12⟩
def RING_CTRL_HHOLD (i : Nat) : Fld := ⟨RING_CTRL i, 11, 8⟩
def RING_CTRL_DISC (i : Nat) : Fld := ⟨RING_CTRL i, 4, 4⟩
def RING_CTRL_OWNEND (i : Nat) : Fld := ⟨RING_CTRL i, 2, 2⟩
def RING_CTRL_DPX (i : Nat) : Fld := ⟨RING_CTRL i, 1, 1⟩
def RING_CTRL_EN (i : Nat) : Fld := ⟨RING_CTRL i, 0, 0⟩
def RING_MAP (i : Nat) : Nat := 0x080004 + 0x1000 * i
def RING_MAP_ARM (i : Nat) : Fld := ⟨RING_MAP i, 27, 24⟩
def RING_MAP_LREV (i : Nat) : Fld := ⟨RING_MAP i, 23, 23⟩
def RING_MAP_LBASE (i : Nat) : Fld := ⟨RING_MAP i, 22, 13⟩
def RING_MAP_NCELL (i : Nat) : Fld := ⟨RING_MAP i, 7, 0⟩
def RING_STAT (i : Nat) : Nat := 0x080008 + 0x1000 * i
def RING_STAT_DISCBUSY (i : Nat) : Fld := ⟨RING_STAT i, 7, 7⟩
def RING_STAT_UNWRAPPING (i : Nat) : Fld := ⟨RING_STAT i, 6, 6⟩
def RING_STAT_SPATH (i : Nat) : Fld := ⟨RING_STAT i, 5, 5⟩
def RING_STAT_WRAP1 (i : Nat) : Fld := ⟨RING_STAT i, 4, 4⟩
def RING_STAT_WRAP0 (i : Nat) : Fld := ⟨RING_STAT i, 3, 3⟩
def RING_STAT_RX1 (i : Nat) : Fld := ⟨RING_STAT i, 2, 2⟩
def RING_STAT_RX0 (i : Nat) : Fld := ⟨RING_STAT i, 1, 1⟩
def RING_STAT_ACTIVE (i : Nat) : Fld := ⟨RING_STAT i, 0, 0⟩
def RING_WRAP (i : Nat) : Nat := 0x08000C + 0x1000 * i
def RING_WRAP_WPOS1 (i : Nat) : Fld := ⟨RING_WRAP i, 14, 8⟩
def RING_WRAP_WPOS0 (i : Nat) : Fld := ⟨RING_WRAP i, 6, 0⟩
def RING_EVT (i : Nat) : Nat := 0x080010 + 0x1000 * i
def RING_EVT_DISCFAIL (i : Nat) : Fld := ⟨RING_EVT i, 11, 11⟩
def RING_EVT_DISCDONE (i : Nat) : Fld := ⟨RING_EVT i, 10, 10⟩
def RING_EVT_UNWRAPPED (i : Nat) : Fld := ⟨RING_EVT i, 9, 9⟩
def RING_EVT_WRAPNEW (i : Nat) : Fld := ⟨RING_EVT i, 8, 8⟩
def RING_EVT_SPATH (i : Nat) : Fld := ⟨RING_EVT i, 7, 7⟩
def RING_EVT_DIRMIS (i : Nat) : Fld := ⟨RING_EVT i, 6, 6⟩
def RING_EVT_DUP (i : Nat) : Fld := ⟨RING_EVT i, 5, 5⟩
def RING_EVT_SEQ (i : Nat) : Fld := ⟨RING_EVT i, 4, 4⟩
def RING_EVT_HOPERR (i : Nat) : Fld := ⟨RING_EVT i, 3, 3⟩
def RING_EVT_CRC (i : Nat) : Fld := ⟨RING_EVT i, 2, 2⟩
def RING_EVT_LATE (i : Nat) : Fld := ⟨RING_EVT i, 1, 1⟩
def RING_EVT_MISS (i : Nat) : Fld := ⟨RING_EVT i, 0, 0⟩
def RING_ATTN_EN (i : Nat) : Nat := 0x080014 + 0x1000 * i
def RING_ATTN_EN_EN (i : Nat) : Fld := ⟨RING_ATTN_EN i, 11, 0⟩
def RING_DISC (i : Nat) : Nat := 0x080018 + 0x1000 * i
def RING_DISC_RES (i : Nat) : Fld := ⟨RING_DISC i, 31, 28⟩
def RING_DISC_PASS (i : Nat) : Fld := ⟨RING_DISC i, 27, 24⟩
def RING_DISC_NFOUND (i : Nat) : Fld := ⟨RING_DISC i, 23, 16⟩
def RING_DISC_NA (i : Nat) : Fld := ⟨RING_DISC i, 15, 8⟩
def RING_DISC_NB (i : Nat) : Fld := ⟨RING_DISC i, 7, 0⟩
def RING_NSTALE (i : Nat) : Nat := 0x08001C + 0x1000 * i
def RING_NSTALE_NSPATH (i : Nat) : Fld := ⟨RING_NSTALE i, 23, 16⟩
def RING_NSTALE_NSTALE (i : Nat) : Fld := ⟨RING_NSTALE i, 7, 0⟩
def RING_RET (i j : Nat) : Nat := 0x080020 + 0x1000 * i + 0x4 * j
def RING_RET_RET (i j : Nat) : Fld := ⟨RING_RET i j, 17, 0⟩
def RING_LINK (i j : Nat) : Nat := 0x080028 + 0x1000 * i + 0x4 * j
def RING_LINK_LINK (i j : Nat) : Fld := ⟨RING_LINK i j, 23, 0⟩
def RING_DINFO (i : Nat) : Nat := 0x080030 + 0x1000 * i
def RING_DINFO_TCONVMAX (i : Nat) : Fld := ⟨RING_DINFO i, 15, 8⟩
def RING_DINFO_HMAXMIN (i : Nat) : Fld := ⟨RING_DINFO i, 7, 4⟩
def RING_DINFO_CTYPE (i : Nat) : Fld := ⟨RING_DINFO i, 1, 0⟩
def RING_MISSLATE (i j : Nat) : Nat := 0x080080 + 0x1000 * i + 0x20 * j
def RING_MISSLATE_MISS (i j : Nat) : Fld := ⟨RING_MISSLATE i j, 31, 16⟩
def RING_MISSLATE_LATE (i j : Nat) : Fld := ⟨RING_MISSLATE i j, 15, 0⟩
def RING_CRC (i j : Nat) : Nat := 0x080084 + 0x1000 * i + 0x20 * j
def RING_CRC_HCRC (i j : Nat) : Fld := ⟨RING_CRC i j, 31, 16⟩
def RING_CRC_FCRC (i j : Nat) : Fld := ⟨RING_CRC i j, 15, 0⟩
def RING_SLOTERR (i j : Nat) : Nat := 0x080088 + 0x1000 * i + 0x20 * j
def RING_SLOTERR_SLOTCRC (i j : Nat) : Fld := ⟨RING_SLOTERR i j, 31, 16⟩
def RING_SLOTERR_NOWR (i j : Nat) : Fld := ⟨RING_SLOTERR i j, 15, 0⟩
def RING_SEQDUP (i j : Nat) : Nat := 0x08008C + 0x1000 * i + 0x20 * j
def RING_SEQDUP_SEQ (i j : Nat) : Fld := ⟨RING_SEQDUP i j, 31, 16⟩
def RING_SEQDUP_DUP (i j : Nat) : Fld := ⟨RING_SEQDUP i j, 15, 0⟩
def RING_HOPWRAP (i j : Nat) : Nat := 0x080090 + 0x1000 * i + 0x20 * j
def RING_HOPWRAP_HOPERR (i j : Nat) : Fld := ⟨RING_HOPWRAP i j, 31, 16⟩
def RING_HOPWRAP_WRAPCYC (i j : Nat) : Fld := ⟨RING_HOPWRAP i j, 15, 0⟩
def RING_CNTP (i : Nat) : Nat := 0x0800C0 + 0x1000 * i
def RING_CNTP_UNWRAPCNT (i : Nat) : Fld := ⟨RING_CNTP i, 31, 16⟩
def RING_CNTP_DIRMIS (i : Nat) : Fld := ⟨RING_CNTP i, 15, 0⟩

/-! ### LANE -/

def LANE_CTRL (i : Nat) : Nat := 0x0C0000 + 0x400 * i
def LANE_CTRL_RESTART (i : Nat) : Fld := ⟨LANE_CTRL i, 9, 9⟩
def LANE_CTRL_EN (i : Nat) : Fld := ⟨LANE_CTRL i, 8, 8⟩
def LANE_CTRL_RXINV (i : Nat) : Fld := ⟨LANE_CTRL i, 3, 3⟩
def LANE_CTRL_TXINV (i : Nat) : Fld := ⟨LANE_CTRL i, 2, 2⟩
def LANE_CTRL_RXPRE (i : Nat) : Fld := ⟨LANE_CTRL i, 1, 1⟩
def LANE_CTRL_TXPRE (i : Nat) : Fld := ⟨LANE_CTRL i, 0, 0⟩
def LANE_TXEQ (i : Nat) : Nat := 0x0C0004 + 0x400 * i
def LANE_TXEQ_SWING (i : Nat) : Fld := ⟨LANE_TXEQ i, 19, 16⟩
def LANE_TXEQ_POST (i : Nat) : Fld := ⟨LANE_TXEQ i, 12, 8⟩
def LANE_TXEQ_PRE (i : Nat) : Fld := ⟨LANE_TXEQ i, 3, 0⟩
def LANE_RXCFG (i : Nat) : Nat := 0x0C0008 + 0x400 * i
def LANE_RXCFG_LOSQUAL (i : Nat) : Fld := ⟨LANE_RXCFG i, 17, 16⟩
def LANE_RXCFG_LOSTH (i : Nat) : Fld := ⟨LANE_RXCFG i, 11, 8⟩
def LANE_RXCFG_CTLE (i : Nat) : Fld := ⟨LANE_RXCFG i, 3, 0⟩
def LANE_STAT (i : Nat) : Nat := 0x0C000C + 0x400 * i
def LANE_STAT_SKEW (i : Nat) : Fld := ⟨LANE_STAT i, 15, 8⟩
def LANE_STAT_PLLLOCK (i : Nat) : Fld := ⟨LANE_STAT i, 7, 7⟩
def LANE_STAT_CDRLOCK (i : Nat) : Fld := ⟨LANE_STAT i, 6, 6⟩
def LANE_STAT_BLKLOCK (i : Nat) : Fld := ⟨LANE_STAT i, 5, 5⟩
def LANE_STAT_LOS (i : Nat) : Fld := ⟨LANE_STAT i, 4, 4⟩
def LANE_STAT_STATE (i : Nat) : Fld := ⟨LANE_STAT i, 2, 0⟩
def LANE_EVT (i : Nat) : Nat := 0x0C0010 + 0x400 * i
def LANE_EVT_SKEWERR (i : Nat) : Fld := ⟨LANE_EVT i, 7, 7⟩
def LANE_EVT_EQERR (i : Nat) : Fld := ⟨LANE_EVT i, 6, 6⟩
def LANE_EVT_HDRERR (i : Nat) : Fld := ⟨LANE_EVT i, 5, 5⟩
def LANE_EVT_DOWN (i : Nat) : Fld := ⟨LANE_EVT i, 4, 4⟩
def LANE_EVT_UP (i : Nat) : Fld := ⟨LANE_EVT i, 3, 3⟩
def LANE_EVT_LOLSET (i : Nat) : Fld := ⟨LANE_EVT i, 2, 2⟩
def LANE_EVT_LOSEND (i : Nat) : Fld := ⟨LANE_EVT i, 1, 1⟩
def LANE_EVT_LOSSET (i : Nat) : Fld := ⟨LANE_EVT i, 0, 0⟩
def LANE_ATTN_EN (i : Nat) : Nat := 0x0C0014 + 0x400 * i
def LANE_ATTN_EN_EN (i : Nat) : Fld := ⟨LANE_ATTN_EN i, 7, 0⟩
def LANE_CNT0 (i : Nat) : Nat := 0x0C0018 + 0x400 * i
def LANE_CNT0_HDRERR (i : Nat) : Fld := ⟨LANE_CNT0 i, 31, 16⟩
def LANE_CNT0_LOLCNT (i : Nat) : Fld := ⟨LANE_CNT0 i, 15, 0⟩
def LANE_CNT1 (i : Nat) : Nat := 0x0C001C + 0x400 * i
def LANE_CNT1_LOSCNT (i : Nat) : Fld := ⟨LANE_CNT1 i, 31, 16⟩
def LANE_CNT1_DOWNCNT (i : Nat) : Fld := ⟨LANE_CNT1 i, 15, 0⟩
def LANE_RXAMP (i : Nat) : Nat := 0x0C0020 + 0x400 * i
def LANE_RXAMP_AMP (i : Nat) : Fld := ⟨LANE_RXAMP i, 11, 0⟩

/-! ### ARM -/

def ARM_CFG (i : Nat) : Nat := 0x100000 + 0x4000 * i
def ARM_CFG_IPOL (i : Nat) : Fld := ⟨ARM_CFG i, 4, 4⟩
def ARM_CFG_EST (i : Nat) : Fld := ⟨ARM_CFG i, 3, 3⟩
def ARM_CFG_PRED (i : Nat) : Fld := ⟨ARM_CFG i, 2, 2⟩
def ARM_CFG_MODE (i : Nat) : Fld := ⟨ARM_CFG i, 1, 0⟩
def ARM_ISRC (i : Nat) : Nat := 0x100004 + 0x4000 * i
def ARM_ISRC_SLOT (i : Nat) : Fld := ⟨ARM_ISRC i, 8, 0⟩
def ARM_ISCALE (i : Nat) : Nat := 0x100008 + 0x4000 * i
def ARM_ISCALE_ISCALE (i : Nat) : Fld := ⟨ARM_ISCALE i, 31, 0⟩
def ARM_CNOM (i : Nat) : Nat := 0x10000C + 0x4000 * i
def ARM_CNOM_CNOM (i : Nat) : Fld := ⟨ARM_CNOM i, 31, 0⟩
def ARM_ESTCFG (i : Nat) : Nat := 0x100010 + 0x4000 * i
def ARM_ESTCFG_NMIN (i : Nat) : Fld := ⟨ARM_ESTCFG i, 31, 24⟩
def ARM_ESTCFG_KESR (i : Nat) : Fld := ⟨ARM_ESTCFG i, 20, 16⟩
def ARM_ESTCFG_KEST (i : Nat) : Fld := ⟨ARM_ESTCFG i, 4, 0⟩
def ARM_ESTTH (i : Nat) : Nat := 0x100014 + 0x4000 * i
def ARM_ESTTH_QMIN (i : Nat) : Fld := ⟨ARM_ESTTH i, 31, 16⟩
def ARM_ESTTH_DVMIN (i : Nat) : Fld := ⟨ARM_ESTTH i, 15, 0⟩
def ARM_ESTLIM (i : Nat) : Nat := 0x100018 + 0x4000 * i
def ARM_ESTLIM_IMIN (i : Nat) : Fld := ⟨ARM_ESTLIM i, 31, 16⟩
def ARM_ESTLIM_NACCMAX (i : Nat) : Fld := ⟨ARM_ESTLIM i, 7, 0⟩
def ARM_AGE (i : Nat) : Nat := 0x10001C + 0x4000 * i
def ARM_AGE_CLIM (i : Nat) : Fld := ⟨ARM_AGE i, 31, 24⟩
def ARM_AGE_RLIM (i : Nat) : Fld := ⟨ARM_AGE i, 15, 0⟩
def ARM_SELCFG (i : Nat) : Nat := 0x100020 + 0x4000 * i
def ARM_SELCFG_BAND (i : Nat) : Fld := ⟨ARM_SELCFG i, 31, 16⟩
def ARM_SELCFG_STALEMAX (i : Nat) : Fld := ⟨ARM_SELCFG i, 15, 8⟩
def ARM_NREQ (i : Nat) : Nat := 0x100024 + 0x4000 * i
def ARM_NREQ_NREQ (i : Nat) : Fld := ⟨ARM_NREQ i, 10, 0⟩
def ARM_BUDRATE (i : Nat) : Nat := 0x100028 + 0x4000 * i
def ARM_BUDRATE_RATE (i : Nat) : Fld := ⟨ARM_BUDRATE i, 15, 0⟩
def ARM_BUDCAP (i : Nat) : Nat := 0x10002C + 0x4000 * i
def ARM_BUDCAP_CAP (i : Nat) : Fld := ⟨ARM_BUDCAP i, 23, 16⟩
def ARM_BUDCAP_PINTH (i : Nat) : Fld := ⟨ARM_BUDCAP i, 7, 0⟩
def ARM_VSCALE (i : Nat) : Nat := 0x100030 + 0x4000 * i
def ARM_VSCALE_VSCALE (i : Nat) : Fld := ⟨ARM_VSCALE i, 31, 0⟩
def ARM_ESCALE (i : Nat) : Nat := 0x100034 + 0x4000 * i
def ARM_ESCALE_ESCALE (i : Nat) : Fld := ⟨ARM_ESCALE i, 31, 0⟩
def ARM_STAT (i : Nat) : Nat := 0x100040 + 0x4000 * i
def ARM_STAT_SHORT (i : Nat) : Fld := ⟨ARM_STAT i, 3, 3⟩
def ARM_STAT_DIR (i : Nat) : Fld := ⟨ARM_STAT i, 2, 2⟩
def ARM_STAT_POL (i : Nat) : Fld := ⟨ARM_STAT i, 1, 1⟩
def ARM_STAT_ACTIVE (i : Nat) : Fld := ⟨ARM_STAT i, 0, 0⟩
def ARM_COUNT0 (i : Nat) : Nat := 0x100044 + 0x4000 * i
def ARM_COUNT0_NRANK (i : Nat) : Fld := ⟨ARM_COUNT0 i, 26, 16⟩
def ARM_COUNT0_NFAULT (i : Nat) : Fld := ⟨ARM_COUNT0 i, 10, 0⟩
def ARM_COUNT1 (i : Nat) : Nat := 0x100048 + 0x4000 * i
def ARM_COUNT1_NSTALE (i : Nat) : Fld := ⟨ARM_COUNT1 i, 26, 16⟩
def ARM_COUNT1_NEXCL (i : Nat) : Fld := ⟨ARM_COUNT1 i, 10, 0⟩
def ARM_COUNT2 (i : Nat) : Nat := 0x10004C + 0x4000 * i
def ARM_COUNT2_NCLA (i : Nat) : Fld := ⟨ARM_COUNT2 i, 26, 16⟩
def ARM_COUNT2_NCLC (i : Nat) : Fld := ⟨ARM_COUNT2 i, 10, 0⟩
def ARM_AGECNT (i : Nat) : Nat := 0x100050 + 0x4000 * i
def ARM_AGECNT_NAGER (i : Nat) : Fld := ⟨ARM_AGECNT i, 26, 16⟩
def ARM_AGECNT_NAGEC (i : Nat) : Fld := ⟨ARM_AGECNT i, 10, 0⟩
def ARM_SORTT (i : Nat) : Nat := 0x100054 + 0x4000 * i
def ARM_SORTT_MAX (i : Nat) : Fld := ⟨ARM_SORTT i, 31, 16⟩
def ARM_SORTT_LAST (i : Nat) : Fld := ⟨ARM_SORTT i, 15, 0⟩
def ARM_VAVG (i : Nat) : Nat := 0x100058 + 0x4000 * i
def ARM_VAVG_VAVG (i : Nat) : Fld := ⟨ARM_VAVG i, 31, 0⟩
def ARM_ICUR (i : Nat) : Nat := 0x10005C + 0x4000 * i
def ARM_ICUR_ICUR (i : Nat) : Fld := ⟨ARM_ICUR i, 31, 0⟩
def ARM_EVT (i : Nat) : Nat := 0x100060 + 0x4000 * i
def ARM_EVT_DIVG (i : Nat) : Fld := ⟨ARM_EVT i, 7, 7⟩
def ARM_EVT_ESTREJ (i : Nat) : Fld := ⟨ARM_EVT i, 6, 6⟩
def ARM_EVT_BUDOVR (i : Nat) : Fld := ⟨ARM_EVT i, 5, 5⟩
def ARM_EVT_AGER (i : Nat) : Fld := ⟨ARM_EVT i, 4, 4⟩
def ARM_EVT_AGEC (i : Nat) : Fld := ⟨ARM_EVT i, 3, 3⟩
def ARM_EVT_EXCL (i : Nat) : Fld := ⟨ARM_EVT i, 2, 2⟩
def ARM_EVT_NEWFLT (i : Nat) : Fld := ⟨ARM_EVT i, 1, 1⟩
def ARM_EVT_SHORT (i : Nat) : Fld := ⟨ARM_EVT i, 0, 0⟩
def ARM_ATTN_EN (i : Nat) : Nat := 0x100064 + 0x4000 * i
def ARM_ATTN_EN_EN (i : Nat) : Fld := ⟨ARM_ATTN_EN i, 7, 0⟩
def ARM_CNT (i : Nat) : Nat := 0x100068 + 0x4000 * i
def ARM_CNT_BUDOVR (i : Nat) : Fld := ⟨ARM_CNT i, 31, 16⟩
def ARM_CNT_ESTREJ (i : Nat) : Fld := ⟨ARM_CNT i, 15, 0⟩

/-! ### SCH -/

def SCH_STAT : Nat := 0x140000
def SCH_STAT_ICALOK : Fld := ⟨SCH_STAT, 1, 1⟩
def SCH_STAT_HALTBLK : Fld := ⟨SCH_STAT, 0, 0⟩
def SCH_EVT : Nat := 0x140004
def SCH_EVT_ACLKSTOP : Fld := ⟨SCH_EVT, 2, 2⟩
def SCH_EVT_HALT : Fld := ⟨SCH_EVT, 1, 1⟩
def SCH_EVT_ICALERR : Fld := ⟨SCH_EVT, 0, 0⟩
def SCH_ATTN_EN : Nat := 0x140008
def SCH_ATTN_EN_EN : Fld := ⟨SCH_ATTN_EN, 2, 0⟩
def SCH_ICAL : Nat := 0x14000C
def SCH_ICAL_AGE : Fld := ⟨SCH_ICAL, 31, 16⟩
def SCH_ICAL_TAPS : Fld := ⟨SCH_ICAL, 7, 0⟩
def SCH_ICALCFG : Nat := 0x140010
def SCH_ICALCFG_INTERVAL : Fld := ⟨SCH_ICALCFG, 15, 0⟩
def SCH_ARMCMD : Nat := 0x140014
def SCH_ARMCMD_BLK : Fld := ⟨SCH_ARMCMD, 27, 16⟩
def SCH_ARMCMD_DEBLK : Fld := ⟨SCH_ARMCMD, 11, 0⟩
def SCH_ACTL (i : Nat) : Nat := 0x140100 + 0x40 * i
def SCH_ACTL_VSRC (i : Nat) : Fld := ⟨SCH_ACTL i, 2, 2⟩
def SCH_ACTL_MODE (i : Nat) : Fld := ⟨SCH_ACTL i, 1, 1⟩
def SCH_ACTL_EN (i : Nat) : Fld := ⟨SCH_ACTL i, 0, 0⟩
def SCH_VBASE (i : Nat) : Nat := 0x140104 + 0x40 * i
def SCH_VBASE_VBASE (i : Nat) : Fld := ⟨SCH_VBASE i, 31, 0⟩
def SCH_WGEN (i : Nat) : Nat := 0x140108 + 0x40 * i
def SCH_WGEN_WGEN (i : Nat) : Fld := ⟨SCH_WGEN i, 7, 0⟩
def SCH_VREF (i : Nat) : Nat := 0x14010C + 0x40 * i
def SCH_VREF_VREF (i : Nat) : Fld := ⟨SCH_VREF i, 31, 0⟩
def SCH_VOFS (i : Nat) : Nat := 0x140110 + 0x40 * i
def SCH_VOFS_VOFS (i : Nat) : Fld := ⟨SCH_VOFS i, 31, 0⟩
def SCH_PCFG (i : Nat) : Nat := 0x140114 + 0x40 * i
def SCH_PCFG_MINPW (i : Nat) : Fld := ⟨SCH_PCFG i, 31, 16⟩
def SCH_PCFG_KBAL (i : Nat) : Fld := ⟨SCH_PCFG i, 7, 0⟩
def SCH_PSC (i : Nat) : Nat := 0x140118 + 0x40 * i
def SCH_PSC_CBASE (i : Nat) : Fld := ⟨SCH_PSC i, 5, 0⟩
def SCH_TAGS (i : Nat) : Nat := 0x14011C + 0x40 * i
def SCH_TAGS_TVREF (i : Nat) : Fld := ⟨SCH_TAGS i, 31, 24⟩
def SCH_TAGS_TVOFS (i : Nat) : Fld := ⟨SCH_TAGS i, 23, 16⟩
def SCH_TAGS_TPCFG (i : Nat) : Fld := ⟨SCH_TAGS i, 15, 8⟩
def SCH_TAGS_TPSC (i : Nat) : Fld := ⟨SCH_TAGS i, 7, 0⟩
def SCH_ASTAT (i : Nat) : Nat := 0x140120 + 0x40 * i
def SCH_ASTAT_PGEN (i : Nat) : Fld := ⟨SCH_ASTAT i, 31, 24⟩
def SCH_ASTAT_RGEN (i : Nat) : Fld := ⟨SCH_ASTAT i, 23, 16⟩
def SCH_ASTAT_SATL (i : Nat) : Fld := ⟨SCH_ASTAT i, 3, 3⟩
def SCH_ASTAT_SATH (i : Nat) : Fld := ⟨SCH_ASTAT i, 2, 2⟩
def SCH_ASTAT_ST (i : Nat) : Fld := ⟨SCH_ASTAT i, 1, 0⟩
def SCH_AREF (i : Nat) : Nat := 0x140124 + 0x40 * i
def SCH_AREF_VMV (i : Nat) : Fld := ⟨SCH_AREF i, 31, 0⟩
def SCH_AOUT (i : Nat) : Nat := 0x140128 + 0x40 * i
def SCH_AOUT_NINS (i : Nat) : Fld := ⟨SCH_AOUT i, 30, 20⟩
def SCH_AOUT_FINEW (i : Nat) : Fld := ⟨SCH_AOUT i, 19, 0⟩
def SCH_AEVT (i : Nat) : Nat := 0x14012C + 0x40 * i
def SCH_AEVT_REFDISC (i : Nat) : Fld := ⟨SCH_AEVT i, 4, 4⟩
def SCH_AEVT_SATL (i : Nat) : Fld := ⟨SCH_AEVT i, 3, 3⟩
def SCH_AEVT_SATH (i : Nat) : Fld := ⟨SCH_AEVT i, 2, 2⟩
def SCH_AEVT_BLKREQ (i : Nat) : Fld := ⟨SCH_AEVT i, 1, 1⟩
def SCH_AEVT_GENMIS (i : Nat) : Fld := ⟨SCH_AEVT i, 0, 0⟩
def SCH_AATTN_EN (i : Nat) : Nat := 0x140130 + 0x40 * i
def SCH_AATTN_EN_EN (i : Nat) : Fld := ⟨SCH_AATTN_EN i, 4, 0⟩
def SCH_GENCNT (i : Nat) : Nat := 0x140134 + 0x40 * i
def SCH_GENCNT_GENMIS (i : Nat) : Fld := ⟨SCH_GENCNT i, 15, 0⟩

/-! ### LOOP -/

def LOOP_STAT : Nat := 0x180000
def LOOP_STAT_NOENT : Fld := ⟨LOOP_STAT, 9, 9⟩
def LOOP_STAT_CUT : Fld := ⟨LOOP_STAT, 8, 8⟩
def LOOP_STAT_CUTENT : Fld := ⟨LOOP_STAT, 7, 0⟩
def LOOP_EVT : Nat := 0x180004
def LOOP_EVT_LIMINV : Fld := ⟨LOOP_EVT, 4, 4⟩
def LOOP_EVT_OVF : Fld := ⟨LOOP_EVT, 3, 3⟩
def LOOP_EVT_HOSAT : Fld := ⟨LOOP_EVT, 2, 2⟩
def LOOP_EVT_SETMISS : Fld := ⟨LOOP_EVT, 1, 1⟩
def LOOP_EVT_LATE : Fld := ⟨LOOP_EVT, 0, 0⟩
def LOOP_ATTN_EN : Nat := 0x180008
def LOOP_ATTN_EN_EN : Fld := ⟨LOOP_ATTN_EN, 4, 0⟩
def LOOP_TEXEC : Nat := 0x18000C
def LOOP_TEXEC_MIN : Fld := ⟨LOOP_TEXEC, 31, 16⟩
def LOOP_TEXEC_LAST : Fld := ⟨LOOP_TEXEC, 15, 0⟩
def LOOP_TMAX : Nat := 0x180010
def LOOP_TMAX_MAX : Fld := ⟨LOOP_TMAX, 15, 0⟩
def LOOP_GEN : Nat := 0x180014
def LOOP_GEN_GEN : Fld := ⟨LOOP_GEN, 15, 0⟩
def LOOP_GCLR : Nat := 0x180018
def LOOP_GCLR_GCLR : Fld := ⟨LOOP_GCLR, 15, 0⟩
def LOOP_RAMPLIM : Nat := 0x18001C
def LOOP_RAMPLIM_RAMPLIM : Fld := ⟨LOOP_RAMPLIM, 31, 0⟩
def LOOP_LIMACT : Nat := 0x180020
def LOOP_LIMACT_LIMACT : Fld := ⟨LOOP_LIMACT, 31, 0⟩
def LOOP_CSAT (i : Nat) : Nat := 0x180024 + 0x4 * i
def LOOP_CSAT_CSAT (i : Nat) : Fld := ⟨LOOP_CSAT i, 31, 0⟩
def LOOP_HOACT : Nat := 0x180034
def LOOP_HOACT_HOACT : Fld := ⟨LOOP_HOACT, 31, 0⟩
def LOOP_GCFG (i : Nat) : Nat := 0x180100 + 0x4 * i
def LOOP_GCFG_NM1 (i : Nat) : Fld := ⟨LOOP_GCFG i, 31, 24⟩
def LOOP_GCFG_PH (i : Nat) : Fld := ⟨LOOP_GCFG i, 23, 16⟩
def LOOP_GCFG_PSTART (i : Nat) : Fld := ⟨LOOP_GCFG i, 15, 8⟩
def LOOP_GCFG_PLEN (i : Nat) : Fld := ⟨LOOP_GCFG i, 7, 0⟩
def LOOP_AREF (i : Nat) : Nat := 0x180180 + 0x4 * i
def LOOP_AREF_OFSEN (i : Nat) : Fld := ⟨LOOP_AREF i, 25, 25⟩
def LOOP_AREF_VOFS (i : Nat) : Fld := ⟨LOOP_AREF i, 24, 16⟩
def LOOP_AREF_VREF (i : Nat) : Fld := ⟨LOOP_AREF i, 8, 0⟩
def LOOP_PROBE (i : Nat) : Nat := 0x180200 + 0x4 * i
def LOOP_PROBE_CELL (i : Nat) : Fld := ⟨LOOP_PROBE i, 28, 16⟩
def LOOP_PROBE_DIV (i : Nat) : Fld := ⟨LOOP_PROBE i, 12, 8⟩
def LOOP_PROBE_FIELD (i : Nat) : Fld := ⟨LOOP_PROBE i, 2, 0⟩
def LOOP_CONST (i : Nat) : Nat := 0x180300 + 0x4 * i
def LOOP_CONST_VAL (i : Nat) : Fld := ⟨LOOP_CONST i, 31, 0⟩
def LOOP_PROG (i : Nat) : Nat := 0x180400 + 0x4 * i
def LOOP_PROG_TYPE (i : Nat) : Fld := ⟨LOOP_PROG i, 10, 8⟩
def LOOP_PROG_IDX (i : Nat) : Fld := ⟨LOOP_PROG i, 6, 0⟩
def LOOP_SLOT (i : Nat) : Nat := 0x180800 + 0x4 * i
def LOOP_SLOT_VAL (i : Nat) : Fld := ⟨LOOP_SLOT i, 31, 0⟩
def LOOP_CCFG (i : Nat) : Nat := 0x181000 + 0x80 * i
def LOOP_CCFG_HISLOT (i : Nat) : Fld := ⟨LOOP_CCFG i, 6, 6⟩
def LOOP_CCFG_LOSLOT (i : Nat) : Fld := ⟨LOOP_CCFG i, 5, 5⟩
def LOOP_CCFG_WRAP (i : Nat) : Fld := ⟨LOOP_CCFG i, 4, 4⟩
def LOOP_CCFG_AW (i : Nat) : Fld := ⟨LOOP_CCFG i, 3, 2⟩
def LOOP_CCFG_FORM (i : Nat) : Fld := ⟨LOOP_CCFG i, 1, 0⟩
def LOOP_CIN (i : Nat) : Nat := 0x181004 + 0x80 * i
def LOOP_CIN_TRK (i : Nat) : Fld := ⟨LOOP_CIN i, 28, 20⟩
def LOOP_CIN_FBEN (i : Nat) : Fld := ⟨LOOP_CIN i, 19, 19⟩
def LOOP_CIN_FB (i : Nat) : Fld := ⟨LOOP_CIN i, 18, 10⟩
def LOOP_CIN_IN (i : Nat) : Fld := ⟨LOOP_CIN i, 8, 0⟩
def LOOP_CLO (i : Nat) : Nat := 0x181008 + 0x80 * i
def LOOP_CLO_LO (i : Nat) : Fld := ⟨LOOP_CLO i, 31, 0⟩
def LOOP_CHI (i : Nat) : Nat := 0x18100C + 0x80 * i
def LOOP_CHI_HI (i : Nat) : Fld := ⟨LOOP_CHI i, 31, 0⟩
def LOOP_CB (i j : Nat) : Nat := 0x181010 + 0x80 * i + 0x4 * j
def LOOP_CB_B (i j : Nat) : Fld := ⟨LOOP_CB i j, 31, 0⟩
def LOOP_CA (i j : Nat) : Nat := 0x181020 + 0x80 * i + 0x4 * j
def LOOP_CA_A (i j : Nat) : Fld := ⟨LOOP_CA i j, 31, 0⟩
def LOOP_CKT (i : Nat) : Nat := 0x18102C + 0x80 * i
def LOOP_CKT_KT (i : Nat) : Fld := ⟨LOOP_CKT i, 31, 0⟩
def LOOP_CX (i j : Nat) : Nat := 0x181030 + 0x80 * i + 0x4 * j
def LOOP_CX_X (i j : Nat) : Fld := ⟨LOOP_CX i j, 31, 0⟩
def LOOP_CY (i j : Nat) : Nat := 0x18103C + 0x80 * i + 0x4 * j
def LOOP_CY_Y (i j : Nat) : Fld := ⟨LOOP_CY i j, 31, 0⟩
def LOOP_RCFG (i : Nat) : Nat := 0x185000 + 0x20 * i
def LOOP_RCFG_EN (i : Nat) : Fld := ⟨LOOP_RCFG i, 31, 31⟩
def LOOP_RCFG_MEAS (i : Nat) : Fld := ⟨LOOP_RCFG i, 18, 10⟩
def LOOP_RCFG_SP (i : Nat) : Fld := ⟨LOOP_RCFG i, 8, 0⟩
def LOOP_RUP (i : Nat) : Nat := 0x185004 + 0x20 * i
def LOOP_RUP_UP (i : Nat) : Fld := ⟨LOOP_RUP i, 31, 0⟩
def LOOP_RDN (i : Nat) : Nat := 0x185008 + 0x20 * i
def LOOP_RDN_DN (i : Nat) : Fld := ⟨LOOP_RDN i, 31, 0⟩
def LOOP_RSTAT (i : Nat) : Nat := 0x18500C + 0x20 * i
def LOOP_RSTAT_ST (i : Nat) : Fld := ⟨LOOP_RSTAT i, 0, 0⟩
def LOOP_LCFG (i : Nat) : Nat := 0x185400 + 0x10 * i
def LOOP_LCFG_HISLOT (i : Nat) : Fld := ⟨LOOP_LCFG i, 10, 10⟩
def LOOP_LCFG_LOSLOT (i : Nat) : Fld := ⟨LOOP_LCFG i, 9, 9⟩
def LOOP_LCFG_IN (i : Nat) : Fld := ⟨LOOP_LCFG i, 8, 0⟩
def LOOP_LLO (i : Nat) : Nat := 0x185404 + 0x10 * i
def LOOP_LLO_LO (i : Nat) : Fld := ⟨LOOP_LLO i, 31, 0⟩
def LOOP_LHI (i : Nat) : Nat := 0x185408 + 0x10 * i
def LOOP_LHI_HI (i : Nat) : Fld := ⟨LOOP_LHI i, 31, 0⟩
def LOOP_TCFG (i : Nat) : Nat := 0x185600 + 0x10 * i
def LOOP_TCFG_TYPE (i : Nat) : Fld := ⟨LOOP_TCFG i, 2, 0⟩
def LOOP_TIN (i : Nat) : Nat := 0x185604 + 0x10 * i
def LOOP_TIN_I2 (i : Nat) : Fld := ⟨LOOP_TIN i, 26, 18⟩
def LOOP_TIN_I1 (i : Nat) : Fld := ⟨LOOP_TIN i, 17, 9⟩
def LOOP_TIN_I0 (i : Nat) : Fld := ⟨LOOP_TIN i, 8, 0⟩
def LOOP_TANG (i : Nat) : Nat := 0x185608 + 0x10 * i
def LOOP_TANG_ANG (i : Nat) : Fld := ⟨LOOP_TANG i, 8, 0⟩
def LOOP_HCFG (i : Nat) : Nat := 0x185700 + 0x10 * i
def LOOP_HCFG_BLEND (i : Nat) : Fld := ⟨LOOP_HCFG i, 23, 16⟩
def LOOP_HCFG_INSTB (i : Nat) : Fld := ⟨LOOP_HCFG i, 14, 8⟩
def LOOP_HCFG_INSTA (i : Nat) : Fld := ⟨LOOP_HCFG i, 6, 0⟩
def LOOP_HCTL (i : Nat) : Nat := 0x185704 + 0x10 * i
def LOOP_HCTL_SEL (i : Nat) : Fld := ⟨LOOP_HCTL i, 0, 0⟩
def LOOP_HSTAT (i : Nat) : Nat := 0x185708 + 0x10 * i
def LOOP_HSTAT_M (i : Nat) : Fld := ⟨LOOP_HSTAT i, 15, 8⟩
def LOOP_HSTAT_HOSAT (i : Nat) : Fld := ⟨LOOP_HSTAT i, 3, 3⟩
def LOOP_HSTAT_ST (i : Nat) : Fld := ⟨LOOP_HSTAT i, 2, 1⟩
def LOOP_HSTAT_ACT (i : Nat) : Fld := ⟨LOOP_HSTAT i, 0, 0⟩

/-! ### ADC -/

def ADC_STAT : Nat := 0x1C0000
def ADC_STAT_BUSYB : Fld := ⟨ADC_STAT, 1, 1⟩
def ADC_STAT_BUSYA : Fld := ⟨ADC_STAT, 0, 0⟩
def ADC_EVT : Nat := 0x1C0004
def ADC_EVT_OPEN : Fld := ⟨ADC_EVT, 3, 3⟩
def ADC_EVT_OVR : Fld := ⟨ADC_EVT, 2, 2⟩
def ADC_EVT_SWREF : Fld := ⟨ADC_EVT, 1, 1⟩
def ADC_EVT_SKIP : Fld := ⟨ADC_EVT, 0, 0⟩
def ADC_ATTN_EN : Nat := 0x1C0008
def ADC_ATTN_EN_EN : Fld := ⟨ADC_ATTN_EN, 3, 0⟩
def ADC_SKIPCNT : Nat := 0x1C000C
def ADC_SKIPCNT_SKIPB : Fld := ⟨ADC_SKIPCNT, 31, 16⟩
def ADC_SKIPCNT_SKIPA : Fld := ⟨ADC_SKIPCNT, 15, 0⟩
def ADC_SCTL (i : Nat) : Nat := 0x1C0010 + 0x4 * i
def ADC_SCTL_EN (i : Nat) : Fld := ⟨ADC_SCTL i, 31, 31⟩
def ADC_SCTL_MODE (i : Nat) : Fld := ⟨ADC_SCTL i, 30, 30⟩
def ADC_SCTL_LEN (i : Nat) : Fld := ⟨ADC_SCTL i, 21, 16⟩
def ADC_SCTL_SOFS (i : Nat) : Fld := ⟨ADC_SCTL i, 15, 0⟩
def ADC_SWSTART : Nat := 0x1C0018
def ADC_SWSTART_START : Fld := ⟨ADC_SWSTART, 1, 0⟩
def ADC_HOLD : Nat := 0x1C001C
def ADC_HOLD_MASK : Fld := ⟨ADC_HOLD, 23, 0⟩
def ADC_HOLDOFS : Nat := 0x1C0020
def ADC_HOLDOFS_HOLDOFS : Fld := ⟨ADC_HOLDOFS, 15, 0⟩
def ADC_OW0 : Nat := 0x1C0024
def ADC_OW0_OW0 : Fld := ⟨ADC_OW0, 31, 0⟩
def ADC_OW1 : Nat := 0x1C0028
def ADC_OW1_OW1 : Fld := ⟨ADC_OW1, 15, 0⟩
def ADC_ECFG (i j : Nat) : Nat := 0x1C0100 + 0x80 * i + 0x4 * j
def ADC_ECFG_SHIFT (i j : Nat) : Fld := ⟨ADC_ECFG i j, 31, 28⟩
def ADC_ECFG_AVG (i j : Nat) : Fld := ⟨ADC_ECFG i j, 27, 24⟩
def ADC_ECFG_RANGE (i j : Nat) : Fld := ⟨ADC_ECFG i j, 6, 6⟩
def ADC_ECFG_SLOTEN (i j : Nat) : Fld := ⟨ADC_ECFG i j, 5, 5⟩
def ADC_ECFG_CH (i j : Nat) : Fld := ⟨ADC_ECFG i j, 4, 0⟩
def ADC_EGAIN (i j : Nat) : Nat := 0x1C0200 + 0x80 * i + 0x4 * j
def ADC_EGAIN_GAIN (i j : Nat) : Fld := ⟨ADC_EGAIN i j, 31, 0⟩
def ADC_EOFS (i j : Nat) : Nat := 0x1C0300 + 0x80 * i + 0x4 * j
def ADC_EOFS_OFS (i j : Nat) : Fld := ⟨ADC_EOFS i j, 31, 0⟩
def ADC_RES (i j : Nat) : Nat := 0x1C0400 + 0x80 * i + 0x4 * j
def ADC_RES_NEW (i j : Nat) : Fld := ⟨ADC_RES i j, 31, 31⟩
def ADC_RES_VALID (i j : Nat) : Fld := ⟨ADC_RES i j, 30, 30⟩
def ADC_RES_SETTLE (i j : Nat) : Fld := ⟨ADC_RES i j, 29, 29⟩
def ADC_RES_OVR (i j : Nat) : Fld := ⟨ADC_RES i j, 28, 28⟩
def ADC_RES_OPEN (i j : Nat) : Fld := ⟨ADC_RES i j, 27, 27⟩
def ADC_RES_RES (i j : Nat) : Fld := ⟨ADC_RES i j, 19, 0⟩

/-! ### REC -/

def REC_IOCFG : Nat := 0x1D0000
def REC_IOCFG_LINEEN : Fld := ⟨REC_IOCFG, 16, 16⟩
def REC_IOCFG_IODLY : Fld := ⟨REC_IOCFG, 13, 0⟩
def REC_IOCMD : Nat := 0x1D0004
def REC_IOCMD_ARMOUT : Fld := ⟨REC_IOCMD, 0, 0⟩
def REC_GEVT : Nat := 0x1D0008
def REC_GEVT_GEVT : Fld := ⟨REC_GEVT, 2, 0⟩
def REC_GATTN_EN : Nat := 0x1D000C
def REC_GATTN_EN_EN : Fld := ⟨REC_GATTN_EN, 2, 0⟩
def REC_IOTIME : Nat := 0x1D0010
def REC_IOTIME_EDGE : Fld := ⟨REC_IOTIME, 31, 0⟩
def REC_IOINFO : Nat := 0x1D0014
def REC_IOINFO_EDGEINFO : Fld := ⟨REC_IOINFO, 31, 0⟩
def REC_CTRL (i : Nat) : Nat := 0x1D0100 + 0x100 * i
def REC_CTRL_AUTORD (i : Nat) : Fld := ⟨REC_CTRL i, 12, 12⟩
def REC_CTRL_IOTRIG (i : Nat) : Fld := ⟨REC_CTRL i, 11, 11⟩
def REC_CTRL_IOARM (i : Nat) : Fld := ⟨REC_CTRL i, 10, 10⟩
def REC_CTRL_TRIGOUT (i : Nat) : Fld := ⟨REC_CTRL i, 9, 9⟩
def REC_CTRL_AUTO (i : Nat) : Fld := ⟨REC_CTRL i, 8, 8⟩
def REC_CTRL_READ (i : Nat) : Fld := ⟨REC_CTRL i, 3, 3⟩
def REC_CTRL_FORCE (i : Nat) : Fld := ⟨REC_CTRL i, 2, 2⟩
def REC_CTRL_DISARM (i : Nat) : Fld := ⟨REC_CTRL i, 1, 1⟩
def REC_CTRL_ARM (i : Nat) : Fld := ⟨REC_CTRL i, 0, 0⟩
def REC_CFG (i : Nat) : Nat := 0x1D0104 + 0x100 * i
def REC_CFG_BFIELD (i : Nat) : Fld := ⟨REC_CFG i, 19, 18⟩
def REC_CFG_PRESONLY (i : Nat) : Fld := ⟨REC_CFG i, 17, 17⟩
def REC_CFG_BULKEN (i : Nat) : Fld := ⟨REC_CFG i, 16, 16⟩
def REC_CFG_NCH (i : Nat) : Fld := ⟨REC_CFG i, 12, 8⟩
def REC_CFG_DEC (i : Nat) : Fld := ⟨REC_CFG i, 3, 0⟩
def REC_BASE (i : Nat) : Nat := 0x1D0108 + 0x100 * i
def REC_BASE_BASE (i : Nat) : Fld := ⟨REC_BASE i, 20, 0⟩
def REC_SIZE (i : Nat) : Nat := 0x1D010C + 0x100 * i
def REC_SIZE_SIZE (i : Nat) : Fld := ⟨REC_SIZE i, 20, 0⟩
def REC_PRE (i : Nat) : Nat := 0x1D0110 + 0x100 * i
def REC_PRE_PRE (i : Nat) : Fld := ⟨REC_PRE i, 23, 0⟩
def REC_POST (i : Nat) : Nat := 0x1D0114 + 0x100 * i
def REC_POST_POST (i : Nat) : Fld := ⟨REC_POST i, 23, 0⟩
def REC_SHARE (i : Nat) : Nat := 0x1D0118 + 0x100 * i
def REC_SHARE_SHARE (i : Nat) : Fld := ⟨REC_SHARE i, 15, 0⟩
def REC_AUTOTO (i : Nat) : Nat := 0x1D011C + 0x100 * i
def REC_AUTOTO_AUTOTO (i : Nat) : Fld := ⟨REC_AUTOTO i, 23, 0⟩
def REC_BULK (i : Nat) : Nat := 0x1D0120 + 0x100 * i
def REC_BULK_COUNT (i : Nat) : Fld := ⟨REC_BULK i, 28, 16⟩
def REC_BULK_FIRST (i : Nat) : Fld := ⟨REC_BULK i, 12, 0⟩
def REC_TCFG (i j : Nat) : Nat := 0x1D0124 + 0x100 * i + 0x10 * j
def REC_TCFG_EVMASK (i j : Nat) : Fld := ⟨REC_TCFG i j, 29, 20⟩
def REC_TCFG_SLOT (i j : Nat) : Fld := ⟨REC_TCFG i j, 16, 8⟩
def REC_TCFG_TYPE (i j : Nat) : Fld := ⟨REC_TCFG i j, 2, 0⟩
def REC_TLVL (i j : Nat) : Nat := 0x1D0128 + 0x100 * i + 0x10 * j
def REC_TLVL_L (i j : Nat) : Fld := ⟨REC_TLVL i j, 31, 0⟩
def REC_THYS (i j : Nat) : Nat := 0x1D012C + 0x100 * i + 0x10 * j
def REC_THYS_HYS (i j : Nat) : Fld := ⟨REC_THYS i j, 31, 0⟩
def REC_MCFG (i j : Nat) : Nat := 0x1D0164 + 0x100 * i + 0xC * j
def REC_MCFG_EN (i j : Nat) : Fld := ⟨REC_MCFG i j, 15, 15⟩
def REC_MCFG_SLOT (i j : Nat) : Fld := ⟨REC_MCFG i j, 8, 0⟩
def REC_MLVL (i j : Nat) : Nat := 0x1D0168 + 0x100 * i + 0xC * j
def REC_MLVL_MLVL (i j : Nat) : Fld := ⟨REC_MLVL i j, 31, 0⟩
def REC_MHYS (i j : Nat) : Nat := 0x1D016C + 0x100 * i + 0xC * j
def REC_MHYS_MHYS (i j : Nat) : Fld := ⟨REC_MHYS i j, 31, 0⟩
def REC_CHSEL (i j : Nat) : Nat := 0x1D01A0 + 0x100 * i + 0x4 * j
def REC_CHSEL_CHB (i j : Nat) : Fld := ⟨REC_CHSEL i j, 24, 16⟩
def REC_CHSEL_CHA (i j : Nat) : Fld := ⟨REC_CHSEL i j, 8, 0⟩
def REC_STAT (i : Nat) : Nat := 0x1D01C0 + 0x100 * i
def REC_STAT_REFCODE (i : Nat) : Fld := ⟨REC_STAT i, 19, 16⟩
def REC_STAT_SHORTPRE (i : Nat) : Fld := ⟨REC_STAT i, 14, 14⟩
def REC_STAT_DROP (i : Nat) : Fld := ⟨REC_STAT i, 13, 13⟩
def REC_STAT_RDBUSY (i : Nat) : Fld := ⟨REC_STAT i, 12, 12⟩
def REC_STAT_LOG2D (i : Nat) : Fld := ⟨REC_STAT i, 11, 8⟩
def REC_STAT_STATE (i : Nat) : Fld := ⟨REC_STAT i, 2, 0⟩
def REC_ROWS (i : Nat) : Nat := 0x1D01C4 + 0x100 * i
def REC_ROWS_ROWS (i : Nat) : Fld := ⟨REC_ROWS i, 23, 0⟩
def REC_TTRIG (i : Nat) : Nat := 0x1D01C8 + 0x100 * i
def REC_TTRIG_TTRIG (i : Nat) : Fld := ⟨REC_TTRIG i, 31, 0⟩
def REC_TTRIGF (i : Nat) : Nat := 0x1D01CC + 0x100 * i
def REC_TTRIGF_TTRIGF (i : Nat) : Fld := ⟨REC_TTRIGF i, 15, 0⟩
def REC_ROWB (i : Nat) : Nat := 0x1D01D0 + 0x100 * i
def REC_ROWB_ROWB (i : Nat) : Fld := ⟨REC_ROWB i, 15, 0⟩
def REC_EVT (i : Nat) : Nat := 0x1D01D4 + 0x100 * i
def REC_EVT_EVT (i : Nat) : Fld := ⟨REC_EVT i, 5, 0⟩
def REC_ATTN_EN (i : Nat) : Nat := 0x1D01D8 + 0x100 * i
def REC_ATTN_EN_EN (i : Nat) : Fld := ⟨REC_ATTN_EN i, 5, 0⟩
def REC_DROPCNT (i : Nat) : Nat := 0x1D01DC + 0x100 * i
def REC_DROPCNT_DROPCNT (i : Nat) : Fld := ⟨REC_DROPCNT i, 15, 0⟩

/-! ### DPX -/

def DPX_CFG : Nat := 0x200000
def DPX_CFG_PREF : Fld := ⟨DPX_CFG, 3, 3⟩
def DPX_CFG_UNIT : Fld := ⟨DPX_CFG, 2, 2⟩
def DPX_CFG_MODE : Fld := ⟨DPX_CFG, 1, 0⟩
def DPX_CTRL : Nat := 0x200004
def DPX_CTRL_FAULT : Fld := ⟨DPX_CTRL, 0, 0⟩
def DPX_STAT : Nat := 0x200008
def DPX_STAT_REASON : Fld := ⟨DPX_STAT, 23, 16⟩
def DPX_STAT_PLOST : Fld := ⟨DPX_STAT, 7, 7⟩
def DPX_STAT_READY : Fld := ⟨DPX_STAT, 6, 6⟩
def DPX_STAT_CASTDONE : Fld := ⟨DPX_STAT, 5, 5⟩
def DPX_STAT_PAIRED : Fld := ⟨DPX_STAT, 4, 4⟩
def DPX_STAT_SDLUP : Fld := ⟨DPX_STAT, 3, 3⟩
def DPX_STAT_ROLE : Fld := ⟨DPX_STAT, 2, 0⟩
def DPX_TERM : Nat := 0x20000C
def DPX_TERM_VACT : Fld := ⟨DPX_TERM, 19, 16⟩
def DPX_TERM_TERM : Fld := ⟨DPX_TERM, 15, 0⟩
def DPX_EVT : Nat := 0x200010
def DPX_EVT_DUALACT : Fld := ⟨DPX_EVT, 11, 11⟩
def DPX_EVT_CASTFAIL : Fld := ⟨DPX_EVT, 10, 10⟩
def DPX_EVT_RLYLATE : Fld := ⟨DPX_EVT, 9, 9⟩
def DPX_EVT_PLOST : Fld := ⟨DPX_EVT, 8, 8⟩
def DPX_EVT_WITLOSS : Fld := ⟨DPX_EVT, 7, 7⟩
def DPX_EVT_TSKEW : Fld := ⟨DPX_EVT, 6, 6⟩
def DPX_EVT_SHMIS : Fld := ⟨DPX_EVT, 5, 5⟩
def DPX_EVT_CMDLATE : Fld := ⟨DPX_EVT, 4, 4⟩
def DPX_EVT_INGLOST : Fld := ⟨DPX_EVT, 3, 3⟩
def DPX_EVT_INGABN : Fld := ⟨DPX_EVT, 2, 2⟩
def DPX_EVT_PAIRMIS : Fld := ⟨DPX_EVT, 1, 1⟩
def DPX_EVT_ROLECHG : Fld := ⟨DPX_EVT, 0, 0⟩
def DPX_ATTN_EN : Nat := 0x200014
def DPX_ATTN_EN_EN : Fld := ⟨DPX_ATTN_EN, 11, 0⟩
def DPX_HEALTH : Nat := 0x200018
def DPX_HEALTH_SHRUN : Fld := ⟨DPX_HEALTH, 23, 16⟩
def DPX_HEALTH_READY : Fld := ⟨DPX_HEALTH, 9, 9⟩
def DPX_HEALTH_CASTDONE : Fld := ⟨DPX_HEALTH, 8, 8⟩
def DPX_HEALTH_WITOK : Fld := ⟨DPX_HEALTH, 7, 7⟩
def DPX_HEALTH_TIMEOK : Fld := ⟨DPX_HEALTH, 6, 6⟩
def DPX_HEALTH_MBISTOK : Fld := ⟨DPX_HEALTH, 5, 5⟩
def DPX_HEALTH_ARMOK : Fld := ⟨DPX_HEALTH, 4, 4⟩
def DPX_HEALTH_LOOPOK : Fld := ⟨DPX_HEALTH, 3, 3⟩
def DPX_HEALTH_INGOK : Fld := ⟨DPX_HEALTH, 2, 2⟩
def DPX_HEALTH_PAIROK : Fld := ⟨DPX_HEALTH, 1, 1⟩
def DPX_HEALTH_SDLUP : Fld := ⟨DPX_HEALTH, 0, 0⟩
def DPX_PHEALTH : Nat := 0x20001C
def DPX_PHEALTH_SHRUN : Fld := ⟨DPX_PHEALTH, 23, 16⟩
def DPX_PHEALTH_READY : Fld := ⟨DPX_PHEALTH, 9, 9⟩
def DPX_PHEALTH_CASTDONE : Fld := ⟨DPX_PHEALTH, 8, 8⟩
def DPX_PHEALTH_WITOK : Fld := ⟨DPX_PHEALTH, 7, 7⟩
def DPX_PHEALTH_TIMEOK : Fld := ⟨DPX_PHEALTH, 6, 6⟩
def DPX_PHEALTH_MBISTOK : Fld := ⟨DPX_PHEALTH, 5, 5⟩
def DPX_PHEALTH_ARMOK : Fld := ⟨DPX_PHEALTH, 4, 4⟩
def DPX_PHEALTH_LOOPOK : Fld := ⟨DPX_PHEALTH, 3, 3⟩
def DPX_PHEALTH_INGOK : Fld := ⟨DPX_PHEALTH, 2, 2⟩
def DPX_PHEALTH_PAIROK : Fld := ⟨DPX_PHEALTH, 1, 1⟩
def DPX_PHEALTH_SDLUP : Fld := ⟨DPX_PHEALTH, 0, 0⟩
def DPX_INGCFG : Nat := 0x200020
def DPX_INGCFG_NS : Fld := ⟨DPX_INGCFG, 8, 0⟩
def DPX_INGSTAT : Nat := 0x200024
def DPX_INGSTAT_ICYC : Fld := ⟨DPX_INGSTAT, 31, 0⟩
def DPX_INGLEN : Nat := 0x200028
def DPX_INGLEN_LEN : Fld := ⟨DPX_INGLEN, 15, 0⟩
def DPX_CASTCFG : Nat := 0x20002C
def DPX_CASTCFG_SEGS : Fld := ⟨DPX_CASTCFG, 3, 0⟩
def DPX_CASTSTAT : Nat := 0x200030
def DPX_CASTSTAT_SEGTOT : Fld := ⟨DPX_CASTSTAT, 31, 16⟩
def DPX_CASTSTAT_SEGDONE : Fld := ⟨DPX_CASTSTAT, 15, 0⟩
def DPX_TOFS : Nat := 0x200034
def DPX_TOFS_TOFS : Fld := ⟨DPX_TOFS, 31, 0⟩
def DPX_TCFG : Nat := 0x200038
def DPX_TCFG_TSKEWLIM : Fld := ⟨DPX_TCFG, 31, 16⟩
def DPX_TCFG_SDLASYM : Fld := ⟨DPX_TCFG, 15, 0⟩
def DPX_SHCFG : Nat := 0x20003C
def DPX_SHCFG_SHWIN : Fld := ⟨DPX_SHCFG, 7, 0⟩
def DPX_CNT0 : Nat := 0x200040
def DPX_CNT0_LOOPMIS : Fld := ⟨DPX_CNT0, 31, 16⟩
def DPX_CNT0_ARMMIS : Fld := ⟨DPX_CNT0, 15, 0⟩
def DPX_CNT1 : Nat := 0x200044
def DPX_CNT1_CELLMIS : Fld := ⟨DPX_CNT1, 31, 16⟩
def DPX_CNT1_SKIP : Fld := ⟨DPX_CNT1, 15, 0⟩
def DPX_CNT2 : Nat := 0x200048
def DPX_CNT2_INGLOST : Fld := ⟨DPX_CNT2, 31, 16⟩
def DPX_CNT2_CMDLATE : Fld := ⟨DPX_CNT2, 15, 0⟩
def DPX_CNT3 : Nat := 0x20004C
def DPX_CNT3_RLYLATE : Fld := ⟨DPX_CNT3, 31, 16⟩
def DPX_CNT3_WITERR : Fld := ⟨DPX_CNT3, 15, 0⟩
def DPX_WTO : Nat := 0x200080
def DPX_WTO_WTO : Fld := ⟨DPX_WTO, 23, 0⟩
def DPX_WCFG : Nat := 0x200084
def DPX_WCFG_DISAGN : Fld := ⟨DPX_WCFG, 7, 0⟩
def DPX_WSTAT : Nat := 0x200088
def DPX_WSTAT_TERM : Fld := ⟨DPX_WSTAT, 31, 16⟩
def DPX_WSTAT_HBB : Fld := ⟨DPX_WSTAT, 5, 5⟩
def DPX_WSTAT_HBA : Fld := ⟨DPX_WSTAT, 4, 4⟩
def DPX_WSTAT_ACTU : Fld := ⟨DPX_WSTAT, 3, 0⟩
def DPX_WEVT : Nat := 0x20008C
def DPX_WEVT_WEVT : Fld := ⟨DPX_WEVT, 3, 0⟩
def DPX_WATTN_EN : Nat := 0x200090
def DPX_WATTN_EN_EN : Fld := ⟨DPX_WATTN_EN, 3, 0⟩

/-! ### SAF -/

def SAF_CFG : Nat := 0x210000
def SAF_CFG_PARTSP : Fld := ⟨SAF_CFG, 9, 9⟩
def SAF_CFG_SHORTBLK : Fld := ⟨SAF_CFG, 8, 8⟩
def SAF_CFG_STEN : Fld := ⟨SAF_CFG, 0, 0⟩
def SAF_STAT : Nat := 0x210004
def SAF_STAT_FAIL : Fld := ⟨SAF_STAT, 7, 7⟩
def SAF_STAT_RINGDEG : Fld := ⟨SAF_STAT, 6, 6⟩
def SAF_STAT_CLKDEG : Fld := ⟨SAF_STAT, 5, 5⟩
def SAF_STAT_SAFDEG : Fld := ⟨SAF_STAT, 4, 4⟩
def SAF_STAT_CONFLOCK : Fld := ⟨SAF_STAT, 3, 3⟩
def SAF_STAT_CONFIRMED : Fld := ⟨SAF_STAT, 2, 2⟩
def SAF_STAT_GTDONE : Fld := ⟨SAF_STAT, 1, 1⟩
def SAF_STAT_SAFEOK : Fld := ⟨SAF_STAT, 0, 0⟩
def SAF_DEMAND : Nat := 0x210008
def SAF_DEMAND_LATCH : Fld := ⟨SAF_DEMAND, 23, 16⟩
def SAF_DEMAND_PRESENT : Fld := ⟨SAF_DEMAND, 7, 0⟩
def SAF_REQ : Nat := 0x21000C
def SAF_REQ_ARMS : Fld := ⟨SAF_REQ, 11, 0⟩
def SAF_PIN : Nat := 0x210010
def SAF_PIN_PINS : Fld := ⟨SAF_PIN, 7, 0⟩
def SAF_SCCAUSE : Nat := 0x210014
def SAF_SCCAUSE_SC : Fld := ⟨SAF_SCCAUSE, 6, 0⟩
def SAF_EVT : Nat := 0x210018
def SAF_EVT_EVT : Fld := ⟨SAF_EVT, 7, 0⟩
def SAF_ATTN_EN : Nat := 0x21001C
def SAF_ATTN_EN_EN : Fld := ⟨SAF_ATTN_EN, 7, 0⟩
def SAF_CTRL : Nat := 0x210020
def SAF_CTRL_ACK : Fld := ⟨SAF_CTRL, 0, 0⟩
def SAF_TIM : Nat := 0x210024
def SAF_TIM_TDISC : Fld := ⟨SAF_TIM, 31, 16⟩
def SAF_TIM_FILT : Fld := ⟨SAF_TIM, 15, 0⟩
def SAF_TDEG0 : Nat := 0x210028
def SAF_TDEG0_TCLK : Fld := ⟨SAF_TDEG0, 29, 16⟩
def SAF_TDEG0_TSAF : Fld := ⟨SAF_TDEG0, 13, 0⟩
def SAF_TDEG1 : Nat := 0x21002C
def SAF_TDEG1_RECOV : Fld := ⟨SAF_TDEG1, 29, 16⟩
def SAF_TDEG1_TRING : Fld := ⟨SAF_TDEG1, 13, 0⟩
def SAF_TREM : Nat := 0x210030
def SAF_TREM_CLKREM : Fld := ⟨SAF_TREM, 29, 16⟩
def SAF_TREM_SAFREM : Fld := ⟨SAF_TREM, 13, 0⟩
def SAF_RINGDEG_LO : Nat := 0x210034
def SAF_RINGDEG_LO_DEG_LO : Fld := ⟨SAF_RINGDEG_LO, 31, 0⟩
def SAF_RINGDEG_HI : Nat := 0x210038
def SAF_RINGDEG_HI_DEG_HI : Fld := ⟨SAF_RINGDEG_HI, 15, 0⟩
def SAF_RINGSOLE_LO : Nat := 0x21003C
def SAF_RINGSOLE_LO_SOLE_LO : Fld := ⟨SAF_RINGSOLE_LO, 31, 0⟩
def SAF_RINGSOLE_HI : Nat := 0x210040
def SAF_RINGSOLE_HI_SOLE_HI : Fld := ⟨SAF_RINGSOLE_HI, 15, 0⟩
def SAF_RINGMIN : Nat := 0x210044
def SAF_RINGMIN_PORT : Fld := ⟨SAF_RINGMIN, 29, 24⟩
def SAF_RINGMIN_REM : Fld := ⟨SAF_RINGMIN, 13, 0⟩
def SAF_BLKMASK : Nat := 0x210048
def SAF_BLKMASK_BLKMASK : Fld := ⟨SAF_BLKMASK, 11, 0⟩
def SAF_SUP : Nat := 0x21004C
def SAF_SUP_LATELIM : Fld := ⟨SAF_SUP, 15, 8⟩
def SAF_SUP_MISSLIM : Fld := ⟨SAF_SUP, 7, 0⟩
def SAF_CCV_LO : Nat := 0x210050
def SAF_CCV_LO_CCV_LO : Fld := ⟨SAF_CCV_LO, 31, 0⟩
def SAF_CCV_HI : Nat := 0x210054
def SAF_CCV_HI_CCV_HI : Fld := ⟨SAF_CCV_HI, 31, 0⟩
def SAF_CCVCONF_LO : Nat := 0x210058
def SAF_CCVCONF_LO_CONF_LO : Fld := ⟨SAF_CCVCONF_LO, 31, 0⟩
def SAF_CCVCONF_HI : Nat := 0x21005C
def SAF_CCVCONF_HI_CONF_HI : Fld := ⟨SAF_CCVCONF_HI, 31, 0⟩
def SAF_CONF : Nat := 0x210060
def SAF_CONF_FAILS : Fld := ⟨SAF_CONF, 23, 16⟩
def SAF_CONF_LOCKREM : Fld := ⟨SAF_CONF, 15, 0⟩
def SAF_STCFG : Nat := 0x210064
def SAF_STCFG_STTO : Fld := ⟨SAF_STCFG, 31, 16⟩
def SAF_STCFG_STPER : Fld := ⟨SAF_STCFG, 7, 0⟩
def SAF_STID : Nat := 0x210068
def SAF_STID_STID : Fld := ⟨SAF_STID, 31, 16⟩
def SAF_STID_DEVID : Fld := ⟨SAF_STID, 15, 0⟩
def SAF_STCNT0 : Nat := 0x21006C
def SAF_STCNT0_LOST0 : Fld := ⟨SAF_STCNT0, 31, 16⟩
def SAF_STCNT0_LOST1 : Fld := ⟨SAF_STCNT0, 15, 0⟩
def SAF_STCNT1 : Nat := 0x210070
def SAF_STCNT1_MISM : Fld := ⟨SAF_STCNT1, 31, 16⟩
def SAF_STCNT1_OLD : Fld := ⟨SAF_STCNT1, 15, 0⟩
def SAF_SOVCFG (i : Nat) : Nat := 0x210100 + 0x10 * i
def SAF_SOVCFG_EN (i : Nat) : Fld := ⟨SAF_SOVCFG i, 31, 31⟩
def SAF_SOVCFG_NOV (i : Nat) : Fld := ⟨SAF_SOVCFG i, 27, 24⟩
def SAF_SOVCFG_CHB (i : Nat) : Fld := ⟨SAF_SOVCFG i, 12, 8⟩
def SAF_SOVCFG_CHA (i : Nat) : Fld := ⟨SAF_SOVCFG i, 4, 0⟩
def SAF_SOVLIM (i : Nat) : Nat := 0x210104 + 0x10 * i
def SAF_SOVLIM_HYS (i : Nat) : Fld := ⟨SAF_SOVLIM i, 27, 16⟩
def SAF_SOVLIM_LIM (i : Nat) : Fld := ⟨SAF_SOVLIM i, 11, 0⟩
def SAF_SOVDLIM (i : Nat) : Nat := 0x210108 + 0x10 * i
def SAF_SOVDLIM_DLIM (i : Nat) : Fld := ⟨SAF_SOVDLIM i, 11, 0⟩
def SAF_SOVARMS (i : Nat) : Nat := 0x21010C + 0x10 * i
def SAF_SOVARMS_SOVARMS (i : Nat) : Fld := ⟨SAF_SOVARMS i, 11, 0⟩

/-! ### HIF -/

def HIF_STAT : Nat := 0x220000
def HIF_STAT_BME : Fld := ⟨HIF_STAT, 8, 8⟩
def HIF_STAT_WIDTH : Fld := ⟨HIF_STAT, 7, 4⟩
def HIF_STAT_GEN : Fld := ⟨HIF_STAT, 3, 1⟩
def HIF_STAT_LINKUP : Fld := ⟨HIF_STAT, 0, 0⟩
def HIF_EVT : Nat := 0x220004
def HIF_EVT_EVT : Fld := ⟨HIF_EVT, 3, 0⟩
def HIF_ATTN_EN : Nat := 0x220008
def HIF_ATTN_EN_EN : Fld := ⟨HIF_ATTN_EN, 3, 0⟩
def HIF_LOST : Nat := 0x22000C
def HIF_LOST_TEL : Fld := ⟨HIF_LOST, 23, 16⟩
def HIF_LOST_EVT : Fld := ⟨HIF_LOST, 15, 8⟩
def HIF_LOST_CPL : Fld := ⟨HIF_LOST, 7, 0⟩
def HIF_EPOCH : Nat := 0x220010
def HIF_EPOCH_NUM : Fld := ⟨HIF_EPOCH, 31, 0⟩
def HIF_EPRES : Nat := 0x220014
def HIF_EPRES_STATE : Fld := ⟨HIF_EPRES, 31, 29⟩
def HIF_EPRES_LOCKED : Fld := ⟨HIF_EPRES, 28, 28⟩
def HIF_EPRES_REASON : Fld := ⟨HIF_EPRES, 23, 16⟩
def HIF_EPRES_DETAIL : Fld := ⟨HIF_EPRES, 15, 0⟩
def HIF_TELCFG : Nat := 0x220018
def HIF_TELCFG_TELN : Fld := ⟨HIF_TELCFG, 21, 16⟩
def HIF_TELCFG_TELDEC : Fld := ⟨HIF_TELCFG, 15, 0⟩
def HIF_TELSEL (i : Nat) : Nat := 0x220040 + 0x4 * i
def HIF_TELSEL_SB (i : Nat) : Fld := ⟨HIF_TELSEL i, 24, 16⟩
def HIF_TELSEL_SA (i : Nat) : Fld := ⟨HIF_TELSEL i, 8, 0⟩
def HIF_RING_BASELO (i : Nat) : Nat := 0x220100 + 0x20 * i
def HIF_RING_BASELO_BASE_LO (i : Nat) : Fld := ⟨HIF_RING_BASELO i, 31, 12⟩
def HIF_RING_BASEHI (i : Nat) : Nat := 0x220104 + 0x20 * i
def HIF_RING_BASEHI_BASE_HI (i : Nat) : Fld := ⟨HIF_RING_BASEHI i, 31, 0⟩
def HIF_RING_CTL (i : Nat) : Nat := 0x220108 + 0x20 * i
def HIF_RING_CTL_EN (i : Nat) : Fld := ⟨HIF_RING_CTL i, 31, 31⟩
def HIF_RING_CTL_COAL (i : Nat) : Fld := ⟨HIF_RING_CTL i, 28, 25⟩
def HIF_RING_CTL_COALT (i : Nat) : Fld := ⟨HIF_RING_CTL i, 20, 8⟩
def HIF_RING_CTL_SIZE (i : Nat) : Fld := ⟨HIF_RING_CTL i, 4, 0⟩
def HIF_RING_DIDX (i : Nat) : Nat := 0x22010C + 0x20 * i
def HIF_RING_DIDX_DIDX (i : Nat) : Fld := ⟨HIF_RING_DIDX i, 16, 0⟩
def HIF_RING_HIDX (i : Nat) : Nat := 0x220110 + 0x20 * i
def HIF_RING_HIDX_HIDX (i : Nat) : Fld := ⟨HIF_RING_HIDX i, 16, 0⟩
def HIF_UART : Nat := 0x220800
def HIF_UART_BAUD : Fld := ⟨HIF_UART, 23, 0⟩
def HIF_I2C : Nat := 0x220804
def HIF_I2C_FAST : Fld := ⟨HIF_I2C, 0, 0⟩
def HIF_GPIODIR : Nat := 0x220808
def HIF_GPIODIR_DIR : Fld := ⟨HIF_GPIODIR, 31, 0⟩
def HIF_GPIOOUT : Nat := 0x22080C
def HIF_GPIOOUT_OUT : Fld := ⟨HIF_GPIOOUT, 31, 0⟩
def HIF_GPIOIN : Nat := 0x220810
def HIF_GPIOIN_IN : Fld := ⟨HIF_GPIOIN, 31, 0⟩
def HIF_GPIOFN : Nat := 0x220814
def HIF_GPIOFN_FN : Fld := ⟨HIF_GPIOFN, 31, 0⟩

/-! ### SVC -/

def SVC_CFG : Nat := 0x230000
def SVC_CFG_TICK : Fld := ⟨SVC_CFG, 19, 0⟩
def SVC_SPILL : Nat := 0x230004
def SVC_SPILL_BASE : Fld := ⟨SVC_SPILL, 20, 0⟩
def SVC_SPILLSZ : Nat := 0x230008
def SVC_SPILLSZ_SIZE : Fld := ⟨SVC_SPILLSZ, 15, 0⟩
def SVC_FILL : Nat := 0x23000C
def SVC_FILL_RDYN : Fld := ⟨SVC_FILL, 26, 16⟩
def SVC_FILL_DLYN : Fld := ⟨SVC_FILL, 12, 0⟩
def SVC_SPILLN : Nat := 0x230010
def SVC_SPILLN_RDYSP : Fld := ⟨SVC_SPILLN, 31, 16⟩
def SVC_SPILLN_DLYSP : Fld := ⟨SVC_SPILLN, 15, 0⟩
def SVC_EVT : Nat := 0x230014
def SVC_EVT_EVT : Fld := ⟨SVC_EVT, 3, 0⟩
def SVC_ATTN_EN : Nat := 0x230018
def SVC_ATTN_EN_EN : Fld := ⟨SVC_ATTN_EN, 3, 0⟩
def SVC_CNT : Nat := 0x23001C
def SVC_CNT_LATE : Fld := ⟨SVC_CNT, 31, 16⟩
def SVC_CNT_FULL : Fld := ⟨SVC_CNT, 15, 0⟩
def SVC_ENQ (i : Nat) : Nat := 0x230020 + 0x4 * i
def SVC_ENQ_ENQ (i : Nat) : Fld := ⟨SVC_ENQ i, 31, 0⟩
def SVC_ENQCMD : Nat := 0x230040
def SVC_ENQCMD_DELAY : Fld := ⟨SVC_ENQCMD, 31, 0⟩
def SVC_ENQRES : Nat := 0x230044
def SVC_ENQRES_STATUS : Fld := ⟨SVC_ENQRES, 31, 28⟩
def SVC_ENQRES_HANDLE : Fld := ⟨SVC_ENQRES, 15, 0⟩
def SVC_CANCEL : Nat := 0x230048
def SVC_CANCEL_HANDLE : Fld := ⟨SVC_CANCEL, 15, 0⟩
def SVC_CANRES : Nat := 0x23004C
def SVC_CANRES_NOTFOUND : Fld := ⟨SVC_CANRES, 0, 0⟩
def SVC_DONE : Nat := 0x230050
def SVC_DONE_DONE : Fld := ⟨SVC_DONE, 0, 0⟩
def SVC_AFF : Nat := 0x230054
def SVC_AFF_AFFSTEAL : Fld := ⟨SVC_AFF, 15, 0⟩
def SVC_BIND (i : Nat) : Nat := 0x230080 + 0x4 * i
def SVC_BIND_EN (i : Nat) : Fld := ⟨SVC_BIND i, 31, 31⟩
def SVC_BIND_SRC (i : Nat) : Fld := ⟨SVC_BIND i, 26, 24⟩
def SVC_BIND_ARG (i : Nat) : Fld := ⟨SVC_BIND i, 23, 16⟩
def SVC_BIND_FLOW (i : Nat) : Fld := ⟨SVC_BIND i, 7, 0⟩
def SVC_PCTL (i : Nat) : Nat := 0x230100 + 0x40 * i
def SVC_PCTL_IRQ (i : Nat) : Fld := ⟨SVC_PCTL i, 8, 8⟩
def SVC_PCTL_MAXDEPTH (i : Nat) : Fld := ⟨SVC_PCTL i, 5, 4⟩
def SVC_PCTL_AUTORST (i : Nat) : Fld := ⟨SVC_PCTL i, 2, 2⟩
def SVC_PCTL_RESTART (i : Nat) : Fld := ⟨SVC_PCTL i, 1, 1⟩
def SVC_PCTL_HALT (i : Nat) : Fld := ⟨SVC_PCTL i, 0, 0⟩
def SVC_PSTAT (i : Nat) : Nat := 0x230104 + 0x40 * i
def SVC_PSTAT_FLOW (i : Nat) : Fld := ⟨SVC_PSTAT i, 23, 16⟩
def SVC_PSTAT_IMAGE (i : Nat) : Fld := ⟨SVC_PSTAT i, 12, 12⟩
def SVC_PSTAT_DEPTH (i : Nat) : Fld := ⟨SVC_PSTAT i, 9, 8⟩
def SVC_PSTAT_STATE (i : Nat) : Fld := ⟨SVC_PSTAT i, 2, 0⟩
def SVC_PEVT (i : Nat) : Nat := 0x230108 + 0x40 * i
def SVC_PEVT_PEVT (i : Nat) : Fld := ⟨SVC_PEVT i, 4, 0⟩
def SVC_PATTN_EN (i : Nat) : Nat := 0x23010C + 0x40 * i
def SVC_PATTN_EN_EN (i : Nat) : Fld := ⟨SVC_PATTN_EN i, 4, 0⟩
def SVC_MAXRUN (i : Nat) : Nat := 0x230110 + 0x40 * i
def SVC_MAXRUN_MAXRUN (i : Nat) : Fld := ⟨SVC_MAXRUN i, 19, 0⟩
def SVC_PCNT (i : Nat) : Nat := 0x230114 + 0x40 * i
def SVC_PCNT_ITEMS (i : Nat) : Fld := ⟨SVC_PCNT i, 31, 16⟩
def SVC_PCNT_WDOG (i : Nat) : Fld := ⟨SVC_PCNT i, 15, 0⟩
def SVC_PNEXT (i : Nat) : Nat := 0x230118 + 0x40 * i
def SVC_PNEXT_NEXTEV (i : Nat) : Fld := ⟨SVC_PNEXT i, 31, 0⟩
def SVC_PSEQ (i : Nat) : Nat := 0x23011C + 0x40 * i
def SVC_PSEQ_SEQ (i : Nat) : Fld := ⟨SVC_PSEQ i, 31, 0⟩
def SVC_FCFG (i : Nat) : Nat := 0x231000 + 0x10 * i
def SVC_FCFG_EN (i : Nat) : Fld := ⟨SVC_FCFG i, 31, 31⟩
def SVC_FCFG_MIRROR (i : Nat) : Fld := ⟨SVC_FCFG i, 30, 30⟩
def SVC_FCFG_PAIRS (i : Nat) : Fld := ⟨SVC_FCFG i, 29, 28⟩
def SVC_FCFG_PRIO (i : Nat) : Fld := ⟨SVC_FCFG i, 26, 24⟩
def SVC_FSTATE (i : Nat) : Nat := 0x231004 + 0x10 * i
def SVC_FSTATE_STATE (i : Nat) : Fld := ⟨SVC_FSTATE i, 31, 0⟩
def SVC_FSTAT (i : Nat) : Nat := 0x231008 + 0x10 * i
def SVC_FSTAT_INSVC (i : Nat) : Fld := ⟨SVC_FSTAT i, 31, 31⟩
def SVC_FSTAT_LAST (i : Nat) : Fld := ⟨SVC_FSTAT i, 19, 16⟩
def SVC_FSTAT_QUEUED (i : Nat) : Fld := ⟨SVC_FSTAT i, 15, 0⟩
def SVC_SEMST (i : Nat) : Nat := 0x232000 + 0x10 * i
def SVC_SEMST_HELD (i : Nat) : Fld := ⟨SVC_SEMST i, 31, 31⟩
def SVC_SEMST_POISONED (i : Nat) : Fld := ⟨SVC_SEMST i, 30, 30⟩
def SVC_SEMST_FLOW (i : Nat) : Fld := ⟨SVC_SEMST i, 23, 16⟩
def SVC_SEMST_ORIGIN (i : Nat) : Fld := ⟨SVC_SEMST i, 3, 0⟩
def SVC_SEMCTL (i : Nat) : Nat := 0x232004 + 0x10 * i
def SVC_SEMCTL_OP (i : Nat) : Fld := ⟨SVC_SEMCTL i, 1, 0⟩

/-! ### ARB -/

def ARB_CFG : Nat := 0x240000
def ARB_CFG_MODE : Fld := ⟨ARB_CFG, 0, 0⟩
def ARB_EVT : Nat := 0x240004
def ARB_EVT_EVT : Fld := ⟨ARB_EVT, 2, 0⟩
def ARB_ATTN_EN : Nat := 0x240008
def ARB_ATTN_EN_EN : Fld := ⟨ARB_ATTN_EN, 2, 0⟩
def ARB_STVLIM : Nat := 0x24000C
def ARB_STVLIM_LIM : Fld := ⟨ARB_STVLIM, 15, 0⟩
def ARB_WSUM : Nat := 0x240010
def ARB_WSUM_DSUM : Fld := ⟨ARB_WSUM, 24, 16⟩
def ARB_WSUM_SSUM : Fld := ⟨ARB_WSUM, 8, 0⟩
def ARB_BANKSEL : Nat := 0x240014
def ARB_BANKSEL_BANK : Fld := ⟨ARB_BANKSEL, 5, 0⟩
def ARB_PORT (i : Nat) : Nat := 0x240100 + 0x4 * i
def ARB_PORT_PRI (i : Nat) : Fld := ⟨ARB_PORT i, 18, 16⟩
def ARB_PORT_WEIGHT (i : Nat) : Fld := ⟨ARB_PORT i, 8, 0⟩
def ARB_PSTAT (i : Nat) : Nat := 0x240300 + 0x4 * i
def ARB_PSTAT_LOST (i : Nat) : Fld := ⟨ARB_PSTAT i, 31, 24⟩
def ARB_PSTAT_CREDIT (i : Nat) : Fld := ⟨ARB_PSTAT i, 9, 0⟩
def ARB_DDRW (i : Nat) : Nat := 0x240500 + 0x4 * i
def ARB_DDRW_PRI (i : Nat) : Fld := ⟨ARB_DDRW i, 18, 16⟩
def ARB_DDRW_WEIGHT (i : Nat) : Fld := ⟨ARB_DDRW i, 7, 0⟩
def ARB_SLOT (i : Nat) : Nat := 0x240800 + 0x4 * i
def ARB_SLOT_OWNER (i : Nat) : Fld := ⟨ARB_SLOT i, 6, 0⟩
def ARB_PWAIT (i : Nat) : Nat := 0x240600 + 0x4 * i
def ARB_PWAIT_WAITMAX (i : Nat) : Fld := ⟨ARB_PWAIT i, 15, 0⟩

/-! ### MEM -/

def MEM_STAT : Nat := 0x250000
def MEM_STAT_DDRUP : Fld := ⟨MEM_STAT, 1, 1⟩
def MEM_STAT_MRAMOK : Fld := ⟨MEM_STAT, 0, 0⟩
def MEM_EVT : Nat := 0x250004
def MEM_EVT_EVT : Fld := ⟨MEM_EVT, 6, 0⟩
def MEM_ATTN_EN : Nat := 0x250008
def MEM_ATTN_EN_EN : Fld := ⟨MEM_ATTN_EN, 6, 0⟩
def MEM_CECNT : Nat := 0x25000C
def MEM_CECNT_SRAMCE : Fld := ⟨MEM_CECNT, 31, 16⟩
def MEM_CECNT_DDRCE : Fld := ⟨MEM_CECNT, 15, 0⟩
def MEM_ERRCNT : Nat := 0x250010
def MEM_ERRCNT_MRAMCE : Fld := ⟨MEM_ERRCNT, 31, 16⟩
def MEM_ERRCNT_UE : Fld := ⟨MEM_ERRCNT, 15, 0⟩
def MEM_ERRLOC : Nat := 0x250014
def MEM_ERRLOC_VALID : Fld := ⟨MEM_ERRLOC, 31, 31⟩
def MEM_ERRLOC_MEM : Fld := ⟨MEM_ERRLOC, 29, 28⟩
def MEM_ERRLOC_UNCORR : Fld := ⟨MEM_ERRLOC, 27, 27⟩
def MEM_ERRLOC_PORT : Fld := ⟨MEM_ERRLOC, 6, 0⟩
def MEM_ERRADDR : Nat := 0x250018
def MEM_ERRADDR_ADDR : Fld := ⟨MEM_ERRADDR, 29, 0⟩
def MEM_SCRUB : Nat := 0x25001C
def MEM_SCRUB_PERIOD : Fld := ⟨MEM_SCRUB, 15, 0⟩
def MEM_DWIN (i : Nat) : Nat := 0x250020 + 0x4 * i
def MEM_DWIN_BASE (i : Nat) : Fld := ⟨MEM_DWIN i, 4, 0⟩

/-! ### SEC -/

def SEC_STAT : Nat := 0x260000
def SEC_STAT_DAMAGED : Fld := ⟨SEC_STAT, 28, 24⟩
def SEC_STAT_REVOKED : Fld := ⟨SEC_STAT, 20, 16⟩
def SEC_STAT_VALID : Fld := ⟨SEC_STAT, 12, 8⟩
def SEC_STAT_ATTEXH : Fld := ⟨SEC_STAT, 4, 4⟩
def SEC_STAT_UNL : Fld := ⟨SEC_STAT, 3, 1⟩
def SEC_STAT_BUSY : Fld := ⟨SEC_STAT, 0, 0⟩
def SEC_EVT : Nat := 0x260004
def SEC_EVT_EVT : Fld := ⟨SEC_EVT, 4, 0⟩
def SEC_ATTN_EN : Nat := 0x260008
def SEC_ATTN_EN_EN : Fld := ⟨SEC_ATTN_EN, 4, 0⟩
def SEC_CTRL : Nat := 0x26000C
def SEC_CTRL_RELOCK : Fld := ⟨SEC_CTRL, 0, 0⟩
def SEC_CMD : Nat := 0x260010
def SEC_CMD_OP : Fld := ⟨SEC_CMD, 2, 0⟩
def SEC_RES : Nat := 0x260014
def SEC_RES_OP : Fld := ⟨SEC_RES, 15, 12⟩
def SEC_RES_ORIGIN : Fld := ⟨SEC_RES, 11, 8⟩
def SEC_RES_CODE : Fld := ⟨SEC_RES, 7, 0⟩
def SEC_CHAL (i : Nat) : Nat := 0x260020 + 0x4 * i
def SEC_CHAL_CHAL (i : Nat) : Fld := ⟨SEC_CHAL i, 31, 0⟩
def SEC_UNLREM : Nat := 0x260030
def SEC_UNLREM_UNLREM : Fld := ⟨SEC_UNLREM, 15, 0⟩
def SEC_ATTIDX_LO : Nat := 0x260034
def SEC_ATTIDX_LO_IDX_LO : Fld := ⟨SEC_ATTIDX_LO, 31, 0⟩
def SEC_ATTIDX_HI : Nat := 0x260038
def SEC_ATTIDX_HI_IDX_HI : Fld := ⟨SEC_ATTIDX_HI, 7, 0⟩
def SEC_SVN : Nat := 0x26003C
def SEC_SVN_SVN : Fld := ⟨SEC_SVN, 31, 0⟩
def SEC_IMGSTAT : Nat := 0x260040
def SEC_IMGSTAT_IMGSTAT : Fld := ⟨SEC_IMGSTAT, 15, 0⟩
def SEC_FWVER : Nat := 0x260044
def SEC_FWVER_FWVER : Fld := ⟨SEC_FWVER, 31, 0⟩
def SEC_CUSTVER : Nat := 0x260048
def SEC_CUSTVER_CUSTVER : Fld := ⟨SEC_CUSTVER, 31, 0⟩
def SEC_DIG (i j : Nat) : Nat := 0x260100 + 0x20 * i + 0x4 * j
def SEC_DIG_DIG (i j : Nat) : Fld := ⟨SEC_DIG i j, 31, 0⟩
def SEC_MBOX (i : Nat) : Nat := 0x262000 + 0x4 * i
def SEC_MBOX_MBOX (i : Nat) : Fld := ⟨SEC_MBOX i, 31, 0⟩
def SEC_IDREC (i : Nat) : Nat := 0x263000 + 0x4 * i
def SEC_IDREC_IDREC (i : Nat) : Fld := ⟨SEC_IDREC i, 31, 0⟩

/-! ### DIAG -/

def DIAG_STAT : Nat := 0x270000
def DIAG_STAT_MBRUN : Fld := ⟨DIAG_STAT, 1, 1⟩
def DIAG_STAT_ACTIVE : Fld := ⟨DIAG_STAT, 0, 0⟩
def DIAG_EVT : Nat := 0x270004
def DIAG_EVT_EVT : Fld := ⟨DIAG_EVT, 3, 0⟩
def DIAG_ATTN_EN : Nat := 0x270008
def DIAG_ATTN_EN_EN : Fld := ⟨DIAG_ATTN_EN, 3, 0⟩
def DIAG_MBCFG : Nat := 0x27000C
def DIAG_MBCFG_MBPERIOD : Fld := ⟨DIAG_MBCFG, 15, 0⟩
def DIAG_MBST : Nat := 0x270010
def DIAG_MBST_BANK : Fld := ⟨DIAG_MBST, 13, 8⟩
def DIAG_MBST_CHECK : Fld := ⟨DIAG_MBST, 2, 0⟩
def DIAG_PDEP : Nat := 0x270020
def DIAG_PDEP_EN : Fld := ⟨DIAG_PDEP, 31, 31⟩
def DIAG_PDEP_DUR : Fld := ⟨DIAG_PDEP, 30, 24⟩
def DIAG_PDEP_ENDS : Fld := ⟨DIAG_PDEP, 23, 22⟩
def DIAG_PDEP_PORT : Fld := ⟨DIAG_PDEP, 21, 16⟩
def DIAG_PDEP_DELAY : Fld := ⟨DIAG_PDEP, 15, 0⟩
def DIAG_PFWD : Nat := 0x270024
def DIAG_PFWD_EN : Fld := ⟨DIAG_PFWD, 31, 31⟩
def DIAG_PFWD_DUR : Fld := ⟨DIAG_PFWD, 30, 24⟩
def DIAG_PFWD_PORT : Fld := ⟨DIAG_PFWD, 21, 16⟩
def DIAG_PFWD_EXTRA : Fld := ⟨DIAG_PFWD, 7, 0⟩
def DIAG_PTHR : Nat := 0x270028
def DIAG_PTHR_EN : Fld := ⟨DIAG_PTHR, 31, 31⟩
def DIAG_PTHR_DUR : Fld := ⟨DIAG_PTHR, 30, 24⟩
def DIAG_PTHR_GAP : Fld := ⟨DIAG_PTHR, 15, 8⟩
def DIAG_PTHR_RPORT : Fld := ⟨DIAG_PTHR, 6, 0⟩
def DIAG_PSLOT : Nat := 0x27002C
def DIAG_PSLOT_EN : Fld := ⟨DIAG_PSLOT, 31, 31⟩
def DIAG_PSLOT_DUR : Fld := ⟨DIAG_PSLOT, 30, 24⟩
def DIAG_PSLOT_PORT : Fld := ⟨DIAG_PSLOT, 21, 16⟩
def DIAG_PSLOT_ACTION : Fld := ⟨DIAG_PSLOT, 15, 14⟩
def DIAG_PSLOT_END : Fld := ⟨DIAG_PSLOT, 13, 13⟩
def DIAG_PSLOT_POS : Fld := ⟨DIAG_PSLOT, 6, 0⟩
def DIAG_PING : Nat := 0x270030
def DIAG_PING_EN : Fld := ⟨DIAG_PING, 31, 31⟩
def DIAG_PING_DUR : Fld := ⟨DIAG_PING, 30, 24⟩
def DIAG_PING_DELAY : Fld := ⟨DIAG_PING, 15, 0⟩
def DIAG_PHB : Nat := 0x270034
def DIAG_PHB_EN : Fld := ⟨DIAG_PHB, 31, 31⟩
def DIAG_PHB_DUR : Fld := ⟨DIAG_PHB, 30, 24⟩
def DIAG_PHB_DELAY : Fld := ⟨DIAG_PHB, 15, 0⟩
def DIAG_PDLY : Nat := 0x270038
def DIAG_PDLY_EN : Fld := ⟨DIAG_PDLY, 31, 31⟩
def DIAG_PDLY_DUR : Fld := ⟨DIAG_PDLY, 30, 24⟩
def DIAG_PDLY_FLOW : Fld := ⟨DIAG_PDLY, 7, 0⟩

/-! ### AUD -/

def AUD_STAT : Nat := 0x280000
def AUD_STAT_FULL : Fld := ⟨AUD_STAT, 1, 1⟩
def AUD_STAT_WRAPPED : Fld := ⟨AUD_STAT, 0, 0⟩
def AUD_HEAD : Nat := 0x280004
def AUD_HEAD_HEAD : Fld := ⟨AUD_HEAD, 31, 0⟩
def AUD_TAIL : Nat := 0x280008
def AUD_TAIL_TAIL : Fld := ⟨AUD_TAIL, 31, 0⟩
def AUD_CTRL : Nat := 0x28000C
def AUD_CTRL_IRQEN : Fld := ⟨AUD_CTRL, 0, 0⟩
def AUD_RDSEQ : Nat := 0x280010
def AUD_RDSEQ_RDSEQ : Fld := ⟨AUD_RDSEQ, 31, 0⟩
def AUD_RDSTAT : Nat := 0x280014
def AUD_RDSTAT_MISS : Fld := ⟨AUD_RDSTAT, 0, 0⟩
def AUD_RDATA (i : Nat) : Nat := 0x280020 + 0x4 * i
def AUD_RDATA_RDATA (i : Nat) : Fld := ⟨AUD_RDATA i, 31, 0⟩
def AUD_ANCHOR_LO : Nat := 0x280040
def AUD_ANCHOR_LO_ANCHOR_LO : Fld := ⟨AUD_ANCHOR_LO, 31, 0⟩
def AUD_ANCHOR_HI : Nat := 0x280044
def AUD_ANCHOR_HI_ANCHOR_HI : Fld := ⟨AUD_ANCHOR_HI, 31, 0⟩
def AUD_EVT : Nat := 0x280048
def AUD_EVT_EVT : Fld := ⟨AUD_EVT, 1, 0⟩
def AUD_ATTN_EN : Nat := 0x28004C
def AUD_ATTN_EN_EN : Fld := ⟨AUD_ATTN_EN, 1, 0⟩

/-! ### CELL -/

def CELL_W00 (i : Nat) : Nat := 0x400000 + 0x40 * i
def CELL_W00_AUX (i : Nat) : Fld := ⟨CELL_W00 i, 31, 16⟩
def CELL_W00_VCAP (i : Nat) : Fld := ⟨CELL_W00 i, 15, 0⟩
def CELL_W04 (i : Nat) : Nat := 0x400004 + 0x40 * i
def CELL_W04_TERR (i : Nat) : Fld := ⟨CELL_W04 i, 31, 16⟩
def CELL_W04_STAT (i : Nat) : Fld := ⟨CELL_W04 i, 15, 0⟩
def CELL_W08 (i : Nat) : Nat := 0x400008 + 0x40 * i
def CELL_W08_CYC (i : Nat) : Fld := ⟨CELL_W08 i, 31, 0⟩
def CELL_W0C (i : Nat) : Nat := 0x40000C + 0x40 * i
def CELL_W0C_STALE (i : Nat) : Fld := ⟨CELL_W0C i, 31, 31⟩
def CELL_W0C_PRES (i : Nat) : Fld := ⟨CELL_W0C i, 30, 30⟩
def CELL_W0C_SRC (i : Nat) : Fld := ⟨CELL_W0C i, 29, 28⟩
def CELL_W0C_DIRMIS (i : Nat) : Fld := ⟨CELL_W0C i, 27, 27⟩
def CELL_W0C_SPATH (i : Nat) : Fld := ⟨CELL_W0C i, 26, 26⟩
def CELL_W0C_RX1 (i : Nat) : Fld := ⟨CELL_W0C i, 25, 25⟩
def CELL_W0C_RX0 (i : Nat) : Fld := ⟨CELL_W0C i, 24, 24⟩
def CELL_W0C_STALERUN (i : Nat) : Fld := ⟨CELL_W0C i, 23, 16⟩
def CELL_W10 (i : Nat) : Nat := 0x400010 + 0x40 * i
def CELL_W10_ENUM_HI (i : Nat) : Fld := ⟨CELL_W10 i, 31, 0⟩
def CELL_W14 (i : Nat) : Nat := 0x400014 + 0x40 * i
def CELL_W14_ENUM_LO (i : Nat) : Fld := ⟨CELL_W14 i, 31, 0⟩
def CELL_W18 (i : Nat) : Nat := 0x400018 + 0x40 * i
def CELL_W18_DLY0 (i : Nat) : Fld := ⟨CELL_W18 i, 31, 16⟩
def CELL_W18_DLY1 (i : Nat) : Fld := ⟨CELL_W18 i, 15, 0⟩
def CELL_W1C (i : Nat) : Nat := 0x40001C + 0x40 * i
def CELL_W1C_MAPPED (i : Nat) : Fld := ⟨CELL_W1C i, 31, 31⟩
def CELL_W1C_ARM (i : Nat) : Fld := ⟨CELL_W1C i, 19, 16⟩
def CELL_W1C_LIDX (i : Nat) : Fld := ⟨CELL_W1C i, 9, 0⟩
def CELL_W20 (i : Nat) : Nat := 0x400020 + 0x40 * i
def CELL_W20_VPRED (i : Nat) : Fld := ⟨CELL_W20 i, 31, 0⟩
def CELL_W24 (i : Nat) : Nat := 0x400024 + 0x40 * i
def CELL_W24_CEST (i : Nat) : Fld := ⟨CELL_W24 i, 31, 0⟩
def CELL_W28 (i : Nat) : Nat := 0x400028 + 0x40 * i
def CELL_W28_SIG1 (i : Nat) : Fld := ⟨CELL_W28 i, 31, 16⟩
def CELL_W28_SIG0 (i : Nat) : Fld := ⟨CELL_W28 i, 15, 0⟩
def CELL_W2C (i : Nat) : Nat := 0x40002C + 0x40 * i
def CELL_W2C_QACC (i : Nat) : Fld := ⟨CELL_W2C i, 31, 16⟩
def CELL_W2C_DVACC (i : Nat) : Fld := ⟨CELL_W2C i, 15, 0⟩
def CELL_W30 (i : Nat) : Nat := 0x400030 + 0x40 * i
def CELL_W30_VLAST (i : Nat) : Fld := ⟨CELL_W30 i, 31, 0⟩
def CELL_W34 (i : Nat) : Nat := 0x400034 + 0x40 * i
def CELL_W34_ESR (i : Nat) : Fld := ⟨CELL_W34 i, 31, 16⟩
def CELL_W34_SIGP (i : Nat) : Fld := ⟨CELL_W34 i, 15, 0⟩
def CELL_W38 (i : Nat) : Nat := 0x400038 + 0x40 * i
def CELL_W38_NEST (i : Nat) : Fld := ⟨CELL_W38 i, 31, 24⟩
def CELL_W38_BUD (i : Nat) : Fld := ⟨CELL_W38 i, 23, 0⟩
def CELL_W3C (i : Nat) : Nat := 0x40003C + 0x40 * i
def CELL_W3C_ST1 (i : Nat) : Fld := ⟨CELL_W3C i, 31, 30⟩
def CELL_W3C_ST0 (i : Nat) : Fld := ⟨CELL_W3C i, 29, 28⟩
def CELL_W3C_STP (i : Nat) : Fld := ⟨CELL_W3C i, 27, 26⟩
def CELL_W3C_EXCL (i : Nat) : Fld := ⟨CELL_W3C i, 25, 25⟩
def CELL_W3C_FLTP (i : Nat) : Fld := ⟨CELL_W3C i, 24, 24⟩
def CELL_W3C_DIVG (i : Nat) : Fld := ⟨CELL_W3C i, 23, 23⟩
def CELL_W3C_AGEC (i : Nat) : Fld := ⟨CELL_W3C i, 22, 22⟩
def CELL_W3C_AGER (i : Nat) : Fld := ⟨CELL_W3C i, 21, 21⟩
def CELL_W3C_FPREV (i : Nat) : Fld := ⟨CELL_W3C i, 20, 20⟩
def CELL_W3C_CLS (i : Nat) : Fld := ⟨CELL_W3C i, 19, 18⟩
def CELL_W3C_NACC (i : Nat) : Fld := ⟨CELL_W3C i, 17, 10⟩
def CELL_W3C_RANK (i : Nat) : Fld := ⟨CELL_W3C i, 9, 0⟩

end Sys2Proof.Machine
end

