-- ==== Sys2Proof/Machine/Regs.lean ====
section
/-! DEFINITION. The register table of the manual: one row per register of every block's register tables (R2, R14, R26),
with its place in BAR0, its instances and strides, and each field's bits, access type and reset value.
A reset entry of "fuse", "MRAM" or "random" is 0 here: those fields are read from State's fuses, MRAM and challenge
(Machine/Live.lean); CLK_TRIM stands at mid-scale until a stored word is loaded (R436). The reset weights and priorities of R421
and of ARB_DDRW are set by resetWord (Machine/Store.lean).
The cell table window (R26, R97, R204) is the last block. -/

namespace Sys2Proof.Machine

/-- The access types of R2. No register of the manual carries a W1S field. -/
inductive FTy where
  | ro | rw | rwl | w1c | rc | wo
  deriving DecidableEq, Repr

/-- One field of a register: bits [hi:lo], access type, reset value. -/
structure FDesc where
  name : String
  hi : Nat
  lo : Nat
  ty : FTy
  reset : Nat
  deriving DecidableEq, Repr

/-- One register of the map: BAR0 offset of copy (0, 0), counts and strides of its two instance levels. -/
structure RDesc where
  name : String
  base : Nat
  n1 : Nat
  s1 : Nat
  n2 : Nat
  s2 : Nat
  fields : List FDesc
  deriving DecidableEq, Repr

/-- TOP registers, 01_architecture. -/
def regsTOP : List RDesc := [
  ⟨"TOP_ID", 0x000000, 1, 0x0, 1, 0x0, [⟨"VENDOR", 31, 16, .ro, 0x0F1A⟩, ⟨"DEVICE", 15, 0, .ro, 0x6144⟩]⟩,
  ⟨"TOP_REV", 0x000004, 1, 0x0, 1, 0x0, [⟨"METAL", 23, 16, .ro, 0⟩, ⟨"GRADE", 11, 8, .ro, 0⟩, ⟨"STEP", 7, 0, .ro, 2⟩]⟩,
  ⟨"TOP_UID_LO", 0x000008, 1, 0x0, 1, 0x0, [⟨"UID", 31, 0, .ro, 0⟩]⟩,
  ⟨"TOP_UID_HI", 0x00000C, 1, 0x0, 1, 0x0, [⟨"UID", 31, 0, .ro, 0⟩]⟩,
  ⟨"TOP_CAP0", 0x000010, 1, 0x0, 1, 0x0, [⟨"SDL", 25, 23, .ro, 4⟩, ⟨"PORTS", 22, 17, .ro, 48⟩, ⟨"ARMS", 16, 13, .ro, 12⟩, ⟨"CELLS", 12, 0, .ro, 6144⟩]⟩,
  ⟨"TOP_CAP1", 0x000014, 1, 0x0, 1, 0x0, [⟨"SVCPAIRS", 19, 16, .ro, 4⟩, ⟨"DDRSZ", 15, 8, .ro, 0⟩, ⟨"CKEYS", 7, 4, .ro, 0⟩, ⟨"COMPAT", 3, 3, .ro, 1⟩, ⟨"WITNESS", 2, 2, .ro, 1⟩, ⟨"DUPLEX", 1, 1, .ro, 1⟩, ⟨"TESTEN", 0, 0, .ro, 0⟩]⟩,
  ⟨"TOP_SCRATCH", 0x000018, 1, 0x0, 1, 0x0, [⟨"SCRATCH", 31, 0, .rw, 0⟩]⟩,
  ⟨"TOP_STAT", 0x000020, 1, 0x0, 1, 0x0, [⟨"SPATH", 22, 22, .ro, 0⟩, ⟨"CLKDEG", 21, 21, .ro, 0⟩, ⟨"SAFDEG", 20, 20, .ro, 0⟩, ⟨"SAFEOK", 19, 19, .ro, 0⟩, ⟨"ROLE", 18, 16, .ro, 0⟩, ⟨"DSTATE", 15, 12, .ro, 1⟩, ⟨"SECU", 7, 7, .ro, 0⟩, ⟨"PLAT", 6, 6, .ro, 0⟩, ⟨"SAFE", 5, 5, .ro, 0⟩, ⟨"DPX", 4, 4, .ro, 0⟩, ⟨"TIME", 3, 3, .ro, 0⟩, ⟨"MEAS", 2, 2, .ro, 0⟩, ⟨"RING", 1, 1, .ro, 0⟩, ⟨"CTRL", 0, 0, .ro, 0⟩]⟩,
  ⟨"TOP_ARMSTATE", 0x000024, 1, 0x0, 1, 0x0, [⟨"ARMST", 23, 0, .ro, 0⟩]⟩,
  ⟨"TOP_ATTN_EN", 0x000028, 1, 0x0, 1, 0x0, [⟨"EN", 7, 0, .rw, 0⟩]⟩,
  ⟨"TOP_DSUM_CTRL", 0x000030, 1, 0x0, 1, 0x0, [⟨"CTRL", 14, 0, .ro, 0⟩]⟩,
  ⟨"TOP_DSUM_RING_LO", 0x000034, 1, 0x0, 1, 0x0, [⟨"RING_LO", 31, 0, .ro, 0⟩]⟩,
  ⟨"TOP_DSUM_RING_HI", 0x000038, 1, 0x0, 1, 0x0, [⟨"RING_HI", 15, 0, .ro, 0⟩]⟩,
  ⟨"TOP_DSUM_TIME", 0x00003C, 1, 0x0, 1, 0x0, [⟨"TIME", 1, 0, .ro, 0⟩]⟩,
  ⟨"TOP_DSUM_MEAS", 0x000040, 1, 0x0, 1, 0x0, [⟨"MEAS", 4, 0, .ro, 0⟩]⟩,
  ⟨"TOP_DSUM_DPX", 0x000044, 1, 0x0, 1, 0x0, [⟨"DPX", 4, 0, .ro, 0⟩]⟩,
  ⟨"TOP_DSUM_SAFE", 0x000048, 1, 0x0, 1, 0x0, [⟨"SAFE", 0, 0, .ro, 0⟩]⟩,
  ⟨"TOP_DSUM_PLAT", 0x00004C, 1, 0x0, 1, 0x0, [⟨"PLAT", 7, 0, .ro, 0⟩]⟩,
  ⟨"TOP_DSUM_SECU", 0x000050, 1, 0x0, 1, 0x0, [⟨"DIAG", 2, 2, .ro, 0⟩, ⟨"AUD", 1, 1, .ro, 0⟩, ⟨"SEC", 0, 0, .ro, 0⟩]⟩]

/-- CLK registers, 17_clocks. -/
def regsCLK : List RDesc := [
  ⟨"CLK_CTRL", 0x010000, 1, 0x0, 1, 0x0, [⟨"TRIMEN", 3, 3, .rw, 1⟩, ⟨"AUTORET", 2, 2, .rw, 1⟩, ⟨"MDLLEN", 1, 1, .rw, 0⟩, ⟨"SEL", 0, 0, .rw, 0⟩]⟩,
  ⟨"CLK_MDLL", 0x010004, 1, 0x0, 1, 0x0, [⟨"SEED", 31, 16, .rwl, 0xACE1⟩, ⟨"LOCKWIN", 11, 8, .rwl, 8⟩, ⟨"DITHEN", 2, 2, .rwl, 1⟩, ⟨"REFSEL", 1, 0, .rwl, 0⟩]⟩,
  ⟨"CLK_STAT", 0x010008, 1, 0x0, 1, 0x0, [⟨"SWBUSY", 6, 6, .ro, 0⟩, ⟨"CLKDEG", 5, 5, .ro, 0⟩, ⟨"SRC", 4, 4, .ro, 0⟩, ⟨"TRIMOK", 3, 3, .ro, 0⟩, ⟨"REFOK", 2, 2, .ro, 0⟩, ⟨"CIORDY", 1, 1, .ro, 0⟩, ⟨"MDLLRDY", 0, 0, .ro, 0⟩]⟩,
  ⟨"CLK_EVT", 0x01000C, 1, 0x0, 1, 0x0, [⟨"TRIMERR", 11, 11, .w1c, 0⟩, ⟨"OUTREF", 10, 10, .w1c, 0⟩, ⟨"CFGREF", 9, 9, .w1c, 0⟩, ⟨"GATEACC", 8, 8, .w1c, 0⟩, ⟨"GATEREF", 7, 7, .w1c, 0⟩, ⟨"FORCED", 6, 6, .w1c, 0⟩, ⟨"SWREF", 5, 5, .w1c, 0⟩, ⟨"RETURN", 4, 4, .w1c, 0⟩, ⟨"FAILOVER", 3, 3, .w1c, 0⟩, ⟨"REFLOSS", 2, 2, .w1c, 0⟩, ⟨"LOL", 1, 1, .w1c, 0⟩, ⟨"LOCK", 0, 0, .w1c, 0⟩]⟩,
  ⟨"CLK_ATTN_EN", 0x010010, 1, 0x0, 1, 0x0, [⟨"EN", 11, 0, .rw, 0⟩]⟩,
  ⟨"CLK_LOCKCNT", 0x010014, 1, 0x0, 1, 0x0, [⟨"D", 15, 0, .ro, 0⟩]⟩,
  ⟨"CLK_TRIM", 0x010018, 1, 0x0, 1, 0x0, [⟨"TRIM", 23, 0, .ro, 0x800000⟩]⟩,
  ⟨"CLK_CIOERR", 0x01001C, 1, 0x0, 1, 0x0, [⟨"ERR", 31, 0, .ro, 0⟩]⟩,
  ⟨"CLK_DIV", 0x010020, 1, 0x0, 1, 0x0, [⟨"PDIV", 30, 24, .rw, 16⟩, ⟨"FDIV", 20, 16, .rw, 4⟩, ⟨"SDIV", 12, 8, .rw, 3⟩, ⟨"ADIV", 4, 0, .rw, 2⟩]⟩,
  ⟨"CLK_RETQ", 0x010024, 1, 0x0, 1, 0x0, [⟨"RETQUAL", 15, 0, .rw, 100⟩]⟩,
  ⟨"CLK_OUT", 0x010028, 1, 0x0, 1, 0x0, [⟨"EN", 31, 31, .rw, 0⟩, ⟨"SRC", 26, 24, .rw, 0⟩, ⟨"DIV", 15, 0, .rw, 0⟩]⟩,
  ⟨"CLK_GATE0", 0x010030, 1, 0x0, 1, 0x0, [⟨"ARMS", 22, 22, .rw, 1⟩, ⟨"DDR", 21, 21, .rw, 1⟩, ⟨"RECS", 20, 20, .rw, 1⟩, ⟨"PAIR", 19, 16, .rw, 0xF⟩, ⟨"REC", 15, 12, .rw, 0xF⟩, ⟨"ARM", 11, 0, .rw, 0xFFF⟩]⟩,
  ⟨"CLK_GATE1", 0x010034, 1, 0x0, 1, 0x0, [⟨"ADC", 25, 25, .rw, 1⟩, ⟨"LGRP", 24, 0, .rw, 0x1FFFFFF⟩]⟩,
  ⟨"CLK_LSEN", 0x010038, 1, 0x0, 1, 0x0, [⟨"GPIOEN", 3, 3, .rw, 0⟩, ⟨"SPIEN", 2, 2, .rw, 0⟩, ⟨"I2CEN", 1, 1, .rw, 0⟩, ⟨"UARTEN", 0, 0, .rw, 0⟩]⟩,
  ⟨"CLK_GATEERR", 0x01003C, 1, 0x0, 1, 0x0, [⟨"VALID", 31, 31, .rc, 0⟩, ⟨"ORIGIN", 27, 24, .rc, 0⟩, ⟨"OFFSET", 23, 0, .rc, 0⟩]⟩,
  ⟨"CLK_GUSE0", 0x010040, 1, 0x0, 1, 0x0, [⟨"USE0", 22, 0, .ro, 0⟩]⟩,
  ⟨"CLK_GUSE1", 0x010044, 1, 0x0, 1, 0x0, [⟨"USE1", 25, 0, .ro, 0⟩]⟩]

/-- RST registers, 18_reset_and_bringup. -/
def regsRST : List RDesc := [
  ⟨"RST_CTRL", 0x020000, 1, 0x0, 1, 0x0, [⟨"DISC", 1, 1, .wo, 0⟩, ⟨"SWRST", 0, 0, .wo, 0⟩]⟩,
  ⟨"RST_STAT", 0x020004, 1, 0x0, 1, 0x0, [⟨"HCAUSE", 15, 8, .ro, 0⟩, ⟨"PSTATE", 5, 4, .ro, 1⟩, ⟨"DSTATE", 3, 0, .ro, 1⟩]⟩,
  ⟨"RST_CAUSE", 0x020008, 1, 0x0, 1, 0x0, [⟨"ORIGIN", 7, 4, .ro, 0⟩, ⟨"CAUSE", 3, 0, .ro, 1⟩]⟩,
  ⟨"RST_BOOT", 0x02000C, 1, 0x0, 1, 0x0, [⟨"STEP", 15, 8, .ro, 0⟩, ⟨"RESULT", 7, 0, .ro, 0⟩]⟩,
  ⟨"RST_DBREF", 0x020010, 1, 0x0, 1, 0x0, [⟨"REASON", 31, 24, .ro, 0⟩, ⟨"ARM", 23, 20, .ro, 0⟩]⟩,
  ⟨"RST_PCFG", 0x020014, 1, 0x0, 1, 0x0, [⟨"DEEPEN", 31, 31, .rw, 0⟩, ⟨"DEEPMIN", 15, 0, .rw, 100⟩]⟩,
  ⟨"RST_EVT", 0x020018, 1, 0x0, 1, 0x0, [⟨"EVT", 3, 0, .w1c, 0⟩]⟩,
  ⟨"RST_ATTN_EN", 0x02001C, 1, 0x0, 1, 0x0, [⟨"EN", 3, 0, .rw, 0⟩]⟩]

/-- CYC registers, 02_control_cycle. -/
def regsCYC : List RDesc := [
  ⟨"CYC_CTRL", 0x030000, 1, 0x0, 1, 0x0, [⟨"FOLLOW", 1, 1, .rw, 0⟩, ⟨"EN", 0, 0, .rw, 0⟩]⟩,
  ⟨"CYC_PERIOD", 0x030004, 1, 0x0, 1, 0x0, [⟨"PERIOD", 17, 0, .rwl, 20000⟩]⟩,
  ⟨"CYC_DTX", 0x030008, 1, 0x0, 1, 0x0, [⟨"DTX", 12, 0, .rwl, 1000⟩]⟩,
  ⟨"CYC_RESA", 0x03000C, 1, 0x0, 1, 0x0, [⟨"GUARD", 23, 16, .rwl, 50⟩, ⟨"SCH", 15, 8, .rwl, 50⟩, ⟨"SORT", 7, 0, .rwl, 80⟩]⟩,
  ⟨"CYC_RESB", 0x030010, 1, 0x0, 1, 0x0, [⟨"LOOP", 15, 0, .rwl, 100⟩]⟩,
  ⟨"CYC_RETDL", 0x030014, 1, 0x0, 1, 0x0, [⟨"RETDL", 17, 0, .ro, 17200⟩]⟩,
  ⟨"CYC_NUMINIT", 0x030018, 1, 0x0, 1, 0x0, [⟨"NUMINIT", 31, 0, .rw, 0⟩]⟩,
  ⟨"CYC_NUM", 0x03001C, 1, 0x0, 1, 0x0, [⟨"NUM", 31, 0, .ro, 0⟩]⟩,
  ⟨"CYC_T0", 0x030020, 1, 0x0, 1, 0x0, [⟨"T0", 31, 0, .ro, 0⟩]⟩,
  ⟨"CYC_PHASE", 0x030024, 1, 0x0, 1, 0x0, [⟨"PHASE", 31, 0, .ro, 0⟩]⟩,
  ⟨"CYC_STAT", 0x030028, 1, 0x0, 1, 0x0, [⟨"RUNNING", 9, 9, .ro, 0⟩, ⟨"SYNCLOCK", 8, 8, .ro, 0⟩, ⟨"SYNCSTEP", 6, 6, .w1c, 0⟩, ⟨"SYNCFAR", 5, 5, .w1c, 0⟩, ⟨"SYNCLOSS", 4, 4, .w1c, 0⟩, ⟨"PERCHG", 3, 3, .w1c, 0⟩, ⟨"PERERR", 2, 2, .w1c, 0⟩, ⟨"PHLATE", 1, 1, .w1c, 0⟩, ⟨"OVR", 0, 0, .w1c, 0⟩]⟩,
  ⟨"CYC_ATTN_EN", 0x03002C, 1, 0x0, 1, 0x0, [⟨"EN", 6, 0, .rw, 0⟩]⟩,
  ⟨"CYC_OVRCNT", 0x030030, 1, 0x0, 1, 0x0, [⟨"OVRCNT", 31, 0, .rc, 0⟩]⟩,
  ⟨"CYC_MISS_LO", 0x030034, 1, 0x0, 1, 0x0, [⟨"MISS_LO", 31, 0, .ro, 0⟩]⟩,
  ⟨"CYC_MISS_HI", 0x030038, 1, 0x0, 1, 0x0, [⟨"MISS_HI", 15, 0, .ro, 0⟩]⟩,
  ⟨"CYC_LATEPH", 0x03003C, 1, 0x0, 1, 0x0, [⟨"SCH", 23, 16, .rc, 0⟩, ⟨"LOOP", 15, 8, .rc, 0⟩, ⟨"SORT", 7, 0, .rc, 0⟩]⟩,
  ⟨"CYC_MARGIN", 0x030040, 1, 0x0, 1, 0x0, [⟨"VALID", 31, 31, .rc, 0⟩, ⟨"PORT", 23, 18, .rc, 0⟩, ⟨"MARGIN", 17, 0, .rc, 0⟩]⟩,
  ⟨"CYC_SYNCCFG", 0x030044, 1, 0x0, 1, 0x0, [⟨"WIN", 27, 16, .rw, 500⟩, ⟨"SLEW", 3, 0, .rw, 2⟩]⟩,
  ⟨"CYC_SYNCIN", 0x030048, 1, 0x0, 1, 0x0, [⟨"INDLY", 13, 0, .rw, 0⟩]⟩,
  ⟨"CYC_SYNCOUT", 0x03004C, 1, 0x0, 1, 0x0, [⟨"OUTEN", 31, 31, .rw, 1⟩, ⟨"WIDTH", 27, 16, .rw, 100⟩, ⟨"OUTOFS", 11, 0, .rw, 0⟩]⟩,
  ⟨"CYC_SYNCERR", 0x030050, 1, 0x0, 1, 0x0, [⟨"MISSRUN", 23, 16, .ro, 0⟩, ⟨"ERR", 15, 0, .ro, 0⟩]⟩]

/-- TIM registers, 06_time_bases, part 1. -/
def regsTIM1 : List RDesc := [
  ⟨"TIM_CTRL", 0x040000, 1, 0x0, 1, 0x0, [⟨"SNAP", 0, 0, .wo, 0⟩]⟩,
  ⟨"TIM_STAT", 0x040004, 1, 0x0, 1, 0x0, [⟨"SLEWING", 4, 4, .ro, 0⟩, ⟨"HOLDEXP", 3, 3, .ro, 0⟩, ⟨"RXPORT", 2, 2, .ro, 0⟩, ⟨"TB1ST", 1, 0, .ro, 0⟩]⟩,
  ⟨"TIM_EVT", 0x040008, 1, 0x0, 1, 0x0, [⟨"TSETREF", 6, 6, .w1c, 0⟩, ⟨"DLYSAT", 5, 5, .w1c, 0⟩, ⟨"TERRHI", 4, 4, .w1c, 0⟩, ⟨"GMCHG", 3, 3, .w1c, 0⟩, ⟨"HOLDEXP", 2, 2, .w1c, 0⟩, ⟨"LOCKED", 1, 1, .w1c, 0⟩, ⟨"HOLDOVER", 0, 0, .w1c, 0⟩]⟩,
  ⟨"TIM_ATTN_EN", 0x04000C, 1, 0x0, 1, 0x0, [⟨"EN", 6, 0, .rw, 0⟩]⟩,
  ⟨"TIM_TB_NS", 0x040010, 4, 0x8, 1, 0x0, [⟨"NS", 31, 0, .ro, 0⟩]⟩,
  ⟨"TIM_TB_FRAC", 0x040014, 4, 0x8, 1, 0x0, [⟨"FRAC", 15, 0, .ro, 0⟩]⟩,
  ⟨"TIM_WRAP", 0x040030, 1, 0x0, 1, 0x0, [⟨"STEP", 7, 4, .w1c, 0⟩, ⟨"WR", 3, 0, .w1c, 0⟩]⟩,
  ⟨"TIM_SNAP_NS", 0x040040, 4, 0x8, 1, 0x0, [⟨"NS", 31, 0, .ro, 0⟩]⟩,
  ⟨"TIM_SNAP_FRAC", 0x040044, 4, 0x8, 1, 0x0, [⟨"FRAC", 15, 0, .ro, 0⟩]⟩,
  ⟨"TIM_TB0SET", 0x040060, 1, 0x0, 1, 0x0, [⟨"TB0SET", 31, 0, .wo, 0⟩]⟩,
  ⟨"TIM_TB1RATE", 0x040064, 1, 0x0, 1, 0x0, [⟨"TB1RATE", 31, 0, .rw, 0⟩]⟩,
  ⟨"TIM_TB1STEP", 0x040068, 1, 0x0, 1, 0x0, [⟨"TB1STEP", 31, 0, .wo, 0⟩]⟩,
  ⟨"TIM_TB1SLEW", 0x04006C, 1, 0x0, 1, 0x0, [⟨"TB1SLEW", 31, 0, .wo, 0⟩]⟩,
  ⟨"TIM_TB3SET", 0x040070, 1, 0x0, 1, 0x0, [⟨"TB3SET", 31, 0, .wo, 0⟩]⟩,
  ⟨"TIM_TB3STEP", 0x040074, 1, 0x0, 1, 0x0, [⟨"TB3STEP", 31, 0, .wo, 0⟩]⟩,
  ⟨"TIM_TB3RATE", 0x040078, 1, 0x0, 1, 0x0, [⟨"TB3RATE", 31, 0, .rw, 0⟩]⟩,
  ⟨"TIM_TERRLIM", 0x04007C, 1, 0x0, 1, 0x0, [⟨"LIM", 15, 0, .rw, 128⟩]⟩,
  ⟨"TIM_PTPCFG", 0x040080, 1, 0x0, 1, 0x0, [⟨"DOMAIN", 31, 24, .rw, 0⟩, ⟨"KIS", 23, 20, .rw, 4⟩, ⟨"KPS", 19, 16, .rw, 1⟩, ⟨"TSMODE1", 3, 3, .rw, 0⟩, ⟨"TSMODE0", 2, 2, .rw, 0⟩, ⟨"EN1", 1, 1, .rw, 0⟩, ⟨"EN0", 0, 0, .rw, 0⟩]⟩,
  ⟨"TIM_PTPTH", 0x040084, 1, 0x0, 1, 0x0, [⟨"STEPTH", 31, 16, .rw, 100⟩, ⟨"LOCKTH", 15, 0, .rw, 100⟩]⟩,
  ⟨"TIM_HOLD", 0x040088, 1, 0x0, 1, 0x0, [⟨"HOLDLIM", 31, 16, .rw, 300⟩, ⟨"HOLDSEC", 15, 0, .ro, 0⟩]⟩,
  ⟨"TIM_PTPOFS", 0x04008C, 1, 0x0, 1, 0x0, [⟨"OFS", 31, 0, .ro, 0⟩]⟩,
  ⟨"TIM_PTPMPD", 0x040090, 1, 0x0, 1, 0x0, [⟨"MPD", 31, 0, .ro, 0⟩]⟩,
  ⟨"TIM_GMID_LO", 0x040094, 1, 0x0, 1, 0x0, [⟨"GMID_LO", 31, 0, .ro, 0⟩]⟩,
  ⟨"TIM_GMID_HI", 0x040098, 1, 0x0, 1, 0x0, [⟨"GMID_HI", 31, 0, .ro, 0⟩]⟩]

/-- TIM registers, 06_time_bases, part 2. -/
def regsTIM2 : List RDesc := [
  ⟨"TIM_SP_INGLAT", 0x0400A0, 2, 0x8, 1, 0x0, [⟨"INGLAT", 31, 0, .rw, 0⟩]⟩,
  ⟨"TIM_SP_EGRLAT", 0x0400A4, 2, 0x8, 1, 0x0, [⟨"EGRLAT", 31, 0, .rw, 0⟩]⟩,
  ⟨"TIM_DLYSAT_LO", 0x0400B0, 1, 0x0, 1, 0x0, [⟨"PORTS_LO", 31, 0, .ro, 0⟩]⟩,
  ⟨"TIM_DLYSAT_HI", 0x0400B4, 1, 0x0, 1, 0x0, [⟨"PORTS_HI", 15, 0, .ro, 0⟩]⟩,
  ⟨"TIM_KAPPA", 0x040100, 48, 0x8, 1, 0x0, [⟨"KAPPA", 31, 0, .rwl, 0⟩]⟩,
  ⟨"TIM_EASYM", 0x040104, 48, 0x8, 1, 0x0, [⟨"EASYM1", 31, 16, .rwl, 0⟩, ⟨"EASYM0", 15, 0, .rwl, 0⟩]⟩,
  ⟨"TIM_RTERR", 0x040300, 48, 0x4, 1, 0x0, [⟨"NUNLOCK", 31, 24, .ro, 0⟩, ⟨"WORSTPOS", 23, 16, .ro, 0⟩, ⟨"MAXTERR", 15, 0, .ro, 0⟩]⟩]

/-- TIM registers, 06_time_bases. -/
def regsTIM : List RDesc := regsTIM1 ++ regsTIM2

/-- RING registers, 03_cell_rings. -/
def regsRING : List RDesc := [
  ⟨"RING_CTRL", 0x080000, 48, 0x1000, 1, 0x0, [⟨"UNWRAPDLY", 15, 12, .rw, 4⟩, ⟨"HHOLD", 11, 8, .rwl, 3⟩, ⟨"DISC", 4, 4, .wo, 0⟩, ⟨"OWNEND", 2, 2, .rwl, 0⟩, ⟨"DPX", 1, 1, .rwl, 0⟩, ⟨"EN", 0, 0, .rwl, 0⟩]⟩,
  ⟨"RING_MAP", 0x080004, 48, 0x1000, 1, 0x0, [⟨"ARM", 27, 24, .rwl, 0⟩, ⟨"LREV", 23, 23, .rwl, 0⟩, ⟨"LBASE", 22, 13, .rwl, 0⟩, ⟨"NCELL", 7, 0, .rwl, 0⟩]⟩,
  ⟨"RING_STAT", 0x080008, 48, 0x1000, 1, 0x0, [⟨"DISCBUSY", 7, 7, .ro, 0⟩, ⟨"UNWRAPPING", 6, 6, .ro, 0⟩, ⟨"SPATH", 5, 5, .ro, 0⟩, ⟨"WRAP1", 4, 4, .ro, 0⟩, ⟨"WRAP0", 3, 3, .ro, 0⟩, ⟨"RX1", 2, 2, .ro, 0⟩, ⟨"RX0", 1, 1, .ro, 0⟩, ⟨"ACTIVE", 0, 0, .ro, 0⟩]⟩,
  ⟨"RING_WRAP", 0x08000C, 48, 0x1000, 1, 0x0, [⟨"WPOS1", 14, 8, .ro, 0⟩, ⟨"WPOS0", 6, 0, .ro, 0⟩]⟩,
  ⟨"RING_EVT", 0x080010, 48, 0x1000, 1, 0x0, [⟨"DISCFAIL", 11, 11, .w1c, 0⟩, ⟨"DISCDONE", 10, 10, .w1c, 0⟩, ⟨"UNWRAPPED", 9, 9, .w1c, 0⟩, ⟨"WRAPNEW", 8, 8, .w1c, 0⟩, ⟨"SPATH", 7, 7, .w1c, 0⟩, ⟨"DIRMIS", 6, 6, .w1c, 0⟩, ⟨"DUP", 5, 5, .w1c, 0⟩, ⟨"SEQ", 4, 4, .w1c, 0⟩, ⟨"HOPERR", 3, 3, .w1c, 0⟩, ⟨"CRC", 2, 2, .w1c, 0⟩, ⟨"LATE", 1, 1, .w1c, 0⟩, ⟨"MISS", 0, 0, .w1c, 0⟩]⟩,
  ⟨"RING_ATTN_EN", 0x080014, 48, 0x1000, 1, 0x0, [⟨"EN", 11, 0, .rw, 0⟩]⟩,
  ⟨"RING_DISC", 0x080018, 48, 0x1000, 1, 0x0, [⟨"RES", 31, 28, .ro, 0⟩, ⟨"PASS", 27, 24, .ro, 0⟩, ⟨"NFOUND", 23, 16, .ro, 0⟩, ⟨"NA", 15, 8, .ro, 0⟩, ⟨"NB", 7, 0, .ro, 0⟩]⟩,
  ⟨"RING_NSTALE", 0x08001C, 48, 0x1000, 1, 0x0, [⟨"NSPATH", 23, 16, .ro, 0⟩, ⟨"NSTALE", 7, 0, .ro, 0⟩]⟩,
  ⟨"RING_RET", 0x080020, 48, 0x1000, 2, 0x4, [⟨"RET", 17, 0, .ro, 0x3FFFF⟩]⟩,
  ⟨"RING_LINK", 0x080028, 48, 0x1000, 2, 0x4, [⟨"LINK", 23, 0, .ro, 0⟩]⟩,
  ⟨"RING_DINFO", 0x080030, 48, 0x1000, 1, 0x0, [⟨"TCONVMAX", 15, 8, .ro, 0⟩, ⟨"HMAXMIN", 7, 4, .ro, 0⟩, ⟨"CTYPE", 1, 0, .ro, 0⟩]⟩,
  ⟨"RING_MISSLATE", 0x080080, 48, 0x1000, 2, 0x20, [⟨"MISS", 31, 16, .rc, 0⟩, ⟨"LATE", 15, 0, .rc, 0⟩]⟩,
  ⟨"RING_CRC", 0x080084, 48, 0x1000, 2, 0x20, [⟨"HCRC", 31, 16, .rc, 0⟩, ⟨"FCRC", 15, 0, .rc, 0⟩]⟩,
  ⟨"RING_SLOTERR", 0x080088, 48, 0x1000, 2, 0x20, [⟨"SLOTCRC", 31, 16, .rc, 0⟩, ⟨"NOWR", 15, 0, .rc, 0⟩]⟩,
  ⟨"RING_SEQDUP", 0x08008C, 48, 0x1000, 2, 0x20, [⟨"SEQ", 31, 16, .rc, 0⟩, ⟨"DUP", 15, 0, .rc, 0⟩]⟩,
  ⟨"RING_HOPWRAP", 0x080090, 48, 0x1000, 2, 0x20, [⟨"HOPERR", 31, 16, .rc, 0⟩, ⟨"WRAPCYC", 15, 0, .rc, 0⟩]⟩,
  ⟨"RING_CNTP", 0x0800C0, 48, 0x1000, 1, 0x0, [⟨"UNWRAPCNT", 31, 16, .rc, 0⟩, ⟨"DIRMIS", 15, 0, .rc, 0⟩]⟩]

/-- LANE registers, 04_ring_lanes. -/
def regsLANE : List RDesc := [
  ⟨"LANE_CTRL", 0x0C0000, 100, 0x400, 1, 0x0, [⟨"RESTART", 9, 9, .wo, 0⟩, ⟨"EN", 8, 8, .ro, 0⟩, ⟨"RXINV", 3, 3, .rwl, 0⟩, ⟨"TXINV", 2, 2, .rwl, 0⟩, ⟨"RXPRE", 1, 1, .rwl, 0⟩, ⟨"TXPRE", 0, 0, .rwl, 0⟩]⟩,
  ⟨"LANE_TXEQ", 0x0C0004, 100, 0x400, 1, 0x0, [⟨"SWING", 19, 16, .rw, 8⟩, ⟨"POST", 12, 8, .rw, 4⟩, ⟨"PRE", 3, 0, .rw, 0⟩]⟩,
  ⟨"LANE_RXCFG", 0x0C0008, 100, 0x400, 1, 0x0, [⟨"LOSQUAL", 17, 16, .rw, 1⟩, ⟨"LOSTH", 11, 8, .rw, 4⟩, ⟨"CTLE", 3, 0, .rw, 6⟩]⟩,
  ⟨"LANE_STAT", 0x0C000C, 100, 0x400, 1, 0x0, [⟨"SKEW", 15, 8, .ro, 0⟩, ⟨"PLLLOCK", 7, 7, .ro, 0⟩, ⟨"CDRLOCK", 6, 6, .ro, 0⟩, ⟨"BLKLOCK", 5, 5, .ro, 0⟩, ⟨"LOS", 4, 4, .ro, 0⟩, ⟨"STATE", 2, 0, .ro, 0⟩]⟩,
  ⟨"LANE_EVT", 0x0C0010, 100, 0x400, 1, 0x0, [⟨"SKEWERR", 7, 7, .w1c, 0⟩, ⟨"EQERR", 6, 6, .w1c, 0⟩, ⟨"HDRERR", 5, 5, .w1c, 0⟩, ⟨"DOWN", 4, 4, .w1c, 0⟩, ⟨"UP", 3, 3, .w1c, 0⟩, ⟨"LOLSET", 2, 2, .w1c, 0⟩, ⟨"LOSEND", 1, 1, .w1c, 0⟩, ⟨"LOSSET", 0, 0, .w1c, 0⟩]⟩,
  ⟨"LANE_ATTN_EN", 0x0C0014, 100, 0x400, 1, 0x0, [⟨"EN", 7, 0, .rw, 0⟩]⟩,
  ⟨"LANE_CNT0", 0x0C0018, 100, 0x400, 1, 0x0, [⟨"HDRERR", 31, 16, .rc, 0⟩, ⟨"LOLCNT", 15, 0, .rc, 0⟩]⟩,
  ⟨"LANE_CNT1", 0x0C001C, 100, 0x400, 1, 0x0, [⟨"LOSCNT", 31, 16, .rc, 0⟩, ⟨"DOWNCNT", 15, 0, .rc, 0⟩]⟩,
  ⟨"LANE_RXAMP", 0x0C0020, 100, 0x400, 1, 0x0, [⟨"AMP", 11, 0, .ro, 0⟩]⟩]

/-- ARM registers, 07_arm_balancing, part 1. -/
def regsARM1 : List RDesc := [
  ⟨"ARM_CFG", 0x100000, 12, 0x4000, 1, 0x0, [⟨"IPOL", 4, 4, .rwl, 0⟩, ⟨"EST", 3, 3, .rwl, 1⟩, ⟨"PRED", 2, 2, .rwl, 1⟩, ⟨"MODE", 1, 0, .rwl, 0⟩]⟩,
  ⟨"ARM_ISRC", 0x100004, 12, 0x4000, 1, 0x0, [⟨"SLOT", 8, 0, .rwl, 0⟩]⟩,
  ⟨"ARM_ISCALE", 0x100008, 12, 0x4000, 1, 0x0, [⟨"ISCALE", 31, 0, .rwl, 0⟩]⟩,
  ⟨"ARM_CNOM", 0x10000C, 12, 0x4000, 1, 0x0, [⟨"CNOM", 31, 0, .rwl, 0⟩]⟩,
  ⟨"ARM_ESTCFG", 0x100010, 12, 0x4000, 1, 0x0, [⟨"NMIN", 31, 24, .rwl, 16⟩, ⟨"KESR", 20, 16, .rwl, 6⟩, ⟨"KEST", 4, 0, .rwl, 8⟩]⟩,
  ⟨"ARM_ESTTH", 0x100014, 12, 0x4000, 1, 0x0, [⟨"QMIN", 31, 16, .rwl, 20⟩, ⟨"DVMIN", 15, 0, .rwl, 1000⟩]⟩,
  ⟨"ARM_ESTLIM", 0x100018, 12, 0x4000, 1, 0x0, [⟨"IMIN", 31, 16, .rwl, 100⟩, ⟨"NACCMAX", 7, 0, .rwl, 64⟩]⟩,
  ⟨"ARM_AGE", 0x10001C, 12, 0x4000, 1, 0x0, [⟨"CLIM", 31, 24, .rwl, 230⟩, ⟨"RLIM", 15, 0, .rwl, 0xFFFF⟩]⟩,
  ⟨"ARM_SELCFG", 0x100020, 12, 0x4000, 1, 0x0, [⟨"BAND", 31, 16, .rwl, 1000⟩, ⟨"STALEMAX", 15, 8, .rwl, 3⟩]⟩,
  ⟨"ARM_NREQ", 0x100024, 12, 0x4000, 1, 0x0, [⟨"NREQ", 10, 0, .rwl, 0⟩]⟩,
  ⟨"ARM_BUDRATE", 0x100028, 12, 0x4000, 1, 0x0, [⟨"RATE", 15, 0, .rwl, 0⟩]⟩,
  ⟨"ARM_BUDCAP", 0x10002C, 12, 0x4000, 1, 0x0, [⟨"CAP", 23, 16, .rwl, 16⟩, ⟨"PINTH", 7, 0, .rwl, 6⟩]⟩,
  ⟨"ARM_VSCALE", 0x100030, 12, 0x4000, 1, 0x0, [⟨"VSCALE", 31, 0, .rwl, 0⟩]⟩,
  ⟨"ARM_ESCALE", 0x100034, 12, 0x4000, 1, 0x0, [⟨"ESCALE", 31, 0, .rwl, 0⟩]⟩,
  ⟨"ARM_STAT", 0x100040, 12, 0x4000, 1, 0x0, [⟨"SHORT", 3, 3, .ro, 0⟩, ⟨"DIR", 2, 2, .ro, 0⟩, ⟨"POL", 1, 1, .ro, 0⟩, ⟨"ACTIVE", 0, 0, .ro, 0⟩]⟩,
  ⟨"ARM_COUNT0", 0x100044, 12, 0x4000, 1, 0x0, [⟨"NRANK", 26, 16, .ro, 0⟩, ⟨"NFAULT", 10, 0, .ro, 0⟩]⟩,
  ⟨"ARM_COUNT1", 0x100048, 12, 0x4000, 1, 0x0, [⟨"NSTALE", 26, 16, .ro, 0⟩, ⟨"NEXCL", 10, 0, .ro, 0⟩]⟩,
  ⟨"ARM_COUNT2", 0x10004C, 12, 0x4000, 1, 0x0, [⟨"NCLA", 26, 16, .ro, 0⟩, ⟨"NCLC", 10, 0, .ro, 0⟩]⟩,
  ⟨"ARM_AGECNT", 0x100050, 12, 0x4000, 1, 0x0, [⟨"NAGER", 26, 16, .ro, 0⟩, ⟨"NAGEC", 10, 0, .ro, 0⟩]⟩,
  ⟨"ARM_SORTT", 0x100054, 12, 0x4000, 1, 0x0, [⟨"MAX", 31, 16, .rc, 0⟩, ⟨"LAST", 15, 0, .ro, 0⟩]⟩,
  ⟨"ARM_VAVG", 0x100058, 12, 0x4000, 1, 0x0, [⟨"VAVG", 31, 0, .ro, 0⟩]⟩,
  ⟨"ARM_ICUR", 0x10005C, 12, 0x4000, 1, 0x0, [⟨"ICUR", 31, 0, .ro, 0⟩]⟩,
  ⟨"ARM_EVT", 0x100060, 12, 0x4000, 1, 0x0, [⟨"DIVG", 7, 7, .w1c, 0⟩, ⟨"ESTREJ", 6, 6, .w1c, 0⟩, ⟨"BUDOVR", 5, 5, .w1c, 0⟩, ⟨"AGER", 4, 4, .w1c, 0⟩, ⟨"AGEC", 3, 3, .w1c, 0⟩, ⟨"EXCL", 2, 2, .w1c, 0⟩, ⟨"NEWFLT", 1, 1, .w1c, 0⟩, ⟨"SHORT", 0, 0, .w1c, 0⟩]⟩,
  ⟨"ARM_ATTN_EN", 0x100064, 12, 0x4000, 1, 0x0, [⟨"EN", 7, 0, .rw, 0⟩]⟩]

/-- ARM registers, 07_arm_balancing, part 2. -/
def regsARM2 : List RDesc := [
  ⟨"ARM_CNT", 0x100068, 12, 0x4000, 1, 0x0, [⟨"BUDOVR", 31, 16, .rc, 0⟩, ⟨"ESTREJ", 15, 0, .rc, 0⟩]⟩]

/-- ARM registers, 07_arm_balancing. -/
def regsARM : List RDesc := regsARM1 ++ regsARM2

/-- SCH registers, 08_switching_schedule. -/
def regsSCH : List RDesc := [
  ⟨"SCH_STAT", 0x140000, 1, 0x0, 1, 0x0, [⟨"ICALOK", 1, 1, .ro, 0⟩, ⟨"HALTBLK", 0, 0, .ro, 0⟩]⟩,
  ⟨"SCH_EVT", 0x140004, 1, 0x0, 1, 0x0, [⟨"ACLKSTOP", 2, 2, .w1c, 0⟩, ⟨"HALT", 1, 1, .w1c, 0⟩, ⟨"ICALERR", 0, 0, .w1c, 0⟩]⟩,
  ⟨"SCH_ATTN_EN", 0x140008, 1, 0x0, 1, 0x0, [⟨"EN", 2, 0, .rw, 0⟩]⟩,
  ⟨"SCH_ICAL", 0x14000C, 1, 0x0, 1, 0x0, [⟨"AGE", 31, 16, .ro, 0xFFFF⟩, ⟨"TAPS", 7, 0, .ro, 0⟩]⟩,
  ⟨"SCH_ICALCFG", 0x140010, 1, 0x0, 1, 0x0, [⟨"INTERVAL", 15, 0, .rw, 10⟩]⟩,
  ⟨"SCH_ARMCMD", 0x140014, 1, 0x0, 1, 0x0, [⟨"BLK", 27, 16, .wo, 0⟩, ⟨"DEBLK", 11, 0, .wo, 0⟩]⟩,
  ⟨"SCH_ACTL", 0x140100, 12, 0x40, 1, 0x0, [⟨"VSRC", 2, 2, .rwl, 0⟩, ⟨"MODE", 1, 1, .rwl, 0⟩, ⟨"EN", 0, 0, .rw, 0⟩]⟩,
  ⟨"SCH_VBASE", 0x140104, 12, 0x40, 1, 0x0, [⟨"VBASE", 31, 0, .rwl, 0⟩]⟩,
  ⟨"SCH_WGEN", 0x140108, 12, 0x40, 1, 0x0, [⟨"WGEN", 7, 0, .rw, 0⟩]⟩,
  ⟨"SCH_VREF", 0x14010C, 12, 0x40, 1, 0x0, [⟨"VREF", 31, 0, .rw, 0⟩]⟩,
  ⟨"SCH_VOFS", 0x140110, 12, 0x40, 1, 0x0, [⟨"VOFS", 31, 0, .rw, 0⟩]⟩,
  ⟨"SCH_PCFG", 0x140114, 12, 0x40, 1, 0x0, [⟨"MINPW", 31, 16, .rw, 40⟩, ⟨"KBAL", 7, 0, .rw, 0⟩]⟩,
  ⟨"SCH_PSC", 0x140118, 12, 0x40, 1, 0x0, [⟨"CBASE", 5, 0, .rw, 0⟩]⟩,
  ⟨"SCH_TAGS", 0x14011C, 12, 0x40, 1, 0x0, [⟨"TVREF", 31, 24, .ro, 0⟩, ⟨"TVOFS", 23, 16, .ro, 0⟩, ⟨"TPCFG", 15, 8, .ro, 0⟩, ⟨"TPSC", 7, 0, .ro, 0⟩]⟩,
  ⟨"SCH_ASTAT", 0x140120, 12, 0x40, 1, 0x0, [⟨"PGEN", 31, 24, .ro, 0⟩, ⟨"RGEN", 23, 16, .ro, 0⟩, ⟨"SATL", 3, 3, .ro, 0⟩, ⟨"SATH", 2, 2, .ro, 0⟩, ⟨"ST", 1, 0, .ro, 0⟩]⟩,
  ⟨"SCH_AREF", 0x140124, 12, 0x40, 1, 0x0, [⟨"VMV", 31, 0, .ro, 0⟩]⟩,
  ⟨"SCH_AOUT", 0x140128, 12, 0x40, 1, 0x0, [⟨"NINS", 30, 20, .ro, 0⟩, ⟨"FINEW", 19, 0, .ro, 0⟩]⟩,
  ⟨"SCH_AEVT", 0x14012C, 12, 0x40, 1, 0x0, [⟨"REFDISC", 4, 4, .w1c, 0⟩, ⟨"SATL", 3, 3, .w1c, 0⟩, ⟨"SATH", 2, 2, .w1c, 0⟩, ⟨"BLKREQ", 1, 1, .w1c, 0⟩, ⟨"GENMIS", 0, 0, .w1c, 0⟩]⟩,
  ⟨"SCH_AATTN_EN", 0x140130, 12, 0x40, 1, 0x0, [⟨"EN", 4, 0, .rw, 0⟩]⟩,
  ⟨"SCH_GENCNT", 0x140134, 12, 0x40, 1, 0x0, [⟨"GENMIS", 15, 0, .rc, 0⟩]⟩]

/-- LOOP registers, 09_control_engine, part 1. -/
def regsLOOP1 : List RDesc := [
  ⟨"LOOP_STAT", 0x180000, 1, 0x0, 1, 0x0, [⟨"NOENT", 9, 9, .ro, 0⟩, ⟨"CUT", 8, 8, .ro, 0⟩, ⟨"CUTENT", 7, 0, .ro, 0⟩]⟩,
  ⟨"LOOP_EVT", 0x180004, 1, 0x0, 1, 0x0, [⟨"LIMINV", 4, 4, .w1c, 0⟩, ⟨"OVF", 3, 3, .w1c, 0⟩, ⟨"HOSAT", 2, 2, .w1c, 0⟩, ⟨"SETMISS", 1, 1, .w1c, 0⟩, ⟨"LATE", 0, 0, .w1c, 0⟩]⟩,
  ⟨"LOOP_ATTN_EN", 0x180008, 1, 0x0, 1, 0x0, [⟨"EN", 4, 0, .rw, 0⟩]⟩,
  ⟨"LOOP_TEXEC", 0x18000C, 1, 0x0, 1, 0x0, [⟨"MIN", 31, 16, .ro, 60⟩, ⟨"LAST", 15, 0, .ro, 0⟩]⟩,
  ⟨"LOOP_TMAX", 0x180010, 1, 0x0, 1, 0x0, [⟨"MAX", 15, 0, .rc, 0⟩]⟩,
  ⟨"LOOP_GEN", 0x180014, 1, 0x0, 1, 0x0, [⟨"GEN", 15, 0, .rw, 0⟩]⟩,
  ⟨"LOOP_GCLR", 0x180018, 1, 0x0, 1, 0x0, [⟨"GCLR", 15, 0, .wo, 0⟩]⟩,
  ⟨"LOOP_RAMPLIM", 0x18001C, 1, 0x0, 1, 0x0, [⟨"RAMPLIM", 31, 0, .ro, 0⟩]⟩,
  ⟨"LOOP_LIMACT", 0x180020, 1, 0x0, 1, 0x0, [⟨"LIMACT", 31, 0, .ro, 0⟩]⟩,
  ⟨"LOOP_CSAT", 0x180024, 4, 0x4, 1, 0x0, [⟨"CSAT", 31, 0, .ro, 0⟩]⟩,
  ⟨"LOOP_HOACT", 0x180034, 1, 0x0, 1, 0x0, [⟨"HOACT", 31, 0, .ro, 0⟩]⟩,
  ⟨"LOOP_GCFG", 0x180100, 16, 0x4, 1, 0x0, [⟨"NM1", 31, 24, .rwl, 0⟩, ⟨"PH", 23, 16, .rwl, 0⟩, ⟨"PSTART", 15, 8, .rwl, 0⟩, ⟨"PLEN", 7, 0, .rwl, 0⟩]⟩,
  ⟨"LOOP_AREF", 0x180180, 12, 0x4, 1, 0x0, [⟨"OFSEN", 25, 25, .rwl, 0⟩, ⟨"VOFS", 24, 16, .rwl, 0⟩, ⟨"VREF", 8, 0, .rwl, 0⟩]⟩,
  ⟨"LOOP_PROBE", 0x180200, 16, 0x4, 1, 0x0, [⟨"CELL", 28, 16, .rwl, 0⟩, ⟨"DIV", 12, 8, .rwl, 0⟩, ⟨"FIELD", 2, 0, .rwl, 0⟩]⟩,
  ⟨"LOOP_CONST", 0x180300, 64, 0x4, 1, 0x0, [⟨"VAL", 31, 0, .rw, 0⟩]⟩,
  ⟨"LOOP_PROG", 0x180400, 256, 0x4, 1, 0x0, [⟨"TYPE", 10, 8, .rwl, 0⟩, ⟨"IDX", 6, 0, .rwl, 0⟩]⟩,
  ⟨"LOOP_SLOT", 0x180800, 512, 0x4, 1, 0x0, [⟨"VAL", 31, 0, .ro, 0⟩]⟩,
  ⟨"LOOP_CCFG", 0x181000, 128, 0x80, 1, 0x0, [⟨"HISLOT", 6, 6, .rwl, 0⟩, ⟨"LOSLOT", 5, 5, .rwl, 0⟩, ⟨"WRAP", 4, 4, .rwl, 0⟩, ⟨"AW", 3, 2, .rwl, 0⟩, ⟨"FORM", 1, 0, .rwl, 0⟩]⟩,
  ⟨"LOOP_CIN", 0x181004, 128, 0x80, 1, 0x0, [⟨"TRK", 28, 20, .rwl, 0⟩, ⟨"FBEN", 19, 19, .rwl, 0⟩, ⟨"FB", 18, 10, .rwl, 0⟩, ⟨"IN", 8, 0, .rwl, 0⟩]⟩,
  ⟨"LOOP_CLO", 0x181008, 128, 0x80, 1, 0x0, [⟨"LO", 31, 0, .rwl, 0x80000000⟩]⟩,
  ⟨"LOOP_CHI", 0x18100C, 128, 0x80, 1, 0x0, [⟨"HI", 31, 0, .rwl, 0x7FFFFFFF⟩]⟩,
  ⟨"LOOP_CB", 0x181010, 128, 0x80, 4, 0x4, [⟨"B", 31, 0, .rwl, 0⟩]⟩,
  ⟨"LOOP_CA", 0x181020, 128, 0x80, 3, 0x4, [⟨"A", 31, 0, .rwl, 0⟩]⟩,
  ⟨"LOOP_CKT", 0x18102C, 128, 0x80, 1, 0x0, [⟨"KT", 31, 0, .rwl, 0x10000000⟩]⟩]

/-- LOOP registers, 09_control_engine, part 2. -/
def regsLOOP2 : List RDesc := [
  ⟨"LOOP_CX", 0x181030, 128, 0x80, 3, 0x4, [⟨"X", 31, 0, .ro, 0⟩]⟩,
  ⟨"LOOP_CY", 0x18103C, 128, 0x80, 3, 0x4, [⟨"Y", 31, 0, .ro, 0⟩]⟩,
  ⟨"LOOP_RCFG", 0x185000, 32, 0x20, 1, 0x0, [⟨"EN", 31, 31, .rw, 0⟩, ⟨"MEAS", 18, 10, .rwl, 0⟩, ⟨"SP", 8, 0, .rwl, 0⟩]⟩,
  ⟨"LOOP_RUP", 0x185004, 32, 0x20, 1, 0x0, [⟨"UP", 31, 0, .rwl, 0⟩]⟩,
  ⟨"LOOP_RDN", 0x185008, 32, 0x20, 1, 0x0, [⟨"DN", 31, 0, .rwl, 0⟩]⟩,
  ⟨"LOOP_RSTAT", 0x18500C, 32, 0x20, 1, 0x0, [⟨"ST", 0, 0, .ro, 0⟩]⟩,
  ⟨"LOOP_LCFG", 0x185400, 32, 0x10, 1, 0x0, [⟨"HISLOT", 10, 10, .rwl, 0⟩, ⟨"LOSLOT", 9, 9, .rwl, 0⟩, ⟨"IN", 8, 0, .rwl, 0⟩]⟩,
  ⟨"LOOP_LLO", 0x185404, 32, 0x10, 1, 0x0, [⟨"LO", 31, 0, .rwl, 0x80000000⟩]⟩,
  ⟨"LOOP_LHI", 0x185408, 32, 0x10, 1, 0x0, [⟨"HI", 31, 0, .rwl, 0x7FFFFFFF⟩]⟩,
  ⟨"LOOP_TCFG", 0x185600, 16, 0x10, 1, 0x0, [⟨"TYPE", 2, 0, .rwl, 0⟩]⟩,
  ⟨"LOOP_TIN", 0x185604, 16, 0x10, 1, 0x0, [⟨"I2", 26, 18, .rwl, 0⟩, ⟨"I1", 17, 9, .rwl, 0⟩, ⟨"I0", 8, 0, .rwl, 0⟩]⟩,
  ⟨"LOOP_TANG", 0x185608, 16, 0x10, 1, 0x0, [⟨"ANG", 8, 0, .rwl, 0⟩]⟩,
  ⟨"LOOP_HCFG", 0x185700, 16, 0x10, 1, 0x0, [⟨"BLEND", 23, 16, .rwl, 0⟩, ⟨"INSTB", 14, 8, .rwl, 1⟩, ⟨"INSTA", 6, 0, .rwl, 0⟩]⟩,
  ⟨"LOOP_HCTL", 0x185704, 16, 0x10, 1, 0x0, [⟨"SEL", 0, 0, .rw, 0⟩]⟩,
  ⟨"LOOP_HSTAT", 0x185708, 16, 0x10, 1, 0x0, [⟨"M", 15, 8, .ro, 0⟩, ⟨"HOSAT", 3, 3, .ro, 0⟩, ⟨"ST", 2, 1, .ro, 0⟩, ⟨"ACT", 0, 0, .ro, 0⟩]⟩]

/-- LOOP registers, 09_control_engine. -/
def regsLOOP : List RDesc := regsLOOP1 ++ regsLOOP2

/-- ADC registers, 10_analog_inputs. -/
def regsADC : List RDesc := [
  ⟨"ADC_STAT", 0x1C0000, 1, 0x0, 1, 0x0, [⟨"BUSYB", 1, 1, .ro, 0⟩, ⟨"BUSYA", 0, 0, .ro, 0⟩]⟩,
  ⟨"ADC_EVT", 0x1C0004, 1, 0x0, 1, 0x0, [⟨"OPEN", 3, 3, .w1c, 0⟩, ⟨"OVR", 2, 2, .w1c, 0⟩, ⟨"SWREF", 1, 1, .w1c, 0⟩, ⟨"SKIP", 0, 0, .w1c, 0⟩]⟩,
  ⟨"ADC_ATTN_EN", 0x1C0008, 1, 0x0, 1, 0x0, [⟨"EN", 3, 0, .rw, 0⟩]⟩,
  ⟨"ADC_SKIPCNT", 0x1C000C, 1, 0x0, 1, 0x0, [⟨"SKIPB", 31, 16, .rc, 0⟩, ⟨"SKIPA", 15, 0, .rc, 0⟩]⟩,
  ⟨"ADC_SCTL", 0x1C0010, 2, 0x4, 1, 0x0, [⟨"EN", 31, 31, .rwl, 0⟩, ⟨"MODE", 30, 30, .rwl, 0⟩, ⟨"LEN", 21, 16, .rwl, 1⟩, ⟨"SOFS", 15, 0, .rwl, 0⟩]⟩,
  ⟨"ADC_SWSTART", 0x1C0018, 1, 0x0, 1, 0x0, [⟨"START", 1, 0, .wo, 0⟩]⟩,
  ⟨"ADC_HOLD", 0x1C001C, 1, 0x0, 1, 0x0, [⟨"MASK", 23, 0, .rwl, 0⟩]⟩,
  ⟨"ADC_HOLDOFS", 0x1C0020, 1, 0x0, 1, 0x0, [⟨"HOLDOFS", 15, 0, .rwl, 0⟩]⟩,
  ⟨"ADC_OW0", 0x1C0024, 1, 0x0, 1, 0x0, [⟨"OW0", 31, 0, .rw, 0⟩]⟩,
  ⟨"ADC_OW1", 0x1C0028, 1, 0x0, 1, 0x0, [⟨"OW1", 15, 0, .rw, 0⟩]⟩,
  ⟨"ADC_ECFG", 0x1C0100, 2, 0x80, 32, 0x4, [⟨"SHIFT", 31, 28, .rwl, 0⟩, ⟨"AVG", 27, 24, .rwl, 0⟩, ⟨"RANGE", 6, 6, .rwl, 0⟩, ⟨"SLOTEN", 5, 5, .rwl, 0⟩, ⟨"CH", 4, 0, .rwl, 0⟩]⟩,
  ⟨"ADC_EGAIN", 0x1C0200, 2, 0x80, 32, 0x4, [⟨"GAIN", 31, 0, .rwl, 0⟩]⟩,
  ⟨"ADC_EOFS", 0x1C0300, 2, 0x80, 32, 0x4, [⟨"OFS", 31, 0, .rwl, 0⟩]⟩,
  ⟨"ADC_RES", 0x1C0400, 2, 0x80, 32, 0x4, [⟨"NEW", 31, 31, .ro, 0⟩, ⟨"VALID", 30, 30, .ro, 0⟩, ⟨"SETTLE", 29, 29, .ro, 0⟩, ⟨"OVR", 28, 28, .ro, 0⟩, ⟨"OPEN", 27, 27, .ro, 0⟩, ⟨"RES", 19, 0, .ro, 0⟩]⟩]

/-- REC registers, 11_disturbance_recorder, part 1. -/
def regsREC1 : List RDesc := [
  ⟨"REC_IOCFG", 0x1D0000, 1, 0x0, 1, 0x0, [⟨"LINEEN", 16, 16, .rw, 0⟩, ⟨"IODLY", 13, 0, .rw, 0⟩]⟩,
  ⟨"REC_IOCMD", 0x1D0004, 1, 0x0, 1, 0x0, [⟨"ARMOUT", 0, 0, .wo, 0⟩]⟩,
  ⟨"REC_GEVT", 0x1D0008, 1, 0x0, 1, 0x0, [⟨"GEVT", 2, 0, .w1c, 0⟩]⟩,
  ⟨"REC_GATTN_EN", 0x1D000C, 1, 0x0, 1, 0x0, [⟨"EN", 2, 0, .rw, 0⟩]⟩,
  ⟨"REC_IOTIME", 0x1D0010, 1, 0x0, 1, 0x0, [⟨"EDGE", 31, 0, .ro, 0⟩]⟩,
  ⟨"REC_IOINFO", 0x1D0014, 1, 0x0, 1, 0x0, [⟨"EDGEINFO", 31, 0, .ro, 0⟩]⟩,
  ⟨"REC_CTRL", 0x1D0100, 4, 0x100, 1, 0x0, [⟨"AUTORD", 12, 12, .rw, 0⟩, ⟨"IOTRIG", 11, 11, .rw, 0⟩, ⟨"IOARM", 10, 10, .rw, 0⟩, ⟨"TRIGOUT", 9, 9, .rw, 0⟩, ⟨"AUTO", 8, 8, .rw, 0⟩, ⟨"READ", 3, 3, .wo, 0⟩, ⟨"FORCE", 2, 2, .wo, 0⟩, ⟨"DISARM", 1, 1, .wo, 0⟩, ⟨"ARM", 0, 0, .wo, 0⟩]⟩,
  ⟨"REC_CFG", 0x1D0104, 4, 0x100, 1, 0x0, [⟨"BFIELD", 19, 18, .rw, 0⟩, ⟨"PRESONLY", 17, 17, .rw, 1⟩, ⟨"BULKEN", 16, 16, .rw, 0⟩, ⟨"NCH", 12, 8, .rw, 0⟩, ⟨"DEC", 3, 0, .rw, 0⟩]⟩,
  ⟨"REC_BASE", 0x1D0108, 4, 0x100, 1, 0x0, [⟨"BASE", 20, 0, .rw, 0⟩]⟩,
  ⟨"REC_SIZE", 0x1D010C, 4, 0x100, 1, 0x0, [⟨"SIZE", 20, 0, .rw, 0⟩]⟩,
  ⟨"REC_PRE", 0x1D0110, 4, 0x100, 1, 0x0, [⟨"PRE", 23, 0, .rw, 0⟩]⟩,
  ⟨"REC_POST", 0x1D0114, 4, 0x100, 1, 0x0, [⟨"POST", 23, 0, .rw, 1⟩]⟩,
  ⟨"REC_SHARE", 0x1D0118, 4, 0x100, 1, 0x0, [⟨"SHARE", 15, 0, .rw, 400⟩]⟩,
  ⟨"REC_AUTOTO", 0x1D011C, 4, 0x100, 1, 0x0, [⟨"AUTOTO", 23, 0, .rw, 100000⟩]⟩,
  ⟨"REC_BULK", 0x1D0120, 4, 0x100, 1, 0x0, [⟨"COUNT", 28, 16, .rw, 0⟩, ⟨"FIRST", 12, 0, .rw, 0⟩]⟩,
  ⟨"REC_TCFG", 0x1D0124, 4, 0x100, 4, 0x10, [⟨"EVMASK", 29, 20, .rw, 0⟩, ⟨"SLOT", 16, 8, .rw, 0⟩, ⟨"TYPE", 2, 0, .rw, 0⟩]⟩,
  ⟨"REC_TLVL", 0x1D0128, 4, 0x100, 4, 0x10, [⟨"L", 31, 0, .rw, 0⟩]⟩,
  ⟨"REC_THYS", 0x1D012C, 4, 0x100, 4, 0x10, [⟨"HYS", 31, 0, .rw, 0⟩]⟩,
  ⟨"REC_MCFG", 0x1D0164, 4, 0x100, 4, 0xC, [⟨"EN", 15, 15, .rw, 0⟩, ⟨"SLOT", 8, 0, .rw, 0⟩]⟩,
  ⟨"REC_MLVL", 0x1D0168, 4, 0x100, 4, 0xC, [⟨"MLVL", 31, 0, .rw, 0⟩]⟩,
  ⟨"REC_MHYS", 0x1D016C, 4, 0x100, 4, 0xC, [⟨"MHYS", 31, 0, .rw, 0⟩]⟩,
  ⟨"REC_CHSEL", 0x1D01A0, 4, 0x100, 8, 0x4, [⟨"CHB", 24, 16, .rw, 0⟩, ⟨"CHA", 8, 0, .rw, 0⟩]⟩,
  ⟨"REC_STAT", 0x1D01C0, 4, 0x100, 1, 0x0, [⟨"REFCODE", 19, 16, .ro, 0⟩, ⟨"SHORTPRE", 14, 14, .ro, 0⟩, ⟨"DROP", 13, 13, .ro, 0⟩, ⟨"RDBUSY", 12, 12, .ro, 0⟩, ⟨"LOG2D", 11, 8, .ro, 0⟩, ⟨"STATE", 2, 0, .ro, 0⟩]⟩,
  ⟨"REC_ROWS", 0x1D01C4, 4, 0x100, 1, 0x0, [⟨"ROWS", 23, 0, .ro, 0⟩]⟩]

/-- REC registers, 11_disturbance_recorder, part 2. -/
def regsREC2 : List RDesc := [
  ⟨"REC_TTRIG", 0x1D01C8, 4, 0x100, 1, 0x0, [⟨"TTRIG", 31, 0, .ro, 0⟩]⟩,
  ⟨"REC_TTRIGF", 0x1D01CC, 4, 0x100, 1, 0x0, [⟨"TTRIGF", 15, 0, .ro, 0⟩]⟩,
  ⟨"REC_ROWB", 0x1D01D0, 4, 0x100, 1, 0x0, [⟨"ROWB", 15, 0, .ro, 0⟩]⟩,
  ⟨"REC_EVT", 0x1D01D4, 4, 0x100, 1, 0x0, [⟨"EVT", 5, 0, .w1c, 0⟩]⟩,
  ⟨"REC_ATTN_EN", 0x1D01D8, 4, 0x100, 1, 0x0, [⟨"EN", 5, 0, .rw, 0⟩]⟩,
  ⟨"REC_DROPCNT", 0x1D01DC, 4, 0x100, 1, 0x0, [⟨"DROPCNT", 15, 0, .rc, 0⟩]⟩]

/-- REC registers, 11_disturbance_recorder. -/
def regsREC : List RDesc := regsREC1 ++ regsREC2

/-- DPX registers, 12_duplex_operation, part 1. -/
def regsDPX1 : List RDesc := [
  ⟨"DPX_CFG", 0x200000, 1, 0x0, 1, 0x0, [⟨"PREF", 3, 3, .rwl, 0⟩, ⟨"UNIT", 2, 2, .rwl, 0⟩, ⟨"MODE", 1, 0, .rwl, 0⟩]⟩,
  ⟨"DPX_CTRL", 0x200004, 1, 0x0, 1, 0x0, [⟨"FAULT", 0, 0, .wo, 0⟩]⟩,
  ⟨"DPX_STAT", 0x200008, 1, 0x0, 1, 0x0, [⟨"REASON", 23, 16, .ro, 0⟩, ⟨"PLOST", 7, 7, .ro, 0⟩, ⟨"READY", 6, 6, .ro, 0⟩, ⟨"CASTDONE", 5, 5, .ro, 0⟩, ⟨"PAIRED", 4, 4, .ro, 0⟩, ⟨"SDLUP", 3, 3, .ro, 0⟩, ⟨"ROLE", 2, 0, .ro, 0⟩]⟩,
  ⟨"DPX_TERM", 0x20000C, 1, 0x0, 1, 0x0, [⟨"VACT", 19, 16, .ro, 0xF⟩, ⟨"TERM", 15, 0, .ro, 0⟩]⟩,
  ⟨"DPX_EVT", 0x200010, 1, 0x0, 1, 0x0, [⟨"DUALACT", 11, 11, .w1c, 0⟩, ⟨"CASTFAIL", 10, 10, .w1c, 0⟩, ⟨"RLYLATE", 9, 9, .w1c, 0⟩, ⟨"PLOST", 8, 8, .w1c, 0⟩, ⟨"WITLOSS", 7, 7, .w1c, 0⟩, ⟨"TSKEW", 6, 6, .w1c, 0⟩, ⟨"SHMIS", 5, 5, .w1c, 0⟩, ⟨"CMDLATE", 4, 4, .w1c, 0⟩, ⟨"INGLOST", 3, 3, .w1c, 0⟩, ⟨"INGABN", 2, 2, .w1c, 0⟩, ⟨"PAIRMIS", 1, 1, .w1c, 0⟩, ⟨"ROLECHG", 0, 0, .w1c, 0⟩]⟩,
  ⟨"DPX_ATTN_EN", 0x200014, 1, 0x0, 1, 0x0, [⟨"EN", 11, 0, .rw, 0⟩]⟩,
  ⟨"DPX_HEALTH", 0x200018, 1, 0x0, 1, 0x0, [⟨"SHRUN", 23, 16, .ro, 0⟩, ⟨"READY", 9, 9, .ro, 0⟩, ⟨"CASTDONE", 8, 8, .ro, 0⟩, ⟨"WITOK", 7, 7, .ro, 0⟩, ⟨"TIMEOK", 6, 6, .ro, 0⟩, ⟨"MBISTOK", 5, 5, .ro, 0⟩, ⟨"ARMOK", 4, 4, .ro, 0⟩, ⟨"LOOPOK", 3, 3, .ro, 0⟩, ⟨"INGOK", 2, 2, .ro, 0⟩, ⟨"PAIROK", 1, 1, .ro, 0⟩, ⟨"SDLUP", 0, 0, .ro, 0⟩]⟩,
  ⟨"DPX_PHEALTH", 0x20001C, 1, 0x0, 1, 0x0, [⟨"SHRUN", 23, 16, .ro, 0⟩, ⟨"READY", 9, 9, .ro, 0⟩, ⟨"CASTDONE", 8, 8, .ro, 0⟩, ⟨"WITOK", 7, 7, .ro, 0⟩, ⟨"TIMEOK", 6, 6, .ro, 0⟩, ⟨"MBISTOK", 5, 5, .ro, 0⟩, ⟨"ARMOK", 4, 4, .ro, 0⟩, ⟨"LOOPOK", 3, 3, .ro, 0⟩, ⟨"INGOK", 2, 2, .ro, 0⟩, ⟨"PAIROK", 1, 1, .ro, 0⟩, ⟨"SDLUP", 0, 0, .ro, 0⟩]⟩,
  ⟨"DPX_INGCFG", 0x200020, 1, 0x0, 1, 0x0, [⟨"NS", 8, 0, .rwl, 414⟩]⟩,
  ⟨"DPX_INGSTAT", 0x200024, 1, 0x0, 1, 0x0, [⟨"ICYC", 31, 0, .ro, 0⟩]⟩,
  ⟨"DPX_INGLEN", 0x200028, 1, 0x0, 1, 0x0, [⟨"LEN", 15, 0, .ro, 0⟩]⟩,
  ⟨"DPX_CASTCFG", 0x20002C, 1, 0x0, 1, 0x0, [⟨"SEGS", 3, 0, .rw, 4⟩]⟩,
  ⟨"DPX_CASTSTAT", 0x200030, 1, 0x0, 1, 0x0, [⟨"SEGTOT", 31, 16, .ro, 0⟩, ⟨"SEGDONE", 15, 0, .ro, 0⟩]⟩,
  ⟨"DPX_TOFS", 0x200034, 1, 0x0, 1, 0x0, [⟨"TOFS", 31, 0, .ro, 0⟩]⟩,
  ⟨"DPX_TCFG", 0x200038, 1, 0x0, 1, 0x0, [⟨"TSKEWLIM", 31, 16, .rw, 512⟩, ⟨"SDLASYM", 15, 0, .rwl, 0⟩]⟩,
  ⟨"DPX_SHCFG", 0x20003C, 1, 0x0, 1, 0x0, [⟨"SHWIN", 7, 0, .rw, 4⟩]⟩,
  ⟨"DPX_CNT0", 0x200040, 1, 0x0, 1, 0x0, [⟨"LOOPMIS", 31, 16, .rc, 0⟩, ⟨"ARMMIS", 15, 0, .rc, 0⟩]⟩,
  ⟨"DPX_CNT1", 0x200044, 1, 0x0, 1, 0x0, [⟨"CELLMIS", 31, 16, .rc, 0⟩, ⟨"SKIP", 15, 0, .rc, 0⟩]⟩,
  ⟨"DPX_CNT2", 0x200048, 1, 0x0, 1, 0x0, [⟨"INGLOST", 31, 16, .rc, 0⟩, ⟨"CMDLATE", 15, 0, .rc, 0⟩]⟩,
  ⟨"DPX_CNT3", 0x20004C, 1, 0x0, 1, 0x0, [⟨"RLYLATE", 31, 16, .rc, 0⟩, ⟨"WITERR", 15, 0, .rc, 0⟩]⟩,
  ⟨"DPX_WTO", 0x200080, 1, 0x0, 1, 0x0, [⟨"WTO", 23, 0, .rw, 21000⟩]⟩,
  ⟨"DPX_WCFG", 0x200084, 1, 0x0, 1, 0x0, [⟨"DISAGN", 7, 0, .rw, 16⟩]⟩,
  ⟨"DPX_WSTAT", 0x200088, 1, 0x0, 1, 0x0, [⟨"TERM", 31, 16, .ro, 0⟩, ⟨"HBB", 5, 5, .ro, 0⟩, ⟨"HBA", 4, 4, .ro, 0⟩, ⟨"ACTU", 3, 0, .ro, 0xF⟩]⟩,
  ⟨"DPX_WEVT", 0x20008C, 1, 0x0, 1, 0x0, [⟨"WEVT", 3, 0, .w1c, 0⟩]⟩]

/-- DPX registers, 12_duplex_operation, part 2. -/
def regsDPX2 : List RDesc := [
  ⟨"DPX_WATTN_EN", 0x200090, 1, 0x0, 1, 0x0, [⟨"EN", 3, 0, .rw, 0⟩]⟩]

/-- DPX registers, 12_duplex_operation. -/
def regsDPX : List RDesc := regsDPX1 ++ regsDPX2

/-- SAF registers, 13_safety_functions, part 1. -/
def regsSAF1 : List RDesc := [
  ⟨"SAF_CFG", 0x210000, 1, 0x0, 1, 0x0, [⟨"PARTSP", 9, 9, .rwl, 0⟩, ⟨"SHORTBLK", 8, 8, .rwl, 1⟩, ⟨"STEN", 0, 0, .rwl, 0⟩]⟩,
  ⟨"SAF_STAT", 0x210004, 1, 0x0, 1, 0x0, [⟨"FAIL", 7, 7, .ro, 0⟩, ⟨"RINGDEG", 6, 6, .ro, 0⟩, ⟨"CLKDEG", 5, 5, .ro, 0⟩, ⟨"SAFDEG", 4, 4, .ro, 0⟩, ⟨"CONFLOCK", 3, 3, .ro, 0⟩, ⟨"CONFIRMED", 2, 2, .ro, 0⟩, ⟨"GTDONE", 1, 1, .ro, 0⟩, ⟨"SAFEOK", 0, 0, .ro, 0⟩]⟩,
  ⟨"SAF_DEMAND", 0x210008, 1, 0x0, 1, 0x0, [⟨"LATCH", 23, 16, .ro, 0⟩, ⟨"PRESENT", 7, 0, .ro, 0⟩]⟩,
  ⟨"SAF_REQ", 0x21000C, 1, 0x0, 1, 0x0, [⟨"ARMS", 11, 0, .ro, 0⟩]⟩,
  ⟨"SAF_PIN", 0x210010, 1, 0x0, 1, 0x0, [⟨"PINS", 7, 0, .ro, 0⟩]⟩,
  ⟨"SAF_SCCAUSE", 0x210014, 1, 0x0, 1, 0x0, [⟨"SC", 6, 0, .ro, 0⟩]⟩,
  ⟨"SAF_EVT", 0x210018, 1, 0x0, 1, 0x0, [⟨"EVT", 7, 0, .w1c, 0⟩]⟩,
  ⟨"SAF_ATTN_EN", 0x21001C, 1, 0x0, 1, 0x0, [⟨"EN", 7, 0, .rw, 0⟩]⟩,
  ⟨"SAF_CTRL", 0x210020, 1, 0x0, 1, 0x0, [⟨"ACK", 0, 0, .wo, 0⟩]⟩,
  ⟨"SAF_TIM", 0x210024, 1, 0x0, 1, 0x0, [⟨"TDISC", 31, 16, .rwl, 50⟩, ⟨"FILT", 15, 0, .rwl, 10⟩]⟩,
  ⟨"SAF_TDEG0", 0x210028, 1, 0x0, 1, 0x0, [⟨"TCLK", 29, 16, .rwl, 1000⟩, ⟨"TSAF", 13, 0, .rwl, 1000⟩]⟩,
  ⟨"SAF_TDEG1", 0x21002C, 1, 0x0, 1, 0x0, [⟨"RECOV", 29, 16, .rwl, 100⟩, ⟨"TRING", 13, 0, .rwl, 1000⟩]⟩,
  ⟨"SAF_TREM", 0x210030, 1, 0x0, 1, 0x0, [⟨"CLKREM", 29, 16, .ro, 0x3FFF⟩, ⟨"SAFREM", 13, 0, .ro, 0x3FFF⟩]⟩,
  ⟨"SAF_RINGDEG_LO", 0x210034, 1, 0x0, 1, 0x0, [⟨"DEG_LO", 31, 0, .ro, 0⟩]⟩,
  ⟨"SAF_RINGDEG_HI", 0x210038, 1, 0x0, 1, 0x0, [⟨"DEG_HI", 15, 0, .ro, 0⟩]⟩,
  ⟨"SAF_RINGSOLE_LO", 0x21003C, 1, 0x0, 1, 0x0, [⟨"SOLE_LO", 31, 0, .ro, 0⟩]⟩,
  ⟨"SAF_RINGSOLE_HI", 0x210040, 1, 0x0, 1, 0x0, [⟨"SOLE_HI", 15, 0, .ro, 0⟩]⟩,
  ⟨"SAF_RINGMIN", 0x210044, 1, 0x0, 1, 0x0, [⟨"PORT", 29, 24, .ro, 0⟩, ⟨"REM", 13, 0, .ro, 0x3FFF⟩]⟩,
  ⟨"SAF_BLKMASK", 0x210048, 1, 0x0, 1, 0x0, [⟨"BLKMASK", 11, 0, .rwl, 0xFFF⟩]⟩,
  ⟨"SAF_SUP", 0x21004C, 1, 0x0, 1, 0x0, [⟨"LATELIM", 15, 8, .rwl, 2⟩, ⟨"MISSLIM", 7, 0, .rwl, 8⟩]⟩,
  ⟨"SAF_CCV_LO", 0x210050, 1, 0x0, 1, 0x0, [⟨"CCV_LO", 31, 0, .ro, 0⟩]⟩,
  ⟨"SAF_CCV_HI", 0x210054, 1, 0x0, 1, 0x0, [⟨"CCV_HI", 31, 0, .ro, 0⟩]⟩,
  ⟨"SAF_CCVCONF_LO", 0x210058, 1, 0x0, 1, 0x0, [⟨"CONF_LO", 31, 0, .ro, 0⟩]⟩,
  ⟨"SAF_CCVCONF_HI", 0x21005C, 1, 0x0, 1, 0x0, [⟨"CONF_HI", 31, 0, .ro, 0⟩]⟩]

/-- SAF registers, 13_safety_functions, part 2. -/
def regsSAF2 : List RDesc := [
  ⟨"SAF_CONF", 0x210060, 1, 0x0, 1, 0x0, [⟨"FAILS", 23, 16, .ro, 0⟩, ⟨"LOCKREM", 15, 0, .ro, 0⟩]⟩,
  ⟨"SAF_STCFG", 0x210064, 1, 0x0, 1, 0x0, [⟨"STTO", 31, 16, .rwl, 10⟩, ⟨"STPER", 7, 0, .rwl, 1⟩]⟩,
  ⟨"SAF_STID", 0x210068, 1, 0x0, 1, 0x0, [⟨"STID", 31, 16, .rwl, 0⟩, ⟨"DEVID", 15, 0, .rwl, 0⟩]⟩,
  ⟨"SAF_STCNT0", 0x21006C, 1, 0x0, 1, 0x0, [⟨"LOST0", 31, 16, .rc, 0⟩, ⟨"LOST1", 15, 0, .rc, 0⟩]⟩,
  ⟨"SAF_STCNT1", 0x210070, 1, 0x0, 1, 0x0, [⟨"MISM", 31, 16, .rc, 0⟩, ⟨"OLD", 15, 0, .rc, 0⟩]⟩,
  ⟨"SAF_SOVCFG", 0x210100, 12, 0x10, 1, 0x0, [⟨"EN", 31, 31, .rwl, 0⟩, ⟨"NOV", 27, 24, .rwl, 1⟩, ⟨"CHB", 12, 8, .rwl, 0⟩, ⟨"CHA", 4, 0, .rwl, 0⟩]⟩,
  ⟨"SAF_SOVLIM", 0x210104, 12, 0x10, 1, 0x0, [⟨"HYS", 27, 16, .rwl, 0x020⟩, ⟨"LIM", 11, 0, .rwl, 0xFFF⟩]⟩,
  ⟨"SAF_SOVDLIM", 0x210108, 12, 0x10, 1, 0x0, [⟨"DLIM", 11, 0, .rwl, 0x080⟩]⟩,
  ⟨"SAF_SOVARMS", 0x21010C, 12, 0x10, 1, 0x0, [⟨"SOVARMS", 11, 0, .rwl, 0xFFF⟩]⟩]

/-- SAF registers, 13_safety_functions. -/
def regsSAF : List RDesc := regsSAF1 ++ regsSAF2

/-- HIF registers, 14_host_interface. -/
def regsHIF : List RDesc := [
  ⟨"HIF_STAT", 0x220000, 1, 0x0, 1, 0x0, [⟨"BME", 8, 8, .ro, 0⟩, ⟨"WIDTH", 7, 4, .ro, 0⟩, ⟨"GEN", 3, 1, .ro, 0⟩, ⟨"LINKUP", 0, 0, .ro, 0⟩]⟩,
  ⟨"HIF_EVT", 0x220004, 1, 0x0, 1, 0x0, [⟨"EVT", 3, 0, .w1c, 0⟩]⟩,
  ⟨"HIF_ATTN_EN", 0x220008, 1, 0x0, 1, 0x0, [⟨"EN", 3, 0, .rw, 0⟩]⟩,
  ⟨"HIF_LOST", 0x22000C, 1, 0x0, 1, 0x0, [⟨"TEL", 23, 16, .rc, 0⟩, ⟨"EVT", 15, 8, .rc, 0⟩, ⟨"CPL", 7, 0, .rc, 0⟩]⟩,
  ⟨"HIF_EPOCH", 0x220010, 1, 0x0, 1, 0x0, [⟨"NUM", 31, 0, .ro, 0⟩]⟩,
  ⟨"HIF_EPRES", 0x220014, 1, 0x0, 1, 0x0, [⟨"STATE", 31, 29, .ro, 0⟩, ⟨"LOCKED", 28, 28, .ro, 0⟩, ⟨"REASON", 23, 16, .ro, 0⟩, ⟨"DETAIL", 15, 0, .ro, 0⟩]⟩,
  ⟨"HIF_TELCFG", 0x220018, 1, 0x0, 1, 0x0, [⟨"TELN", 21, 16, .rw, 8⟩, ⟨"TELDEC", 15, 0, .rw, 100⟩]⟩,
  ⟨"HIF_TELSEL", 0x220040, 16, 0x4, 1, 0x0, [⟨"SB", 24, 16, .rw, 0⟩, ⟨"SA", 8, 0, .rw, 0⟩]⟩,
  ⟨"HIF_RING_BASELO", 0x220100, 6, 0x20, 1, 0x0, [⟨"BASE_LO", 31, 12, .rw, 0⟩]⟩,
  ⟨"HIF_RING_BASEHI", 0x220104, 6, 0x20, 1, 0x0, [⟨"BASE_HI", 31, 0, .rw, 0⟩]⟩,
  ⟨"HIF_RING_CTL", 0x220108, 6, 0x20, 1, 0x0, [⟨"EN", 31, 31, .rw, 0⟩, ⟨"COAL", 28, 25, .rw, 1⟩, ⟨"COALT", 20, 8, .rw, 10⟩, ⟨"SIZE", 4, 0, .rw, 4⟩]⟩,
  ⟨"HIF_RING_DIDX", 0x22010C, 6, 0x20, 1, 0x0, [⟨"DIDX", 16, 0, .ro, 0⟩]⟩,
  ⟨"HIF_RING_HIDX", 0x220110, 6, 0x20, 1, 0x0, [⟨"HIDX", 16, 0, .ro, 0⟩]⟩,
  ⟨"HIF_UART", 0x220800, 1, 0x0, 1, 0x0, [⟨"BAUD", 23, 0, .rw, 115200⟩]⟩,
  ⟨"HIF_I2C", 0x220804, 1, 0x0, 1, 0x0, [⟨"FAST", 0, 0, .rw, 0⟩]⟩,
  ⟨"HIF_GPIODIR", 0x220808, 1, 0x0, 1, 0x0, [⟨"DIR", 31, 0, .rw, 0⟩]⟩,
  ⟨"HIF_GPIOOUT", 0x22080C, 1, 0x0, 1, 0x0, [⟨"OUT", 31, 0, .rw, 0⟩]⟩,
  ⟨"HIF_GPIOIN", 0x220810, 1, 0x0, 1, 0x0, [⟨"IN", 31, 0, .ro, 0⟩]⟩,
  ⟨"HIF_GPIOFN", 0x220814, 1, 0x0, 1, 0x0, [⟨"FN", 31, 0, .rw, 0⟩]⟩]

/-- SVC registers, 15_service_cores, part 1. -/
def regsSVC1 : List RDesc := [
  ⟨"SVC_CFG", 0x230000, 1, 0x0, 1, 0x0, [⟨"TICK", 19, 0, .rwl, 1000⟩]⟩,
  ⟨"SVC_SPILL", 0x230004, 1, 0x0, 1, 0x0, [⟨"BASE", 20, 0, .rwl, 0⟩]⟩,
  ⟨"SVC_SPILLSZ", 0x230008, 1, 0x0, 1, 0x0, [⟨"SIZE", 15, 0, .rwl, 0⟩]⟩,
  ⟨"SVC_FILL", 0x23000C, 1, 0x0, 1, 0x0, [⟨"RDYN", 26, 16, .ro, 0⟩, ⟨"DLYN", 12, 0, .ro, 0⟩]⟩,
  ⟨"SVC_SPILLN", 0x230010, 1, 0x0, 1, 0x0, [⟨"RDYSP", 31, 16, .ro, 0⟩, ⟨"DLYSP", 15, 0, .ro, 0⟩]⟩,
  ⟨"SVC_EVT", 0x230014, 1, 0x0, 1, 0x0, [⟨"EVT", 3, 0, .w1c, 0⟩]⟩,
  ⟨"SVC_ATTN_EN", 0x230018, 1, 0x0, 1, 0x0, [⟨"EN", 3, 0, .rw, 0⟩]⟩,
  ⟨"SVC_CNT", 0x23001C, 1, 0x0, 1, 0x0, [⟨"LATE", 31, 16, .rc, 0⟩, ⟨"FULL", 15, 0, .rc, 0⟩]⟩,
  ⟨"SVC_ENQ", 0x230020, 8, 0x4, 1, 0x0, [⟨"ENQ", 31, 0, .wo, 0⟩]⟩,
  ⟨"SVC_ENQCMD", 0x230040, 1, 0x0, 1, 0x0, [⟨"DELAY", 31, 0, .wo, 0⟩]⟩,
  ⟨"SVC_ENQRES", 0x230044, 1, 0x0, 1, 0x0, [⟨"STATUS", 31, 28, .ro, 0⟩, ⟨"HANDLE", 15, 0, .ro, 0⟩]⟩,
  ⟨"SVC_CANCEL", 0x230048, 1, 0x0, 1, 0x0, [⟨"HANDLE", 15, 0, .wo, 0⟩]⟩,
  ⟨"SVC_CANRES", 0x23004C, 1, 0x0, 1, 0x0, [⟨"NOTFOUND", 0, 0, .ro, 0⟩]⟩,
  ⟨"SVC_DONE", 0x230050, 1, 0x0, 1, 0x0, [⟨"DONE", 0, 0, .wo, 0⟩]⟩,
  ⟨"SVC_AFF", 0x230054, 1, 0x0, 1, 0x0, [⟨"AFFSTEAL", 15, 0, .rw, 100⟩]⟩,
  ⟨"SVC_BIND", 0x230080, 16, 0x4, 1, 0x0, [⟨"EN", 31, 31, .rwl, 0⟩, ⟨"SRC", 26, 24, .rwl, 0⟩, ⟨"ARG", 23, 16, .rwl, 0⟩, ⟨"FLOW", 7, 0, .rwl, 0⟩]⟩,
  ⟨"SVC_PCTL", 0x230100, 4, 0x40, 1, 0x0, [⟨"IRQ", 8, 8, .wo, 0⟩, ⟨"MAXDEPTH", 5, 4, .rw, 3⟩, ⟨"AUTORST", 2, 2, .rw, 1⟩, ⟨"RESTART", 1, 1, .wo, 0⟩, ⟨"HALT", 0, 0, .rw, 0⟩]⟩,
  ⟨"SVC_PSTAT", 0x230104, 4, 0x40, 1, 0x0, [⟨"FLOW", 23, 16, .ro, 0xFF⟩, ⟨"IMAGE", 12, 12, .ro, 0⟩, ⟨"DEPTH", 9, 8, .ro, 0⟩, ⟨"STATE", 2, 0, .ro, 0⟩]⟩,
  ⟨"SVC_PEVT", 0x230108, 4, 0x40, 1, 0x0, [⟨"PEVT", 4, 0, .w1c, 0⟩]⟩,
  ⟨"SVC_PATTN_EN", 0x23010C, 4, 0x40, 1, 0x0, [⟨"EN", 4, 0, .rw, 0⟩]⟩,
  ⟨"SVC_MAXRUN", 0x230110, 4, 0x40, 1, 0x0, [⟨"MAXRUN", 19, 0, .rwl, 0⟩]⟩,
  ⟨"SVC_PCNT", 0x230114, 4, 0x40, 1, 0x0, [⟨"ITEMS", 31, 16, .rc, 0⟩, ⟨"WDOG", 15, 0, .rc, 0⟩]⟩,
  ⟨"SVC_PNEXT", 0x230118, 4, 0x40, 1, 0x0, [⟨"NEXTEV", 31, 0, .ro, 0xFFFFFFFF⟩]⟩,
  ⟨"SVC_PSEQ", 0x23011C, 4, 0x40, 1, 0x0, [⟨"SEQ", 31, 0, .ro, 0⟩]⟩]

/-- SVC registers, 15_service_cores, part 2. -/
def regsSVC2 : List RDesc := [
  ⟨"SVC_FCFG", 0x231000, 256, 0x10, 1, 0x0, [⟨"EN", 31, 31, .rwl, 0⟩, ⟨"MIRROR", 30, 30, .rwl, 0⟩, ⟨"PAIRS", 29, 28, .rwl, 3⟩, ⟨"PRIO", 26, 24, .rwl, 7⟩]⟩,
  ⟨"SVC_FSTATE", 0x231004, 256, 0x10, 1, 0x0, [⟨"STATE", 31, 0, .rw, 0⟩]⟩,
  ⟨"SVC_FSTAT", 0x231008, 256, 0x10, 1, 0x0, [⟨"INSVC", 31, 31, .ro, 0⟩, ⟨"LAST", 19, 16, .ro, 0xF⟩, ⟨"QUEUED", 15, 0, .ro, 0⟩]⟩,
  ⟨"SVC_SEMST", 0x232000, 64, 0x10, 1, 0x0, [⟨"HELD", 31, 31, .ro, 0⟩, ⟨"POISONED", 30, 30, .ro, 0⟩, ⟨"FLOW", 23, 16, .ro, 0⟩, ⟨"ORIGIN", 3, 0, .ro, 0⟩]⟩,
  ⟨"SVC_SEMCTL", 0x232004, 64, 0x10, 1, 0x0, [⟨"OP", 1, 0, .wo, 0⟩]⟩]

/-- SVC registers, 15_service_cores. -/
def regsSVC : List RDesc := regsSVC1 ++ regsSVC2

/-- ARB registers, 16_memory_and_arbitration. -/
def regsARB : List RDesc := [
  ⟨"ARB_CFG", 0x240000, 1, 0x0, 1, 0x0, [⟨"MODE", 0, 0, .rwl, 0⟩]⟩,
  ⟨"ARB_EVT", 0x240004, 1, 0x0, 1, 0x0, [⟨"EVT", 2, 0, .w1c, 0⟩]⟩,
  ⟨"ARB_ATTN_EN", 0x240008, 1, 0x0, 1, 0x0, [⟨"EN", 2, 0, .rw, 0⟩]⟩,
  ⟨"ARB_STVLIM", 0x24000C, 1, 0x0, 1, 0x0, [⟨"LIM", 15, 0, .rw, 1024⟩]⟩,
  ⟨"ARB_WSUM", 0x240010, 1, 0x0, 1, 0x0, [⟨"DSUM", 24, 16, .ro, 144⟩, ⟨"SSUM", 8, 0, .ro, 252⟩]⟩,
  ⟨"ARB_BANKSEL", 0x240014, 1, 0x0, 1, 0x0, [⟨"BANK", 5, 0, .rw, 0⟩]⟩,
  ⟨"ARB_PORT", 0x240100, 72, 0x4, 1, 0x0, [⟨"PRI", 18, 16, .rw, 0⟩, ⟨"WEIGHT", 8, 0, .rw, 0⟩]⟩,
  ⟨"ARB_PSTAT", 0x240300, 72, 0x4, 1, 0x0, [⟨"LOST", 31, 24, .ro, 0⟩, ⟨"CREDIT", 9, 0, .ro, 0⟩]⟩,
  ⟨"ARB_DDRW", 0x240500, 9, 0x4, 1, 0x0, [⟨"PRI", 18, 16, .rw, 0⟩, ⟨"WEIGHT", 7, 0, .rw, 0⟩]⟩,
  ⟨"ARB_SLOT", 0x240800, 256, 0x4, 1, 0x0, [⟨"OWNER", 6, 0, .rw, 0x7F⟩]⟩,
  ⟨"ARB_PWAIT", 0x240600, 72, 0x4, 1, 0x0, [⟨"WAITMAX", 15, 0, .rc, 0⟩]⟩]

/-- MEM registers, 16_memory_and_arbitration. -/
def regsMEM : List RDesc := [
  ⟨"MEM_STAT", 0x250000, 1, 0x0, 1, 0x0, [⟨"DDRUP", 1, 1, .ro, 0⟩, ⟨"MRAMOK", 0, 0, .ro, 0⟩]⟩,
  ⟨"MEM_EVT", 0x250004, 1, 0x0, 1, 0x0, [⟨"EVT", 6, 0, .w1c, 0⟩]⟩,
  ⟨"MEM_ATTN_EN", 0x250008, 1, 0x0, 1, 0x0, [⟨"EN", 6, 0, .rw, 0⟩]⟩,
  ⟨"MEM_CECNT", 0x25000C, 1, 0x0, 1, 0x0, [⟨"SRAMCE", 31, 16, .rc, 0⟩, ⟨"DDRCE", 15, 0, .rc, 0⟩]⟩,
  ⟨"MEM_ERRCNT", 0x250010, 1, 0x0, 1, 0x0, [⟨"MRAMCE", 31, 16, .rc, 0⟩, ⟨"UE", 15, 0, .rc, 0⟩]⟩,
  ⟨"MEM_ERRLOC", 0x250014, 1, 0x0, 1, 0x0, [⟨"VALID", 31, 31, .rc, 0⟩, ⟨"MEM", 29, 28, .rc, 0⟩, ⟨"UNCORR", 27, 27, .rc, 0⟩, ⟨"PORT", 6, 0, .rc, 0⟩]⟩,
  ⟨"MEM_ERRADDR", 0x250018, 1, 0x0, 1, 0x0, [⟨"ADDR", 29, 0, .ro, 0⟩]⟩,
  ⟨"MEM_SCRUB", 0x25001C, 1, 0x0, 1, 0x0, [⟨"PERIOD", 15, 0, .rw, 100⟩]⟩,
  ⟨"MEM_DWIN", 0x250020, 4, 0x4, 1, 0x0, [⟨"BASE", 4, 0, .rw, 0⟩]⟩]

/-- SEC registers, 19_security. -/
def regsSEC : List RDesc := [
  ⟨"SEC_STAT", 0x260000, 1, 0x0, 1, 0x0, [⟨"DAMAGED", 28, 24, .ro, 0⟩, ⟨"REVOKED", 20, 16, .ro, 0⟩, ⟨"VALID", 12, 8, .ro, 0⟩, ⟨"ATTEXH", 4, 4, .ro, 0⟩, ⟨"UNL", 3, 1, .ro, 0⟩, ⟨"BUSY", 0, 0, .ro, 0⟩]⟩,
  ⟨"SEC_EVT", 0x260004, 1, 0x0, 1, 0x0, [⟨"EVT", 4, 0, .w1c, 0⟩]⟩,
  ⟨"SEC_ATTN_EN", 0x260008, 1, 0x0, 1, 0x0, [⟨"EN", 4, 0, .rw, 0⟩]⟩,
  ⟨"SEC_CTRL", 0x26000C, 1, 0x0, 1, 0x0, [⟨"RELOCK", 0, 0, .wo, 0⟩]⟩,
  ⟨"SEC_CMD", 0x260010, 1, 0x0, 1, 0x0, [⟨"OP", 2, 0, .wo, 0⟩]⟩,
  ⟨"SEC_RES", 0x260014, 1, 0x0, 1, 0x0, [⟨"OP", 15, 12, .ro, 0⟩, ⟨"ORIGIN", 11, 8, .ro, 0⟩, ⟨"CODE", 7, 0, .ro, 0⟩]⟩,
  ⟨"SEC_CHAL", 0x260020, 4, 0x4, 1, 0x0, [⟨"CHAL", 31, 0, .ro, 0⟩]⟩,
  ⟨"SEC_UNLREM", 0x260030, 1, 0x0, 1, 0x0, [⟨"UNLREM", 15, 0, .ro, 0⟩]⟩,
  ⟨"SEC_ATTIDX_LO", 0x260034, 1, 0x0, 1, 0x0, [⟨"IDX_LO", 31, 0, .ro, 0⟩]⟩,
  ⟨"SEC_ATTIDX_HI", 0x260038, 1, 0x0, 1, 0x0, [⟨"IDX_HI", 7, 0, .ro, 0⟩]⟩,
  ⟨"SEC_SVN", 0x26003C, 1, 0x0, 1, 0x0, [⟨"SVN", 31, 0, .ro, 0⟩]⟩,
  ⟨"SEC_IMGSTAT", 0x260040, 1, 0x0, 1, 0x0, [⟨"IMGSTAT", 15, 0, .ro, 0⟩]⟩,
  ⟨"SEC_FWVER", 0x260044, 1, 0x0, 1, 0x0, [⟨"FWVER", 31, 0, .ro, 0⟩]⟩,
  ⟨"SEC_CUSTVER", 0x260048, 1, 0x0, 1, 0x0, [⟨"CUSTVER", 31, 0, .ro, 0⟩]⟩,
  ⟨"SEC_DIG", 0x260100, 4, 0x20, 8, 0x4, [⟨"DIG", 31, 0, .ro, 0⟩]⟩,
  ⟨"SEC_MBOX", 0x262000, 1024, 0x4, 1, 0x0, [⟨"MBOX", 31, 0, .rw, 0⟩]⟩,
  ⟨"SEC_IDREC", 0x263000, 725, 0x4, 1, 0x0, [⟨"IDREC", 31, 0, .ro, 0⟩]⟩]

/-- DIAG registers, 20_diagnostics_and_test. -/
def regsDIAG : List RDesc := [
  ⟨"DIAG_STAT", 0x270000, 1, 0x0, 1, 0x0, [⟨"MBRUN", 1, 1, .ro, 0⟩, ⟨"ACTIVE", 0, 0, .ro, 0⟩]⟩,
  ⟨"DIAG_EVT", 0x270004, 1, 0x0, 1, 0x0, [⟨"EVT", 3, 0, .w1c, 0⟩]⟩,
  ⟨"DIAG_ATTN_EN", 0x270008, 1, 0x0, 1, 0x0, [⟨"EN", 3, 0, .rw, 0⟩]⟩,
  ⟨"DIAG_MBCFG", 0x27000C, 1, 0x0, 1, 0x0, [⟨"MBPERIOD", 15, 0, .rw, 1000⟩]⟩,
  ⟨"DIAG_MBST", 0x270010, 1, 0x0, 1, 0x0, [⟨"BANK", 13, 8, .ro, 0⟩, ⟨"CHECK", 2, 0, .ro, 0⟩]⟩,
  ⟨"DIAG_PDEP", 0x270020, 1, 0x0, 1, 0x0, [⟨"EN", 31, 31, .rw, 0⟩, ⟨"DUR", 30, 24, .rw, 0⟩, ⟨"ENDS", 23, 22, .rw, 0⟩, ⟨"PORT", 21, 16, .rw, 0⟩, ⟨"DELAY", 15, 0, .rw, 0⟩]⟩,
  ⟨"DIAG_PFWD", 0x270024, 1, 0x0, 1, 0x0, [⟨"EN", 31, 31, .rw, 0⟩, ⟨"DUR", 30, 24, .rw, 0⟩, ⟨"PORT", 21, 16, .rw, 0⟩, ⟨"EXTRA", 7, 0, .rw, 0⟩]⟩,
  ⟨"DIAG_PTHR", 0x270028, 1, 0x0, 1, 0x0, [⟨"EN", 31, 31, .rw, 0⟩, ⟨"DUR", 30, 24, .rw, 0⟩, ⟨"GAP", 15, 8, .rw, 0⟩, ⟨"RPORT", 6, 0, .rw, 0⟩]⟩,
  ⟨"DIAG_PSLOT", 0x27002C, 1, 0x0, 1, 0x0, [⟨"EN", 31, 31, .rw, 0⟩, ⟨"DUR", 30, 24, .rw, 0⟩, ⟨"PORT", 21, 16, .rw, 0⟩, ⟨"ACTION", 15, 14, .rw, 0⟩, ⟨"END", 13, 13, .rw, 0⟩, ⟨"POS", 6, 0, .rw, 0⟩]⟩,
  ⟨"DIAG_PING", 0x270030, 1, 0x0, 1, 0x0, [⟨"EN", 31, 31, .rw, 0⟩, ⟨"DUR", 30, 24, .rw, 0⟩, ⟨"DELAY", 15, 0, .rw, 0⟩]⟩,
  ⟨"DIAG_PHB", 0x270034, 1, 0x0, 1, 0x0, [⟨"EN", 31, 31, .rw, 0⟩, ⟨"DUR", 30, 24, .rw, 0⟩, ⟨"DELAY", 15, 0, .rw, 0⟩]⟩,
  ⟨"DIAG_PDLY", 0x270038, 1, 0x0, 1, 0x0, [⟨"EN", 31, 31, .rw, 0⟩, ⟨"DUR", 30, 24, .rw, 0⟩, ⟨"FLOW", 7, 0, .rw, 0⟩]⟩]

/-- AUD registers, 14_host_interface. -/
def regsAUD : List RDesc := [
  ⟨"AUD_STAT", 0x280000, 1, 0x0, 1, 0x0, [⟨"FULL", 1, 1, .ro, 0⟩, ⟨"WRAPPED", 0, 0, .ro, 0⟩]⟩,
  ⟨"AUD_HEAD", 0x280004, 1, 0x0, 1, 0x0, [⟨"HEAD", 31, 0, .ro, 0⟩]⟩,
  ⟨"AUD_TAIL", 0x280008, 1, 0x0, 1, 0x0, [⟨"TAIL", 31, 0, .ro, 0⟩]⟩,
  ⟨"AUD_CTRL", 0x28000C, 1, 0x0, 1, 0x0, [⟨"IRQEN", 0, 0, .rw, 0⟩]⟩,
  ⟨"AUD_RDSEQ", 0x280010, 1, 0x0, 1, 0x0, [⟨"RDSEQ", 31, 0, .rw, 0⟩]⟩,
  ⟨"AUD_RDSTAT", 0x280014, 1, 0x0, 1, 0x0, [⟨"MISS", 0, 0, .ro, 0⟩]⟩,
  ⟨"AUD_RDATA", 0x280020, 8, 0x4, 1, 0x0, [⟨"RDATA", 31, 0, .ro, 0⟩]⟩,
  ⟨"AUD_ANCHOR_LO", 0x280040, 1, 0x0, 1, 0x0, [⟨"ANCHOR_LO", 31, 0, .ro, 0⟩]⟩,
  ⟨"AUD_ANCHOR_HI", 0x280044, 1, 0x0, 1, 0x0, [⟨"ANCHOR_HI", 31, 0, .ro, 0⟩]⟩,
  ⟨"AUD_EVT", 0x280048, 1, 0x0, 1, 0x0, [⟨"EVT", 1, 0, .w1c, 0⟩]⟩,
  ⟨"AUD_ATTN_EN", 0x28004C, 1, 0x0, 1, 0x0, [⟨"EN", 1, 0, .rw, 0⟩]⟩]

/-- CELL registers, 03_cell_rings (R97) and 07_arm_balancing (R204). -/
def regsCELL : List RDesc := [
  ⟨"CELL_W00", 0x400000, 6144, 0x40, 1, 0x0, [⟨"AUX", 31, 16, .ro, 0⟩, ⟨"VCAP", 15, 0, .ro, 0⟩]⟩,
  ⟨"CELL_W04", 0x400004, 6144, 0x40, 1, 0x0, [⟨"TERR", 31, 16, .ro, 0⟩, ⟨"STAT", 15, 0, .ro, 0⟩]⟩,
  ⟨"CELL_W08", 0x400008, 6144, 0x40, 1, 0x0, [⟨"CYC", 31, 0, .ro, 0⟩]⟩,
  ⟨"CELL_W0C", 0x40000C, 6144, 0x40, 1, 0x0, [⟨"STALE", 31, 31, .ro, 0⟩, ⟨"PRES", 30, 30, .ro, 0⟩, ⟨"SRC", 29, 28, .ro, 0⟩, ⟨"DIRMIS", 27, 27, .ro, 0⟩, ⟨"SPATH", 26, 26, .ro, 0⟩, ⟨"RX1", 25, 25, .ro, 0⟩, ⟨"RX0", 24, 24, .ro, 0⟩, ⟨"STALERUN", 23, 16, .ro, 0⟩]⟩,
  ⟨"CELL_W10", 0x400010, 6144, 0x40, 1, 0x0, [⟨"ENUM_HI", 31, 0, .ro, 0⟩]⟩,
  ⟨"CELL_W14", 0x400014, 6144, 0x40, 1, 0x0, [⟨"ENUM_LO", 31, 0, .ro, 0⟩]⟩,
  ⟨"CELL_W18", 0x400018, 6144, 0x40, 1, 0x0, [⟨"DLY0", 31, 16, .ro, 0⟩, ⟨"DLY1", 15, 0, .ro, 0⟩]⟩,
  ⟨"CELL_W1C", 0x40001C, 6144, 0x40, 1, 0x0, [⟨"MAPPED", 31, 31, .ro, 0⟩, ⟨"ARM", 19, 16, .ro, 0⟩, ⟨"LIDX", 9, 0, .ro, 0⟩]⟩,
  ⟨"CELL_W20", 0x400020, 6144, 0x40, 1, 0x0, [⟨"VPRED", 31, 0, .ro, 0⟩]⟩,
  ⟨"CELL_W24", 0x400024, 6144, 0x40, 1, 0x0, [⟨"CEST", 31, 0, .ro, 0⟩]⟩,
  ⟨"CELL_W28", 0x400028, 6144, 0x40, 1, 0x0, [⟨"SIG1", 31, 16, .ro, 0⟩, ⟨"SIG0", 15, 0, .ro, 0⟩]⟩,
  ⟨"CELL_W2C", 0x40002C, 6144, 0x40, 1, 0x0, [⟨"QACC", 31, 16, .ro, 0⟩, ⟨"DVACC", 15, 0, .ro, 0⟩]⟩,
  ⟨"CELL_W30", 0x400030, 6144, 0x40, 1, 0x0, [⟨"VLAST", 31, 0, .ro, 0⟩]⟩,
  ⟨"CELL_W34", 0x400034, 6144, 0x40, 1, 0x0, [⟨"ESR", 31, 16, .ro, 0⟩, ⟨"SIGP", 15, 0, .ro, 0⟩]⟩,
  ⟨"CELL_W38", 0x400038, 6144, 0x40, 1, 0x0, [⟨"NEST", 31, 24, .ro, 0⟩, ⟨"BUD", 23, 0, .ro, 0⟩]⟩,
  ⟨"CELL_W3C", 0x40003C, 6144, 0x40, 1, 0x0, [⟨"ST1", 31, 30, .ro, 0⟩, ⟨"ST0", 29, 28, .ro, 0⟩, ⟨"STP", 27, 26, .ro, 0⟩, ⟨"EXCL", 25, 25, .ro, 0⟩, ⟨"FLTP", 24, 24, .ro, 0⟩, ⟨"DIVG", 23, 23, .ro, 0⟩, ⟨"AGEC", 22, 22, .ro, 0⟩, ⟨"AGER", 21, 21, .ro, 0⟩, ⟨"FPREV", 20, 20, .ro, 0⟩, ⟨"CLS", 19, 18, .ro, 0⟩, ⟨"NACC", 17, 10, .ro, 0⟩, ⟨"RANK", 9, 0, .ro, 0⟩]⟩]

/-- The rows of the block whose BAR0 range (R26) holds an offset. -/
def blockRegs (off : Nat) : List RDesc :=
  if off < 0x010000 then regsTOP
  else if off < 0x020000 then regsCLK
  else if off < 0x030000 then regsRST
  else if off < 0x040000 then regsCYC
  else if off < 0x080000 then regsTIM
  else if off < 0x0C0000 then regsRING
  else if off < 0x100000 then regsLANE
  else if off < 0x140000 then regsARM
  else if off < 0x180000 then regsSCH
  else if off < 0x1C0000 then regsLOOP
  else if off < 0x1D0000 then regsADC
  else if off < 0x200000 then regsREC
  else if off < 0x210000 then regsDPX
  else if off < 0x220000 then regsSAF
  else if off < 0x230000 then regsHIF
  else if off < 0x240000 then regsSVC
  else if off < 0x250000 then regsARB
  else if off < 0x260000 then regsMEM
  else if off < 0x270000 then regsSEC
  else if off < 0x280000 then regsDIAG
  else if off < 0x400000 then regsAUD
  else regsCELL

end Sys2Proof.Machine
end

