-- ==== Sys2Proof/Machine/Store.lean ====
section
/-! DEFINITION. The register file: a sorted list of the registers that differ from their reset value, with reads and
writes of whole words and of fields. What an unlisted offset reads as is the Reset column (R14). -/

namespace Sys2Proof.Machine

open Sys2Proof

/-- The register file: BAR0 offset and word, offsets rising, no entry equal to its reset word. -/
abbrev Store := List (Nat × Word)

/-- The place of an offset among the copies of a register, if it is one of them (R26: base + copy × stride). -/
def regHit (d : RDesc) (off : Nat) : Option (Nat × Nat) :=
  if off < d.base then none
  else
    let x := off - d.base
    let i := if d.s1 = 0 then 0 else x / d.s1
    let r := x - i * d.s1
    let j := if d.s2 = 0 then 0 else r / d.s2
    if i < d.n1 ∧ j < d.n2 ∧ r = j * d.s2 then some (i, j) else none

/-- The register implemented at an offset, or none (R5). -/
def regAt (off : Nat) : Option RDesc := (blockRegs off).find? (fun d => (regHit d off).isSome)

/-- The WEIGHT and PRI of fabric port p at reset (R421). -/
def arbResetPort (p : Nat) : Nat × Nat :=
  if p < 48 then (1, 6) else if p < 60 then (12, 5) else if p = 60 then (16, 5) else if p = 61 then (8, 5)
  else if p < 66 then (4, 2) else if p = 66 then (8, 4) else if p = 67 then (4, 1) else (2, 3)

/-- The WEIGHT and PRI of DDR4 requester d at reset (16_memory_and_arbitration, ARB_DDRW). -/
def arbResetDdr (d : Nat) : Nat × Nat :=
  if d < 4 then (24, 2) else if d < 8 then (8, 3) else (16, 1)

/-- The reset word that the Reset columns of a register's fields make. -/
def RDesc.resetNat (d : RDesc) : Nat := d.fields.foldl (fun a f => a + f.reset * 2 ^ f.lo) 0

/-- What a register reads as before anything writes it: its Reset column; for ARB_PORT and ARB_DDRW, R421. -/
def resetWord (off : Nat) : Word :=
  if 0x240100 ≤ off ∧ off < 0x240220 then
    let (w, p) := arbResetPort ((off - 0x240100) / 4)
    BitVec.ofNat 32 (p * 0x10000 + w)
  else if 0x240500 ≤ off ∧ off < 0x240524 then
    let (w, p) := arbResetDdr ((off - 0x240500) / 4)
    BitVec.ofNat 32 (p * 0x10000 + w)
  else
    match regAt off with
    | some d => BitVec.ofNat 32 d.resetNat
    | none => 0

/-- The word listed at an offset. -/
def Store.find (st : Store) (off : Nat) : Option Word :=
  match st with
  | [] => none
  | (o, w) :: rest => if o = off then some w else Store.find rest off

/-- The word held at an offset: the listed one, else the reset word. -/
def Store.get (st : Store) (off : Nat) : Word := (st.find off).getD (resetWord off)

/-- The list without an offset's entry. -/
def Store.erase (st : Store) (off : Nat) : Store := st.filter (fun e => e.1 ≠ off)

/-- Puts an entry at its place in rising order; the offset is not in the list. -/
def Store.place (st : Store) (off : Nat) (w : Word) : Store :=
  match st with
  | [] => [(off, w)]
  | e :: rest => if off < e.1 then (off, w) :: e :: rest else e :: Store.place rest off w

/-- A write of a whole word; writing the reset word removes the entry, so that equal contents are equal lists. -/
def Store.put (st : Store) (off : Nat) (w : Word) : Store :=
  if w = resetWord off then st.erase off else (st.erase off).place off w

/-- The canonical form: offsets strictly rising, no entry equal to its reset word. -/
def Store.wf (st : Store) : Bool :=
  match st with
  | [] => true
  | [e] => decide (e.2 ≠ resetWord e.1)
  | e :: f :: rest => decide (e.2 ≠ resetWord e.1) && decide (e.1 < f.1) && Store.wf (f :: rest)

/-- The ones of a field. -/
def Fld.mask (f : Fld) : Word := (BitVec.allOnes 32 >>> (31 - f.hi)) &&& (BitVec.allOnes 32 <<< f.lo)

/-- A field's value in a word. -/
def Fld.of (f : Fld) (w : Word) : Nat := ((w &&& f.mask) >>> f.lo).toNat

/-- A word with a field replaced; the value is cut to the field's width. -/
def Fld.into (f : Fld) (w : Word) (v : Nat) : Word :=
  (w &&& ~~~ f.mask) ||| ((BitVec.ofNat 32 v <<< f.lo) &&& f.mask)

/-- A field's width in bits. -/
def Fld.width (f : Fld) : Nat := f.hi + 1 - f.lo

/-- A field's value in the register file. -/
def Store.getF (st : Store) (f : Fld) : Nat := f.of (st.get f.off)

/-- A field written in the register file; the register's other fields keep their values. -/
def Store.setF (st : Store) (f : Fld) (v : Nat) : Store := st.put f.off (f.into (st.get f.off) v)

end Sys2Proof.Machine
end

