-- ==== Sys2Proof/Machine/Dev.lean ====
section
/-! DEFINITION. The device's state as plain data: the register file and, per block, what the manual gives the block beside
its registers. -/

namespace Sys2Proof.Machine

open Sys2Proof

/-- An audit entry before it has its sequence number and chain value (R384, R385). -/
structure AudItem where
  tb1 : Word
  tb0 : Word
  origin : Nat
  kind : Nat
  code : Nat
  arg0 : Word
  arg1 : Word
  deriving DecidableEq, Repr

/-- An audit entry held in MRAM (R385). -/
structure AudEntry where
  seq : Word
  item : AudItem
  chain : BitVec 64
  deriving DecidableEq, Repr

/-- The fuses of one key slot (R466). -/
structure KeySlot where
  hash : BitVec 256
  valid : Bool
  revoked : Bool
  deriving DecidableEq, Repr

/-- The one-time-programmable fuses (R14, R466, R479). -/
structure Fuses where
  uid : BitVec 64
  grade : Nat
  testen : Bool
  slots : List KeySlot
  idrec : List Word
  deriving DecidableEq, Repr

/-- MRAM: what survives power loss (R418). `log` holds the newest entry first (R386). DESIGN CHOICE, log entry 45. -/
structure Mram where
  log : List AudEntry
  nextSeq : Word
  anchor : BitVec 64
  wrapped : Bool
  ccvconf : BitVec 64
  trim : Option (BitVec 24)
  svn : List Nat
  attIdx : Nat
  attOk : Bool
  cal : List Host.Cell
  deriving DecidableEq, Repr

/-- Everything that keeps its contents without power: fuses and MRAM (R457). -/
structure Nonvol where
  fuses : Fuses
  mram : Mram
  deriving DecidableEq, Repr

/-- The time bases (R158, R159): 32 bits of ns and 16 bits of fraction each; the parts of the rate terms of TB1 and TB3
below 2⁻¹⁶ ns; TB1's slew remainder in 2⁻¹⁰ ns (R176); `up` is TB2 in whole ns without its wrap; `cio` is the ns that the
cast-iron oscillator has counted since the power-on reset, whether the bases run or not (R329, R349); `pre` the values that bases
held before the sets and steps of the present ACLK cycle (R164). -/
structure TimeState where
  on : Bool
  tb0 : BitVec 48
  tb1 : BitVec 48
  tb2 : BitVec 48
  tb3 : BitVec 48
  sub1 : Nat
  sub3 : Nat
  slew : Int
  up : Nat
  cio : Nat
  pre : List (Nat × BitVec 48)
  deriving DecidableEq, Repr

/-- A master heard on a station port: its last Announce, when it came, and how many came within 4 intervals. -/
structure Heard where
  msg : Announce
  at_ : Nat
  count : Nat
  deriving DecidableEq, Repr

/-- A two-step Sync waiting for its Follow_Up (R172). -/
structure SyncWait where
  port : Nat
  seq : Nat
  t2 : BitVec 48
  corr : Int
  logInt : Int
  deriving DecidableEq, Repr

/-- The PTP firmware's state (R172 to R178); `changed0`, `changed1` and `holdFrom` are instants of TB2 without wrap: of each port's last
change of timestamping, and of the entry into the HOLDOVER from which HOLDSEC counts. -/
structure PtpState where
  heard0 : Option Heard
  heard1 : Option Heard
  sync : Option SyncWait
  lockrun : Nat
  mpd0 : Int
  mpd1 : Int
  changed0 : Option Nat
  changed1 : Option Nat
  everLocked : Bool
  holdFrom : Option Nat
  deriving DecidableEq, Repr

/-- One cycle's timing in ns (R38, R41). -/
structure Timing where
  tcyc : Nat
  dtx : Nat
  sort : Nat
  loop : Nat
  sch : Nat
  grd : Nat
  deriving DecidableEq, Repr

/-- The cycle timer (R33 to R63): the start instant while it waits for t₀(0), t₀ of the current cycle, timing and length
of cycles k, k+1 and k+2 with the corrections in them, whether cycles k+1 and k+2 are steps of R63, t₀(k−1) and t₀(k−2), the
SYNC_IN edge bookkeeping and the phases already run in cycle k. -/
structure CycState where
  start : Option (BitVec 48)
  waitEdge : Bool
  inCycle : Bool
  t0 : BitVec 48
  tm0 : Timing
  tm1 : Timing
  tm2 : Timing
  len0 : Nat
  len1 : Nat
  len2 : Nat
  corr0 : Int
  corr1 : Int
  step1 : Bool
  step2 : Bool
  past : List (BitVec 48)
  edge : Bool
  edgeNext : Option Int
  lockrun : Nat
  farAge : Nat
  departed : Bool
  closed : Bool
  sorted : BitVec 12
  looped : Bool
  reloaded : Bool
  copied : Bool
  by_ : Origin
  deriving DecidableEq, Repr

/-- Reset line state (R456 to R458): lines held low, the internal reset after SRST_N or SWRST, whether the brown-out monitor
tripped during the reset; DEEP (R464); what BOOT found, its result code and the SVN of each type's copy (R469 to R471); who
wrote the RST_CTRL.DISC of the last DISCOVER (R372). -/
structure RstState where
  porstLow : Bool
  brownLow : Bool
  srstLow : Bool
  internal : Bool
  tripped : Bool
  deep : Bool
  boot : Option (Nat × List Nat)
  disc : Origin
  deriving DecidableEq, Repr

/-- The clock block beside its registers (R431 to R444): runs of good windows, the dither register, the frozen trim loop
(R435), the switch in progress to the synthesiser (true) or to the oscillator, whether the root ever ran from the synthesiser,
since when (of the cast-iron oscillator) REFOK and MDLLRDY both hold, when the last lock window ended, when the trim word was last stored. -/
structure ClkState where
  lockRun : Nat
  refRun : Nat
  trimRun : Nat
  lfsr : BitVec 16
  frozen : Bool
  switch : Option Bool
  everSynth : Bool
  retSince : Option Nat
  winAt : Nat
  storeAt : Nat
  deriving DecidableEq, Repr

/-- One record of a configuration group (R375). -/
structure EpRec where
  off : Nat
  value : Word
  deriving DecidableEq, Repr

/-- The configuration epoch beside HIF_EPOCH and HIF_EPRES (R373 to R383): the staged groups, the tag and origin of the
EPVALID in progress, the apply cycle j or the instant a(0), the next group. -/
structure EpochCtl where
  groups : List (List EpRec)
  origin : Origin
  validTag : Option (BitVec 16)
  applyAt : Option Word
  applyTime : Option (BitVec 48)
  next : Nat
  deriving DecidableEq, Repr

/-- A fetched command (R367): opcode, tag and parameter bytes 8 to 63. -/
structure Cmd where
  opcode : Byte
  tag : BitVec 16
  params : List Byte
  deriving DecidableEq, Repr

/-- The host interface beside its registers: per ring, whether an entry was lost since the last one written and how many
entries stand unsignalled (R361, R363); serial commands waiting and whether one runs (R368); the count of TELDEC (R365); the
attention level of R32; whether PCIe is in reset (R409); which GPIO balls the device drives, and their levels (R390, R451, R513). The
host's Bus Master Enable is HIF_STAT.BME. -/
structure HifState where
  lost : List Bool
  unsig : List Nat
  serial : List Cmd
  serialBusy : Bool
  telCount : Nat
  attn : Bool
  perst : Bool
  gpioDrv : Word
  gpioLvl : Word
  deriving DecidableEq, Repr

/-- The audit log's queue (R387), oldest first. -/
structure AudState where
  queue : List AudItem
  deriving DecidableEq, Repr

/-- An image in the on-chip image store (R473). -/
structure ImageRec where
  type : Nat
  version : Word
  digest : BitVec 256
  body : List Byte
  deriving DecidableEq, Repr

/-- The security block beside its registers: the operation in progress with its origin (R474), the unlocks in force by
type with the instant of TB2 at which each ends and its validity (R478), the image store (R473), an ATTEST waiting, or in progress with
its index (R474, R480), draws of challenges. -/
structure SecState where
  op : Option (Nat × Origin)
  unlocks : List (Nat × Nat × Nat)
  store : List ImageRec
  attest : Option (Cmd × Option Nat)
  draws : Nat
  deriving DecidableEq, Repr

/-- What the passes from one end brought (R91): the wrap position if a cell turned the frame, HOPS, the ENUM and DELAY records
by position, the echoes of LOAD, the round trip and TURN of the DELAY frame. -/
structure DiscLeg where
  wrap : Option Nat
  hops : Nat
  recs : List (BitVec 64)
  delays : List (BitVec 64)
  echo : List (BitVec 64)
  rtt : Nat
  turn : Nat
  deriving DecidableEq, Repr

/-- A discovery in progress on a port (R92): the ends whose lanes must still lock and since when the first is waited for; the pass (0
ENUM, 1 DELAY, 2 LOAD), the end it runs from, the attempt, when its frame was sent, the ends whose frame of this pass has been
accepted; NCELL, KAPPA and EASYM as they stood at the start (R92, R168); what each end's passes brought, the cells found, the link
delays and the 48 bits to load per position. Instants are of the cast-iron oscillator. -/
structure Disc where
  lock : List Nat
  since : Nat
  pass : Nat
  end_ : Nat
  attempt : Nat
  sent : Option Nat
  done : List Nat
  ncfg : Nat
  kappa : Int
  easym0 : Int
  easym1 : Int
  leg0 : Option DiscLeg
  leg1 : Option DiscLeg
  cells : Nat
  links : List (Nat × Nat)
  loads : List (BitVec 48)
  origin : Origin
  deriving DecidableEq, Repr

/-- A ring port beside its registers: whether F(k) has left (R90), what was accepted in the current cycle at each end (R75, R79), the wrap follow-up of
R88 and R89, discovery (R90 to R93), the frame buffer of F(k+1) (R205), and the
slots of each end's copy that read uncorrectable (R416), when the last idle frames left (R74, on TB2 without wrap), the pass and NSLOT of
a discovery frame sent for the partner (R327). -/
structure PortState where
  sent : Bool
  acc0 : Bool
  acc1 : Bool
  wrap0 : Option Nat
  wrap1 : Option Nat
  ret0 : Nat
  ret1 : Nat
  fresh : BitVec 128
  trk0 : Option Nat
  trk1 : Option Nat
  qual : Nat
  unwrap : Nat
  disc : Option Disc
  discWait : Option Origin
  buf : List CellCmd
  bufEpoch : BitVec 16
  discovered : Nat
  ue0 : BitVec 128
  ue1 : BitVec 128
  idleAt : Option Nat
  asked : Option (Nat × Nat)
  deriving DecidableEq, Repr

/-- An arm beside its registers: the arm unit's previous current sample (R181); whether the arm state was RUNNING at t₀(k−1)
and t₀(k) (R192, R201); SCH's polarity (R191, R224) and active sets R and P (R216); the state machine's count to t₀(j+2)
(R210: none before the reload of cycle j); the instant of the block cause while the ring ports substitute (R212) and whether
a substituted frame has left; whether the next frame repeats the window (R54); who caused the last state change (R372), and
the number of its block cause (R384). -/
structure ArmCtl where
  iprev : Option Int
  ranPrev : Bool
  ranNow : Bool
  polNeg : Bool
  vref : Word
  vofs : Word
  minpw : Nat
  kbal : Nat
  cbase : Nat
  toRun : Option Nat
  subst : Option (BitVec 48)
  blockedSent : Bool
  sortLate : Bool
  schedLate : Bool
  origin : Origin
  cause : Nat
  deriving DecidableEq, Repr

/-- An interpolator (R228 to R230): its accepted TAPS and when, a TAPS to apply from the next boundary, whether the last
calibration was rejected, and when that was. -/
structure Interp where
  taps : Option Nat
  at_ : Nat
  next : Option Nat
  rejected : Bool
  last : Option Nat
  deriving DecidableEq, Repr

/-- SCH beside its registers: the interpolators; the debug halts and the ACLK stop in force (R213, R214); the commands of
W(k+2) by cell index from the schedule phase to the copy (R208); the epoch number they were computed under (R67). -/
structure SchState where
  interps : List Interp
  aclkStopped : Bool
  stopFrames : Nat
  cmds : List (Nat × CellCmd × Nat × Nat)
  epoch : BitVec 16
  deriving DecidableEq, Repr

/-- A demand of R334 that is present: its kind (bit of SAF_DEMAND), what raised it within the kind, the arms it names. -/
structure DemandSrc where
  kind : Nat
  key : Nat
  mask : Nat
  deriving DecidableEq, Repr

/-- A degraded mode and its timer (R347, R348), on the cast-iron oscillator: the count held so far, since when it counts, since
when no cause is present, whether it has expired, and for a ring the arm of its port when the mode began. -/
structure DegTimer where
  on : Bool
  held : Nat
  since : Option Nat
  clear : Option Nat
  expired : Bool
  arm : Nat
  deriving DecidableEq, Repr

/-- One SOV channel: run of over results, last result that is no settle result, OPEN of it, silent for 4 cycles, cycle starts since
the last result (R340, R341). -/
structure SovChan where
  run : Nat
  last : Option Nat
  opn : Bool
  silent : Bool
  quiet : Nat
  deriving DecidableEq, Repr

/-- An arm's SOV: channels A and B, since when their latest results differ by more than DLIM, discrepancy for TDISC, demand
present. -/
structure SovState where
  a : SovChan
  b : SovChan
  since : Option Nat
  disc : Bool
  dem : Bool
  deriving DecidableEq, Repr

/-- The last accepted station telegram: sequence number, bytes 0 to 27, the port it came from, its source address (R354). -/
structure TelCopy where
  seq : Word
  bytes : List Byte
  port : Nat
  src : BitVec 48
  deriving DecidableEq, Repr

/-- SAF beside its registers, its instants on the cast-iron oscillator: per input whether its filter has settled; since when the
levels of each pair differ (R331); the guard test's progress (R339); demands present and arms latched per kind; the last
acknowledge and the kinds it cleared (R336); the class F fault (R333); supervision runs (R335); SOV; SAFE_OK balls held at a level and
since when each differs from its command (R332); the timers; the station telegrams: STEN as last seen, from when each port's silence
counts, the last mismatch, the last status telegram on TB2 (R354, R355); the end of CONFLOCK (R345); audit entries waiting for
SAF_DEMAND and SAF_REQ. -/
structure SafState where
  settled : List Bool
  differ : List (Option Nat)
  gtOpen : Bool
  gtBad : Bool
  src : List DemandSrc
  latch : List Nat
  acked : Option (Nat × Nat)
  classF : Bool
  missRun : List Nat
  lateRun : List Nat
  loopRun : Nat
  sov : List SovState
  stuckA : Option Bool
  stuckB : Option Bool
  rbA : Option Nat
  rbB : Option Nat
  sc : DegTimer
  ck : DegTimer
  ring : List DegTimer
  tel : Option TelCopy
  sten : Bool
  quiet0 : Nat
  quiet1 : Nat
  mismAt : Option Nat
  stSeq : Word
  stAt : Option Nat
  lockUntil : Option Nat
  toAudit : List (Nat × Origin)
  deriving DecidableEq, Repr

/-- The line coding of one lane: s(n−1), scrambler and last level sent; s(n−1) and descrambler of the receiver (R101, R105, R113); whether
a frame may start, the last bits searched for SYNC and their number (R108); the frame in reception: its bits, their number, and the
number it is to have once its header is in. -/
structure LineState where
  txPrev : Nat
  txSr : BitVec 58
  txLevel : Int
  rxPrev : Nat
  rxSr : BitVec 58
  armed : Bool
  win : Nat
  winLen : Nat
  frame : Option (Nat × Nat × Nat)
  deriving DecidableEq, Repr

/-- The lanes beside their registers: their line coding; of the Solder lanes (R126, R127) the SEQ of the next ALIGN block and of the last
set within the skew limit, RXUP as last received, ALIGN blocks sent with RXUP = 1 since the link came UP. -/
structure LaneState where
  lines : List LineState
  txSeq : BitVec 8
  rxSeq : Option (BitVec 8)
  peerUp : Bool
  sentUp : Nat
  deriving DecidableEq, Repr

/-- A work item (R397): flow, kind, LATE, enqueuer, sequence number, bytes 8 to 31; the instant since which it waits (R402), the
event binding it came from (R401), and whether it is spilled (R405). -/
structure WorkItem where
  flow : Nat
  kind : Nat
  late : Bool
  origin : Nat
  seq : Nat
  payload : List Byte
  since : Nat
  bind : Option Nat
  spilled : Bool
  deriving DecidableEq, Repr

/-- A delay entry (R404): item, expiry in ns of TB2 without wrap, handle. -/
structure DelayEntry where
  item : WorkItem
  expiry : Nat
  handle : Nat
  deriving DecidableEq, Repr

/-- A pair beside its registers: the item in service and since when, the restart to come, whether a reset left it HALTED until a
restart, whether that reset cut an item short (R395), its local memory as cells that are not 0 (R391). DESIGN CHOICE, log entry
43. -/
structure PairState where
  item : Option WorkItem
  since : Nat
  restartAt : Option Nat
  down : Bool
  cut : Bool
  lmem : List (Nat × Byte)
  deriving DecidableEq, Repr

/-- An origin's own copies of SVC_ENQ0 to SVC_ENQ7, SVC_ENQRES and SVC_CANRES (R12, R398). -/
structure EnqCopy where
  origin : Origin
  words : List Word
  res : Word
  canres : Word
  deriving DecidableEq, Repr

/-- The scheduler: ready items and delay entries on chip and spilled, the next sequence number, the tick in force, the pairs,
each origin's buffer, the semaphores to poison at their next release (R412), the bindings whose source has fired with the cycle number
then (R401). -/
structure SvcState where
  ready : List WorkItem
  delays : List DelayEntry
  nextSeq : Nat
  tick : Nat
  pairs : List PairState
  enq : List EnqCopy
  poison : List Nat
  due : List (Nat × Word)
  deriving DecidableEq, Repr

/-- A SET entry held for a cycle (R233, R364): cycle number, valid bits, values. -/
structure SetEntry where
  cyc : Word
  valid : BitVec 64
  vals : List Word
  deriving DecidableEq, Repr

/-- The control engine beside its registers: the input image of R232 as slots that are not 0, the group counters (R243), the
groups to clear (R249), the hand-overs in progress, the SET entries held, a set R write begun at the reload (R250). -/
structure LoopState where
  image : List (Nat × Word)
  counts : List Nat
  gclr : BitVec 16
  ho : List HandOver
  set : List SetEntry
  issued : Option (Nat × Nat × Nat)
  deriving DecidableEq, Repr
/-- A run of a converter (R260, R263): start in ns of TB2 without wrap, entry being converted, entries, the configuration it
took, the code and pull setting of the conversion in progress, whether that is a settle conversion, and its cycle. -/
structure AdcRun where
  start : Nat
  i : Nat
  len : Nat
  cfg : Store
  code : Nat
  pull : Nat
  settle : Bool
  cycle : Option Word
  deriving DecidableEq, Repr

/-- A sequencer entry (R265, R268, R270): ECFG as last applied, conversions and sum of the window, whether one tripped, whether
one was a settle conversion, whether the window is the first after a change, whether the next conversion settles. -/
structure AdcEntry where
  ecfg : Word
  n : Nat
  sum : Nat
  trip : Bool
  settle : Bool
  changed : Bool
  first : Bool
  deriving DecidableEq, Repr

/-- A converter: the run in progress, whether EN was 0 since the last run, the entries, the cycle of the last run start. -/
structure AdcConv where
  run : Option AdcRun
  off : Bool
  entries : List AdcEntry
  last : Option Word
  deriving DecidableEq, Repr

/-- The analog inputs: converters, input voltages in nV as last given, the holds, each with its cycle, the inputs it holds and their voltages (R259), inputs
whose next conversion settles after a change of their pull current (R270). -/
structure AdcState where
  conv : List AdcConv
  ain : List Nat
  held : List (Word × Nat × List Nat)
  owFirst : Nat
  deriving DecidableEq, Repr

/-- A trigger of a recorder instance (R277 to R279): instant, cycle of the instant, source code, event bit, TB1 at the instant,
cycle in which it was decided. -/
structure RecTrig where
  inst : BitVec 48
  cyc : Word
  source : Nat
  ev : Nat
  tb1 : Word
  decided : Word
  deriving DecidableEq, Repr

/-- A trigger condition (R277): the slot's value in the previous cycle, whether it has been below and above the hysteresis. -/
structure RecCond where
  prev : Option Int
  low : Bool
  high : Bool
  deriving DecidableEq, Repr

/-- A measurement (R285): values, extremes, sums, the previous value, hysteresis, quarter ns since the trigger cycle began, first
and last crossing, crossings, truncation. -/
structure RecMeas where
  n : Nat
  maxv : Int
  minv : Int
  peak : Int
  sum : Int
  sumsq : Nat
  prev : Option Int
  ready : Bool
  base : Nat
  first : Nat
  last : Nat
  cross : Nat
  trunc : Bool
  deriving DecidableEq, Repr

/-- A recorder instance beside its registers: the configuration it copied at arming (R276), first cycle, rows since arming, bytes
staged, GAP, a TRIGROW due, rows since the trigger row, its index, conditions, measurements, the measured slots of the last
cycles, the last rows' index and cycle, steps, cycles since arming, rows dropped, T_cyc at arming and whether it changed,
the falling edge it caused, the trigger, readout position, where a DISARM ends the readout, record number, whether a configuration has
been taken since the reset. -/
structure RecInst where
  cfg : Store
  ks : Option Word
  rows : Nat
  staged : Nat
  gap : Bool
  trigPend : Bool
  post : Nat
  trigIdx : Nat
  conds : List RecCond
  meas : List RecMeas
  hist : List (Word × Nat × List Int)
  recent : List (Nat × Word)
  steps : List (Nat × Nat)
  age : Nat
  drops : Nat
  tcyc : Nat
  perchg : Bool
  fired : Option (BitVec 48)
  trig : Option RecTrig
  rdPos : Nat
  rdEnd : Option Nat
  seq : Nat
  taken : Bool
  deriving DecidableEq, Repr

/-- A cycle start as the recorders keep it: number, t₀, and TB1 with its slew and rate there (R286). -/
structure RecStart where
  cyc : Word
  t0 : BitVec 48
  tb1 : BitVec 48
  slew : Int
  rate : Int
  deriving DecidableEq, Repr

/-- The recorder: instances; TRIG_IO: falling edge of the low period in progress, whether it is measured, whether it stuck, since when the line is high,
the end of the device's own pulse, instances that wait to fire, an ARM that waits, instances whose fire is in this low
period; events of EVMASK since the last reload; the last cycle starts; the instance whose block was read out last. -/
structure RecState where
  insts : List RecInst
  low : Option (BitVec 48)
  heard : Bool
  stuck : Bool
  highSince : Nat
  drive : Option Nat
  dueFire : List Nat
  dueArm : Bool
  fires : List Nat
  ev : Nat
  starts : List RecStart
  rdLast : Nat
  deriving DecidableEq, Repr

/-- A requester at a target (R422, R423): credit, LOST, since which FCLK cycle it waits, and the WEIGHT and PRI that written ones replace
with the last FCLK cycle in which each still holds, oldest first (R427). -/
structure ArbReq where
  credit : Int
  lost : Nat
  since : Option Nat
  keep : List (Nat × Nat × Nat)
  deriving DecidableEq, Repr

/-- Memory: DDR4 cells and cells of the general state region (R415) that are not 0; the arbiters of the 64 banks and of DDR4,
and the last FCLK cycle whose data phase each has given away (R420); the table of R426 in force as the entries that name a port,
the mode in force, and the windows since PORST_N; when the last scrub pass ended (R417). DESIGN CHOICE, log entries 44, 45. -/
structure MemState where
  ddr : List Host.Cell
  sram : List Host.Cell
  targets : List (List ArbReq)
  busy : List Nat
  slots : List (Nat × Nat)
  compat : Bool
  window : Nat
  scrubAt : Nat
  deriving DecidableEq, Repr

/-- DIAG beside its registers: perturbations that are active with the boundaries they have been active at (R485), the JTAG
instruction loaded, the boundary register, the pairs halted (R490), when the last self-test pass ended (R491). -/
structure DiagState where
  active : List (Pert × Nat)
  instr : Nat
  bsr : List Bool
  halted : Nat
  mbAt : Nat
  deriving DecidableEq, Repr

/-- A message waiting on the Solder link: priority, message, next part, the payload that its further parts carry, and the TB0 instant at
which it became due (R299, R304). -/
structure SolderQ where
  prio : Nat
  msg : SolderMsg
  part : Nat
  left : List Byte
  at_ : BitVec 48
  deriving DecidableEq, Repr

/-- A message received in parts so far (R299): type, next part, payload, and of part 0 the cycle number, departure and arrival stamp. -/
structure SolderIn where
  type : Nat
  next : Nat
  bytes : List Byte
  cyc : Word
  dep : Word
  stamp : BitVec 40
  deriving DecidableEq, Repr

/-- The ingot being received (R309): cycle and the bytes that have arrived. -/
structure IngFill where
  k : Word
  bytes : List Byte
  deriving DecidableEq, Repr

/-- A committed ingot: cycle, bytes as R307 lays them out, and the instant of the commit (R310) on the cast-iron oscillator. -/
structure Ingot where
  k : Word
  bytes : List Byte
  at_ : Nat
  deriving DecidableEq, Repr

/-- A unit as a witness sees it (R319): instant of its last heartbeat, role code, term, flags, run of SHMIS. -/
structure WitUnit where
  at_ : Option Nat
  role : Nat
  term : BitVec 16
  flags : Nat
  shmis : Nat
  deriving DecidableEq, Repr

/-- The witness: units A and B, since when it listens, whether it has started, sequence number, cause of the last naming. -/
structure WitState where
  a : WitUnit
  b : WitUnit
  since : Nat
  started : Bool
  seq : Word
  cause : Nat
  deriving DecidableEq, Repr

/-- The duplex block beside its registers. Link: queue, message sequence, messages received in part; the partner's last PAIR and STAT;
arrival of its last message and departure of the own last one. Time: run of measurements within the limit, of cycles beyond it, whether
the measurement of this cycle was (R296). Roles: a takeover accepted, cycles without link or ingot, heartbeats since the last
verdict, the last INGOK. Ingots: committed, the one before, filling; the one being sent with its segments to come, next slice,
captures abandoned in a row, ingots committed since the cast. Cast: segments still to send, total while one is under way, whether
segments left at the last boundary, the segment that the partner misses, from 1; segments received, and those held until segment 0 comes. Shadow: REF and ISLOT of the cycle, the
shadow schedules, mismatches of the cycle, runs of mismatching cycles. CMDS: target cycle placed, the last block mask (R303).
DUALACT run, whether ACT = 1 frames came in this cycle. The first failing check of the last PAIR message (R295); the instant of a
demotion (R292) on the cast-iron oscillator. -/
structure DpxState where
  queue : List SolderQ
  seq : Word
  parts : List SolderIn
  partner : Option PairMsg
  pstat : Option Stat
  t4 : BitVec 40
  t3 : BitVec 40
  within : Nat
  beyond : Nat
  skewed : Bool
  takeover : Bool
  linkRun : Nat
  unanswered : Nat
  ingok : Bool
  comm : Option Ingot
  prev : Option Ingot
  fill : Option IngFill
  sendK : Word
  sending : List (List Byte)
  sentUpTo : Option Word
  sliceAt : Nat
  abandoned : Nat
  afterCast : Nat
  castOut : List Nat
  castTotal : Nat
  castBusy : Bool
  castAsk : Nat
  castIn : List Nat
  castHeld : List (Nat × List Byte)
  refCyc : Option Word
  islotCyc : Option Word
  shadow : List (Nat × CellCmd)
  loopMis : Bool
  armMis : Bool
  loopRun : Nat
  armRun : Nat
  skipped : Bool
  cmdsFor : Option Word
  blkMask : BitVec 12
  act : Bool
  actRun : Nat
  check : Nat
  demoted : Option Nat
  wit : WitState
  deriving DecidableEq, Repr


/-- The device: register file and per-block state. `free` counts the free values drawn; `out` is the observation port,
newest first. -/
structure Dev where
  regs : Store
  time : TimeState
  ptp : PtpState
  cyc : CycState
  rst : RstState
  clk : ClkState
  hif : HifState
  ep : EpochCtl
  aud : AudState
  sec : SecState
  ports : List PortState
  arms : List ArmCtl
  sch : SchState
  saf : SafState
  lane : LaneState
  svc : SvcState
  loop : LoopState
  adc : AdcState
  rcd : RecState
  mem : MemState
  dpx : DpxState
  diag : DiagState
  rlatch : List ((Origin × Nat) × Word)
  wlatch : List ((Origin × Nat) × Word)
  free : Nat
  out : List Emission
  deriving DecidableEq, Repr

end Sys2Proof.Machine
end

