-- ==== Sys2Proof/Machine/Ops.lean ====
section
/-! DEFINITION. The named operations over the device that every meaning uses: register fields, emissions, time, EVT entries
(R360, R361, R371), audit entries (R384, R387), device-state changes (R460). -/

namespace Sys2Proof.Machine

open Sys2Proof

/-! ### Registers -/

/-- A field's value. -/
def Dev.get (d : Dev) (f : Fld) : Nat := d.regs.getF f

/-- A field written by hardware, whatever its access type. -/
def Dev.set (d : Dev) (f : Fld) (v : Nat) : Dev := { d with regs := d.regs.setF f v }

/-- A whole register word. -/
def Dev.word (d : Dev) (off : Nat) : Word := d.regs.get off

/-- A whole register word written by hardware. -/
def Dev.setWord (d : Dev) (off : Nat) (w : Word) : Dev := { d with regs := d.regs.put off w }

/-- Whether a field is not 0. -/
def Dev.is (d : Dev) (f : Fld) : Bool := d.get f ≠ 0

/-- A one-bit field written from a truth value. -/
def Dev.setB (d : Dev) (f : Fld) (b : Bool) : Dev := d.set f (if b then 1 else 0)

/-- Bit n of a field. -/
def Dev.bit (d : Dev) (f : Fld) (n : Nat) : Bool := (d.get f).testBit n

/-- Sets bit n of a field of flags (R2, W1C flags set by hardware). -/
def Dev.raise (d : Dev) (f : Fld) (n : Nat) : Dev := d.set f (d.get f ||| 2 ^ n)

/-- Clears bit n of a field. -/
def Dev.drop (d : Dev) (f : Fld) (n : Nat) : Dev := d.set f (if (d.get f).testBit n then d.get f - 2 ^ n else d.get f)

/-- Writes bit n of a field. -/
def Dev.setBit (d : Dev) (f : Fld) (n : Nat) (b : Bool) : Dev := if b then d.raise f n else d.drop f n

/-- Adds to a counter, which saturates at its field's largest value. -/
def Dev.count (d : Dev) (f : Fld) (n : Nat) : Dev := d.set f (min (d.get f + n) (2 ^ f.width - 1))

/-- Two's complement value of the low n bits. -/
def toSigned (n v : Nat) : Int := (BitVec.ofNat n v).toInt

/-- The low n bits of an integer. -/
def ofSigned (n : Nat) (v : Int) : Nat := (BitVec.ofInt n v).toNat

/-- A field read as a signed number. -/
def Dev.getS (d : Dev) (f : Fld) : Int := toSigned f.width (d.get f)

/-- A field written from a signed number. -/
def Dev.setS (d : Dev) (f : Fld) (v : Int) : Dev := d.set f (ofSigned f.width v)

/-- An integer held between two bounds. -/
def clampInt (lo hi v : Int) : Int := if v < lo then lo else if hi < v then hi else v

/-- A signed field written with saturation. -/
def Dev.setSat (d : Dev) (f : Fld) (v : Int) : Dev :=
  d.setS f (clampInt (-(2 ^ (f.width - 1))) (2 ^ (f.width - 1) - 1) v)

/-- A change made only if a condition holds. -/
def Dev.when (d : Dev) (b : Bool) (f : Dev → Dev) : Dev := if b then f d else d

/-- One change for every element of a list, first to last. -/
def Dev.each {α : Type} (d : Dev) (l : List α) (f : α → Dev → Dev) : Dev := l.foldl (fun a x => f x a) d

/-- Sends something to the outside. DESIGN CHOICE, log entry 5. -/
def Dev.emit (d : Dev) (e : Emission) : Dev := { d with out := e :: d.out }

/-- The next free value's number. DESIGN CHOICE, log entry 3. -/
def Dev.draw (d : Dev) : Dev := { d with free := d.free + 1 }

/-- An element of a list, or a default. -/
def nth {α : Type} (l : List α) (n : Nat) (dflt : α) : α := (l[n]?).getD dflt

/-- A list with an element at a place. Places before it that the list does not reach hold the default, so the element is there whatever
the list's length. -/
def putAt {α : Type} : List α → Nat → α → α → List α
  | [], 0, _, x => [x]
  | [], n + 1, dflt, x => dflt :: putAt [] n dflt x
  | _ :: l, 0, _, x => x :: l
  | a :: l, n + 1, dflt, x => a :: putAt l n dflt x

/-- Bytes of a number, least significant first (R2's byte order). -/
def leBytes (n v : Nat) : List Byte := (List.range n).map (fun i => BitVec.ofNat 8 (v / 256 ^ i))

/-- The number that little-endian bytes make. -/
def leNat (l : List Byte) : Nat := l.foldr (fun b a => b.toNat + 256 * a) 0

/-- n bytes of a list from an offset, little-endian; bytes past the end are 0. -/
def leAt (l : List Byte) (off n : Nat) : Nat := leNat ((l.drop off).take n)

/-- Notes an event of EVMASK for the recorders (R277). -/
def Dev.recNote (d : Dev) (n : Nat) : Dev :=
  if d.rcd.ev.testBit n then d else { d with rcd := { d.rcd with ev := d.rcd.ev + 2 ^ n } }

/-! ### Codes -/

/-- The origin codes of R372. -/
def Origin.code : Origin → Nat
  | .device => 0 | .pcie => 1 | .uart => 2 | .svc n => 3 + n.val | .partner => 7 | .witness => 8 | .jtag => 9

/-- The codes of TOP_STAT.DSTATE. -/
def DState.code : DState → Nat
  | .boot => 1 | .config => 2 | .discover => 3 | .sync => 4 | .armed => 5 | .run => 6 | .degraded => 7 | .blocked => 8
  | .halt => 9

/-- The device state of a code; the codes not used read as HALT. -/
def DState.ofCode (n : Nat) : DState :=
  match n with
  | 1 => .boot | 2 => .config | 3 => .discover | 4 => .sync | 5 => .armed | 6 => .run | 7 => .degraded | 8 => .blocked
  | _ => .halt

/-- The codes of TOP_STAT.ROLE. -/
def Role.code : Role → Nat
  | .solo => 0 | .active => 1 | .standby => 2 | .syncing => 3 | .witness => 4 | .faulted => 5

/-- The role of a code; the codes not used read as FAULTED. -/
def Role.ofCode (n : Nat) : Role :=
  match n with
  | 0 => .solo | 1 => .active | 2 => .standby | 3 => .syncing | 4 => .witness | _ => .faulted

/-- The codes of TOP_ARMSTATE. -/
def ArmState.code : ArmState → Nat
  | .blocked => 0 | .deblocking => 1 | .running => 2 | .blocking => 3

/-- The arm state of a code. -/
def ArmState.ofCode (n : Nat) : ArmState :=
  match n with
  | 0 => .blocked | 1 => .deblocking | 2 => .running | _ => .blocking

/-- The codes of HIF_EPRES.STATE (R377). -/
def EpState.code : EpState → Nat
  | .idle => 0 | .staging => 1 | .validating => 2 | .valid => 3 | .applying => 4

/-- The epoch state of a code. -/
def EpState.ofCode (n : Nat) : EpState :=
  match n with
  | 0 => .idle | 1 => .staging | 2 => .validating | 3 => .valid | _ => .applying

/-! ### Named state -/

/-- The device state (R460). -/
def Dev.dstate (d : Dev) : DState := .ofCode (d.get RST_STAT_DSTATE)

/-- The role (R292). -/
def Dev.role (d : Dev) : Role := .ofCode (d.get DPX_STAT_ROLE)

/-- The state of arm a (R210). -/
def Dev.arm (d : Dev) (a : Nat) : ArmState := .ofCode (d.get (SCH_ASTAT_ST a))

/-- The epoch state (R377). -/
def Dev.epState (d : Dev) : EpState := .ofCode (d.get HIF_EPRES_STATE)

/-- The indexes of the arms. -/
def allArms : List Nat := List.range 12

/-- An arm as it stands after reset (R210: arm state BLOCKED, which SCH_ASTAT holds; the active sets hold the shadows' reset
values). -/
def ArmCtl.init : ArmCtl :=
  ⟨none, false, false, false, 0, 0, 40, 0, 0, none, none, false, false, false, .device, 0⟩

/-- An arm's control state. -/
def Dev.armCtl (d : Dev) (a : Nat) : ArmCtl := nth d.arms a ArmCtl.init

/-- Changes an arm's control state. -/
def Dev.setArm (d : Dev) (a : Nat) (f : ArmCtl → ArmCtl) : Dev := { d with arms := putAt d.arms a ArmCtl.init (f (d.armCtl a)) }

/-- A signal slot's value, signed (R231). -/
def Dev.slot (d : Dev) (n : Nat) : Int := d.getS (LOOP_SLOT_VAL n)

/-- Writes a signal slot, saturating at the limits of Q7.24. -/
def Dev.setSlot (d : Dev) (n : Nat) (v : Int) : Dev := d.setSat (LOOP_SLOT_VAL n) v

/-- The indexes of the ring ports. -/
def ringPorts : List Nat := List.range 48

/-- Whether every arm state is BLOCKED. -/
def Dev.allBlocked (d : Dev) : Bool := allArms.all (fun a => d.arm a = .blocked)

/-- Whether the cycle timer runs (CYC_STAT.RUNNING). -/
def Dev.running (d : Dev) : Bool := d.is CYC_STAT_RUNNING

/-- The locking commit is done (R373). -/
def Dev.locked (d : Dev) : Bool := d.is HIF_EPRES_LOCKED

/-- Whether the device is held in reset (R457, R458), in which it acts on nothing but its reset lines. DEDUCED, log entry 8. -/
def Dev.held (d : Dev) : Bool := d.rst.porstLow || d.rst.brownLow || d.rst.srstLow || d.rst.internal

/-- A change that the device makes only while it is out of reset. -/
def Dev.live (d : Dev) (f : Dev → Dev) : Dev := if d.held then d else f d

/-! ### Time -/

/-- One TIM_WRAP.WR flag (R163). -/
def Dev.wrapped (d : Dev) (n : Nat) : Dev := d.raise TIM_WRAP_WR n

/-- The advance of a base over ns ACLK cycles of 1 ns with a signed rate word in 2⁻³² ns per ns: the advance in 2⁻¹⁶ ns
and the part below (R159). -/
def rateAdvance (ns sub : Nat) (rate : Int) : Nat × Nat :=
  let t := ((ns * 2 ^ 32 + sub : Nat) : Int) + rate * ns
  (t.toNat / 2 ^ 16, t.toNat % 2 ^ 16)

/-- Counts a base on and says whether it carried past 0xFFFF_FFFF ns (R163). -/
def countOn (tb : BitVec 48) (inc : Nat) : BitVec 48 × Bool := (tb + BitVec.ofNat 48 inc, decide (2 ^ 48 ≤ tb.toNat + inc))

/-- Counts the bases on by ns ACLK cycles: every base advances (R159), TB1 absorbs its slew at 2⁻¹⁰ ns per ns (R176), carries
set WR; none moves before the first lock or while ACLK stands. DEDUCED, log entry 12. -/
def Dev.basesOn (d : Dev) (ns : Nat) : Dev :=
  if d.time.on = false ∨ ns = 0 then d
  else
    let t := d.time
    let (i1, s1) := rateAdvance ns t.sub1 (d.getS TIM_TB1RATE_TB1RATE)
    let (i3, s3) := rateAdvance ns t.sub3 (d.getS TIM_TB3RATE_TB3RATE)
    let a : Int := clampInt (-(ns : Int)) ns t.slew
    let (b0, w0) := countOn t.tb0 (ns * 2 ^ 16)
    let (b1, w1) := countOn t.tb1 ((i1 : Int) + a * 64).toNat
    let (b2, w2) := countOn t.tb2 (ns * 2 ^ 16)
    let (b3, w3) := countOn t.tb3 i3
    let d := { d with time := { t with tb0 := b0, tb1 := b1, tb2 := b2, tb3 := b3, sub1 := s1, sub3 := s3,
                                       slew := t.slew - a, up := t.up + ns, pre := [] } }
    d |>.when w0 (·.wrapped 0) |>.when w1 (·.wrapped 1) |>.when w2 (·.wrapped 2) |>.when w3 (·.wrapped 3)

/-- ns pass: the bases count on, and the cast-iron oscillator counts whatever they do (R159, R349). DESIGN CHOICE, log entry 2.
-/
def Dev.elapse (d : Dev) (ns : Nat) : Dev :=
  let d := d.basesOn ns
  { d with time := { d.time with cio := d.time.cio + ns } }

/-- The ns word of a time base. -/
def nsOf (tb : BitVec 48) : Word := (tb >>> 16).setWidth 32

/-- The fraction word of a time base. -/
def fracOf (tb : BitVec 48) : Word := (tb.setWidth 16).setWidth 32

/-- A time base by its number (R158). -/
def Dev.tb (d : Dev) (n : Nat) : BitVec 48 :=
  match n with
  | 0 => d.time.tb0 | 1 => d.time.tb1 | 2 => d.time.tb2 | _ => d.time.tb3

/-- A TB0 instant n ns after another. -/
def plusNs (t : BitVec 48) (n : Nat) : BitVec 48 := t + BitVec.ofNat 48 (n * 2 ^ 16)

/-- ns from one instant to a later one, rounded up; 0 if the second is not later (within half the range of a base). -/
def nsUntil (now then_ : BitVec 48) : Nat :=
  let x := (then_ - now).toNat
  if 2 ^ 47 ≤ x then 0 else (x + 0xFFFF) / 2 ^ 16

/-- Time passes until TB0 reaches an instant; nothing passes if it already has. DESIGN CHOICE, log entry 6. -/
def Dev.advanceTo (d : Dev) (t : BitVec 48) : Dev := d.elapse (nsUntil d.time.tb0 t)

/-- Whole ns of TB0 since t₀ of the current cycle. DESIGN CHOICE, log entry 6. -/
def Dev.phaseNs (d : Dev) : Nat := (d.time.tb0 - d.cyc.t0).toNat / 2 ^ 16

/-! ### Device-to-host rings -/

/-- Entries of ring r, 2^SIZE (R359); SIZE above 16 acts as 16, the largest the index registers hold. -/
def Dev.ringSize (d : Dev) (r : Nat) : Nat := 2 ^ (min (d.get (HIF_RING_CTL_SIZE r)) 16)

/-- Entries between two indices, which run modulo 2^(SIZE+1) (R359). -/
def Dev.ringFill (d : Dev) (r : Nat) : Nat :=
  let m := 2 * d.ringSize r
  let p := d.get (HIF_RING_DIDX_DIDX r)
  let c := d.get (HIF_RING_HIDX_HIDX r)
  (p + m - c % m) % m

/-- Raises a ring's MSI-X vector (R363). DESIGN CHOICE, log entry 37. -/
def Dev.signal (d : Dev) (r : Nat) : Dev :=
  { d.emit (.msix r) with hif := { d.hif with unsig := putAt d.hif.unsig r 0 0 } }

/-- Counts an entry towards its ring's interrupt (R363). -/
def Dev.coalesce (d : Dev) (r : Nat) : Dev :=
  let n := nth d.hif.unsig r 0 + 1
  let d := { d with hif := { d.hif with unsig := putAt d.hif.unsig r 0 n } }
  let c := d.get (HIF_RING_CTL_COAL r)
  if c ≠ 0 ∧ c ≤ n then d.signal r else d

/-- The counter of R361 for a ring. DESIGN CHOICE, log entry 37. -/
def lostField (r : Nat) : Fld := if r = 1 then HIF_LOST_CPL else if r = 2 then HIF_LOST_EVT else HIF_LOST_TEL

/-- An entry of CPL, EVT or TEL that is dropped (R358, R361). -/
def Dev.loseEntry (d : Dev) (r : Nat) : Dev :=
  let d := d.count (lostField r) 1 |>.raise HIF_EVT_EVT 2
  { d with hif := { d.hif with lost := putAt d.hif.lost r false true } }

/-- The phase bit of index i in a ring of n entries: 1 on the first pass, inverting on each wrap (R360). -/
def phaseBit (i n : Nat) : Nat := if (i / n) % 2 = 0 then 1 else 0

/-- The place of the phase DW in an entry (R360): DW 7 of a REC entry, the last DW of the others. -/
def phasePlace (r : Nat) (dws : List Word) : Nat := if r = 5 then 7 else dws.length - 1

/-- Writes an entry to a device-to-host ring at its index: every other DW first, then the phase DW, then the interrupt (R360). -/
def Dev.writeEntry (d : Dev) (r : Nat) (mk : Bool → Nat → List Word) : Dev :=
  let n := d.ringSize r
  let i := d.get (HIF_RING_DIDX_DIDX r)
  let e := mk (nth d.hif.lost r false) (phaseBit i n)
  let d := { d with hif := { d.hif with lost := putAt d.hif.lost r false false } }
  let p := phasePlace r e
  ((d.emit (.hostEntry r (i % n) (e.take p) (e.drop (p + 1)))).emit (.hostPhase r (i % n) p (nth e p 0))).set (HIF_RING_DIDX_DIDX r)
    ((i + 1) % (2 * n)) |>.coalesce r

/-- An entry due for CPL, EVT or TEL: written, dropped and counted while the ring is full or the device is no bus master
(R358, R361), not written at all while the ring's EN is 0 (R359). -/
def Dev.pushEntry (d : Dev) (r : Nat) (mk : Bool → Nat → List Word) : Dev :=
  if d.is (HIF_RING_CTL_EN r) = false then d
  else if d.is HIF_STAT_BME = false ∨ d.ringFill r = d.ringSize r then d.loseEntry r
  else d.writeEntry r mk

/-- A DW from a number. -/
def dw (v : Nat) : Word := BitVec.ofNat 32 v

/-- Posts an event (R371): code, origin and argument. -/
def Dev.event (d : Dev) (code : Nat) (o : Origin) (arg : Nat) : Dev :=
  d.pushEntry 2 (fun lost ph =>
    [dw (code + o.code * 2 ^ 16 + (if lost then 2 ^ 24 else 0)), nsOf d.time.tb1, d.word CYC_NUM,
     dw (arg % 2 ^ 31 + ph * 2 ^ 31)])

/-- Enters an epoch state and posts EPSTATE (R371, R377). -/
def Dev.epEnter (d : Dev) (st : EpState) (reason : Nat) (o : Origin) : Dev :=
  d.set HIF_EPRES_STATE st.code |>.event 0x10 o (st.code + reason * 8)

/-- Discovery of a port starts while the epoch is VALID (R377). -/
def Dev.epDisc (d : Dev) (o : Origin) : Dev := if d.epState = .valid then d.epEnter .staging 0 o else d

/-! ### Audit entries -/

/-- Sets AUD_STAT.FULL from the queue's length and AUD_EVT.0 when it rises (R387). -/
def Dev.audFull (d : Dev) : Dev :=
  let f := decide (224 ≤ d.aud.queue.length)
  let d := if f ∧ d.is AUD_STAT_FULL = false then d.raise AUD_EVT_EVT 0 else d
  d.setB AUD_STAT_FULL f

/-- Appends an audit entry to the queue (R384, R387). -/
def Dev.audit (d : Dev) (kind code : Nat) (a0 a1 : Nat) (o : Origin) : Dev :=
  let e : AudItem := ⟨nsOf d.time.tb1, nsOf d.time.tb0, o.code, kind, code, dw a0, dw a1⟩
  { d with aud := ⟨d.aud.queue ++ [e]⟩ } |>.audFull

/-- Whether the audit queue withholds what an origin starts (R387): never the device, the partner or the witness. DEDUCED, log
entry 41. -/
def Dev.withheld (d : Dev) (o : Origin) : Bool :=
  d.is AUD_STAT_FULL && (match o with | .device | .partner | .witness => false | _ => true)

/-! ### Device state -/

/-- Enters a device state: RST_STAT, RST_EVT.DSTCHG and the audit entry of kind 0x60 (R460). -/
def Dev.enter (d : Dev) (n : DState) (o : Origin) : Dev :=
  if d.dstate = n then d
  else
    let old := d.dstate.code
    d.set RST_STAT_DSTATE n.code |>.raise RST_EVT_EVT 0 |>.audit 0x60 n.code old 0 o

/-- The number of the current cycle. -/
def Dev.cycle (d : Dev) : Word := d.word CYC_NUM

/-! ### Perturbations -/

/-- A perturbation's register (R483). -/
def Pert.off : Pert → Nat
  | .dep => DIAG_PDEP | .fwd => DIAG_PFWD | .thr => DIAG_PTHR | .slot => DIAG_PSLOT | .ing => DIAG_PING | .hb => DIAG_PHB
  | .dly => DIAG_PDLY

/-- EN of a perturbation. -/
def Pert.en (p : Pert) : Fld := ⟨p.off, 31, 31⟩

/-- DUR of a perturbation. -/
def Pert.dur (p : Pert) : Fld := ⟨p.off, 30, 24⟩

/-- Whether a perturbation is active: switched on at a boundary, and DUR boundaries have not passed (R485). -/
def Dev.perturbed (d : Dev) (p : Pert) : Bool :=
  d.diag.active.any (fun x => x.1 == p && (d.get p.dur == 0 || decide (x.2 ≤ d.get p.dur)))

/-! ### Ring ports -/

/-- A ring port with nothing received, discovered or staged. -/
def PortState.init : PortState :=
  ⟨false, false, false, none, none, 0, 0, 0, none, none, 0, 0, none, none, [], 0, 0, 0, 0, none, none⟩

/-- A ring port's state. -/
def Dev.port (d : Dev) (p : Nat) : PortState := nth d.ports p PortState.init

/-- Changes a ring port's state. -/
def Dev.setPort (d : Dev) (p : Nat) (f : PortState → PortState) : Dev := { d with ports := putAt d.ports p PortState.init (f (d.port p)) }

/-- Whether a port is in use (R64). -/
def Dev.inUse (d : Dev) (p : Nat) : Bool := d.is (RING_CTRL_EN p)

/-- The ends a port drives (R64). -/
def Dev.ends (d : Dev) (p : Nat) : List Nat :=
  if d.is (RING_CTRL_DPX p) then [d.get (RING_CTRL_OWNEND p)] else [0, 1]

/-- The arm that the port's cells belong to (R94). -/
def Dev.portArm (d : Dev) (p : Nat) : Nat := d.get (RING_MAP_ARM p)

/-- The ports in use of an arm. -/
def Dev.armPorts (d : Dev) (a : Nat) : List Nat := ringPorts.filter (fun p => d.inUse p && d.portArm p == a)

/-- The discovered cells of a port, by cell index. -/
def Dev.portCells (d : Dev) (p : Nat) : List Nat := (List.range (d.port p).discovered).map (fun i => 128 * p + i)

/-- Whether a cell is mapped (R519). -/
def Dev.mapped (d : Dev) (c : Nat) : Bool := d.is (CELL_W1C_MAPPED c)

/-- The mapped cells of an arm in order of cell index (R94). -/
def Dev.armCells (d : Dev) (a : Nat) : List Nat :=
  (ringPorts.filter (fun p => d.portArm p == a)).flatMap
    (fun p => (d.portCells p).filter (fun c => d.mapped c && d.get (CELL_W1C_ARM c) == a))

/-! ### Memory errors -/

/-- Holds the location of an error (MEM_ERRLOC): the first after the last read; an uncorrectable one replaces a correctable. -/
def Dev.errLoc (d : Dev) (mem : Nat) (uncorr : Bool) (port addr : Nat) : Dev :=
  if d.is MEM_ERRLOC_VALID ∧ (d.is MEM_ERRLOC_UNCORR ∨ uncorr = false) then d
  else d.set MEM_ERRLOC_VALID 1 |>.set MEM_ERRLOC_MEM mem |>.setB MEM_ERRLOC_UNCORR uncorr |>.set MEM_ERRLOC_PORT port
    |>.set MEM_ERRADDR_ADDR (addr / 8)

/-- An error in a DDR4 beat (R419). -/
def Dev.ddrFault (d : Dev) (k : DdrFault) (port addr : Nat) : Dev :=
  match k with
  | .ce => d.raise MEM_EVT_EVT 4 |>.count MEM_CECNT_DDRCE 1 |>.errLoc 3 false port addr
  | .ue => d.raise MEM_EVT_EVT 5 |>.count MEM_ERRCNT_UE 1 |>.errLoc 3 true port addr
  | .adr => d.raise MEM_EVT_EVT 6 |>.count MEM_ERRCNT_UE 1 |>.errLoc 3 true port addr

/-- An uncorrectable error in a word of MRAM (R418). -/
def Dev.mramUe (d : Dev) (addr : Nat) : Dev :=
  d.raise MEM_EVT_EVT 3 |>.count MEM_ERRCNT_UE 1 |>.errLoc 2 true 0x7F addr

end Sys2Proof.Machine
end

