-- ==== Sys2Proof/Machine/CodeGroup.lean ====
section
/-! DEFINITION. The witness links' code groups and messages (R315): 8b/10b as IEEE 802.3 clause 36 defines it, K27.7, 16 data bytes,
CRC-16, K29.7. The manual names the code; its tables are those of the standard (PRESUMED, notes/assumptions/65). -/

namespace Sys2Proof.Machine

open Sys2Proof

/-- Six-bit blocks abcdei of D.0 to D.31 and K.28 for running disparity −1. -/
def blocks6 : List Nat :=
  [0b100111, 0b011101, 0b101101, 0b110001, 0b110101, 0b101001, 0b011001, 0b111000, 0b111001, 0b100101, 0b010101]
    ++ [0b110100, 0b001101, 0b101100, 0b011100, 0b010111, 0b011011, 0b100011, 0b010011, 0b110010, 0b001011, 0b101010]
    ++ [0b011010, 0b111010, 0b110011, 0b100110, 0b010110, 0b110110, 0b001110, 0b101110, 0b011110, 0b101011, 0b001111]

/-- Four-bit blocks fghj of y = 0 to 7 for running disparity −1; the last for D.x.A7 and K.x.7. -/
def blocks4 : List Nat := [0b1011, 0b1001, 0b0101, 0b1100, 0b1101, 0b1010, 0b0110, 0b1110, 0b0111]

/-- The ones in the n low bits of a number. -/
def onesIn (n v : Nat) : Nat := ((List.range n).filter v.testBit).length

/-- A block for a running disparity: complemented for +1 if it is unbalanced, or is one of the two balanced ones that alternate; with the
disparity behind it. -/
def forDisparity (n v : Nat) (plus : Bool) : Nat × Bool :=
  let uneven := onesIn n v * 2 != n
  let flips := uneven || (n == 6 && v == 0b111000) || (n == 4 && v == 0b1100)
  (if plus && flips then 2 ^ n - 1 - v else v, plus ^^ uneven)

/-- Whether D.x.7 takes its alternate block at a running disparity. -/
def alternate7 (x : Nat) (plus : Bool) : Bool :=
  if plus then x == 11 || x == 13 || x == 14 else x == 17 || x == 18 || x == 20

/-- The code group of a byte, data or control, abcdeifghj with a highest, and the disparity behind it. Of the control groups K.28.y with
y ≠ 7, whose second block is complemented, only K28.5 occurs. -/
def encodeGroup (control : Bool) (b : Nat) (plus : Bool) : BitVec 10 × Bool :=
  let x := b % 32
  let y := b / 32
  let (h, p) := forDisparity 6 (nth blocks6 (if control && x == 28 then 32 else x) 0) plus
  if control && x == 28 then
    (BitVec.ofNat 10 (h * 16 + (if p then 0b1010 else 0b0101)), p)
  else
    let (l, q) := forDisparity 4 (nth blocks4 (if y = 7 ∧ (control ∨ alternate7 x p) then 8 else y) 0) p
    (BitVec.ofNat 10 (h * 16 + l), q)

/-- Code groups one after another. PRESUMED, log entry 65. -/
def encodeGroups (plus : Bool) : List (Bool × Nat) → List (BitVec 10)
  | [] => []
  | (k, b) :: l => let (g, p) := encodeGroup k b plus; g :: encodeGroups p l

/-- The index of the block that a received block is, at either disparity. -/
def blockIndex (n : Nat) (l : List Nat) (v : Nat) : Option Nat :=
  (List.range l.length).find? (fun i =>
    (forDisparity n (nth l i 0) false).1 == v || (forDisparity n (nth l i 0) true).1 == v)

/-- The control bytes K28.5, K27.7 and K29.7. -/
def kIdle : Nat := 0xBC
def kStart : Nat := 0xFB
def kEnd : Nat := 0xFD

/-- A received code group: one of the three control groups, else data, else none. -/
def decodeGroup (g : BitVec 10) : Option (Bool × Nat) :=
  let k := [kIdle, kStart, kEnd].find? (fun b => (encodeGroup true b false).1 == g || (encodeGroup true b true).1 == g)
  match k with
  | some b => some (true, b)
  | none =>
    match blockIndex 6 blocks6 (g.toNat / 16), blockIndex 4 blocks4 (g.toNat % 16) with
    | some x, some y => if x < 32 then some (false, min y 7 * 32 + x) else none
    | _, _ => none

/-- What a message sends between idles: K27.7, 16 bytes, CRC-16 most significant byte first, K29.7 (R315). -/
def witnessFrame (b : List Byte) : List (Bool × Nat) :=
  let c := (crc16Bytes b).toNat
  (true, kStart) :: (b.map (fun x => (false, x.toNat)) ++ [(false, c / 256), (false, c % 256), (true, kEnd)])

/-- The code groups of a message from a running disparity. PRESUMED, log entry 65. -/
def witnessGroups (plus : Bool) (b : List Byte) : List (BitVec 10) := encodeGroups plus (witnessFrame b)

/-- The 16 bytes of a received message: 20 code groups, framed, with a good CRC. PRESUMED, log entry 65. -/
def witnessBytes (gs : List (BitVec 10)) : Option (List Byte) :=
  match gs.mapM decodeGroup with
  | some ((true, k) :: l) =>
    if k = kStart ∧ l.length = 19 ∧ l[18]? = some (true, kEnd) ∧ (l.take 18).all (fun x => !x.1) then
      let b := (l.take 18).map (fun x => BitVec.ofNat 8 x.2)
      if crc16Bytes b = 0 then some (b.take 16) else none
    else none
  | _ => none

end Sys2Proof.Machine
end

