-- ==== Sys2Proof/Machine/LineCode.lean ====
section
/-! DEFINITION. The line coding of the lanes (R99 to R109, R113): scrambler, block headers, Gray map, precoder, inversion, equaliser;
frames on data blocks and the receiver's search for them. -/

namespace Sys2Proof.Machine

open Sys2Proof

/-! ### Steps -/

/-- The Gray map of R100: two bits, the first the more significant, to a symbol value. -/
def grayOf (b1 b0 : Bool) : Nat :=
  match b1, b0 with
  | false, false => 0 | false, true => 1 | true, true => 2 | true, false => 3

/-- The bits of a symbol value. -/
def grayBits (d : Nat) : Bool × Bool :=
  match d with
  | 0 => (false, false) | 1 => (false, true) | 2 => (true, true) | _ => (true, false)

/-- The line level of a symbol value, in thirds of the peak (R100). -/
def lineLevel (d : Nat) : Int := 2 * (d : Int) - 3

/-- The symbol value that the receiver decides on for a level (R100, R116). -/
def sliceLevel (l : Int) : Nat := if l < -2 then 0 else if l < 0 then 1 else if l < 2 then 2 else 3

/-- The transmit precoder from s(n−1) (R101). -/
def precode (prev : Nat) : List Nat → List Nat
  | [] => []
  | d :: ds => let s := (d + 4 - prev) % 4; s :: precode s ds

/-- The receive precoder from s(n−1) (R101). -/
def unprecode (prev : Nat) : List Nat → List Nat
  | [] => []
  | s :: ss => (s + prev) % 4 :: unprecode s ss

/-- Inversion of a level (R103). -/
def invertLevel (inv : Bool) (l : Int) : Int := if inv then -l else l

/-- One step of the scrambler (R105): the register holds the last 58 line bits, the newest in bit 0. -/
def scrambleBit (sr : BitVec 58) (b : Bool) : Bool × BitVec 58 :=
  let s := b ^^ sr.getLsbD 38 ^^ sr.getLsbD 57
  (s, (sr <<< 1) ||| (if s then 1 else 0))

/-- One step of the descrambler (R105). -/
def descrambleBit (sr : BitVec 58) (s : Bool) : Bool × BitVec 58 :=
  (s ^^ sr.getLsbD 38 ^^ sr.getLsbD 57, (sr <<< 1) ||| (if s then 1 else 0))

/-- The scrambler over payload bits in line order. -/
def scramble (sr : BitVec 58) : List Bool → List Bool × BitVec 58
  | [] => ([], sr)
  | b :: bs =>
    let (s, sr) := scrambleBit sr b
    let (ss, sr) := scramble sr bs
    (s :: ss, sr)

/-- The descrambler over line bits. -/
def descramble (sr : BitVec 58) : List Bool → List Bool × BitVec 58
  | [] => ([], sr)
  | s :: ss =>
    let (b, sr) := descrambleBit sr s
    let (bs, sr) := descramble sr ss
    (b :: bs, sr)

/-- What a block's sync header marks (R104). -/
inductive BlockKind where
  | data | control | invalid
  deriving DecidableEq, Repr

/-- The sync header of R104, bit [1] first. -/
def headerKind (b1 b0 : Bool) : BlockKind :=
  match b1, b0 with
  | false, true => .data | true, false => .control | _, _ => .invalid

/-- The header that a block is sent with, bit [1] first (R104). -/
def headerBits (control : Bool) : List Bool := [control, !control]

/-- The type of a control block's first 8 payload bits (R106): FILL, ALIGN or reserved. -/
inductive ControlKind where
  | fill | align | reserved
  deriving DecidableEq, Repr

/-- A control block's kind; ALIGN only on Solder lanes (R106). -/
def controlKind (type : Nat) (solder : Bool) : ControlKind :=
  if type = 0x00 then .fill else if type = 0x5A ∧ solder then .align else .reserved

/-- The peak differential swing in mV (R113). -/
def swingMv (swing : Nat) : Nat := 400 + 40 * swing

/-- The driven voltage of R113 in 2 × 3 × 48 parts of a mV: levels in thirds, x(n+1), x(n), x(n−1). -/
def drivenVoltage (swing pre post : Nat) (next cur prev : Int) : Int :=
  (swingMv swing : Int) * (-(pre : Int) * next + (48 - pre - post : Int) * cur - (post : Int) * prev)

/-! ### Bits and blocks -/

/-- The n low bits of a number, most significant first (R66). -/
def bitsMsb (n v : Nat) : List Bool := (List.range n).map (fun i => v.testBit (n - 1 - i))

/-- The number that bits make, most significant first. -/
def ofBits (l : List Bool) : Nat := l.foldl (fun v b => 2 * v + (if b then 1 else 0)) 0

/-- The bit sequence of a frame (R66). -/
def Frame.bits (f : Frame) : List Bool :=
  bitsMsb 256 f.hdr.toNat ++ f.slots.flatMap (fun s => bitsMsb 128 s.toNat) ++ bitsMsb 64 f.trailer.toNat

/-- A list in pieces of k, at most n of them; what is left of less than k is dropped. -/
def pieces {α : Type} (k : Nat) : Nat → List α → List (List α)
  | 0, _ => []
  | n + 1, l => if l.length < k then [] else l.take k :: pieces k n (l.drop k)

/-- A block before scrambling: whether it is a control block, and its 128 payload bits. -/
abbrev Block := Bool × List Bool

/-- A FILL block (R106). -/
def fillBlock : Block := (true, List.replicate 128 false)

/-- An ALIGN block (R106): type, SEQ in payload bits [119:112], RXUP in [111]. -/
def alignBlock (seq : BitVec 8) (rxup : Bool) : Block :=
  (true, bitsMsb 8 0x5A ++ bitsMsb 8 seq.toNat ++ rxup :: List.replicate 111 false)

/-- A frame's bits on data blocks, the first at payload bit `phase` of its block; payload bits before and after are 0 (R107). -/
def frameBlocks (phase : Nat) (bits : List Bool) : List Block :=
  let l := List.replicate phase false ++ bits
  let l := l ++ List.replicate ((128 - l.length % 128) % 128) false
  (pieces 128 (l.length / 128) l).map (fun p => (false, p))

/-! ### Transmit (R99) -/

/-- A lane's line coding as it enters SIGNAL for the first time. -/
def LineState.init : LineState := ⟨0, 0, 0, 0, 0, false, 0, 0, none⟩

/-- The line bits of blocks: payload scrambled, header prefixed unscrambled (R99, R104, R105). -/
def blockBits (sr : BitVec 58) (bs : List Block) : List Bool × BitVec 58 :=
  bs.foldl (fun (acc : List Bool × BitVec 58) b =>
    let (s, sr) := scramble acc.2 b.2
    (acc.1 ++ headerBits b.1 ++ s, sr)) ([], sr)

/-- Line bits in pairs, as symbol values (R99, R100). -/
def graySymbols : List Bool → List Nat
  | b1 :: b0 :: bs => grayOf b1 b0 :: graySymbols bs
  | _ => []

/-- The levels that a transmitter makes of blocks, and its state after them (R99 to R105): scrambler, headers, pairs, Gray map,
precoder if on, inversion if on. -/
def LineState.transmit (x : LineState) (pre inv : Bool) (bs : List Block) : List Int × LineState :=
  let (bits, sr) := blockBits x.txSr bs
  let d := graySymbols bits
  let s := if pre then precode x.txPrev d else d
  let ls := s.map (fun v => invertLevel inv (lineLevel v))
  (ls, { x with txSr := sr, txPrev := s.getLastD x.txPrev, txLevel := ls.getLastD x.txLevel })

/-- The voltages of levels after a level, before a next one (R113). -/
def equalise (swing pre post : Nat) (prev : Int) : List Int → Int → List Int
  | [], _ => []
  | [l], next => [drivenVoltage swing pre post next l prev]
  | l :: m :: ls, next => drivenVoltage swing pre post m l prev :: equalise swing pre post l (m :: ls) next

/-! ### Receive -/

/-- A received block: what its header marks, and its payload after the descrambler. -/
abbrev RxBlock := BlockKind × List Bool

/-- One block of 130 line bits (R104, R105). -/
def rxBlock (sr : BitVec 58) (b : List Bool) : RxBlock × BitVec 58 :=
  let (p, sr) := descramble sr (b.drop 2)
  ((headerKind (b.headD false) ((b.drop 1).headD false), p), sr)

/-- The blocks of line bits. -/
def rxBlocks (sr : BitVec 58) (bs : List (List Bool)) : List RxBlock × BitVec 58 :=
  bs.foldl (fun (acc : List RxBlock × BitVec 58) b =>
    let (r, sr) := rxBlock acc.2 b
    (acc.1 ++ [r], sr)) ([], sr)

/-- The blocks that a receiver makes of levels, and its state after them (R99 to R105): inversion if on, decision, precoder if on, Gray
map, headers, descrambler. A block has 65 symbols. -/
def LineState.receive (x : LineState) (pre inv : Bool) (ls : List Int) : List RxBlock × LineState :=
  let s := ls.map (fun l => sliceLevel (invertLevel inv l))
  let d := if pre then unprecode x.rxPrev s else s
  let bits := d.flatMap (fun v => [(grayBits v).1, (grayBits v).2])
  let (bs, sr) := rxBlocks x.rxSr (pieces 130 (bits.length / 130) bits)
  (bs, { x with rxSr := sr, rxPrev := s.getLastD x.rxPrev })

/-- Whether a received block counts in HDRERR: an invalid header or a reserved control block (R106, R109). -/
def RxBlock.bad (b : RxBlock) (solder : Bool) : Bool :=
  match b.1 with
  | .data => false
  | .invalid => true
  | .control => controlKind (ofBits (b.2.take 8)) solder == .reserved

/-- The SYNC pattern of R67. -/
def syncWord : Nat := 0xC5E19A3B

/-- The end marker of R72. -/
def endMarker : Nat := 0x9E3D71C2

/-- The frame that n received bits make; cut off if it has fewer bits than its header names. -/
def Frame.ofBits (v n : Nat) : Frame :=
  let h := if n < 256 then v * 2 ^ (256 - n) else v / 2 ^ (n - 256)
  let slots := h / 2 ^ 50 % 256
  let got := (n - 256) / 128
  let whole := decide (320 + 128 * slots ≤ n)
  ⟨BitVec.ofNat 256 h, (List.range (min slots got)).map (fun i => BitVec.ofNat 128 (v / 2 ^ (n - 256 - 128 * (i + 1)))),
    if whole then BitVec.ofNat 64 v else 0, whole⟩

/-- One payload bit of a data block: the search for SYNC, or the next bit of the frame in reception (R108). -/
def LineState.bit (x : LineState) (b : Bool) : LineState × Option Frame :=
  let v := if b then 1 else 0
  match x.frame with
  | some (w, n, need) =>
    let w := 2 * w + v
    let n := n + 1
    let need := if n = 256 then 320 + 128 * (w / 2 ^ 50 % 256) else need
    if n = need then ({ x with frame := none, armed := w % 2 ^ 32 == endMarker, win := 0, winLen := 0 }, some (Frame.ofBits w n))
    else ({ x with frame := some (w, n, need) }, none)
  | none =>
    if x.armed then
      let w := (2 * x.win + v) % 2 ^ 32
      if 31 ≤ x.winLen ∧ w = syncWord then ({ x with frame := some (w, 32, 0), armed := false, win := 0, winLen := 0 }, none)
      else ({ x with win := w, winLen := x.winLen + 1 }, none)
    else (x, none)

/-- What a receiver has found in blocks: its state and the frames, newest first. -/
abbrev Found := LineState × List Frame

/-- One payload bit. -/
def Found.bit (a : Found) (b : Bool) : Found :=
  match a.1.bit b with
  | (x, some f) => (x, f :: a.2)
  | (x, none) => (x, a.2)

/-- The frame in reception ends where it is (R120). -/
def Found.cut (a : Found) : Found :=
  match a.1.frame with
  | some (w, n, _) => ({ a.1 with frame := none }, Frame.ofBits w n :: a.2)
  | none => a

/-- One block on a ring lane: the bits of a data block, and of one with an invalid header, are searched; a control block ends what was in
reception, and a frame may start after it (R106, R108, R109). -/
def Found.block (a : Found) (b : RxBlock) : Found :=
  match b.1 with
  | .control => let c := a.cut; ({ c.1 with armed := true, win := 0, winLen := 0 }, c.2)
  | _ => b.2.foldl Found.bit a

/-- The frames in received blocks, in order of arrival. -/
def LineState.search (x : LineState) (bs : List RxBlock) : List Frame × LineState :=
  let a := bs.foldl Found.block (x, [])
  (a.2.reverse, a.1)

end Sys2Proof.Machine
end

