-- ==== Sys2Proof/Machine/ArmUnit.lean ====
section
/-! DEFINITION. The arm unit: standing, budget, estimation, prediction, ranking and arm signals of one sort (R180 to R206). -/

namespace Sys2Proof.Machine

open Sys2Proof

/-- The standings of R184. -/
inductive Standing where
  | faulted | excluded | stale | diverged | fresh
  deriving DecidableEq, Repr

/-- Division rounding towards zero; a divisor of 0 gives 0 (R189, R520). -/
def divZ (a b : Int) : Int := a.tdiv b

/-- Arithmetic shift right. -/
def shr (a : Int) (n : Nat) : Int := a.fdiv (2 ^ n)

/-- Saturation to n bits, signed (R189). -/
def satS (n : Nat) (v : Int) : Int := clampInt (-(2 ^ (n - 1))) (2 ^ (n - 1) - 1) v

/-- Status bits of the cell's last fresh sample (R154). -/
def Dev.cellStat (d : Dev) (c n : Nat) : Bool := d.bit (CELL_W04_STAT c) n

/-- The hold count in the cell's last fresh sample (R154). -/
def Dev.cellHcnt (d : Dev) (c : Nat) : Nat := d.get (CELL_W04_STAT c) / 256 % 16

/-- Whether the cell is stale (R81). -/
def Dev.cellStale (d : Dev) (c : Nat) : Bool := d.is (CELL_W0C_STALE c)

/-- A cell's standing in the sort of arm a (R184). -/
def Dev.standing (d : Dev) (a c : Nat) : Standing :=
  let stale := d.cellStale c
  let clean := d.cellHcnt c = 0 ∧ d.cellStat c 5 = false
  if d.is (CELL_W3C_FLTP c) ∨ (stale = false ∧ (d.cellStat c 3 ∨ d.cellStat c 4)) then .faulted
  else if (stale ∧ d.get (ARM_SELCFG_STALEMAX a) ≤ d.get (CELL_W0C_STALERUN c)) ∨
      (d.is (CELL_W3C_EXCL c) ∧ ¬ (stale = false ∧ clean)) then .excluded
  else if stale then .stale
  else if clean then .fresh
  else .diverged

/-- A standing that is ranked (R184). -/
def Standing.ranked : Standing → Bool
  | .faulted | .excluded => false
  | _ => true

/-- The conduction sign of a start state (R189). -/
def conduct (st : Nat) : Int := if st = 1 then 1 else if st = 2 then -1 else 0

/-- The arm current of the slot that ARM_ISRC names, in mA (R181, R189). -/
def Dev.armCurrent (d : Dev) (a : Nat) : Int :=
  let v := satS 40 (shr (d.slot (d.get (ARM_ISRC_SLOT a)) * d.get (ARM_ISCALE_ISCALE a)) 24)
  if d.is (ARM_CFG_IPOL a) then satS 40 (-v) else v

/-- The terminal voltage of the last fresh sample in mV (R189). -/
def Dev.vRaw (d : Dev) (c : Nat) : Int :=
  satS 32 (((d.get (CELL_W00_VCAP c) * (d.get (CELL_W10_ENUM_HI c) % 2 ^ 16) * 100) >>> 16 : Nat) : Int)

/-- The capacitance that the prediction uses (R190, R194). -/
def Dev.cEff (d : Dev) (a c : Nat) : Nat :=
  if d.get (CELL_W38_NEST c) < d.get (ARM_ESTCFG_NMIN a) then d.get (ARM_CNOM_CNOM a) else d.get (CELL_W24_CEST c)

/-- The capacitor voltage at t₀(k) of a fresh cell: the sample less the ESR drop (R190). -/
def Dev.vCap (d : Dev) (c : Nat) (ik : Int) : Int :=
  satS 32 (d.vRaw c - divZ (conduct (d.get (CELL_W3C_ST0 c)) * ik * d.get (CELL_W34_ESR c)) 1000000)

/-- The budget step (R201). -/
def Dev.budget (d : Dev) (a c : Nat) : Dev :=
  let cap := d.get (ARM_BUDCAP_CAP a) * 0x10000
  let b := min (d.get (CELL_W38_BUD c) + d.get (ARM_BUDRATE_RATE a)) cap
  if (d.armCtl a).ranNow then
    let sig := d.getS (CELL_W28_SIG0 c)
    let ntr := (if d.get (CELL_W3C_ST0 c) ≠ d.get (CELL_W3C_STP c) then 1 else 0)
      + (if sig ≠ 0 ∧ sig ≠ 16384 ∧ sig ≠ -16384 then 2 else 0)
    if b < ntr * 0x10000 then
      d.set (CELL_W38_BUD c) 0 |>.count (ARM_CNT_BUDOVR a) 1 |>.set (ARM_EVT_BUDOVR a) 1
    else d.set (CELL_W38_BUD c) (b - ntr * 0x10000)
  else d.set (CELL_W38_BUD c) b

/-- Clears the accumulators (R193, clear_acc). -/
def Dev.clearAcc (d : Dev) (c : Nat) : Dev :=
  d.set (CELL_W2C_QACC c) 0 |>.set (CELL_W2C_DVACC c) 0 |>.set (CELL_W3C_NACC c) 0

/-- A restart of the estimation (R192). -/
def Dev.estRestart (d : Dev) (c : Nat) (fresh : Bool) : Dev :=
  let d := d.clearAcc c
  if fresh then d.setS (CELL_W30_VLAST c) (d.vRaw c) |>.set (CELL_W3C_FPREV c) 1 else d.set (CELL_W3C_FPREV c) 0

/-- The ageing alarms after an estimation step (R195). -/
def Dev.ageing (d : Dev) (a c : Nat) : Dev :=
  if d.get (CELL_W38_NEST c) < d.get (ARM_ESTCFG_NMIN a) then d
  else
    let cnom := d.get (ARM_CNOM_CNOM a)
    let cl := d.get (ARM_AGE_CLIM a)
    let ce := d.get (CELL_W24_CEST c)
    let d :=
      if ce < cnom * cl / 256 then
        (if d.is (CELL_W3C_AGEC c) then d else d.set (ARM_EVT_AGEC a) 1).set (CELL_W3C_AGEC c) 1
      else if cnom * (cl + 4) / 256 ≤ ce then d.set (CELL_W3C_AGEC c) 0
      else d
    let rl := d.get (ARM_AGE_RLIM a)
    let esr := d.get (CELL_W34_ESR c)
    if rl ≠ 0xFFFF ∧ rl < esr then
      (if d.is (CELL_W3C_AGER c) then d else d.set (ARM_EVT_AGER a) 1).set (CELL_W3C_AGER c) 1
    else if esr ≤ rl * 15 / 16 then d.set (CELL_W3C_AGER c) 0
    else d

/-- The capacitance step of R193 on the accumulators; CEST saturates at its 32 bits (R189). -/
def Dev.capStep (d : Dev) (a c : Nat) (q dv : Int) : Dev :=
  let n := d.get (CELL_W3C_NACC c) + 1
  let d1 := d.setS (CELL_W2C_QACC c) q |>.setS (CELL_W2C_DVACC c) dv |>.set (CELL_W3C_NACC c) n
  if q ≠ satS 16 q ∨ dv ≠ satS 16 dv then d.clearAcc c
  else if 100 * d.get (ARM_ESTTH_QMIN a) ≤ q.natAbs ∧ d.get (ARM_ESTTH_DVMIN a) ≤ dv.natAbs ∧ dv ≠ 0 ∧
      q.sign = dv.sign then
    let cn := divZ (q * 2560000) dv
    let cnom : Int := d.get (ARM_CNOM_CNOM a)
    let d := if divZ cnom 4 ≤ cn ∧ cn ≤ 4 * cnom then
        let ce : Int := d.get (CELL_W24_CEST c)
        d.set (CELL_W24_CEST c) (clampInt 0 0xFFFFFFFF (ce + shr (cn - ce) (d.get (ARM_ESTCFG_KEST a)))).toNat
          |>.count (CELL_W38_NEST c) 1
      else d.count (ARM_CNT_ESTREJ a) 1 |>.set (ARM_EVT_ESTREJ a) 1
    d.clearAcc c
  else if d.get (ARM_ESTLIM_NACCMAX a) ≤ n then d.clearAcc c
  else d1

/-- The ESR step of R193. -/
def Dev.esrStep (d : Dev) (a c : Nat) (ik : Int) : Dev :=
  let c0 := conduct (d.get (CELL_W3C_ST0 c))
  if d.getS (CELL_W34_SIGP c) = 0 ∧ conduct (d.get (CELL_W3C_STP c)) = 0 ∧ c0 ≠ 0 ∧
      1000 * d.get (ARM_ESTLIM_IMIN a) ≤ ik.natAbs then
    let r := divZ ((d.vRaw c - d.getS (CELL_W30_VLAST c)) * 1000000) (c0 * ik)
    let esr : Int := d.get (CELL_W34_ESR c)
    if 0 ≤ r then d.set (CELL_W34_ESR c) (min (esr + shr (r - esr) (d.get (ARM_ESTCFG_KESR a))) 0xFFFF).toNat else d
  else d

/-- Whether the estimation of a cell runs (R192). -/
def Dev.estRuns (d : Dev) (a c : Nat) (st : Standing) : Bool :=
  let ctl := d.armCtl a
  st == .fresh && d.is (ARM_CFG_EST a) && ctl.ranPrev && ctl.ranNow && d.get (CELL_W3C_ST0 c) != 3 && d.get (CELL_W3C_STP c) != 3

/-- The estimation step of R193, from its second line on. -/
def Dev.estStep (d : Dev) (a c : Nat) (ik ip vc : Int) : Dev :=
  let qw := divZ ((ip + ik) * d.getS (CELL_W34_SIGP c) * d.get CYC_PERIOD_PERIOD) (2 * 2 ^ 14 * 10 ^ 7)
  let vcp := d.getS (CELL_W30_VLAST c)
    - divZ (conduct (d.get (CELL_W3C_STP c)) * ip * d.get (CELL_W34_ESR c)) 1000000
  let d := d.capStep a c (d.getS (CELL_W2C_QACC c) + qw) (d.getS (CELL_W2C_DVACC c) + (vc - vcp)) |>.esrStep a c ik
  d.setS (CELL_W30_VLAST c) (d.vRaw c) |>.set (CELL_W3C_FPREV c) 1

/-- The estimation of one cell (R192, R193), and its alarms after a step, be the step a restart for want of FPREV (R195). -/
def Dev.estimate (d : Dev) (a c : Nat) (st : Standing) (ik ip vc : Int) : Dev :=
  if st = .faulted then d
  else if d.estRuns a c st then
    (if d.is (CELL_W3C_FPREV c) then d.estStep a c ik ip vc else d.estRestart c true).ageing a c
  else d.estRestart c (st = .fresh)

/-- The prediction of one cell (R190). -/
def Dev.predict (d : Dev) (a c : Nat) (st : Standing) (ik ip vc : Int) : Dev :=
  let dl := satS 40 (ik - ip)
  let i1 := satS 40 (ik + shr dl 1)
  let i2 := satS 40 (ik + dl + shr dl 1)
  let t : Int := d.get CYC_PERIOD_PERIOD
  let q := fun (i : Int) (sig : Int) => divZ (i * sig * t) (2 ^ 14 * 1000)
  let ce : Int := d.cEff a c
  let q0 := q i1 (d.getS (CELL_W28_SIG0 c))
  let q1 := q i2 (d.getS (CELL_W28_SIG1 c))
  match st with
  | .fresh => d.setSat (CELL_W20_VPRED c) (if d.is (ARM_CFG_PRED a) then vc + divZ ((q0 + q1) * 256) ce else vc)
  | .stale =>
    if d.is (ARM_CFG_PRED a) then d.setSat (CELL_W20_VPRED c) (d.getS (CELL_W20_VPRED c) + divZ (q1 * 256) ce) else d
  | .diverged => d.setSat (CELL_W20_VPRED c) (d.vRaw c)
  | _ => d

/-- Prepares one cell: standing and its flags, budget, estimation, prediction; then ST0 and SIG0 go to STP and SIGP (R181). -/
def Dev.prepCell (d : Dev) (a : Nat) (ik ip : Int) (c : Nat) : Dev :=
  let st := d.standing a c
  let d := if st = .faulted ∧ d.is (CELL_W3C_FLTP c) = false then
      d.set (CELL_W3C_FLTP c) 1 |>.set (ARM_EVT_NEWFLT a) 1 |>.recNote 4 else d
  let d := if st = .excluded ∧ d.is (CELL_W3C_EXCL c) = false then d.set (ARM_EVT_EXCL a) 1 else d
  let d := d.setB (CELL_W3C_EXCL c) (st = .excluded) |>.setB (CELL_W3C_DIVG c) (st = .diverged)
  let d := if st = .diverged then d.set (ARM_EVT_DIVG a) 1 else d
  let d := if st = .faulted then d else d.budget a c
  let vc := d.vCap c ik
  let d := d.estimate a c st ik ip vc
  let d := d.predict a c st ik ip vc
  let d := d.set (CELL_W3C_STP c) (d.get (CELL_W3C_ST0 c)) |>.set (CELL_W34_SIGP c) (d.get (CELL_W28_SIG0 c))
  d.set (CELL_W3C_CLS c) (if st.ranked then 1 else 3)

/-- A ranked cell's place in the order: class, key, arm-local index, cell (R197, R199). -/
structure RankKey where
  cls : Nat
  key : Int
  lidx : Nat
  cell : Nat
  deriving DecidableEq, Repr

/-- The order of R197: by class, key, arm-local index. -/
def RankKey.le (x y : RankKey) : Bool :=
  if x.cls ≠ y.cls then x.cls < y.cls else if x.key ≠ y.key then x.key < y.key else x.lidx ≤ y.lidx

/-- Insertion into a sorted list. -/
def rankInsert (x : RankKey) : List RankKey → List RankKey
  | [] => [x]
  | y :: ys => if x.le y then x :: y :: ys else y :: rankInsert x ys

/-- The sorted order. -/
def rankSort (l : List RankKey) : List RankKey := l.foldr rankInsert []

/-- A ranked cell's class and key (R197). -/
def Dev.rankKey (d : Dev) (a c : Nat) (charging neg : Bool) (vavg : Int) : RankKey :=
  let v := d.getS (CELL_W20_VPRED c)
  let ins := if neg then 2 else 1
  let insd := d.get (CELL_W3C_ST1 c) = ins
  let band : Int := 10 * d.get (ARM_SELCFG_BAND a)
  let cls :=
    if d.get (ARM_CFG_MODE a) = 1 ∧ insd ∧ ((charging ∧ v ≤ vavg + band) ∨ (charging = false ∧ vavg - band ≤ v)) then 0
    else if d.get (ARM_CFG_MODE a) = 2 ∧ d.get (CELL_W38_BUD c) < d.get (ARM_BUDCAP_PINTH a) * 0x10000 then
      (if insd then 0 else 2)
    else 1
  ⟨cls, if charging then v else -v, d.get (CELL_W1C_LIDX c), c⟩

/-- The sum of a quantity over cells. -/
def sumOver (l : List Nat) (f : Nat → Int) : Int := l.foldl (fun s c => s + f c) 0

/-- The cells of a list that a test takes. -/
def countOver (l : List Nat) (f : Nat → Bool) : Nat := (l.filter f).length

/-- The ranked cells of an arm after a sort. -/
def Dev.rankedCells (d : Dev) (a : Nat) : List Nat := (d.armCells a).filter (fun c => d.get (CELL_W3C_CLS c) ≠ 3)

/-- The first slot of arm a's signals (R231). -/
def armSlot (a i : Nat) : Nat := 64 + 4 * a + i

/-- The four arm signals (R203). -/
def Dev.armSignals (d : Dev) (a : Nat) : Dev :=
  let rk := d.rankedCells a
  let n : Int := rk.length
  let vs : Int := d.get (ARM_VSCALE_VSCALE a)
  let es : Int := d.get (ARM_ESCALE_ESCALE a)
  let e := sumOver rk (fun c => d.cEff a c * (d.getS (CELL_W20_VPRED c) * d.getS (CELL_W20_VPRED c)))
  d.setSlot (armSlot a 0) (divZ (n * 2 ^ 24) (d.get (ARM_NREQ_NREQ a)))
    |>.setSlot (armSlot a 1) (divZ (sumOver rk (fun c => d.getS (CELL_W30_VLAST c)) * 2 ^ 24) vs)
    |>.setSlot (armSlot a 2) (divZ (sumOver rk (fun c => d.getS (CELL_W20_VPRED c)) * 2 ^ 24) vs)
    |>.setSlot (armSlot a 3) (divZ (e * 2 ^ 24) (2 ^ 9 * 10 ^ 12 * es))

/-- Whether SCH keeps the arm from inserting negative: one of its mapped cells at least declared a half-bridge (R70); R95 makes the
type the same for all of them. An arm without cells counts as one of half-bridges. -/
def Dev.halfBridge (d : Dev) (a : Nat) : Bool :=
  (d.armCells a).isEmpty || (d.armCells a).any (fun c => d.get (CELL_W10_ENUM_HI c) / 2 ^ 28 == 1)

/-- The ranking step: classes, order, counts and status (R188, R191, R197). -/
def Dev.rankArm (d : Dev) (a : Nat) (ik ip : Int) : Dev :=
  let dl := satS 40 (ik - ip)
  let neg := (d.armCtl a).polNeg && !d.halfBridge a
  let i3 := ik + 2 * dl + shr dl 1
  let charging : Bool := decide (0 ≤ (if neg then -i3 else i3))
  let cells := d.armCells a
  let rk := d.rankedCells a
  let vavg := divZ (sumOver rk (fun c => d.getS (CELL_W20_VPRED c))) rk.length
  let order := rankSort (rk.map (fun c => d.rankKey a c charging neg vavg))
  let d := d.each order.zipIdx fun (x, r) d => d.set (CELL_W3C_CLS x.cell) x.cls |>.set (CELL_W3C_RANK x.cell) r
  let short := decide (rk.length < d.get (ARM_NREQ_NREQ a))
  let d := if short ∧ d.is (ARM_STAT_SHORT a) = false then d.set (ARM_EVT_SHORT a) 1 |>.recNote 5 else d
  d.set (ARM_STAT_ACTIVE a) 1 |>.setB (ARM_STAT_SHORT a) short |>.setB (ARM_STAT_DIR a) charging |>.setB (ARM_STAT_POL a) (!neg)
    |>.set (ARM_COUNT0_NRANK a) rk.length
    |>.set (ARM_COUNT0_NFAULT a) (countOver cells (fun c => d.is (CELL_W3C_FLTP c)))
    |>.set (ARM_COUNT1_NSTALE a) (countOver cells (fun c => d.cellStale c && d.get (CELL_W3C_CLS c) ≠ 3))
    |>.set (ARM_COUNT1_NEXCL a) (countOver cells (fun c => d.is (CELL_W3C_EXCL c)))
    |>.set (ARM_COUNT2_NCLA a) (order.filter (fun x => x.cls = 0)).length
    |>.set (ARM_COUNT2_NCLC a) (order.filter (fun x => x.cls = 2)).length
    |>.set (ARM_AGECNT_NAGER a) (countOver cells (fun c => d.is (CELL_W3C_AGER c)))
    |>.set (ARM_AGECNT_NAGEC a) (countOver cells (fun c => d.is (CELL_W3C_AGEC c)))
    |>.setSat (ARM_VAVG_VAVG a) vavg

/-- The sort of arm a: current sample, preparation of each cell, ranking, signals, and the time it took (R181, R183). An arm
with no mapped cells is idle (R21). -/
def Dev.sortArm (d : Dev) (a ns : Nat) : Dev :=
  if d.armCells a = [] then d
  else
    let ik := d.armCurrent a
    let ip := ((d.armCtl a).iprev).getD ik
    let d := d.setSat (ARM_ICUR_ICUR a) ik
    let d := d.each (d.armCells a) (fun c d => d.prepCell a ik ip c)
    let d := d.rankArm a ik ip |>.armSignals a
    let d := d.setArm a (fun x => { x with iprev := some ik })
    let t := min ns 0xFFFF
    d.set (ARM_SORTT_LAST a) t |>.set (ARM_SORTT_MAX a) (max t (d.get (ARM_SORTT_MAX a)))

/-- The words 0x20 to 0x3C of a cell that becomes mapped to arm a (R196, R202, R206). -/
def Dev.cellMap (d : Dev) (a c : Nat) : Dev :=
  d.setWord (CELL_W20 c) 0 |>.setWord (CELL_W24 c) (d.word (ARM_CNOM a)) |>.setWord (CELL_W28 c) 0
    |>.setWord (CELL_W2C c) 0 |>.setWord (CELL_W30 c) 0 |>.setWord (CELL_W34 c) 0
    |>.setWord (CELL_W38 c) (dw (d.get (ARM_BUDCAP_CAP a) * 0x10000)) |>.setWord (CELL_W3C c) (dw 0xFC0C0000)

end Sys2Proof.Machine
end

