-- ==== Sys2Proof/Machine/Sched.lean ====
section
/-! DEFINITION. The schedule generator: reload of the shadow sets (R216 to R219), the schedules of W(k+2) in nearest-level
and carrier mode (R208, R209, R221 to R227), and the copy into the buffers of F(k+1) with the shift of the σ and start-state
fields (R205). -/

namespace Sys2Proof.Machine

open Sys2Proof

/-- EDGE of no edge (R68, R209). -/
def noEdge : Nat := 0xFFFFF

/-- A command with no executed edge. -/
def plainCmd (mode : Nat) : CellCmd := ⟨mode, noEdge, noEdge⟩

/-- A whole-window blocked command (R69). -/
def blockedCmd : CellCmd := plainCmd 0xF

/-- NONE (R69). -/
def noneCmd : CellCmd := plainCmd 0xC

/-- REPEAT (R54, R69). -/
def repeatCmd : CellCmd := plainCmd 0xD

/-- One entry of a schedule: cell, command, σ as 16 bits, start state. -/
abbrev SchedEntry := Nat × CellCmd × Nat × Nat

/-! ### Shadow sets -/

/-- Writes a shadow register with the arm's WGEN as its tag (R218). -/
def Dev.shadow (d : Dev) (f : Fld) (tag : Fld) (a : Nat) (v : Nat) : Dev := d.set f v |>.set tag (d.get (SCH_WGEN_WGEN a))

/-- A write of SCH_VREF or SCH_VOFS: accepted from the source that VSRC selects, else discarded with REFDISC (R219). -/
def Dev.setRWrite (d : Dev) (engine : Bool) (a : Nat) (vofs : Bool) (v : Nat) : Dev :=
  if engine = d.is (SCH_ACTL_VSRC a) then d.set (SCH_AEVT_REFDISC a) 1
  else if vofs then d.shadow (SCH_VOFS_VOFS a) (SCH_TAGS_TVOFS a) a v
  else d.shadow (SCH_VREF_VREF a) (SCH_TAGS_TVREF a) a v

/-- A write of SCH_PCFG: MINPW and KBAL with one tag (R218). -/
def Dev.pcfgWrite (d : Dev) (a : Nat) (v : Word) : Dev :=
  d.set (SCH_PCFG_MINPW a) (v.toNat / 2 ^ 16) |>.set (SCH_PCFG_KBAL a) (v.toNat % 256)
    |>.set (SCH_TAGS_TPCFG a) (d.get (SCH_WGEN_WGEN a))

/-- A write of SCH_PSC. -/
def Dev.pscWrite (d : Dev) (a : Nat) (v : Word) : Dev :=
  d.shadow (SCH_PSC_CBASE a) (SCH_TAGS_TPSC a) a (v.toNat % 64)

/-- GENMIS: an inconsistent set at a reload (R218). -/
def Dev.genmis (d : Dev) (a : Nat) : Dev := d.set (SCH_AEVT_GENMIS a) 1 |>.count (SCH_GENCNT_GENMIS a) 1

/-- The reload of arm a's two sets (R216, R218). -/
def Dev.reloadSets (d : Dev) (a : Nat) : Dev :=
  let tr := d.get (SCH_TAGS_TVREF a)
  let d := if tr = d.get (SCH_TAGS_TVOFS a) then
      d.setArm a (fun x => { x with vref := d.word (SCH_VREF a), vofs := d.word (SCH_VOFS a) })
        |>.set (SCH_ASTAT_RGEN a) tr
    else d.genmis a
  let tp := d.get (SCH_TAGS_TPCFG a)
  if tp = d.get (SCH_TAGS_TPSC a) then
    d.setArm a (fun x => { x with minpw := d.get (SCH_PCFG_MINPW a), kbal := d.get (SCH_PCFG_KBAL a),
                                  cbase := d.get (SCH_PSC_CBASE a) })
      |>.set (SCH_ASTAT_PGEN a) tp
  else d.genmis a

/-! ### Widths and edges -/

/-- MINPW as it acts on a window of W units (R223). -/
def minPulse (minpw w : Nat) : Nat := min (max minpw 4) (w / 4)

/-- σ of a width, rounded to the nearest 2⁻¹⁴ of the window, halves up (R223). -/
def sigmaOf (w win : Nat) : Nat := if win = 0 then 0 else (2 * w * 16384 + win) / (2 * win)

/-- An edge as sent: less δ / 250 ps, held to 0 .. len(k) / 250 ps − 1 (R222). -/
def sentEdge (d : Dev) (e : Nat) : Nat :=
  let delta : Int := ((d.cyc.len0 : Int) - d.cyc.len1) * 4
  (clampInt 0 ((d.cyc.len0 * 4 : Nat) - 1 : Int) ((e : Int) - delta)).toNat

/-- A command's edges as sent; an edge that is none stays none (R209, R222). -/
def sentCmd (d : Dev) (c : CellCmd) : CellCmd :=
  let f := fun e => if e = noEdge then noEdge else sentEdge d e
  ⟨c.mode, f c.edge1, f c.edge2⟩

/-- σ with its sign, as 16 bits. -/
def sigCode (neg : Bool) (s : Nat) : Nat := if neg then ofSigned 16 (-(s : Int)) else s

/-! ### The two schedule modes -/

/-- The command at list position r in nearest-level mode with n whole cells and fine width w (R225). -/
def nearestAt (win n w ins : Nat) (neg : Bool) (r : Nat) : CellCmd × Nat × Nat :=
  if r < n then (plainCmd (5 * ins), sigCode neg 16384, ins)
  else if r = n ∧ 0 < w then
    let e1 := (win - w) / 2
    (⟨ins, e1, e1 + w⟩, sigCode neg (sigmaOf w win), 0)
  else (plainCmd 0, 0, 0)

/-- n_q16 of R224, and whether the reference could not be reached. -/
def nearestCount (vmv : Int) (vavg : Int) (nrank : Nat) : Nat × Bool :=
  if nrank = 0 ∨ vavg < 1000 then (0, true)
  else
    let n := (vmv.natAbs * 2 ^ 16) / vavg.toNat
    if nrank * 2 ^ 16 < n then (nrank * 2 ^ 16, true) else (n, false)

/-- Whole cells and fine width from n_q16 (R224). -/
def nearestSplit (nq win minpw : Nat) : Nat × Nat :=
  let n := nq / 2 ^ 16
  let w := (nq % 2 ^ 16 * win + 0x8000) / 2 ^ 16
  if w < minpw then (n, 0) else if win - w < minpw then (n + 1, 0) else (n, w)

/-- The inserted interval of a carrier command from its width and carrier trough (R227). -/
def carrierCmd (win ins phi w : Nat) : CellCmd :=
  if w = 0 then plainCmd 0
  else if w = win then plainCmd (5 * ins)
  else
    let s := (phi + win - w / 2) % win
    if s = 0 then ⟨ins * 4, w, noEdge⟩
    else if s + w < win then ⟨ins, s, s + w⟩
    else if s + w = win then ⟨ins, s, noEdge⟩
    else ⟨ins * 4, s + w - win, s⟩

/-- A width after the minimum pulse of R223. -/
def pulseWidth (w win minpw : Nat) : Nat := if w < minpw then 0 else if win - w < minpw then win else w

/-- The duty of a cell in carrier mode, in 2⁻¹⁶ (R227). -/
def carrierDuty (mq : Nat) (kbal : Nat) (vpred vavg : Int) (charging : Bool) : Nat :=
  let dm := if vavg < 1000 then 0 else divZ (kbal * (vpred - vavg) * 4096) vavg
  (clampInt 0 0x10000 (if charging then (mq : Int) - dm else mq + dm)).toNat

/-- v_mv of R224 from the active references, before the half-bridge clamp. -/
def Dev.vmvOf (d : Dev) (a : Nat) : Int :=
  let x := d.armCtl a
  satS 32 (shr ((x.vref.toInt + x.vofs.toInt) * d.get (SCH_VBASE_VBASE a)) 24)

/-- Sets or clears SATH or SATL; a rising edge sets the flag in SCH_AEVT (R224). -/
def Dev.satFlag (d : Dev) (st ev : Fld) (b : Bool) : Dev :=
  (if b ∧ d.is st = false then d.set ev 1 else d).setB st b

/-- The first lines of R224, made at every reload for every arm with mapped cells: v_mv, SATL and p. -/
def Dev.armReference (d : Dev) (a : Nat) : Dev × Int :=
  let v := d.vmvOf a
  let lo := decide (v < 0) && d.halfBridge a
  let v := if lo then 0 else v
  (d.satFlag (SCH_ASTAT_SATL a) (SCH_AEVT_SATL a) lo |>.setSat (SCH_AREF_VMV a) v
    |>.setArm a (fun x => { x with polNeg := decide (v < 0) }), v)

/-- The entry of an unranked cell of an arm that is scheduled: bypassed for the whole window (R187, R209). -/
def bypassEntry (c : Nat) : SchedEntry := (c, plainCmd 0, 0, 0)

/-- The schedule of an arm in nearest-level mode (R224, R225). -/
def Dev.nearest (d : Dev) (a : Nat) (v : Int) : Dev × List SchedEntry :=
  let win := d.cyc.len2 * 4
  let ins := if v < 0 then 2 else 1
  let (nq, sat) := nearestCount v (d.getS (ARM_VAVG_VAVG a)) (d.get (ARM_COUNT0_NRANK a))
  let (n, w) := nearestSplit nq win (minPulse (d.armCtl a).minpw win)
  let es := (d.armCells a).map fun c =>
    if d.get (CELL_W3C_CLS c) = 3 then bypassEntry c
    else
      let (cmd, sg, st) := nearestAt win n w ins (v < 0) (d.get (CELL_W3C_RANK c))
      (c, sentCmd d cmd, sg, st)
  (d.satFlag (SCH_ASTAT_SATH a) (SCH_AEVT_SATH a) sat |>.set (SCH_AOUT_NINS a) n |>.set (SCH_AOUT_FINEW a) w, es)

/-- The schedule of an arm in carrier mode (R226, R227). -/
def Dev.carrier (d : Dev) (a : Nat) (v : Int) : Dev × List SchedEntry :=
  let win := d.cyc.len2 * 4
  let ins := if v < 0 then 2 else 1
  let x := d.armCtl a
  let cells := d.armCells a
  let nmap := cells.length
  let nrank := d.get (ARM_COUNT0_NRANK a)
  let vavg := d.getS (ARM_VAVG_VAVG a)
  let m := if nrank = 0 ∨ vavg < 1000 then 0 else (v.natAbs * 2 ^ 16) / (nrank * vavg.toNat)
  let sat := decide (nrank = 0 ∨ vavg < 1000 ∨ 0x10000 < m)
  let m := min m 0x10000
  let widthOf := fun c => pulseWidth
    ((carrierDuty m x.kbal (d.getS (CELL_W20_VPRED c)) vavg (d.is (ARM_STAT_DIR a)) * win + 0x8000) / 2 ^ 16)
    win (minPulse x.minpw win)
  let es := cells.map fun c =>
    if d.get (CELL_W3C_CLS c) = 3 then bypassEntry c
    else
      let w := widthOf c
      let q := (d.get (CELL_W1C_LIDX c) + nmap - x.cbase % nmap) % nmap
      let cmd := carrierCmd win ins (q * win / nmap) w
      (c, sentCmd d cmd, sigCode (v < 0) (sigmaOf w win), cmd.mode / 4)
  let nins := countOver cells (fun c => d.get (CELL_W3C_CLS c) ≠ 3 && 0 < widthOf c)
  (d.satFlag (SCH_ASTAT_SATH a) (SCH_AEVT_SATH a) sat |>.set (SCH_AOUT_NINS a) nins |>.set (SCH_AOUT_FINEW a) 0, es)

/-- The commands of arm a's cells for W(k+2) (R54, R209): blocked in arm state BLOCKED, REPEAT after a late sort or schedule,
else as the arm's schedule mode computes them. -/
def Dev.scheduleArm (d : Dev) (a : Nat) : Dev × List SchedEntry :=
  let cells := d.armCells a
  if cells = [] then (d, [])
  else
    let (d, v) := d.armReference a
    if (d.armCtl a).sortLate || (d.armCtl a).schedLate then (d, cells.map (fun c => (c, repeatCmd, 0, 0)))
    else if d.arm a = .blocked then (d, cells.map (fun c => (c, blockedCmd, 0, 3)))
    else if d.is (SCH_ACTL_MODE a) then d.carrier a v
    else d.nearest a v

/-- The schedule phase of every arm: set reload, schedule, and for an arm entering service the count to t₀(j+2) (R208, R210,
R216). -/
def Dev.schedulePhase (d : Dev) : Dev :=
  let (d, es) := allArms.foldl (fun (d, es) a =>
    let d := d.reloadSets a
    let (d, l) := d.scheduleArm a
    let d := if d.arm a = .deblocking ∧ (d.armCtl a).toRun = none then
        d.setArm a (fun x => { x with toRun := some 2, subst := none, blockedSent := false }) else d
    (d, es ++ l)) (d, [])
  { d with sch := { d.sch with cmds := es, epoch := (d.word HIF_EPOCH).setWidth 16 } }

/-! ### The copy -/

/-- The σ and start-state fields after the copy of one cell's command (R205). DEDUCED, log entry 24. -/
def Dev.shiftCell (d : Dev) (e : SchedEntry) : Dev :=
  let (c, cmd, sg, st) := e
  let s1 := d.get (CELL_W28_SIG1 c)
  let t1 := d.get (CELL_W3C_ST1 c)
  let d := d.set (CELL_W28_SIG0 c) s1 |>.set (CELL_W3C_ST0 c) t1
  if cmd.mode = 0xD then d else d.set (CELL_W28_SIG1 c) sg |>.set (CELL_W3C_ST1 c) st

/-- The command of a cell in a schedule; a cell without one gets NONE (R70). -/
def cmdOf (es : List SchedEntry) (c : Nat) : CellCmd :=
  match es.find? (fun e => e.1 == c) with
  | some e => e.2.1
  | none => noneCmd

/-- The copy at t₀ + T_cyc − t_grd: the buffers of F(k+1) on every port in use and the shift of R205. -/
def Dev.copySchedules (d : Dev) : Dev :=
  let es := d.sch.cmds
  let d := d.each (ringPorts.filter d.inUse) fun p d =>
    d.setPort p (fun x => { x with buf := (d.portCells p).map (cmdOf es), bufEpoch := d.sch.epoch, ue0 := 0, ue1 := 0 })
  d.each es fun e d => d.shiftCell e

end Sys2Proof.Machine
end

