-- ==== Sys2Proof/Machine/Ring.lean ====
section
/-! DEFINITION. The ring ports: Tyesh frames (R66 to R73), departure (R73, R212, R213), reception and commit (R75 to R83),
the return deadline (R48 to R52, R81, R86), the end of a wrap (R88, R89) and ring time supervision (R171). -/

namespace Sys2Proof.Machine

open Sys2Proof

/-! ### Frames -/

/-- Bits [hi:lo] of a number. -/
def bitsOf (x hi lo : Nat) : Nat := x / 2 ^ lo % 2 ^ (hi + 1 - lo)

/-- A header field (R67). -/
def Frame.fld (f : Frame) (hi lo : Nat) : Nat := bitsOf f.hdr.toNat hi lo

def Frame.sync (f : Frame) : Nat := f.fld 255 224
def Frame.cycnum (f : Frame) : Nat := f.fld 223 192
def Frame.type (f : Frame) : Nat := f.fld 79 76
def Frame.dir (f : Frame) : Nat := f.fld 75 75
def Frame.act (f : Frame) : Nat := f.fld 74 74
def Frame.wrap (f : Frame) : Nat := f.fld 73 73
def Frame.wpos (f : Frame) : Nat := f.fld 72 66
def Frame.portNo (f : Frame) : Nat := f.fld 63 58
def Frame.nslot (f : Frame) : Nat := f.fld 57 50
def Frame.hops (f : Frame) : Nat := f.fld 49 41
def Frame.dpass (f : Frame) : Nat := f.fld 40 37
def Frame.turn (f : Frame) : Nat := f.fld 31 16
def Frame.hcrc (f : Frame) : Nat := f.fld 15 0

/-- HCRC: the CRC over header bits [223:16] (R72). -/
def headerCrc (h : Nat) : Nat := (crc16 (bitsOf h 223 16) 208).toNat

/-- SCRC: the CRC over slot bits [127:16] (R72). -/
def slotCrc (s : Nat) : Nat := (crc16 (bitsOf s 127 16) 112).toNat

/-- FCRC: the CRC over the whole header and every slot (R72). -/
def frameCrc (h : Nat) (slots : List (BitVec 128)) : Nat :=
  ((slots.foldl (fun c s => crc32Bits c s.toNat 128) (crc32Bits 0xFFFFFFFF h 256)) ^^^ 0xFFFFFFFF).toNat

/-- A header with its HCRC set. -/
def sealHeader (h : Nat) : Nat := h / 2 ^ 16 * 2 ^ 16 + headerCrc h

/-- A slot with its SCRC set. -/
def sealSlot (s : Nat) : BitVec 128 := BitVec.ofNat 128 (s / 2 ^ 16 * 2 ^ 16 + slotCrc s)

/-- A whole frame from its header and slots, with every CRC (R66, R72). -/
def mkFrame (h : Nat) (slots : List (BitVec 128)) : Frame :=
  let h := sealHeader h
  ⟨BitVec.ofNat 256 h, slots, BitVec.ofNat 64 (frameCrc h slots * 2 ^ 32 + endMarker), true⟩

/-- The header fields that a sender sets (R67); CORR, WRAP, WPOS, HOPS and TURN are 0. -/
def mkHeader (cyc : Nat) (dep : BitVec 48) (epoch type dir : Nat) (act unwrap dpx : Bool) (p nslot dpass : Nat) : Nat :=
  syncWord * 2 ^ 224 + cyc * 2 ^ 192 + dep.toNat * 2 ^ 128 + epoch * 2 ^ 80 + type * 2 ^ 76 + dir * 2 ^ 75
    + (if act then 2 ^ 74 else 0) + (if unwrap then 2 ^ 65 else 0) + (if dpx then 2 ^ 64 else 0)
    + p * 2 ^ 58 + nslot * 2 ^ 50 + dpass * 2 ^ 37

/-- A downstream slot of a cycle frame (R68, R71: upstream fields 0). -/
def cmdSlot (c : CellCmd) (cseq : Nat) : BitVec 128 :=
  sealSlot (c.mode * 2 ^ 124 + c.edge1 * 2 ^ 104 + c.edge2 * 2 ^ 84 + cseq % 16 * 2 ^ 80)

/-- Whether SYNC and HCRC are right (R75, first check). -/
def Frame.headerOk (f : Frame) : Bool := f.sync == syncWord && f.hcrc == headerCrc f.hdr.toNat

/-- Whether FCRC is right and the end marker follows slot NSLOT − 1 (R75, second check). -/
def Frame.bodyOk (f : Frame) : Bool :=
  f.whole && f.slots.length == f.nslot && bitsOf f.trailer.toNat 31 0 == endMarker &&
    bitsOf f.trailer.toNat 63 32 == frameCrc f.hdr.toNat f.slots

/-- HOPS as it must be for a frame at end e (R75): NSLOT, or 2 × d + 1 for a wrapped one. -/
def Frame.hopsOk (f : Frame) (e : Nat) : Bool :=
  if f.wrap = 0 then f.hops == f.nslot
  else f.wpos < f.nslot && f.hops == 2 * (if e = 0 then f.wpos else f.nslot - 1 - f.wpos) + 1

/-! ### Departure -/

/-- The ACT bit: the sender is in SOLO or ACTIVE (R67); after a demotion from the first departure at least 50 ns later (R292);
blocked commands after an ACLK stop carry ACT = 1 (R293). DEDUCED, log entries 17, 30. -/
def Dev.actBit (d : Dev) : Bool :=
  d.role == .solo || d.role == .active || d.sch.aclkStopped || (match d.dpx.demoted with
    | some t => decide (d.time.cio < t + 50)
    | none => false)

/-- Whether port p sends cycle frames: in use, cells discovered, no discovery running, the timer running, in a role with
frames (R90, R93, R462). -/
def Dev.portActive (d : Dev) (p : Nat) : Bool :=
  d.inUse p && 0 < (d.port p).discovered && (d.port p).disc.isNone && (d.running || d.sch.aclkStopped) &&
    d.role != .faulted && d.role != .witness

/-- The departure's free part, below or at 0.5 ns (R73). DESIGN CHOICE, log entry 3. -/
def Dev.departExtra (d : Dev) : BitVec 48 := BitVec.ofNat 48 (Config.departJitter d.free % 0x8001)

/-- The lane group of an end of a port: four lanes to a group (R110). -/
def laneGroup (p e : Nat) : Nat := (2 * p + e) / 4

/-- DEPTIME of a departure: the instant as the interpolator measures it, within ±0.1 ns; a fraction of 0 before any
calibration (R228, R230); in steps of 2 ns after an ACLK stop (R213). -/
def Dev.deptimeOf (d : Dev) (p e : Nat) (dep : BitVec 48) : BitVec 48 :=
  if d.sch.aclkStopped then (dep >>> 17) <<< 17
  else match (nth d.sch.interps (laneGroup p e) ⟨none, 0, none, false, none⟩).taps with
  | some _ => dep + BitVec.ofInt 48 ((Config.departJitter (d.free + 1) % 13107 : Nat) - 6553 : Int)
  | none => (dep >>> 16) <<< 16

/-- Whether arm a's slots are substituted in a frame that departs at an instant: at least 50 ns after the cause (R212), or
at any time after an ACLK stop (R213). -/
def Dev.substituted (d : Dev) (a : Nat) (dep : BitVec 48) : Bool :=
  d.sch.aclkStopped ||
  match (d.armCtl a).subst with
  | some t => 50 ≤ (dep - t).toNat / 2 ^ 16
  | none => false

/-- Whether a slot of an end's buffer reads uncorrectable (R416). -/
def PortState.ue (x : PortState) (e i : Nat) : Bool := if e = 0 then x.ue0.getLsbD i else x.ue1.getLsbD i

/-- The command of position i in the frame of port p that departs from end e at an instant (R70, R209, R212, R416). -/
def Dev.slotCmd (d : Dev) (p e : Nat) (dep : BitVec 48) (i : Nat) : CellCmd :=
  let c := 128 * p + i
  if d.mapped c ∧ d.substituted (d.get (CELL_W1C_ARM c)) dep then blockedCmd
  else if (d.port p).ue e i then repeatCmd
  else if d.mapped c = false then noneCmd
  else nth (d.port p).buf i noneCmd

/-- The departure delay of DIAG_PDEP for an end of a port, in ns (R483). -/
def Dev.departDelay (d : Dev) (p e : Nat) : Nat :=
  if d.perturbed .dep ∧ d.get DIAG_PDEP_PORT = p ∧ d.bit DIAG_PDEP_ENDS e then d.get DIAG_PDEP_DELAY else 0

/-- Whether DIAG_PSLOT acts with an action on a slot of an end of a port (R483). -/
def Dev.slotPert (d : Dev) (action p e i : Nat) : Bool :=
  d.perturbed .slot && d.get DIAG_PSLOT_ACTION == action && d.get DIAG_PSLOT_PORT == p && d.get DIAG_PSLOT_END == e &&
    d.get DIAG_PSLOT_POS == i

/-- A slot as it leaves: DIAG_PSLOT with ACTION 3 inverts bit 0 of its SCRC. -/
def Dev.sentSlot (d : Dev) (p e i cyc : Nat) (base : BitVec 48) : BitVec 128 :=
  let s := cmdSlot (d.slotCmd p e (plusNs base (d.departDelay p e)) i) (cyc + 1)
  if d.slotPert 3 p e i then s ^^^ 1 else s

/-- A lane's line coding. -/
def Dev.line (d : Dev) (n : Nat) : LineState := nth d.lane.lines n LineState.init

/-- Changes a lane's line coding. -/
def Dev.setLine (d : Dev) (n : Nat) (f : LineState → LineState) : Dev :=
  { d with lane := { d.lane with lines := putAt d.lane.lines n LineState.init (f (d.line n)) } }

/-- Blocks leave a lane (R99 to R107, R113): scrambler and precoder have run on through a number of FILL blocks, and the first symbol of
the FILL block behind shapes the last voltage. -/
def Dev.sendBlocks (d : Dev) (n fills : Nat) (at_ : BitVec 48) (bs : List Block) : Dev :=
  let pre := d.is (LANE_CTRL_TXPRE n)
  let inv := d.is (LANE_CTRL_TXINV n)
  let x := (d.line n).transmit pre inv (List.replicate fills fillBlock) |>.2
  let (ls, y) := x.transmit pre inv bs
  let next := invertLevel inv (lineLevel (if pre then (grayOf true false + 4 - y.txPrev) % 4 else grayOf true false))
  let vs := equalise (d.get (LANE_TXEQ_SWING n)) (d.get (LANE_TXEQ_PRE n)) (d.get (LANE_TXEQ_POST n)) x.txLevel ls next
  (d.setLine n (fun _ => y)).emit (.line n at_ vs)

/-- A frame leaves end e of port p if the lane's transmitter runs, which it does from SIGNAL onward (R107, R122, R123); how many
FILL blocks went before and at which payload bit it begins is free. DEDUCED, DESIGN CHOICE, log entries 16, 63. -/
def Dev.sendFrame (d : Dev) (p e : Nat) (at_ : BitVec 48) (f : Frame) : Dev :=
  if 2 ≤ d.get (LANE_STAT_STATE (2 * p + e)) then
    ((d.emit (.frame p e at_ f)).sendBlocks (2 * p + e) (Config.fillBlocks d.free) at_
      (frameBlocks (Config.blockPhase d.free % 128) f.bits)).draw
  else d

/-- A port's cycle frame from end e; a departure delayed by DIAG_PDEP keeps the undelayed DEPTIME and carries the delay in
CORR (R67, R73, R483). -/
def Dev.sendCycleFrame (d : Dev) (p e cyc : Nat) (base : BitVec 48) : Dev :=
  let dep := base + d.departExtra
  let n := (d.port p).discovered
  let x := d.departDelay p e
  let h := mkHeader cyc (d.deptimeOf p e dep) (d.port p).bufEpoch.toNat 0 e d.actBit ((d.port p).unwrap = 1)
    (d.is (RING_CTRL_DPX p)) p n 0 + 256 * x * 2 ^ 96
  let f := mkFrame h ((List.range n).map (fun i => d.sentSlot p e i cyc base))
  d.sendFrame p e (plusNs dep x) f |>.draw |>.draw

/-- When the last frame of port p leaves, with the delay of DIAG_PDEP (R483). -/
def Dev.lastDepart (d : Dev) (p : Nat) (base : BitVec 48) : BitVec 48 :=
  plusNs base ((d.ends p).foldl (fun m e => max m (d.departDelay p e)) 0)

/-- The cells of an arm whose slots were substituted take SIG1 = 0 and ST1 = 3; the arm's window is commanded blocked once every
frame at t₀ + d_tx substitutes (R212). -/
def Dev.substCells (d : Dev) (a : Nat) (base : BitVec 48) : Dev :=
  d.when (d.substituted a base) (·.setArm a (fun x => { x with blockedSent := true }))
    |>.each ((d.armCells a).filter (fun c => d.substituted a (d.lastDepart (c / 128) base))) fun c d =>
      d.set (CELL_W28_SIG1 c) 0 |>.set (CELL_W3C_ST1 c) 3

/-- The departure of F(k) on every port that sends cycle frames, from each end it drives (R53, R73). -/
def Dev.departFrames (d : Dev) (cyc : Nat) (base : BitVec 48) : Dev :=
  let d := d.each (ringPorts.filter d.portActive) fun p d =>
    let d := d.each (d.ends p) fun e d => d.sendCycleFrame p e cyc base
    let d := d.setPort p (fun x => { x with sent := true })
    if (d.port p).unwrap = 1 then d.setPort p (fun x => { x with unwrap := 2 }) |>.set (RING_STAT_UNWRAPPING p) 1 else d
  d.each (allArms.filter (fun a => d.sch.aclkStopped || (d.armCtl a).subst.isSome)) fun a d => d.substCells a base

/-! ### Reception -/

/-- A frame error of a port: one RING_EVT flag and one counter (R75, R83, R92). -/
def Dev.frameError (d : Dev) (ev cnt : Fld) : Dev := (d.set ev 1).count cnt 1

/-- The slot's upstream fields: VCAP, AUX, STAT, TERR (R68). -/
def slotUp (s : BitVec 128) : Nat × Nat × Nat × Nat :=
  let x := s.toNat
  (bitsOf x 79 64, bitsOf x 63 48, bitsOf x 47 32, bitsOf x 31 16)

/-- Whether a position is reached by a frame accepted at end e (R76). -/
def reached (e i : Nat) (w : Option Nat) : Bool :=
  match w with
  | none => true
  | some w => if e = 0 then i ≤ w else w ≤ i

/-- Writes a sample into the table entry of a cell (R80): SRC is 1 + e, or 3 for a relayed slot. DIRMIS of R79 clears at the
next commit. DESIGN CHOICE, log entry 71. -/
def Dev.commitSample (d : Dev) (c src : Nat) (u : Nat × Nat × Nat × Nat) : Dev :=
  let (v, aux, st, te) := u
  let d := d.setWord (CELL_W00 c) (dw (aux * 2 ^ 16 + v)) |>.setWord (CELL_W04 c) (dw (te * 2 ^ 16 + st))
    |>.setWord (CELL_W08 c) d.cycle
  d.set (CELL_W0C_STALE c) 0 |>.set (CELL_W0C_STALERUN c) 0 |>.set (CELL_W0C_SRC c) src
    |>.set (CELL_W0C_DIRMIS c) 0 |>.setB (CELL_W0C_SPATH c) (st.testBit 14)
    |>.setB (CELL_W0C_RX0 c) (src = 1) |>.setB (CELL_W0C_RX1 c) (src = 2)

/-- The commit of one slot of an accepted frame (R76, R79, R80). -/
def Dev.commitSlot (d : Dev) (p e : Nat) (w : Option Nat) (s : BitVec 128) (i : Nat) : Dev :=
  let c := 128 * p + i
  let u := slotUp s
  if d.slotPert 2 p e i ∨ bitsOf s.toNat 15 0 ≠ slotCrc s.toNat then d.frameError (RING_EVT_CRC p) (RING_SLOTERR_SLOTCRC p e)
  else if reached e i w = false then d
  else if d.slotPert 1 p e i ∨ u.2.2.1.testBit 15 = false then d.frameError (RING_EVT_CRC p) (RING_SLOTERR_NOWR p e)
  else if (d.port p).fresh.getLsbD i then
    let d := if e = 0 then d.set (CELL_W0C_RX0 c) 1 else d.set (CELL_W0C_RX1 c) 1
    if d.get (CELL_W00_VCAP c) ≠ u.1 ∨ d.get (CELL_W00_AUX c) ≠ u.2.1 ∨ d.get (CELL_W04_TERR c) ≠ u.2.2.2 then
      d.set (CELL_W0C_DIRMIS c) 1 |>.count (RING_CNTP_DIRMIS p) 1 |>.set (RING_EVT_DIRMIS p) 1
    else d
  else
    (d.commitSample c (e + 1) u).setPort p
      (fun x => { x with fresh := x.fresh ||| (BitVec.ofNat 128 1 <<< i) })

/-- The smallest margin of CYC_MARGIN, lowest port on a tie. -/
def Dev.margin (d : Dev) (p m : Nat) : Dev :=
  let old := d.get CYC_MARGIN_MARGIN
  if d.is CYC_MARGIN_VALID = false ∨ m < old ∨ (m = old ∧ p < d.get CYC_MARGIN_PORT) then
    d.set CYC_MARGIN_VALID 1 |>.set CYC_MARGIN_PORT p |>.set CYC_MARGIN_MARGIN m
  else d

/-- t_ret of a cycle's timing (R38); the subtraction stops at 0. -/
def Timing.tret (t : Timing) : Nat := t.tcyc - (t.sort + t.loop + t.sch + t.grd)

/-- When port p closes reception, in ns from t₀: t_ret, or earlier under DIAG_PFWD (R48, R483). -/
def Dev.closesAt (d : Dev) (p : Nat) : Nat :=
  let t := d.cyc.tm0.tret
  if d.perturbed .fwd ∧ d.get DIAG_PFWD_PORT = p then t - (d.port p).discovered * d.get DIAG_PFWD_EXTRA else t

/-- The frame's end of port p state when accepted at end e. -/
def PortState.accept (x : PortState) (e : Nat) (w : Option Nat) (ret : Nat) : PortState :=
  if e = 0 then { x with acc0 := true, wrap0 := w, ret0 := ret } else { x with acc1 := true, wrap1 := w, ret1 := ret }

/-- Whether a frame has been accepted at end e in the current cycle. -/
def PortState.acc (x : PortState) (e : Nat) : Bool := if e = 0 then x.acc0 else x.acc1

/-- The first failing check of R75 for a frame at end e of port p that returned at ret ns from t₀, or none. -/
inductive RxFail where
  | hcrc | fcrc | seq | late | hoperr | dup
  deriving DecidableEq, Repr

def Dev.checkFrame (d : Dev) (p e : Nat) (f : Frame) (ret : Nat) : Option RxFail :=
  if f.headerOk = false then some .hcrc
  else if f.bodyOk = false then some .fcrc
  else if f.type ≠ 0 ∨ f.portNo ≠ p ∨ f.nslot ≠ (d.port p).discovered then some .seq
  else if f.cycnum = (d.cycle - 1).toNat then some .late
  else if f.cycnum ≠ d.cycle.toNat then some .seq
  else if (f.dir ≠ e) ≠ (f.wrap = 0) then some .seq
  else if f.hopsOk e = false then some .hoperr
  else if (d.port p).acc e then some .dup
  else if d.cyc.closed ∨ d.closesAt p < ret then some .late
  else none

/-- The counter and flag of a failed check (R75, R83). -/
def Dev.countRx (d : Dev) (p e : Nat) (x : RxFail) : Dev :=
  match x with
  | .hcrc => d.frameError (RING_EVT_CRC p) (RING_CRC_HCRC p e)
  | .fcrc => d.frameError (RING_EVT_CRC p) (RING_CRC_FCRC p e)
  | .seq => d.frameError (RING_EVT_SEQ p) (RING_SEQDUP_SEQ p e)
  | .late => d.frameError (RING_EVT_LATE p) (RING_MISSLATE_LATE p e)
  | .hoperr => d.frameError (RING_EVT_HOPERR p) (RING_HOPWRAP_HOPERR p e)
  | .dup => d.frameError (RING_EVT_DUP p) (RING_SEQDUP_DUP p e)

/-- RING_STAT.WRAPe of the last closed cycle. -/
def wrapFld (p e : Nat) : Fld := if e = 0 then RING_STAT_WRAP0 p else RING_STAT_WRAP1 p

/-- An accepted frame: margin, wrap follow-up and the commit of its slots (R77, R83). -/
def Dev.acceptFrame (d : Dev) (p e : Nat) (f : Frame) (ret : Nat) : Dev :=
  let w := if f.wrap = 1 then some f.wpos else none
  let d := d.setPort p (fun x => x.accept e w ret) |>.margin p (d.closesAt p - ret)
  let d := if w.isSome then
      (if d.is (wrapFld p e) then d else d.set (RING_EVT_WRAPNEW p) 1 |>.recNote 6).count (RING_HOPWRAP_WRAPCYC p e) 1
    else d
  d.each f.slots.zipIdx fun (s, i) d => d.commitSlot p e w s i

/-- Whether port p evaluates cycle frames at end e now (R74). -/
def Dev.receives (d : Dev) (p e : Nat) : Bool :=
  d.inUse p && d.running && d.cyc.inCycle && d.role != .faulted && d.role != .witness && (d.ends p).contains e

/-- Whether a frame of the last cycles comes back at end e after the timer has stopped (R36, R51). -/
def Dev.straggler (d : Dev) (p e : Nat) (f : Frame) : Bool :=
  d.inUse p && !d.running && (d.ends p).contains e && (d.port p).disc.isNone && f.headerOk && f.bodyOk && f.type == 0 &&
    f.portNo == p && f.nslot == (d.port p).discovered && 0 < f.nslot && decide ((d.cycle - BitVec.ofNat 32 f.cycnum).toNat ≤ 1)

/-- A returning cycle frame at end e of port p (R51, R75). DEDUCED, log entry 16. -/
def Dev.receiveFrame (d : Dev) (p e : Nat) (f : Frame) (ret : Nat) : Dev :=
  if d.receives p e then
    match d.checkFrame p e f ret with
    | some x => d.countRx p e x
    | none => d.acceptFrame p e f ret
  else if d.straggler p e f then d.countRx p e .late
  else d

/-! ### The return deadline -/

/-- A missed frame of a port at end e (R83). -/
def Dev.missEnd (d : Dev) (p e : Nat) : Dev := d.frameError (RING_EVT_MISS p) (RING_MISSLATE_MISS p e)

/-- The ends at which a port that sent F(k) misses its expected frame (R48, R65). -/
def Dev.missed (d : Dev) (p : Nat) : List Nat := if (d.port p).sent then (d.ends p).filter (fun e => (d.port p).acc e = false) else []

/-- Marks a discovered cell that is not fresh as stale (R81). -/
def Dev.markStale (d : Dev) (c : Nat) : Dev :=
  d.set (CELL_W0C_STALE c) 1 |>.count (CELL_W0C_STALERUN c) 1 |>.set (CELL_W0C_SRC c) 0
    |>.set (CELL_W0C_RX0 c) 0 |>.set (CELL_W0C_RX1 c) 0

/-- Whether position i of port p is fresh in the current cycle (R49). -/
def Dev.isFresh (d : Dev) (p i : Nat) : Bool := (d.port p).fresh.getLsbD i

/-- The fresh positions of a port. -/
def Dev.freshPos (d : Dev) (p : Nat) : List Nat := (List.range (d.port p).discovered).filter (d.isFresh p)

/-- Writes WPOS of an end that accepted a wrapped frame; else it is not valid and keeps its value. -/
def Dev.wposSet (d : Dev) (f : Fld) (w : Option Nat) : Dev :=
  match w with
  | some x => d.set f x
  | none => d

/-- The status of a port at the deadline: RING_STAT, RING_WRAP, RING_RET, RING_NSTALE and SPATH (R86). A port out of use reports
no cell (R519). DEDUCED, log entry 16. -/
def Dev.portStatus (d : Dev) (p : Nat) : Dev :=
  let x := d.port p
  let fr := if d.inUse p then d.freshPos p else []
  let nsp := countOver fr (fun i => d.cellStat (128 * p + i) 14)
  let d := if 0 < nsp ∧ d.is (RING_STAT_SPATH p) = false then d.set (RING_EVT_SPATH p) 1 else d
  d.setB (RING_STAT_ACTIVE p) x.sent |>.setB (RING_STAT_RX0 p) x.acc0 |>.setB (RING_STAT_RX1 p) x.acc1
    |>.setB (RING_STAT_WRAP0 p) x.wrap0.isSome |>.setB (RING_STAT_WRAP1 p) x.wrap1.isSome
    |>.wposSet (RING_WRAP_WPOS0 p) x.wrap0 |>.wposSet (RING_WRAP_WPOS1 p) x.wrap1
    |>.set (RING_RET_RET p 0) (if x.acc0 then x.ret0 else 0x3FFFF)
    |>.set (RING_RET_RET p 1) (if x.acc1 then x.ret1 else 0x3FFFF)
    |>.setB (RING_STAT_SPATH p) (0 < nsp) |>.set (RING_NSTALE_NSPATH p) nsp
    |>.set (RING_NSTALE_NSTALE p) (if d.inUse p then x.discovered - fr.length else 0)

/-- The largest |TERR| and its position over evaluated slots, lowest position on a tie (R171). -/
def worstTerr (l : List (Nat × Nat)) : Nat × Nat :=
  l.foldl (fun b x => if b.1 < x.1 then x else b) (l.headD (0, 0))

/-- |TERR| of a cell's last fresh sample. -/
def Dev.terrAbs (d : Dev) (c : Nat) : Nat := (d.getS (CELL_W04_TERR c)).natAbs

/-- The TERR supervision of a port (R171); a port out of use has no slots to evaluate. -/
def Dev.terrCheck (d : Dev) (p : Nat) : Dev :=
  let fr := if d.inUse p then d.freshPos p else []
  let ev := fr.filter (fun i => d.cellStat (128 * p + i) 7 && d.get (CELL_W04_TERR (128 * p + i)) != 0x8000)
  let (m, pos) := worstTerr (ev.map (fun i => (d.terrAbs (128 * p + i), i)))
  let d := if ev.any (fun i => decide (d.get TIM_TERRLIM_LIM < d.terrAbs (128 * p + i))) then d.set TIM_EVT_TERRHI 1 else d
  d.set (TIM_RTERR_MAXTERR p) m |>.set (TIM_RTERR_WORSTPOS p) pos
    |>.set (TIM_RTERR_NUNLOCK p) (countOver fr (fun i => d.cellStat (128 * p + i) 7 = false))

/-- The tracked wrapping cells after a cycle: an end's accepted frame names its cell or none; an end without a frame keeps
the cell it named (R88). -/
def trackEnd (acc : Bool) (w old : Option Nat) : Option Nat := if acc then w else old

/-- The cells a port tracks (R88). -/
def PortState.tracked (x : PortState) : List Nat := x.trk0.toList ++ x.trk1.toList

/-- The count towards an unwrap, from the start for a cell newly tracked, and the judgement of one (R88, R89). `counts` is false in a
cycle that R305 leaves out. -/
def Dev.unwrapStep (d : Dev) (p : Nat) (counts : Bool) : Dev :=
  let x := d.port p
  let d := d.setPort p (fun x => { x with trk0 := trackEnd x.acc0 x.wrap0 x.trk0, trk1 := trackEnd x.acc1 x.wrap1 x.trk1 })
  let t := (d.port p).tracked
  let d := if t.all x.tracked.contains then d else d.setPort p (fun x => { x with qual := 0 })
  let ok := t ≠ [] ∧ t.all (fun i => d.isFresh p i && d.cellStat (128 * p + i) 13 && d.cellStat (128 * p + i) 12)
  let d := if counts then d.setPort p (fun x => { x with qual := if ok then x.qual + 1 else 0 }) else d
  if x.unwrap = 3 then
    let done := x.sent && (d.missed p).isEmpty && x.wrap0.isNone && x.wrap1.isNone
    let d := d.setPort p (fun x => { x with unwrap := 0, qual := 0 }) |>.set (RING_STAT_UNWRAPPING p) 0
    if done then d.set (RING_EVT_UNWRAPPED p) 1 |>.count (RING_CNTP_UNWRAPCNT p) 1 else d
  else d

/-- One port at the deadline; the flag says whether the port missed a frame (R52, R81, R86, R171). DEDUCED, log entry 16. -/
def Dev.closePort (d : Dev) (p : Nat) (counts : Bool) : Dev :=
  let miss := d.missed p
  let d := d.each miss fun e d => d.missEnd p e
  let stale := if d.inUse p then (List.range (d.port p).discovered).filter (fun i => d.isFresh p i = false) else []
  let d := d.each stale fun i d => d.markStale (128 * p + i)
  let d := d.portStatus p |>.terrCheck p |>.unwrapStep p counts
  if miss = [] then d else d.count CYC_OVRCNT_OVRCNT 1 |>.set CYC_STAT_OVR 1 |>.recNote 0

/-- A mask of port bits. -/
def portMask (l : List Nat) : Nat := l.foldl (fun m p => m ||| 2 ^ p) 0

/-- Whether a port has something to close: it is in use, sent F(k), or shows a status, a time error or a wrap that ends. -/
def Dev.closes (d : Dev) (p : Nat) : Bool :=
  d.inUse p || (d.port p).sent || d.word (RING_STAT p) != 0 || d.word (TIM_RTERR p) != 0 || (d.port p).unwrap != 0

/-- The close of reception (R48, R52, R89, R171): every port that has something to close, whether still in use or not. -/
def Dev.closePorts (d : Dev) (counts : Nat → Bool) : Dev :=
  let m := portMask (ringPorts.filter (fun p => d.missed p ≠ []))
  let d := d.each (ringPorts.filter d.closes) fun p d => d.closePort p (counts p)
  d.set CYC_MISS_LO_MISS_LO (m % 2 ^ 32) |>.set CYC_MISS_HI_MISS_HI (m / 2 ^ 32)

/-- The reception state of a new cycle. -/
def Dev.openPorts (d : Dev) : Dev :=
  { d with ports := d.ports.map (fun x =>
      { x with sent := false, acc0 := false, acc1 := false, wrap0 := none, wrap1 := none, fresh := 0,
               unwrap := if x.unwrap = 2 then 3 else x.unwrap }) }

/-- The qualification of R88: after 16 × UNWRAPDLY cycles the next frame carries UNWRAP. -/
def Dev.unwrapQualified (d : Dev) (p : Nat) : Dev :=
  let n := d.get (RING_CTRL_UNWRAPDLY p)
  if n ≠ 0 ∧ 16 * n ≤ (d.port p).qual ∧ (d.port p).unwrap = 0 then d.setPort p (fun x => { x with unwrap := 1 }) else d

/-- An idle frame from each end that port p drives, 20 µs after the last ones: while the port is in use, the timer stopped and TB0
counting, in a role with frames (R36, R74, R290). -/
def Dev.sendIdle (d : Dev) (p : Nat) : Dev :=
  if d.inUse p ∧ d.running = false ∧ d.time.on ∧ d.role ≠ .witness ∧ d.role ≠ .faulted then
    let d := match (d.port p).idleAt with
      | some t => d.elapse (t + 20000 - d.time.up)
      | none => d
    let d := d.setPort p (fun x => { x with idleAt := some d.time.up })
    d.each (d.ends p) fun e d =>
      d.sendFrame p e d.time.tb0
        (mkFrame (mkHeader 0 d.time.tb0 (d.get HIF_EPOCH_NUM % 65536) 2 e d.actBit false (d.is (RING_CTRL_DPX p)) p 0 0) [])
  else d

end Sys2Proof.Machine
end

