-- ==== Sys2Proof/Machine/Arms.lean ====
section
/-! DEFINITION. The arm state machine: block causes (R210, R211, R303), deblock requests with their refusals (R210, R463), the
transitions at a cycle boundary, and the ACLK stop (R213). -/

namespace Sys2Proof.Machine

open Sys2Proof

/-- The block causes of R211 in its order. -/
inductive BlockCause where
  | enable | command | saf | halt | aclk | state
  deriving DecidableEq, Repr

/-- The number of a cause in an audit entry of kind 0x10: its place in the list of R211, from 1. DEDUCED, log entry 22. -/
def BlockCause.code : BlockCause → Nat
  | .enable => 1 | .command => 2 | .saf => 3 | .halt => 4 | .aclk => 5 | .state => 6

/-- Writes an arm's state. -/
def Dev.setArmSt (d : Dev) (a : Nat) (s : ArmState) : Dev := d.set (SCH_ASTAT_ST a) s.code

/-- Whether the unit takes commands from its partner (R290). -/
def Dev.follower (d : Dev) : Bool := d.role == .standby || d.role == .syncing

/-- Whether the unit is one of a duplex pair with a live Solder link. -/
def Dev.paired (d : Dev) : Bool := d.get DPX_CFG_MODE = 1 && d.is DPX_STAT_SDLUP

/-- A message's priority, which is its type as well (R299). -/
def SolderMsg.prio : SolderMsg → Nat
  | .blk .. => 1 | .islot .. => 2 | .relay .. => 3 | .ref .. => 4 | .cmds _ => 5 | .stat _ => 6 | .ingot .. => 7
  | .cast .. => 8 | .discres .. => 9 | .epoch _ => 10 | .pair _ => 11

/-- A size rounded up to 16 bytes. -/
def up16 (n : Nat) : Nat := (n + 15) / 16 * 16

/-- Whether a command executes an edge. -/
def CellCmd.edged (c : CellCmd) : Bool := c.edge1 != noEdge || c.edge2 != noEdge

/-- P_cmd of R302 for M mapped cells and E edge records. -/
def cmdsBytes (m e : Nat) : Nat := 240 + up16 ((m + 1) / 2) + up16 (8 * e)

/-- Insertion into the link's queue behind what has the same or a higher priority. -/
def queueIn (x : SolderQ) : List SolderQ → List SolderQ
  | [] => [x]
  | y :: ys => if y.prio ≤ x.prio then y :: queueIn x ys else x :: y :: ys

/-- Queues a message to the partner while the Solder link is UP (R299). -/
def Dev.toPartner (d : Dev) (m : SolderMsg) : Dev :=
  if d.paired then { d with dpx := { d.dpx with queue := queueIn ⟨m.prio, m, 0, [], d.time.tb0⟩ d.dpx.queue } } else d

/-- An arm's state changes by a deblock or a block (R210): the audit entry of kind 0x10 with the origin and the cause (R372,
R384). -/
def Dev.armTo (d : Dev) (a : Nat) (s : ArmState) : Dev :=
  d.setArmSt a s |>.audit 0x10 a s.code (d.armCtl a).cause (d.armCtl a).origin

/-- A block cause reaches one arm (R210, R212): DEBLOCKING and RUNNING become BLOCKING and the ring ports substitute; the other
states have no action. DEDUCED, log entry 23. -/
def Dev.blockArm (d : Dev) (a : Nat) (c : BlockCause) (o : Origin) : Dev :=
  if d.arm a = .deblocking ∨ d.arm a = .running then
    d.recNote 2
      |>.setArm a (fun x => { x with subst := some d.time.tb0, blockedSent := false, toRun := none, origin := o, cause := c.code })
      |>.when (c = .saf) (·.set (SCH_AEVT_BLKREQ a) 1)
      |>.armTo a .blocking
  else d

/-- The arms of a 12-bit mask. -/
def maskArms (m : Nat) : List Nat := allArms.filter (fun a => m.testBit a)

/-- The ring ports of a follower substitute for the arms of a mask (R303). DEDUCED, log entry 31. -/
def Dev.substitute (d : Dev) (m : Nat) : Dev :=
  d.each (maskArms m) fun a d => d.setArm a (fun x => { x with subst := x.subst.orElse (fun _ => some d.time.tb0) })

/-- A block cause for the arms of a mask, told to the partner; a follower substitutes in its own copy too (R303). DEDUCED, log
entry 22. -/
def Dev.block (d : Dev) (m : Nat) (c : BlockCause) (o : Origin) : Dev :=
  if maskArms m = [] then d
  else ((d.each (maskArms m) fun a d => d.blockArm a c o).when (d.follower && d.paired) (·.substitute m)).toPartner (.blk (m % 4096))

/-! ### Deblock -/

/-- Whether every mapped cell of an arm without FLT reports TLOCK in its last fresh slot (R157); a cell without one has
STAT = 0. -/
def Dev.armTlock (d : Dev) (a : Nat) : Bool := (d.armCells a).all (fun c => d.cellStat c 3 || d.cellStat c 7)

/-- Whether a port is in ring degraded mode (SAF_RINGDEG). -/
def Dev.ringDeg (d : Dev) (p : Nat) : Bool :=
  if p < 32 then d.bit SAF_RINGDEG_LO_DEG_LO p else d.bit SAF_RINGDEG_HI_DEG_HI (p - 32)

/-- Whether safety or clock degraded mode runs (R347). -/
def Dev.degraded (d : Dev) : Bool := d.is SAF_STAT_SAFDEG || d.is SAF_STAT_CLKDEG

/-- Whether EXTEST, HIGHZ or CLAMP is loaded (R489). -/
def Dev.boundaryScan (d : Dev) : Bool := d.diag.instr == 0 || d.diag.instr == 4 || d.diag.instr == 5

/-- The first failing row of R463 for a deblock request of arm a, or none. -/
def Dev.deblockRefusal (d : Dev) (a : Nat) : Option Nat :=
  if d.epState ≠ .idle then some 0x23
  else if d.dstate ≠ .armed ∧ d.dstate ≠ .run ∧ d.dstate ≠ .degraded then some 0x30
  else if d.role ≠ .solo ∧ d.role ≠ .active then some 0x31
  else if d.arm a ≠ .blocked ∨ d.is SCH_STAT_HALTBLK ∨ d.boundaryScan then some 0x32
  else if d.is (SCH_ACTL_EN a) = false then some 0x33
  else if d.get (ARM_COUNT0_NRANK a) = 0 then some 0x34
  else if d.armTlock a = false then some 0x35
  else if d.is SAF_STAT_GTDONE = false then some 0x36
  else if d.is SAF_STAT_CONFIRMED = false then some 0x37
  else if d.bit SAF_REQ_ARMS a then some 0x38
  else if d.degraded then some 0x39
  else if (d.armPorts a).any d.ringDeg then some 0x3A
  else if d.is SAF_STAT_FAIL then some 0x3B
  else none

/-- A refused deblock (R463): RST_DBREF, RST_EVT.DBREF and the audit entry of kind 0x11. -/
def Dev.refuseDeblock (d : Dev) (a reason : Nat) (o : Origin) : Dev :=
  d.set RST_DBREF_REASON reason |>.set RST_DBREF_ARM a |>.raise RST_EVT_EVT 1 |>.audit 0x11 a reason 0 o

/-- Steps of R63 set for cycles k + 1 and k + 2 are given up: they occur only while every arm is BLOCKED (R37). DEDUCED, log
entry 15. -/
def Dev.cancelSteps (d : Dev) : Dev :=
  { d with cyc := { d.cyc with
      len1 := if d.cyc.step1 then d.cyc.tm1.tcyc else d.cyc.len1, corr1 := if d.cyc.step1 then 0 else d.cyc.corr1,
      len2 := if d.cyc.step2 then d.cyc.tm2.tcyc else d.cyc.len2, step1 := false, step2 := false } }

/-- An accepted deblock: the arm is DEBLOCKING until t₀(j+2) (R210). DEDUCED, log entry 23. -/
def Dev.acceptDeblock (d : Dev) (a : Nat) (o : Origin) : Dev :=
  d.cancelSteps.setArm a (fun x => { x with toRun := none, origin := o, cause := 0 }) |>.armTo a .deblocking

/-- A deblock request for one arm (R210, R463). -/
def Dev.deblockArm (d : Dev) (a : Nat) (o : Origin) : Dev :=
  match d.deblockRefusal a with
  | some r => d.refuseDeblock a r o
  | none => d.acceptDeblock a o

/-- Deblock requests for the arms of a mask, in order of arm number. -/
def Dev.deblock (d : Dev) (m : Nat) (o : Origin) : Dev := d.each (maskArms m) fun a d => d.deblockArm a o

/-- The arms of a mask that a deblock request would refuse, with the reason of the lowest (R369). DEDUCED, log entry 22. -/
def Dev.deblockMask (d : Dev) (m : Nat) : Nat × Option Nat :=
  (maskArms m).foldl (fun (acc : Nat × Option Nat) a =>
    match d.deblockRefusal a with
    | some r => (acc.1 ||| 2 ^ a, acc.2.orElse (fun _ => some r))
    | none => acc) (0, none)

/-- A refused deblock of an arm that the same write blocks (R210: the block cause wins). -/
def Dev.deblockBeaten (d : Dev) (a : Nat) (o : Origin) : Dev := d.refuseDeblock a ((d.deblockRefusal a).getD 0x32) o

/-- A write of SCH_ARMCMD: block causes of bits 27 to 16, deblock requests of bits 11 to 0; BLK wins (R210, R211). -/
def Dev.armCommand (d : Dev) (v : Word) (o : Origin) : Dev :=
  let blk := v.toNat / 2 ^ 16 % 4096
  let deb := v.toNat % 4096
  let d := d.block blk .command o
  let d := d.each (maskArms (deb &&& blk)) fun a d => d.deblockBeaten a o
  d.deblock (deb &&& (4095 ^^^ blk)) o

/-! ### Transitions in time -/

/-- An arm's transitions at t₀ of a new cycle (R210): BLOCKING ends with the first window commanded blocked; DEBLOCKING ends at
t₀(j+2). DEDUCED, log entry 23. -/
def Dev.armBoundary (d : Dev) (a : Nat) : Dev :=
  let x := d.armCtl a
  match d.arm a with
  | .blocking => if x.blockedSent then d.armTo a .blocked else d
  | .deblocking =>
    match x.toRun with
    | some n => if n ≤ 1 then d.armTo a .running |>.setArm a (fun x => { x with toRun := none })
                else d.setArm a (fun x => { x with toRun := some (n - 1) })
    | none => d
  | _ => d

/-- Every arm at t₀ of a new cycle; what the sort needs of the past states is kept (R192, R201). -/
def Dev.armsBoundary (d : Dev) : Dev :=
  d.each allArms fun a d =>
    let d := d.armBoundary a
    d.setArm a (fun x => { x with ranPrev := x.ranNow, ranNow := decide (d.arm a = .running),
                                  sortLate := false, schedLate := false })

/-- Every arm becomes BLOCKED without substitution (R294). DEDUCED, log entry 22. -/
def Dev.dropArms (d : Dev) : Dev :=
  d.each allArms fun a d =>
    d.setArmSt a .blocked |>.setArm a (fun x => { x with subst := none, blockedSent := false, toRun := none })

/-! ### ACLK stop -/

/-- ACLK stops (R213): SCH_EVT.ACLKSTOP, HALTBLK, every arm BLOCKING, one without cells too, which R21 calls BLOCKED: SCH_ASTAT
shows BLOCKING and TOP_ARMSTATE BLOCKED; the time bases, which ACLK counts (R159), stand still. DEDUCED, DESIGN CHOICE, log
entries 12, 22, 70. -/
def Dev.aclkStop (d : Dev) : Dev :=
  if d.sch.aclkStopped then d
  else
    let d := { d with sch := { d.sch with aclkStopped := true, stopFrames := 0 }, time := { d.time with on := false } }
    let d := d.set SCH_EVT_ACLKSTOP 1 |>.set SCH_STAT_HALTBLK 1 |>.block 4095 .aclk .device
    d.each allArms fun a d =>
      let d := d.setArm a (fun x => { x with subst := some d.time.tb0, blockedSent := false })
      if d.arm a = .blocking then d
      else d.setArm a (fun x => { x with origin := .device, cause := BlockCause.aclk.code }) |>.armTo a .blocking

/-- A debug halt comes into force (R214). -/
def Dev.haltArms (d : Dev) (o : Origin) : Dev :=
  if d.is SCH_STAT_HALTBLK then d
  else d.set SCH_STAT_HALTBLK 1 |>.set SCH_EVT_HALT 1 |>.block 4095 .halt o

/-- The debug halt is released: the arms stay BLOCKED; an ACLK stop still blocks (R214). -/
def Dev.haltEnd (d : Dev) : Dev := if d.sch.aclkStopped then d else d.set SCH_STAT_HALTBLK 0

end Sys2Proof.Machine
end

