-- ==== Sys2Proof/Machine/Saf.lean ====
section
/-! DEFINITION. The safety functions: inputs and guard test (R330, R331, R339), demands with latch and acknowledge (R334 to
R336), SAFE_OK (R332), safe arm overvoltage (R340, R341), degraded modes (R347 to R350), station telegrams (R353 to R355),
confirmation (R344, R345). -/

namespace Sys2Proof.Machine

open Sys2Proof

/-! ### Initial state -/

/-- A timer of a mode that does not run. -/
def DegTimer.init : DegTimer := ⟨false, 0, none, none, false, 0⟩

/-- An SOV channel without results. -/
def SovChan.init : SovChan := ⟨0, none, false, false, 0⟩

/-- An arm's SOV without results. -/
def SovState.init : SovState := ⟨.init, .init, none, false, false⟩

/-- SAF after a reset. -/
def SafState.init : SafState :=
  ⟨[false, false, false, false], [none, none], false, false, [], List.replicate 8 0, none, false, List.replicate 48 0,
   List.replicate 12 0, 0, List.replicate 12 SovState.init, none, none, none, none, .init, .init, List.replicate 48 DegTimer.init,
   none, false, 0, 0, none, 0, none, none, []⟩

/-- Changes SAF's state beside its registers. -/
def Dev.setSaf (d : Dev) (f : SafState → SafState) : Dev := { d with saf := f d.saf }

/-- Milliseconds in ns. -/
def ms (n : Nat) : Nat := n * 1000000

/-- Since when a condition has held without a break. -/
def heldSince (b : Bool) (old : Option Nat) (now : Nat) : Option Nat := if b then some (old.getD now) else none

/-- Whether a condition that holds since an instant has held for ns. -/
def lasted (since : Option Nat) (now ns : Nat) : Bool :=
  match since with
  | some t => decide (t + ns ≤ now)
  | none => false

/-- What is left of ns since an instant. -/
def restOf (since : Option Nat) (now ns : Nat) : Nat := since.getD now + ns - now

/-- TDISC in ns (R331). -/
def Dev.tdisc (d : Dev) : Nat := ms (d.get SAF_TIM_TDISC)

/-! ### Demands -/

def kBREQ : Nat := 0
def kGUARD : Nat := 1
def kSOV : Nat := 2
def kSTBLK : Nat := 3
def kSTTO : Nat := 4
def kSUP : Nat := 5
def kEXP : Nat := 6
def kFAIL : Nat := 7

/-- The list of demands without one of them. -/
def dropSrc (l : List DemandSrc) (kind key : Nat) : List DemandSrc := l.filter (fun s => !(s.kind == kind && s.key == key))

/-- Whether a demand of a kind is present. -/
def SafState.present (s : SafState) (kind : Nat) : Bool := s.src.any (fun x => x.kind == kind)

/-- Whether an acknowledge at this instant has cleared a kind (R336). -/
def Dev.justAcked (d : Dev) (kind : Nat) : Bool :=
  match d.saf.acked with
  | some (t, m) => t == d.time.cio && m.testBit kind
  | none => false

/-- Latches a demand's kind and arms; one that re-arises at the acknowledge's own instant sets ACKREF (R336). -/
def Dev.latchDemand (d : Dev) (kind mask : Nat) : Dev :=
  let d := (d.setSaf (fun s => { s with latch := putAt s.latch kind 0 (nth s.latch kind 0 ||| mask) })).raise SAF_DEMAND_LATCH kind
  if d.justAcked kind then d.raise SAF_EVT_EVT 3 else d

/-- The events of a demand that rises: DEMAND; EXP and FAIL with their audit entries of kind 0x50 (R384). -/
def Dev.demandRose (d : Dev) (kind : Nat) (first : Bool) : Dev :=
  let d := d.raise SAF_EVT_EVT 0
  let note := fun (d : Dev) (n : Nat) =>
    (d.raise SAF_EVT_EVT n).setSaf (fun s => { s with toAudit := s.toAudit ++ [(n, .device)] })
  if kind = kEXP then note d 2 else if kind = kFAIL ∧ first then note d 7 else d

/-- A demand becomes present with the arms it names, or ceases (R334, R336). -/
def Dev.demand (d : Dev) (kind key : Nat) (m : Option Nat) : Dev :=
  let old := d.saf.src.find? (fun s => s.kind == kind && s.key == key)
  match m, old with
  | none, none => d
  | none, some _ => d.setSaf (fun s => { s with src := dropSrc s.src kind key })
  | some m, some x =>
    if x.mask = m then d
    else (d.setSaf (fun s => { s with src := ⟨kind, key, m⟩ :: dropSrc s.src kind key })).latchDemand kind m
  | some m, none =>
    let first := !d.saf.present kind
    ((d.setSaf (fun s => { s with src := ⟨kind, key, m⟩ :: s.src })).latchDemand kind m).demandRose kind first

/-- A demand present while a condition holds. -/
def Dev.demandIf (d : Dev) (b : Bool) (kind key mask : Nat) : Dev := d.demand kind key (if b then some mask else none)

/-- The bits of SAF_DEMAND.PRESENT. -/
def SafState.presentBits (s : SafState) : Nat := s.src.foldl (fun m x => m ||| 2 ^ x.kind) 0

/-- The arms with the block request raised (R334). -/
def SafState.wanted (s : SafState) : Nat := (s.src.foldl (fun m x => m ||| x.mask) (s.latch.foldl (· ||| ·) 0)) % 4096

/-- Puts the demands on SAF_DEMAND and the request on the wire: an arm newly named is blocked (R19, R211, R334). -/
def Dev.safPublish (d : Dev) (o : Origin) : Dev :=
  let new := d.saf.wanted
  let old := d.get SAF_REQ_ARMS
  let d := if new &&& (4095 ^^^ old) = 0 then d else d.recNote 3
  let d := d.set SAF_DEMAND_PRESENT d.saf.presentBits |>.set SAF_REQ_ARMS new |>.block (new &&& (4095 ^^^ old)) .saf o
  let es := d.saf.toAudit
  let d := d.setSaf (fun s => { s with toAudit := [] })
  d.each es fun e d => d.audit 0x50 e.1 (d.word SAF_DEMAND).toNat (d.word SAF_REQ).toNat e.2

/-- Whether any demand is present or latched. -/
def Dev.anyDemand (d : Dev) : Bool := !d.saf.src.isEmpty || d.is SAF_DEMAND_LATCH

/-- The acknowledge (R336): every latched kind whose source has ceased is cleared; any that stays sets ACKREF. -/
def Dev.safAck (d : Dev) (o : Origin) : Dev :=
  let clear := (List.range 8).filter (fun k => d.bit SAF_DEMAND_LATCH k && !d.saf.present k && k != kFAIL)
  let d := d.each clear fun k d =>
    (d.setSaf (fun s => { s with latch := putAt s.latch k 0 0 })).drop SAF_DEMAND_LATCH k
  let d := if d.is SAF_DEMAND_LATCH then d.raise SAF_EVT_EVT 3 else d
  d.setSaf (fun s => { s with toAudit := s.toAudit ++ [(8, o)],
                              acked := some (d.time.cio, clear.foldl (fun m k => m ||| 2 ^ k) 0) })

/-- A class F fault (R333). DEDUCED, log entries 34, 35. -/
def Dev.classF (d : Dev) : Dev :=
  (d.setSaf (fun s => { s with classF := true })).set SAF_STAT_FAIL 1 |>.demand kFAIL 0 (some 4095)

/-- Whether the root clock is locked: it runs from the synthesiser, which is READY (R333, R439). -/
def Dev.rootLocked (d : Dev) : Bool := d.is CLK_STAT_SRC && d.is CLK_STAT_MDLLRDY

/-- The cast-iron oscillator has differed from the locked root clock by ppm for ns: above 5 % for 1 ms is a class F fault (R333). -/
def Dev.oscDiffers (d : Dev) (ppm ns : Nat) : Dev := if d.rootLocked ∧ 50000 < ppm ∧ 1000000 ≤ ns then d.classF else d

/-! ### SC causes -/

/-- An SC cause appears or ceases (R347): SAF_SCCAUSE, SCFLT, and on the GUARD pair the loss of GTDONE (R339). -/
def Dev.scCause (d : Dev) (n : Nat) (b : Bool) : Dev :=
  if b = d.bit SAF_SCCAUSE_SC n then d
  else if b then
    let d := d.raise SAF_SCCAUSE_SC n |>.raise SAF_EVT_EVT 1
    if n = 0 then
      (d.set SAF_STAT_GTDONE 0).setSaf (fun s => { s with gtOpen := false, gtBad := true })
    else d
  else d.drop SAF_SCCAUSE_SC n

/-! ### Inputs -/

/-- Whether the filter of input ch has settled at a level. -/
def Dev.inputIs (d : Dev) (ch : Nat) (lvl : Bool) : Bool := nth d.saf.settled ch false && d.bit SAF_PIN_PINS ch == lvl

/-- The guard test after a change of a GUARD channel (R339). -/
def Dev.guardTest (d : Dev) : Dev :=
  if d.is SAF_STAT_GTDONE then d
  else if d.inputIs 0 false ∧ d.inputIs 1 false then
    d.setSaf (fun s => { s with gtOpen := !s.gtBad, gtBad := false })
  else if d.inputIs 0 true ∧ d.inputIs 1 true then
    let done := d.saf.gtOpen && !d.saf.gtBad
    let d := d.setSaf (fun s => { s with gtOpen := false, gtBad := false })
    if done then
      (d.set SAF_STAT_GTDONE 1 |>.raise SAF_EVT_EVT 6).setSaf (fun s => { s with toAudit := s.toAudit ++ [(6, .device)] })
    else d
  else d

/-- BREQ and GUARD as the filtered inputs give them (R331, R334). -/
def Dev.inputDemands (d : Dev) : Dev :=
  d.demandIf (d.inputIs 0 false || d.inputIs 1 false) kGUARD 0 4095
    |>.demandIf (d.inputIs 2 false || d.inputIs 3 false) kBREQ 0 (d.get SAF_BLKMASK_BLKMASK)

/-- Whether the settled levels of a pair differ: 0 GUARD, 1 BLOCK_REQ. -/
def Dev.pairDiffers (d : Dev) (pair : Nat) : Bool :=
  nth d.saf.settled (2 * pair) false && nth d.saf.settled (2 * pair + 1) false &&
    d.bit SAF_PIN_PINS (2 * pair) != d.bit SAF_PIN_PINS (2 * pair + 1)

/-- A pair whose levels have differed for more than TDISC is an SC cause (R331). -/
def Dev.pairDue (d : Dev) (pair : Nat) : Dev :=
  if lasted (nth d.saf.differ pair none) d.time.cio (d.tdisc + 1) then d.scCause pair true else d

/-- The ball of a safety input has held a level for ns (R331): 0 GUARD_A, 1 GUARD_B, 2 BLOCK_REQ_A, 3 BLOCK_REQ_B. The filtered
level follows once the ball has held it for FILT µs. -/
def Dev.safInput (d : Dev) (ch : Nat) (lvl : Bool) (held : Nat) : Dev :=
  if held < 1000 * d.get SAF_TIM_FILT then d
  else
    let pair := ch / 2
    let d := d.pairDue pair
    let d := (d.setBit SAF_PIN_PINS ch lvl).setSaf (fun s => { s with settled := putAt s.settled ch false true })
    let d := d.setSaf (fun s => { s with
      differ := putAt s.differ pair none (heldSince (d.pairDiffers pair) (nth s.differ pair none) d.time.cio) })
    let d := if d.pairDiffers pair then d else d.scCause pair false
    let d := if pair = 0 then d.guardTest else d
    d.inputDemands

/-- The filtered levels of a pair differ for more than TDISC; time passes until they have (R331). -/
def Dev.discrepancy (d : Dev) (pair : Nat) : Dev :=
  if (nth d.saf.differ pair none).isSome then
    (d.elapse (restOf (nth d.saf.differ pair none) d.time.cio (d.tdisc + 1))).pairDue pair
  else d

/-! ### SAFE_OK -/

/-- The level of a SAFE_OK ball: the command, or the level the ball is stuck at. -/
def ballLevel (stuck : Option Bool) (cmd : Bool) : Bool := stuck.getD cmd

/-- The conditions of R332. -/
def Dev.safeOk (d : Dev) : Bool :=
  (d.dstate == .run || d.dstate == .armed) && !d.boundaryScan && !d.anyDemand && !d.degraded && d.is SAF_STAT_GTDONE &&
    d.is SAF_STAT_CONFIRMED && !d.is SAF_STAT_FAIL

/-- Drives SAFE_OK from R332 and reads the balls back; the readback fault ends when both balls agree with the command. -/
def Dev.driveSafeOk (d : Dev) : Dev :=
  let ok := d.safeOk
  let d := if ok = d.is SAF_STAT_SAFEOK then d
    else d.setB SAF_STAT_SAFEOK ok |>.emit (.pin .safeOkA (if ok then .high else .low))
      |>.emit (.pin .safeOkB (if ok then .high else .low))
  let a := ballLevel d.saf.stuckA ok
  let b := ballLevel d.saf.stuckB ok
  let d := d.setBit SAF_PIN_PINS 4 ok |>.setBit SAF_PIN_PINS 5 ok |>.setBit SAF_PIN_PINS 6 a |>.setBit SAF_PIN_PINS 7 b
  let d := d.setSaf (fun s => { s with rbA := heldSince (a != ok) s.rbA d.time.cio, rbB := heldSince (b != ok) s.rbB d.time.cio })
  if a = ok ∧ b = ok then d.scCause 2 false else d

/-- A SAFE_OK ball that has differed from its command for 100 µs is an SC cause (R332). -/
def Dev.readbackDue (d : Dev) : Dev :=
  if lasted d.saf.rbA d.time.cio 100000 || lasted d.saf.rbB d.time.cio 100000 then d.scCause 2 true else d

/-- Something outside holds a SAFE_OK ball at a level, or lets it go; if the ball then differs from its command, 100 µs of that
pass (R332). -/
def Dev.readbackFault (d : Dev) (chB : Bool) (lvl : Option Bool) : Dev :=
  let d := d.setSaf (fun s => if chB then { s with stuckB := lvl } else { s with stuckA := lvl })
  let bad := ballLevel lvl (d.is SAF_STAT_SAFEOK) != d.is SAF_STAT_SAFEOK
  let since := heldSince bad (if chB then d.saf.rbB else d.saf.rbA) d.time.cio
  let d := d.setSaf (fun s => if chB then { s with rbB := since } else { s with rbA := since })
  if bad then (d.elapse (restOf since d.time.cio 100000)).readbackDue else d

/-! ### Supervision (R335) -/

/-- The SHORT demand of an arm. -/
def Dev.supShort (d : Dev) (a : Nat) : Dev :=
  d.demandIf (d.is SAF_CFG_SHORTBLK && d.is (ARM_STAT_SHORT a)) kSUP (96 + a) (2 ^ a)

/-- A limit of R335; 0 acts as 1. -/
def Dev.limit (d : Dev) (f : Fld) : Nat := max (d.get f) 1

/-- A port's run of cycles with every expected frame missed, and its demand. -/
def Dev.supMiss (d : Dev) (p : Nat) : Dev :=
  let miss := (d.port p).sent && d.missed p == d.ends p
  let n := if miss then min (nth d.saf.missRun p 0 + 1) 255 else 0
  (d.setSaf (fun s => { s with missRun := putAt s.missRun p 0 n })).demandIf (d.limit SAF_SUP_MISSLIM ≤ n) kSUP p
    (2 ^ d.portArm p)

/-- The supervision at t₀ + t_ret (R334, R335). -/
def Dev.supervise (d : Dev) : Dev :=
  let ports := ringPorts.filter (fun p => (d.port p).sent || nth d.saf.missRun p 0 != 0)
  let d := d.each ports fun p d => d.supMiss p
  let lim := d.limit SAF_SUP_LATELIM
  let d := d.each allArms fun a d =>
    (d.demandIf (lim ≤ nth d.saf.lateRun a 0) kSUP (64 + a) (2 ^ a)).supShort a
  d.demandIf (lim ≤ d.saf.loopRun) kSUP 80 4095

/-- The runs of late sorts, schedules and loop programmes, at the end of each cycle. -/
def Dev.lateRuns (d : Dev) (loopLate : Bool) : Dev :=
  d.setSaf (fun s => { s with
    lateRun := allArms.map (fun a =>
      if (d.armCtl a).sortLate || (d.armCtl a).schedLate then min (nth s.lateRun a 0 + 1) 255 else 0),
    loopRun := if loopLate then min (s.loopRun + 1) 255 else 0 })

/-! ### Safe arm overvoltage -/

/-- An arm's SOV state. -/
def Dev.sov (d : Dev) (a : Nat) : SovState := nth d.saf.sov a SovState.init

/-- Writes an arm's SOV state. -/
def Dev.setSov (d : Dev) (a : Nat) (v : SovState) : Dev := d.setSaf (fun s => { s with sov := putAt s.sov a SovState.init v })

/-- A channel after a result that is no settle result (R340). -/
def SovChan.result (c : SovChan) (lim res : Nat) (opn : Bool) : SovChan :=
  ⟨if opn ∨ lim ≤ res then c.run + 1 else 0, some res, opn, false, 0⟩

/-- Whether a channel lets the demand cease: silent, without a result, or at or below LIM − HYS. -/
def SovChan.below (c : SovChan) (lim hys : Nat) : Bool :=
  c.silent || (match c.last with
    | some r => !c.opn && decide (r + hys ≤ lim)
    | none => true)

/-- Whether a channel calls for the demand: over in NOV + 1 consecutive results, and not silent (R340, R341). -/
def SovChan.over (c : SovChan) (nov : Nat) : Bool := !c.silent && decide (nov + 1 ≤ c.run)

/-- Whether the latest results of both channels differ by more than a limit (R341). -/
def SovState.differ (s : SovState) (dlim : Nat) : Bool :=
  match s.a.last, s.b.last with
  | some x, some y => decide (dlim < max x y - min x y)
  | _, _ => false

/-- Whether an arm's SOV is an SC cause (R340, R341). -/
def SovState.fault (s : SovState) : Bool := s.a.opn || s.b.opn || s.disc || s.a.silent || s.b.silent

/-- SC cause 3 from every arm with SOV enabled. -/
def Dev.sovCause (d : Dev) : Dev :=
  d.scCause 3 (allArms.any (fun a => d.is (SAF_SOVCFG_EN a) && (d.sov a).fault))

/-- Whether the demand of an arm's SOV stands after what its channels show (R340, R341). -/
def Dev.sovDemands (d : Dev) (a : Nat) (s : SovState) : Bool :=
  let lim := d.get (SAF_SOVLIM_LIM a)
  let hys := d.get (SAF_SOVLIM_HYS a)
  let nov := d.get (SAF_SOVCFG_NOV a)
  if s.dem then !(s.a.below lim hys && s.b.below lim hys) else s.a.over nov || s.b.over nov

/-- An arm's SOV and its demand (R334). -/
def Dev.sovPut (d : Dev) (a : Nat) (s : SovState) : Dev :=
  (d.setSov a s).demandIf s.dem kSOV a (d.get (SAF_SOVARMS_SOVARMS a))

/-- A published result for one arm's channel; a settle result is skipped (R340). -/
def Dev.sovArm (d : Dev) (a : Nat) (chB : Bool) (res : Nat) (settle opn : Bool) : Dev :=
  let s := d.sov a
  let c := if chB then s.b else s.a
  let c' := if settle then { c with silent := false, quiet := 0 } else c.result (d.get (SAF_SOVLIM_LIM a)) res opn
  let s := if chB then { s with b := c' } else { s with a := c' }
  let far := s.differ (d.get (SAF_SOVDLIM_DLIM a))
  let s := { s with since := heldSince far s.since d.time.cio, disc := s.disc && far }
  d.sovPut a (if settle then s else { s with dem := d.sovDemands a s })

/-- A published result of entry i of converter x (R340): channel A is ADCA entry CHA, channel B ADCB entry CHB. -/
def Dev.sovResult (d : Dev) (x i res : Nat) (settle opn : Bool) : Dev :=
  let arms := allArms.filter (fun a => d.is (SAF_SOVCFG_EN a) &&
    (if x = 0 then d.get (SAF_SOVCFG_CHA a) else d.get (SAF_SOVCFG_CHB a)) == i)
  if arms = [] then d else (d.each arms fun a d => d.sovArm a (x = 1) res settle opn).sovCause

/-- A channel without a result in 4 cycles is silent (R341). -/
def SovChan.hush (c : SovChan) : SovChan := if 4 < c.quiet then { c with silent := true } else c

/-- The channels of an arm that have fallen silent, and results that have differed for TDISC; the other channel acts alone (R341). -/
def Dev.sovDue (d : Dev) (a : Nat) : Dev :=
  let s := d.sov a
  let s' := { s with a := s.a.hush, b := s.b.hush, disc := s.disc || lasted s.since d.time.cio d.tdisc }
  if s' = s then d else d.sovPut a { s' with dem := s.dem && d.sovDemands a s' }

/-- A cycle starts: every channel is one cycle further from its last result (R341). -/
def Dev.sovCycle (d : Dev) : Dev :=
  d.each (allArms.filter (fun a => d.is (SAF_SOVCFG_EN a))) fun a d =>
    let s := d.sov a
    d.setSov a { s with a := { s.a with quiet := min (s.a.quiet + 1) 5 }, b := { s.b with quiet := min (s.b.quiet + 1) 5 } }

/-- While the cycle timer does not run, no channel is silent (R341). -/
def Dev.sovIdle (d : Dev) : Dev :=
  let arms := allArms.filter (fun a => (d.sov a).a.quiet != 0 || (d.sov a).b.quiet != 0)
  if d.running ∨ arms = [] then d
  else
    (d.each arms fun a d =>
      let s := d.sov a
      d.setSov a { s with a := { s.a with quiet := 0, silent := false }, b := { s.b with quiet := 0, silent := false } }).sovCause

/-- A channel has published nothing in 4 cycles while the cycle timer runs (R341). -/
def Dev.sovSilent (d : Dev) (a : Nat) (chB : Bool) : Dev :=
  let c := if chB then (d.sov a).b else (d.sov a).a
  if d.running ∧ d.is (SAF_SOVCFG_EN a) ∧ 4 < c.quiet then (d.sovDue a).sovCause else d

/-- The results of an arm's channels differ by more than DLIM for TDISC; time passes until they have (R341). -/
def Dev.sovDiffer (d : Dev) (a : Nat) : Dev :=
  if d.is (SAF_SOVCFG_EN a) ∧ (d.sov a).since.isSome then
    ((d.elapse (restOf (d.sov a).since d.time.cio d.tdisc)).sovDue a).sovCause
  else d

/-! ### Degraded modes -/

/-- A timer after its causes are looked at (R348): a first cause starts the mode from 0; the count runs while it counts and is
held otherwise. DEDUCED, log entry 36. -/
def DegTimer.step (t : DegTimer) (cause counts : Bool) (up arm : Nat) : DegTimer :=
  if t.on = false then
    if cause then ⟨true, 0, if counts then some up else none, none, false, arm⟩ else t
  else
    let t := match t.since with
      | some s => if counts then t else { t with held := t.held + (up - s), since := none }
      | none => if counts then { t with since := some up } else t
    { t with clear := if cause then none else t.clear.orElse (fun _ => some up) }

/-- A timer's count in ns. -/
def DegTimer.count (t : DegTimer) (up : Nat) : Nat := t.held + (match t.since with | some s => up - s | none => 0)

/-- What remains of a set time in ms, rounded up; 0x3FFF while the mode does not run. -/
def DegTimer.remain (t : DegTimer) (up setMs : Nat) : Nat :=
  if t.on = false then 0x3FFF else if t.expired then 0 else min ((ms setMs - t.count up + 999999) / 1000000) 0x3FFE

/-- The ring timer of a port. -/
def Dev.ringTimer (d : Dev) (p : Nat) : DegTimer := nth d.saf.ring p DegTimer.init

/-- Whether a port is held under R350: PARTSP, duplex, the Solder link not UP, and every wrapped frame turns at the cell next
to the partner's end. -/
def Dev.soleHeld (d : Dev) (p : Nat) : Bool :=
  let e := d.get (RING_CTRL_OWNEND p)
  let far := if e = 0 then (d.port p).discovered - 1 else 0
  let wpos := if e = 0 then d.get (RING_WRAP_WPOS0 p) else d.get (RING_WRAP_WPOS1 p)
  d.is SAF_CFG_PARTSP && d.is (RING_CTRL_DPX p) && !d.is DPX_STAT_SDLUP &&
    (!d.is (wrapFld p e) || wpos == far)

/-- The arms of an expired ring timer's demand (R347). -/
def Dev.expMask (d : Dev) (p : Nat) : Nat :=
  2 ^ (d.ringTimer p).arm ||| (if d.inUse p then 2 ^ d.portArm p else 0)

/-- A port's class RP cause and timer (R347, R350). -/
def Dev.ringCause (d : Dev) (p : Nat) : Dev :=
  let cause := d.inUse p && d.is (RING_STAT_SPATH p)
  let held := cause && d.soleHeld p
  let t := (d.ringTimer p).step cause (cause && !held) d.time.cio (d.portArm p)
  let d := d.setSaf (fun s => { s with ring := putAt s.ring p DegTimer.init t })
  let d := if p < 32 then d.setBit SAF_RINGDEG_LO_DEG_LO p t.on |>.setBit SAF_RINGSOLE_LO_SOLE_LO p held
    else d.setBit SAF_RINGDEG_HI_DEG_HI (p - 32) t.on |>.setBit SAF_RINGSOLE_HI_SOLE_HI (p - 32) held
  let d := d.setB SAF_STAT_RINGDEG (d.is SAF_RINGDEG_LO_DEG_LO || d.is SAF_RINGDEG_HI_DEG_HI)
  d.demandIf (t.on && t.expired) kEXP (2 + p) (d.expMask p)

/-- Every port that has or may have a class RP cause. -/
def Dev.ringCauses (d : Dev) : Dev :=
  let ports := ringPorts.filter (fun p => (d.ringTimer p).on || (d.inUse p && d.is (RING_STAT_SPATH p)))
  d.each ports fun p d => d.ringCause p

/-- The class SC and CK causes and timers; an expired port's demand names the arm of a new map too (R347). -/
def Dev.deviceCauses (d : Dev) : Dev :=
  let d := d.each (d.saf.src.filter (fun s => s.kind == kEXP && decide (2 ≤ s.key))) fun s d =>
    d.demandIf true kEXP s.key (d.expMask (s.key - 2))
  let sc := d.is SAF_SCCAUSE_SC
  let ck := d.is CLK_STAT_CLKDEG
  let d := d.setSaf (fun s => { s with sc := s.sc.step sc sc d.time.cio 0, ck := s.ck.step ck ck d.time.cio 0 })
  d.setB SAF_STAT_SAFDEG d.saf.sc.on |>.setB SAF_STAT_CLKDEG d.saf.ck.on

/-- The timer of a mode. -/
def Dev.degTimer (d : Dev) (k : Deg) : DegTimer :=
  match k with
  | .saf => d.saf.sc
  | .clk => d.saf.ck
  | .ring p => d.ringTimer p.val

/-- Writes the timer of a mode. -/
def Dev.setDegTimer (d : Dev) (k : Deg) (t : DegTimer) : Dev :=
  d.setSaf (fun s => match k with
    | .saf => { s with sc := t }
    | .clk => { s with ck := t }
    | .ring p => { s with ring := putAt s.ring p.val DegTimer.init t })

/-- A mode's set time in ns. -/
def Dev.degTime (d : Dev) (k : Deg) : Nat :=
  match k with
  | .saf => ms (d.get SAF_TDEG0_TSAF)
  | .clk => ms (d.get SAF_TDEG0_TCLK)
  | .ring _ => ms (d.get SAF_TDEG1_TRING)

/-- A mode's key among the EXP demands. -/
def Deg.key : Deg → Nat
  | .saf => 0 | .clk => 1 | .ring p => 2 + p.val

/-- The arms of a mode's EXP demand (R347). DEDUCED, log entry 36. -/
def Dev.degMask (d : Dev) (k : Deg) : Nat :=
  match k with
  | .ring p => d.expMask p.val
  | _ => 4095

/-- The expiry of a mode's timer: the EXP demand rises (R347). -/
def Dev.degFire (d : Dev) (k : Deg) : Dev :=
  (d.setDegTimer k { d.degTimer k with expired := true }).demand kEXP k.key (some (d.degMask k))

/-- Whether a timer counts; at the very instant at which its cause clears, the expiry still acts (R349). -/
def DegTimer.counts (t : DegTimer) (now : Nat) : Bool := t.since.isSome || t.clear == some now

/-- A timer expires (R347, R348): time passes until it has counted 0.95 of its set time. A timer that is held or has expired does
nothing. -/
def Dev.degExpire (d : Dev) (k : Deg) : Dev :=
  let t := d.degTimer k
  let lim := d.degTime k * 95 / 100
  if t.on ∧ t.expired = false ∧ (t.since.isSome ∨ (t.counts d.time.cio ∧ lim ≤ t.count d.time.cio)) then
    (d.elapse (lim - t.count d.time.cio)).degFire k
  else d

/-- A timer that has counted its set time has expired (R348). -/
def Dev.degDue (d : Dev) (k : Deg) : Dev :=
  let t := d.degTimer k
  if t.on ∧ t.expired = false ∧ d.degTime k ≤ t.count d.time.cio then d.degFire k else d

/-- A mode is over: its timer returns to 0, its EXP demand ends (R347, R348). -/
def Dev.degOver (d : Dev) (k : Deg) : Dev :=
  let d := (d.setDegTimer k .init).demand kEXP k.key none
  match k with
  | .ring p => d.ringCause p.val
  | _ => d

/-- RECOV in ns. -/
def Dev.recov (d : Dev) : Nat := ms (d.get SAF_TDEG1_RECOV)

/-- A mode ends after no cause has been present for RECOV ms; time passes until then (R348). -/
def Dev.degEnd (d : Dev) (k : Deg) : Dev :=
  let t := d.degTimer k
  if t.on ∧ t.clear.isSome then (d.elapse (restOf t.clear d.time.cio d.recov)).degOver k else d

/-- A mode without a cause for RECOV ms has ended (R348). -/
def Dev.degPast (d : Dev) (k : Deg) : Dev :=
  if (d.degTimer k).on ∧ lasted (d.degTimer k).clear d.time.cio d.recov then d.degOver k else d

/-- The degraded modes that run. -/
def Dev.degModes (d : Dev) : List Deg :=
  ([Deg.saf, Deg.clk] ++ (List.finRange 48).map Deg.ring).filter (fun k => (d.degTimer k).on)

/-! ### Station telegrams -/

/-- The PATH cause of a port. -/
def Dev.pathCause (d : Dev) (port : Nat) (b : Bool) : Dev := d.scCause (4 + port) b

/-- STTO: both ports silent while STEN = 1 (R334). -/
def Dev.sttoDemand (d : Dev) : Dev :=
  d.demandIf (d.is SAF_CFG_STEN && d.bit SAF_SCCAUSE_SC 4 && d.bit SAF_SCCAUSE_SC 5) kSTTO 0 4095

/-- STTO in ns. -/
def Dev.stto (d : Dev) : Nat := ms (d.get SAF_STCFG_STTO)

/-- The silence of a port counts from now (R354). -/
def Dev.heardOn (d : Dev) (port : Nat) : Dev :=
  (d.setSaf (fun s => if port = 0 then { s with quiet0 := d.time.cio } else { s with quiet1 := d.time.cio })).pathCause port false

/-- The instant from which a port's silence counts. -/
def Dev.quietFrom (d : Dev) (port : Nat) : Nat := if port = 0 then d.saf.quiet0 else d.saf.quiet1

/-- A port without a valid telegram for STTO ms while STEN = 1 is a PATH cause and counts in LOST (R354). -/
def Dev.pathDue (d : Dev) (port : Nat) : Dev :=
  if d.is SAF_CFG_STEN ∧ d.bit SAF_SCCAUSE_SC (4 + port) = false ∧ d.quietFrom port + d.stto ≤ d.time.cio then
    (d.count (if port = 0 then SAF_STCNT0_LOST0 else SAF_STCNT0_LOST1) 1).pathCause port true |>.sttoDemand
  else d

/-- A number from bytes, most significant first. -/
def beAt (l : List Byte) (off n : Nat) : Nat := leNat ((l.drop off).take n).reverse

/-- Bytes of a number, most significant first. -/
def beBytes (n v : Nat) : List Byte := (leBytes n v).reverse

/-- Source address and payload of a safe telegram in an Ethernet frame from its destination address on: ethertype 0x88B5,
untagged or after one IEEE 802.1Q tag (R353). PRESUMED, log entry 62. -/
def ethTelegram (f : List Byte) : Option (BitVec 48 × List Byte) :=
  let at_ := if beAt f 12 2 = 0x8100 then 16 else 12
  if beAt f at_ 2 = 0x88B5 ∧ at_ + 34 ≤ f.length then some (BitVec.ofNat 48 (beAt f 6 6), (f.drop (at_ + 2)).take 32) else none

/-- An untagged Ethernet frame of a station port, filled up with zeros to 60 bytes. PRESUMED, log entry 62. -/
def ethFrame (port : Nat) (dest : BitVec 48) (payload : List Byte) : List Byte :=
  beBytes 6 dest.toNat ++ beBytes 6 (Config.stationAddress port).toNat ++ beBytes 2 0x88B5 ++ payload
    ++ List.replicate (46 - payload.length) 0

/-- The CRC-32 of a telegram's bytes 0 to 27 (R353). -/
def telCrc (b : List Byte) : Nat := (crc32Bytes (b.take 28)).toNat

/-- A valid station command (R354). -/
def Dev.telValid (d : Dev) (b : List Byte) : Bool :=
  b.length == 32 && leAt b 28 4 == telCrc b && leAt b 3 1 == 1 && leAt b 4 2 == d.get SAF_STID_STID &&
    leAt b 6 2 == d.get SAF_STID_DEVID

/-- Whether a number is newer than another under the rule of R292 applied to 32 bits. -/
def newer32 (a b : Word) : Bool := let x := (a - b).toNat; 1 ≤ x && x ≤ 0x7FFFFFFF

/-- Acts on an accepted telegram: the STBLK demand (R334). -/
def Dev.telAccept (d : Dev) (port : Nat) (src : BitVec 48) (b : List Byte) : Dev :=
  let d := d.setSaf (fun s => { s with tel := some ⟨BitVec.ofNat 32 (leAt b 8 4), b.take 28, port, src⟩ })
  d.demandIf (leAt b 16 2 % 2 == 1) kSTBLK 0 (leAt b 18 2 % 4096)

/-- A valid telegram on a port (R354). -/
def Dev.telTake (d : Dev) (port : Nat) (src : BitVec 48) (b : List Byte) : Dev :=
  let d := (d.heardOn port).sttoDemand
  let seq := BitVec.ofNat 32 (leAt b 8 4)
  match d.saf.tel with
  | none => d.telAccept port src b
  | some t =>
    if newer32 seq t.seq then d.telAccept port src b
    else if seq = t.seq ∧ port ≠ t.port then
      if b.take 28 = t.bytes then d
      else ((d.count SAF_STCNT1_MISM 1).scCause 6 true).setSaf (fun s => { s with mismAt := some d.time.cio })
    else d.count SAF_STCNT1_OLD 1

/-- An Ethernet frame received on a station port (R353, R354); one that carries no valid safe telegram is disregarded here. -/
def Dev.telReceive (d : Dev) (port : Nat) (f : List Byte) : Dev :=
  match ethTelegram f with
  | some (src, b) => if d.telValid b then (d.pathDue port).telTake port src b else d
  | none => d

/-- A port has had no valid telegram for STTO ms; time passes until then (R354). DEDUCED, log entry 36. -/
def Dev.telTimeout (d : Dev) (port : Nat) : Dev :=
  if d.is SAF_CFG_STEN = false ∨ d.bit SAF_SCCAUSE_SC (4 + port) then d
  else (d.elapse (d.quietFrom port + d.stto - d.time.cio)).pathDue port

/-- STTO ms without a further mismatch have passed (R354). -/
def Dev.mismDue (d : Dev) : Dev :=
  if lasted d.saf.mismAt d.time.cio d.stto then (d.setSaf (fun s => { s with mismAt := none })).scCause 6 false else d

/-- STTO ms pass without a further mismatch (R354). -/
def Dev.mismClear (d : Dev) : Dev :=
  if d.saf.mismAt.isSome then (d.elapse (restOf d.saf.mismAt d.time.cio d.stto)).mismDue else d

/-- STEN becomes 1, or the device enters CONFIG: the silence of both ports counts from now (R354). DEDUCED, log entry 36. -/
def Dev.telConfig (d : Dev) : Dev := ((d.heardOn 0).heardOn 1).sttoDemand

/-- The status bits of a status telegram (R353). -/
def Dev.telStatus (d : Dev) : Nat :=
  let b := fun (f : Fld) (n : Nat) => if d.is f then 2 ^ n else 0
  b SAF_STAT_SAFEOK 0 + b SAF_STAT_SAFDEG 1 + b SAF_STAT_CLKDEG 2 + b SAF_STAT_RINGDEG 3 + b SAF_STAT_GTDONE 4
    + b SAF_STAT_CONFIRMED 5 + b SAF_STAT_FAIL 6 + (if d.anyDemand then 128 else 0) + d.dstate.code * 256 + d.role.code * 4096

/-- The CCV in force. -/
def Dev.ccv (d : Dev) : BitVec 64 := (d.word SAF_CCV_HI).append (d.word SAF_CCV_LO)

/-- The payload of a status telegram (R353). -/
def Dev.statusTelegram (d : Dev) : List Byte :=
  let b := leBytes 2 0x5346 ++ [1, 2] ++ leBytes 2 (d.get SAF_STID_DEVID) ++ leBytes 2 (d.get SAF_STID_STID)
    ++ leBytes 4 d.saf.stSeq.toNat ++ leBytes 4 (nsOf d.time.tb1).toNat ++ leBytes 2 d.telStatus
    ++ leBytes 2 (d.get SAF_REQ_ARMS) ++ leBytes 8 d.ccv.toNat
  b ++ leBytes 4 (telCrc b)

/-- The address of a status telegram: the source of the last accepted station telegram, or the broadcast address (R355). -/
def Dev.telDest (d : Dev) : BitVec 48 := (d.saf.tel.map (·.src)).getD 0xFFFFFFFFFFFF

/-- Sends a status telegram on both ports once STPER ms of TB2 have passed since the last one (R355). In BOOT the station ports are
high-impedance (R459), and TB2 does not count before the first lock. -/
def Dev.telSend (d : Dev) : Dev :=
  if d.dstate = .boot ∨ d.time.on = false then d
  else
    let d := match d.saf.stAt with
      | some t => d.elapse (t + ms (d.get SAF_STCFG_STPER) - d.time.up)
      | none => d
    let b := d.statusTelegram
    (d.emit (.telegram 0 (ethFrame 0 d.telDest b)) |>.emit (.telegram 1 (ethFrame 1 d.telDest b))).setSaf
      (fun s => { s with stSeq := s.stSeq + 1, stAt := some d.time.up })

/-! ### Confirmation -/

/-- CONFIRMED (R344). -/
def Dev.evalConfirmed (d : Dev) (nv : Nonvol) : Dev :=
  d.setB SAF_STAT_CONFIRMED (d.locked && d.ccv == nv.mram.ccvconf)

/-- The first reason of R345 that refuses a confirmation, or none. -/
def Dev.confirmRefusal (d : Dev) (v : BitVec 64) : Option Nat :=
  if d.epState ≠ .idle then some 0x23
  else if d.allBlocked = false then some 0x26
  else if d.saf.lockUntil.isSome then some 0x27
  else if v ≠ d.ccv then some 0x28
  else none

/-- A refused confirmation (R345): it counts outside CONFLOCK, and the third in a row starts CONFLOCK for 60 s. -/
def Dev.confirmFail (d : Dev) : Dev :=
  let d := d.raise SAF_EVT_EVT 5
  if d.saf.lockUntil.isSome then d
  else
    let d := d.count SAF_CONF_FAILS 1
    if 3 ≤ d.get SAF_CONF_FAILS then
      (d.set SAF_STAT_CONFLOCK 1).setSaf (fun s => { s with lockUntil := some (d.time.cio + ms 60000) })
    else d

/-- A CCV confirmation (R345): reason of refusal, MRAM and device after it. -/
def Dev.confirm (d : Dev) (nv : Nonvol) (v : BitVec 64) (o : Origin) : Option Nat × Nonvol × Dev :=
  let lo := v.toNat % 2 ^ 32
  let hi := v.toNat / 2 ^ 32
  match d.confirmRefusal v with
  | some r => (some r, nv, d.confirmFail.audit 0x31 1 lo hi o)
  | none =>
    let nv := { nv with mram := { nv.mram with ccvconf := v } }
    let d := d.setWord SAF_CCVCONF_LO (dw lo) |>.setWord SAF_CCVCONF_HI (dw hi) |>.set SAF_CONF_FAILS 0
      |>.raise SAF_EVT_EVT 4 |>.audit 0x31 0 lo hi o
    (none, nv, d.evalConfirmed nv)

/-- CONFLOCK is over, and the count with it (R345). -/
def Dev.conflockOver (d : Dev) : Dev :=
  d.set SAF_STAT_CONFLOCK 0 |>.set SAF_CONF_FAILS 0 |>.setSaf (fun s => { s with lockUntil := none })

/-- CONFLOCK ends after 60 s; time passes until then (R345). -/
def Dev.conflockEnd (d : Dev) : Dev :=
  match d.saf.lockUntil with
  | some t => (d.elapse (t - d.time.cio)).conflockOver
  | none => d

/-- The times of SAF that have run out have had their effect, whatever command comes next (R331, R332, R341, R345, R348, R354). -/
def Dev.safDue (d : Dev) : Dev :=
  let d := ((((d.pairDue 0).pairDue 1).readbackDue.pathDue 0).pathDue 1).mismDue.sovIdle
  let d := (d.each (allArms.filter (fun a => d.is (SAF_SOVCFG_EN a))) fun a d => d.sovDue a).sovCause
  let d := d.each d.degModes fun k d => (d.degDue k).degPast k
  if lasted d.saf.lockUntil d.time.cio 0 then d.conflockOver else d

/-! ### Configuration changes -/

/-- What a change of configuration registers does to SAF at once: BLKMASK, SHORTBLK, STEN, SOV enables, the arms of expired
ring timers, ports that left use (R334, R335, R340, R347, R354). -/
def Dev.safRefresh (d : Dev) : Dev :=
  let d := d.inputDemands
  let d := d.each (allArms.filter (fun a => d.is (SAF_SOVCFG_EN a) = false && (d.sov a != SovState.init))) fun a d =>
    (d.setSov a .init).demand kSOV a none
  let d := d.sovCause
  let d := if d.is SAF_CFG_STEN = d.saf.sten then d
    else ((d.heardOn 0).heardOn 1).setSaf (fun s => { s with sten := d.is SAF_CFG_STEN })
  (d.sttoDemand.ringCauses).each allArms fun a d => d.supShort a

end Sys2Proof.Machine
end

