-- ==== Sys2Proof/Machine/Adc.lean ====
section
/-! DEFINITION. The analog inputs (R257 to R271): holds, sequencer runs, averaging, scaling, result flags. -/

namespace Sys2Proof.Machine

open Sys2Proof

/-- An entry without a window. -/
def AdcEntry.init : AdcEntry := ⟨0, 0, 0, false, false, false, true⟩

/-- A converter after a reset. -/
def AdcConv.init : AdcConv := ⟨none, true, List.replicate 32 AdcEntry.init, none⟩

/-- The analog inputs after a reset: no run, all inputs at 0 V. -/
def AdcState.init : AdcState := ⟨[.init, .init], [], [], 0⟩

/-- A converter's state. -/
def Dev.conv (d : Dev) (x : Nat) : AdcConv := nth d.adc.conv x .init

/-- Changes a converter's state. -/
def Dev.setConv (d : Dev) (x : Nat) (f : AdcConv → AdcConv) : Dev :=
  { d with adc := { d.adc with conv := putAt d.adc.conv x .init (f (d.conv x)) } }

/-- An entry of a converter. -/
def AdcConv.entry (c : AdcConv) (i : Nat) : AdcEntry := nth c.entries i .init

/-- The configuration of the ADC block, which the sequencer reads at the start of a run (R263). DESIGN CHOICE, log entry 27. -/
def Dev.adcConfig (d : Dev) : Store := d.regs.filter (fun e => decide (ADC_SCTL 0 ≤ e.1) && decide (e.1 < ADC_RES 0 0))

/-- LEN as it acts (R520). -/
def adcLen (st : Store) (x : Nat) : Nat := min (max (st.getF (ADC_SCTL_LEN x)) 1) 32

/-- CH, AVG and SHIFT as they act (R520). -/
def adcCh (st : Store) (x i : Nat) : Nat := min (st.getF (ADC_ECFG_CH x i)) 23
def adcAvg (st : Store) (x i : Nat) : Nat := min (st.getF (ADC_ECFG_AVG x i)) 8
def adcShift (st : Store) (x i : Nat) : Nat := min (st.getF (ADC_ECFG_SHIFT x i)) 8

/-- The code of an input voltage in nV (R258). DESIGN CHOICE, log entry 27. -/
def adcCode (nv : Nat) (range : Nat) : Nat := min (nv * 4096 / (if range = 0 then 1800000000 else 900000000)) 4095

/-- The pull setting of an input (R271). -/
def Dev.pull (d : Dev) (n : Nat) : Nat :=
  (if n < 16 then d.get ADC_OW0_OW0 / 4 ^ n else d.get ADC_OW1_OW1 / 4 ^ (n - 16)) % 4

/-- The voltage that a conversion of input n starting now converts (R259). DESIGN CHOICE, log entry 27. -/
def Dev.adcVolts (d : Dev) (n : Nat) : Nat :=
  match d.adc.held.find? (fun h => h.2.1.testBit n) with
  | some h => nth h.2.2 n 0
  | none => nth d.adc.ain n 0

/-- Takes the input voltages given with a command. DESIGN CHOICE, log entry 27. -/
def Dev.adcInputs (d : Dev) (volts : List Nat) : Dev := { d with adc := { d.adc with ain := volts } }

/-- Whether converter x still has a cycle-mode run of a cycle to make or to end (R259): none starts for it once the cycle is over. -/
def Dev.owesRun (d : Dev) (x : Nat) (cyc : Word) : Bool :=
  (match (d.conv x).run with | some r => r.cycle == some cyc | none => false) ||
    (d.running && d.cyc.inCycle && d.cycle == cyc && d.is (ADC_SCTL_EN x) && !d.is (ADC_SCTL_MODE x) && (d.conv x).last != some cyc)

/-- A hold is released once every cycle-mode run that started in its cycle has completed (R259). DESIGN CHOICE, log entry 27. -/
def Dev.releaseHolds (d : Dev) : Dev :=
  if d.adc.held = [] then d
  else { d with adc := { d.adc with held := d.adc.held.filter (fun h => d.owesRun 0 h.1 || d.owesRun 1 h.1) } }

/-- The hold of cycle k at t₀ + HOLDOFS × 10 ns; time passes until then (R259). An input that the hold of an earlier cycle still
holds keeps its voltage. DESIGN CHOICE, log entry 27. -/
def Dev.adcHold (d : Dev) (volts : List Nat) : Dev :=
  let d := d.adcInputs volts
  if d.running ∧ d.cyc.inCycle ∧ d.is ADC_HOLD_MASK then
    let d := (d.advanceTo (plusNs d.cyc.t0 (10 * d.get ADC_HOLDOFS_HOLDOFS))).releaseHolds
    let mask := ((List.range 24).filter (fun n => (d.get ADC_HOLD_MASK).testBit n && d.adc.held.all (fun h => !h.2.1.testBit n))).foldl
      (fun m n => m + 2 ^ n) 0
    { d with adc := { d.adc with held := d.adc.held ++ [(d.cycle, mask, volts)] } }
  else d

/-! ### Runs -/

/-- BUSY of a converter. -/
def busyFld (x : Nat) : Fld := if x = 0 then ADC_STAT_BUSYA else ADC_STAT_BUSYB

/-- An entry at the start of a run (R265, R268, R270): a change of ECFG or of EN discards the window; VALID clears on a change of
ECFG. -/
def Dev.entryApply (d : Dev) (x : Nat) (st : Store) (i : Nat) : Dev :=
  let e := (d.conv x).entry i
  let w := st.get (ADC_ECFG x i)
  let old : Store := [(ADC_ECFG x i, e.ecfg)]
  let chg := decide (w ≠ e.ecfg)
  let chIn := decide (adcCh st x i ≠ adcCh old x i ∨ st.getF (ADC_ECFG_RANGE x i) ≠ old.getF (ADC_ECFG_RANGE x i))
  let win := decide (adcAvg st x i ≠ adcAvg old x i ∨ adcShift st x i ≠ adcShift old x i)
  let off := (d.conv x).off
  if chg ∨ off then
    let e := { e with ecfg := w, n := 0, sum := 0, trip := false, settle := false, changed := e.changed || win,
                      first := e.first || chIn || off }
    (d.setConv x (fun c => { c with entries := putAt c.entries i .init e })).when chg (·.set (ADC_RES_VALID x i) 0)
  else d

/-- The conversion of entry i starts (R258, R270, R271). -/
def Dev.convStart (d : Dev) (x i : Nat) (r : AdcRun) : Dev :=
  let ch := adcCh r.cfg x i
  let e := (d.conv x).entry i
  let ow := d.adc.owFirst.testBit ch
  let r := { r with i := i, code := adcCode (d.adcVolts ch) (r.cfg.getF (ADC_ECFG_RANGE x i)), pull := d.pull ch,
                    settle := e.first || ow }
  let d := if ow then { d with adc := { d.adc with owFirst := d.adc.owFirst - 2 ^ ch } } else d
  d.setConv x (fun c => { c with run := some r, entries := putAt c.entries i .init { e with first := false } })

/-- A run starts with the configuration as it stands (R260, R263). -/
def Dev.runStart (d : Dev) (x : Nat) (cycle : Option Word) : Dev :=
  let st := d.adcConfig
  let d := d.each (List.range 32) fun i d => d.entryApply x st i
  let d := d.setConv x (fun c => { c with off := false, last := cycle.orElse (fun _ => c.last) })
  (d.set (busyFld x) 1).convStart x 0 ⟨d.time.up, 0, adcLen st x, st, 0, 0, false, cycle⟩

/-- A start that falls while the converter still converts is skipped (R262). -/
def Dev.adcSkip (d : Dev) (x : Nat) : Dev :=
  d.set ADC_EVT_SKIP 1 |>.count (if x = 0 then ADC_SKIPCNT_SKIPA else ADC_SKIPCNT_SKIPB) 1

/-- A start of converter x now. -/
def Dev.adcStart (d : Dev) (x : Nat) (cycle : Option Word) : Dev :=
  if (d.conv x).run.isSome then (d.adcSkip x).setConv x (fun c => { c with last := cycle.orElse (fun _ => c.last) })
  else d.runStart x cycle

/-- The cycle-mode start at t₀ + SOFS × 10 ns; time passes until then (R261). -/
def Dev.adcRunStart (d : Dev) (x : Nat) (volts : List Nat) : Dev :=
  let d := d.adcInputs volts
  if d.is (ADC_SCTL_EN x) ∧ d.is (ADC_SCTL_MODE x) = false ∧ d.running ∧ d.cyc.inCycle then
    (d.advanceTo (plusNs d.cyc.t0 (10 * d.get (ADC_SCTL_SOFS x)))).adcStart x (some d.cycle)
  else d

/-- A write of ADC_SWSTART (R261, R262). DESIGN CHOICE, log entry 27. -/
def Dev.adcSwstart (d : Dev) (mask : Nat) : Dev :=
  d.each ([0, 1].filter mask.testBit) fun x d =>
    if d.is (ADC_SCTL_EN x) ∧ d.is (ADC_SCTL_MODE x) then d.adcStart x none else d.set ADC_EVT_SWREF 1

/-! ### Publishing -/

/-- Whether a conversion trips (R271). -/
def tripped (pull code : Nat) : Bool := (pull == 1 && decide (4032 ≤ code)) || (pull == 2 && decide (code ≤ 63))

/-- The value of a signal slot from a result (R266). -/
def adcScale (res gain ofs : Int) : Int := ((res - ofs) * gain + 2 ^ 15).fdiv (2 ^ 16)

/-- A window's result is published (R260, R266 to R268). A STANDBY's ADC does not write slots (R300). -/
def Dev.publish (d : Dev) (x i : Nat) (cfg : Store) (res : Nat) (settle opn : Bool) : Dev :=
  let d := if d.is (ADC_RES_NEW x i) then d.set (ADC_RES_OVR x i) 1 |>.set ADC_EVT_OVR 1 else d
  let d := d.set (ADC_RES_NEW x i) 1 |>.set (ADC_RES_VALID x i) 1 |>.setB (ADC_RES_SETTLE x i) settle
    |>.setB (ADC_RES_OPEN x i) opn |>.set (ADC_RES_RES x i) res
  let d := if cfg.getF (ADC_ECFG_SLOTEN x i) ≠ 0 ∧ settle = false ∧ d.role ≠ .standby then
      d.setSlot (32 * x + i) (adcScale res (cfg.get (ADC_EGAIN x i)).toInt (cfg.get (ADC_EOFS x i)).toInt)
    else d
  d.sovResult x i res settle opn

/-- The conversion of entry i ends: its code enters the window, and the window's last publishes (R265, R268, R271). -/
def Dev.convEnd (d : Dev) (x : Nat) (r : AdcRun) : Dev :=
  let i := r.i
  let e := (d.conv x).entry i
  let trip := tripped r.pull r.code
  let d := if trip then d.set ADC_EVT_OPEN 1 else d
  let e := { e with n := e.n + 1, sum := e.sum + r.code, trip := e.trip || trip, settle := e.settle || r.settle }
  let put := fun (d : Dev) (e : AdcEntry) => d.setConv x (fun c => { c with entries := putAt c.entries i .init e })
  if 2 ^ adcAvg r.cfg x i ≤ e.n then
    (put d { e with n := 0, sum := 0, trip := false, settle := false, changed := false }).publish x i r.cfg
      (e.sum / 2 ^ adcShift r.cfg x i) (e.settle || e.changed) e.trip
  else put d e

/-- The conversion in progress of converter x completes; time passes until then, and the next entry starts or the run ends
(R260). -/
def Dev.adcPublish (d : Dev) (x : Nat) (volts : List Nat) : Dev :=
  match (d.conv x).run with
  | none => d.adcInputs volts
  | some r =>
    let d := (d.elapse (r.start + 1000 * (r.i + 1) - d.time.up)).adcInputs volts
    let d := d.convEnd x r
    if r.i + 1 < r.len then d.convStart x (r.i + 1) r
    else ((d.setConv x (fun c => { c with run := none })).set (busyFld x) 0).releaseHolds

/-! ### Register effects -/

/-- Inputs whose two bits differ between two settings of ADC_OW0 and ADC_OW1. -/
def owChanged (a b : Nat) : List Nat := (List.range 24).filter (fun n => a / 4 ^ n % 4 ≠ b / 4 ^ n % 4)

/-- A write of ADC_OW0 (reg = 0) or ADC_OW1 (R270): conversions in progress of a changed input settle, and its next one. -/
def Dev.adcOwWrite (d : Dev) (reg : Nat) (v : Word) : Dev :=
  let both := fun (d : Dev) => d.get ADC_OW0_OW0 + d.get ADC_OW1_OW1 * 2 ^ 32
  let old := both d
  let d := if reg = 0 then d.set ADC_OW0_OW0 v.toNat else d.set ADC_OW1_OW1 v.toNat
  d.each (owChanged old (both d)) fun n d =>
    let d := { d with adc := { d.adc with owFirst := d.adc.owFirst ||| 2 ^ n } }
    d.each [0, 1] fun x d => d.setConv x (fun c => { c with run := c.run.map (fun r =>
      if adcCh r.cfg x r.i = n then { r with settle := true } else r) })

/-- A read of a result register (R269): the word, and NEW and OVR cleared. -/
def Dev.adcResRead (d : Dev) (x i : Nat) : Word × Dev :=
  (d.word (ADC_RES x i), d.set (ADC_RES_NEW x i) 0 |>.set (ADC_RES_OVR x i) 0)

/-- A converter whose EN is 0 starts its windows and settles anew when EN is set (R265, R270); holds that no run needs end (R259). -/
def Dev.adcRefresh (d : Dev) : Dev :=
  d.releaseHolds.each [0, 1] fun x d => if d.is (ADC_SCTL_EN x) ∨ (d.conv x).off then d else d.setConv x (fun c => { c with off := true })

end Sys2Proof.Machine
end

