-- ==== Sys2Proof/Machine/Mem.lean ====
section
/-! DEFINITION. Memory and arbitration: DDR4 as bytes (R414), the memories' error registers (R416, R417), credits, slot table and
ranking of the fabric (R420 to R428). -/

namespace Sys2Proof.Machine

open Sys2Proof

/-! ### DDR4 bytes -/

/-- Memory as a list of cells: addresses rising, none that holds 0. -/
abbrev Memory := List Host.Cell

/-- What an unlisted byte of DDR4 reads as. DESIGN CHOICE, log entry 44. -/
def Memory.blank : Byte := 0

/-- The canonical form. -/
def Memory.wf : Memory → Bool
  | [] => true
  | [c] => decide (c.2 ≠ Memory.blank)
  | c :: e :: rest => decide (c.2 ≠ Memory.blank) && decide (c.1 < e.1) && Memory.wf (e :: rest)

/-- One byte. -/
def Memory.read : Memory → Nat → Byte
  | [], _ => Memory.blank
  | c :: rest, a => if c.1 = a then c.2 else Memory.read rest a

/-- One byte written, in canonical form. -/
def Memory.write : Memory → Nat → Byte → Memory
  | [], a, b => if b = Memory.blank then [] else [(a, b)]
  | c :: rest, a, b =>
    if a < c.1 then (if b = Memory.blank then c :: rest else (a, b) :: c :: rest)
    else if a = c.1 then (if b = Memory.blank then rest else (a, b) :: rest)
    else c :: Memory.write rest a b

/-- Consecutive bytes written. -/
def Memory.writeBytes (m : Memory) (a : Nat) (l : List Byte) : Memory :=
  (l.zipIdx).foldl (fun m (b, i) => m.write (a + i) b) m

/-- n consecutive bytes. -/
def Memory.readBytes (m : Memory) (a n : Nat) : List Byte := (List.range n).map (fun i => m.read (a + i))

/-- Changes the memory block's state beside its registers. -/
def Dev.setMem (d : Dev) (f : MemState → MemState) : Dev := { d with mem := f d.mem }

/-- Writes bytes to DDR4. -/
def Dev.ddrWrite (d : Dev) (a : Nat) (l : List Byte) : Dev :=
  d.setMem (fun m => { m with ddr := Memory.writeBytes m.ddr a l })

/-- Reads bytes of DDR4. DESIGN CHOICE, log entry 44. -/
def Dev.ddrRead (d : Dev) (a n : Nat) : List Byte := Memory.readBytes d.mem.ddr a n

/-- DDR4 pages of 4 KB found at BOOT (TOP_CAP1.DDRSZ in 256 MB). -/
def Dev.ddrPages (d : Dev) : Nat := d.get TOP_CAP1_DDRSZ * 65536

/-! ### Errors -/

/-- A corrected error of state SRAM (R416, R417). DESIGN CHOICE, log entry 45. -/
def Dev.sramCe (d : Dev) (port addr : Nat) : Dev :=
  d.raise MEM_EVT_EVT 0 |>.count MEM_CECNT_SRAMCE 1 |>.errLoc 1 false port addr

/-- An uncorrectable error of state SRAM is counted; the word is left unchanged (R416). -/
def Dev.sramUe (d : Dev) (port addr : Nat) : Dev :=
  d.raise MEM_EVT_EVT 1 |>.count MEM_ERRCNT_UE 1 |>.errLoc 1 true port addr

/-- The end and the slots of a ring port's frame buffer that an 8-byte word at an SRAM address holds: two buffers of 4 KB for
each end of each port from 0x06_0000 (R415), the header of 32 bytes first, then 16 bytes a slot. -/
def bufferSlot (addr : Nat) : Option (Nat × Nat × Nat) :=
  if addr < 0x60000 ∨ 0x120000 ≤ addr then none
  else
    let a := addr - 0x60000
    let o := a % 4096
    if o < 32 ∨ 32 + 16 * 128 ≤ o then none else some (a / 16384, a / 8192 % 2, (o - 32) / 16)

/-- A ring port reads an uncorrectable word of its schedule: the slot is sent as REPEAT (R416). DEDUCED, log entry 47. -/
def Dev.portUe (d : Dev) (p addr : Nat) : Dev :=
  match bufferSlot addr with
  | some (q, e, i) =>
    if q = p then d.setPort p (fun x =>
      if e = 0 then { x with ue0 := x.ue0 ||| (BitVec.ofNat 128 1 <<< i) } else { x with ue1 := x.ue1 ||| (BitVec.ofNat 128 1 <<< i) })
    else d
  | none => d

/-- The pass of a period ends: time passes until then; correctable words were corrected in place, uncorrectable ones are counted
(R417). DEDUCED, log entry 47. -/
def Dev.scrubPass (d : Dev) (ce ue : List Nat) : Dev :=
  let d := d.elapse (d.mem.scrubAt + ms (max (d.get MEM_SCRUB_PERIOD) 1) - d.time.cio)
  let d := d.setMem (fun m => { m with scrubAt := d.time.cio })
  (d.each ce fun a d => d.sramCe 0x7F a).each ue fun a d => d.sramUe 0x7F a

/-! ### Arbitration -/

/-- The fabric port of a DDR4 requester. -/
def ddrPort (q : Nat) : Nat := if q < 4 then 62 + q else if q < 8 then 64 + q else 67

/-- WEIGHT and PRI of a requester as the registers hold them. -/
def Dev.arbRegs (d : Dev) (ddr : Bool) (q : Nat) : Nat × Nat :=
  if ddr then (d.get (ARB_DDRW_WEIGHT q), d.get (ARB_DDRW_PRI q)) else (d.get (ARB_PORT_WEIGHT q), d.get (ARB_PORT_PRI q))

/-- The requesters of a target at reset: full credit (R422). -/
def arbReset (t : Nat) : List ArbReq :=
  (List.range (if t = 64 then 9 else 72)).map fun q =>
    ⟨(((if t = 64 then arbResetDdr q else arbResetPort q).1 : Nat) : Int), 0, none, []⟩

/-- Memory and arbitration after PORST_N. -/
def MemState.init : MemState := ⟨[], [], (List.range 65).map arbReset, List.replicate 65 0, [], false, 0, 0⟩

/-- A requester at a target. -/
def Dev.arbReq (d : Dev) (t q : Nat) : ArbReq := nth (nth d.mem.targets t []) q ⟨0, 0, none, []⟩

/-- Changes a requester at a target. -/
def Dev.setReq (d : Dev) (t q : Nat) (r : ArbReq) : Dev :=
  d.setMem (fun m => { m with targets := putAt m.targets t [] (putAt (nth m.targets t []) q ⟨0, 0, none, []⟩ r) })

/-- WEIGHT and PRI of a requester in a target's arbiter in an FCLK cycle (R427). -/
def Dev.arbHeld (d : Dev) (t q count : Nat) : Nat × Nat :=
  match (d.arbReq t q).keep.find? (fun k => decide (count ≤ k.1)) with
  | some k => k.2
  | none => d.arbRegs (t == 64) q

/-- The rank of a requester under R423, lower first: in share, effective priority, credit, number. -/
def Dev.arbRank (d : Dev) (t q count : Nat) : List Int :=
  let r := d.arbReq t q
  [if 0 < r.credit then 0 else 1, -((min ((d.arbHeld t q count).2 + r.lost) 15 : Nat) : Int), -r.credit, q]

/-- Lexicographic order. -/
def rankLt : List Int → List Int → Bool
  | a :: as, b :: bs => if a < b then true else if b < a then false else rankLt as bs
  | _, _ => false

/-- The first of the requesters under R423. -/
def Dev.arbFirst (d : Dev) (t count : Nat) (l : List Nat) : Option Nat :=
  l.foldl (fun b q => match b with
    | none => some q
    | some x => if rankLt (d.arbRank t q count) (d.arbRank t x count) then some q else b) none

/-- Whether the fabric throttle keeps a port from a grant (R483). -/
def Dev.throttled (d : Dev) (port count : Nat) : Bool :=
  d.perturbed .thr && d.get DIAG_PTHR_RPORT == port && count % (d.get DIAG_PTHR_GAP + 1) != 0

/-- The owner that the slot table names for a cycle of a bank (R426). -/
def Dev.slotOwner (d : Dev) (t cyc : Nat) : Option Nat :=
  if d.mem.compat ∧ t < 64 then (d.mem.slots.find? (fun e => e.1 == cyc)).map (·.2) else none

/-- The requester granted in a phase (R423, R426). DESIGN CHOICE, log entry 46. -/
def Dev.arbGrant (d : Dev) (ph : ArbPhase) : Option Nat :=
  let count := 256 * d.mem.window + ph.cycle
  let may := ph.reqs.filter (fun q => !d.throttled (if ph.target = 64 then ddrPort q else q) count)
  match d.slotOwner ph.target ph.cycle with
  | some o => if may.contains o then some o else d.arbFirst ph.target count may
  | none => d.arbFirst ph.target count may

/-- Old values that a requester holding the data phase keeps until its release (R427): a grant in cycle `count` holds the phases up to
`last`. -/
def keepHeld (count last : Nat) (l : List (Nat × Nat × Nat)) : List (Nat × Nat × Nat) :=
  l.map (fun k => if count < k.1 ∧ k.1 ≤ last then (last, k.2) else k)

/-- A wait beyond ARB_STVLIM (R424). -/
def Dev.waitCheck (d : Dev) (wait : Nat) : Dev := if d.get ARB_STVLIM_LIM < wait then d.raise ARB_EVT_EVT 0 else d

/-- A grant: one data phase, or two of a read-modify-write (R420); credit and LOST (R422, R423), the longest wait and STARVE (R424). -/
def Dev.arbGranted (d : Dev) (t q count : Nat) (rmw : Bool) : Dev :=
  let r := d.arbReq t q
  let wait := match r.since with | some s => count - s | none => 0
  let p := if t = 64 then ddrPort q else q
  let last := count + (if rmw then 2 else 1)
  let d := d.setReq t q ⟨max (r.credit - 1) (-256), 0, none, keepHeld count last r.keep⟩
  let d := d.setMem (fun m => { m with busy := putAt m.busy t 0 last })
  (d.set (ARB_PWAIT_WAITMAX p) (max (d.get (ARB_PWAIT_WAITMAX p)) (min wait 0xFFFF))).waitCheck wait

/-- A request that is not granted in a phase (R423). -/
def Dev.arbLost (d : Dev) (t q count : Nat) : Dev :=
  let r := d.arbReq t q
  (d.setReq t q { r with lost := min (r.lost + 1) 255, since := r.since.orElse (fun _ => some count) }).waitCheck
    (match r.since with | some s => count - s | none => 0)

/-- One arbitration phase; none in a cycle whose next data phase is given away (R420). DESIGN CHOICE, log entry 46. -/
def Dev.arbPhase (d : Dev) (ph : ArbPhase) : Dev :=
  let count := 256 * d.mem.window + ph.cycle
  if count < nth d.mem.busy ph.target 0 then d
  else
    let g := d.arbGrant ph
    let d := match g with
      | some q => d.arbGranted ph.target q count (ph.rmw.contains q)
      | none => d
    d.each (ph.reqs.filter (fun q => g != some q)) fun q d => d.arbLost ph.target q count

/-- The refill of a target's credits in the cycle of a window boundary (R422, R427). -/
def Dev.arbRefill (d : Dev) (t count : Nat) (l : List ArbReq) : List ArbReq :=
  l.zipIdx.map fun (r, q) =>
    let w : Int := (d.arbHeld t q count).1
    { r with credit := min (r.credit + w) w, keep := r.keep.filter (fun k => decide (count ≤ k.1)) }

/-- The entries of ARB_SLOT that name a port. -/
def Dev.slotTable (d : Dev) : List (Nat × Nat) :=
  (List.range 256).filterMap fun i => let o := d.get (ARB_SLOT_OWNER i); if o = 0x7F then none else some (i, o)

/-- A window ends (R422, R426, R428): its arbitration phases, then the refill, the slot table and the mode that the next window
uses. DESIGN CHOICE, log entry 46. -/
def Dev.arbWindow (d : Dev) (phases : List ArbPhase) : Dev :=
  let d := d.each phases fun ph d => d.arbPhase ph
  d.setMem fun m =>
    { m with targets := m.targets.zipIdx.map (fun (l, t) => d.arbRefill t (256 * (m.window + 1)) l), slots := d.slotTable,
             compat := d.is ARB_CFG_MODE, window := m.window + 1 }

/-- The sum of the weights of a target's kind, with one replaced. -/
def Dev.weightSum (d : Dev) (ddr : Bool) (q w : Nat) : Nat :=
  (List.range (if ddr then 9 else 72)).foldl
    (fun s i => s + if i = q then w else if ddr then d.get (ARB_DDRW_WEIGHT i) else d.get (ARB_PORT_WEIGHT i)) 0

/-- Every arbiter that knows a requester keeps its old WEIGHT and PRI through an FCLK cycle (R427). DESIGN CHOICE, log entry 46.
-/
def Dev.arbKeep (d : Dev) (ddr : Bool) (q count : Nat) : Dev :=
  let old := d.arbRegs ddr q
  d.each (if ddr then [64] else List.range 64) fun t d =>
    d.setReq t q { d.arbReq t q with keep := (d.arbReq t q).keep ++ [(count, old)] }

/-- A write of ARB_PORT or ARB_DDRW in a cycle of the window (R427, R428). DESIGN CHOICE, log entry 46. -/
def Dev.arbPortWrite (d : Dev) (ddr : Bool) (q cyc : Nat) (v : Word) : Dev :=
  let w := if ddr then (ARB_DDRW_WEIGHT q).of v else (ARB_PORT_WEIGHT q).of v
  let sum := d.weightSum ddr q w
  if ddr then
    if 160 < sum then d.raise ARB_EVT_EVT 2
    else (d.arbKeep true q (256 * d.mem.window + cyc)).set (ARB_DDRW_WEIGHT q) w |>.set (ARB_DDRW_PRI q) ((ARB_DDRW_PRI q).of v)
      |>.set ARB_WSUM_DSUM sum
  else if 256 < sum then d.raise ARB_EVT_EVT 1
  else (d.arbKeep false q (256 * d.mem.window + cyc)).set (ARB_PORT_WEIGHT q) w |>.set (ARB_PORT_PRI q) ((ARB_PORT_PRI q).of v)
    |>.set ARB_WSUM_SSUM sum

/-- ARB_PSTAT of a port in the bank that ARB_BANKSEL names. -/
def Dev.arbStat (d : Dev) (q : Nat) : Word :=
  let r := d.arbReq (d.get ARB_BANKSEL_BANK) q
  dw (r.lost * 2 ^ 24 + ofSigned 10 r.credit)

/-- The wait of a request that still waits passes ARB_STVLIM (R424). -/
def Dev.starve (d : Dev) : Dev :=
  if d.mem.targets.any (fun l => l.any (fun r => r.since.isSome)) then d.raise ARB_EVT_EVT 0 else d

end Sys2Proof.Machine
end

