-- ==== Sys2Proof/Machine/Rec.lean ====
section
/-! DEFINITION. The disturbance recorder (R272 to R289): arming, triggers, rows, rate reduction, measurements, header, readout,
TRIG_IO. -/

namespace Sys2Proof.Machine

open Sys2Proof

/-- The codes of REC_STAT.STATE (R275). -/
def rIDLE : Nat := 0
def rPREFILL : Nat := 1
def rARMED : Nat := 2
def rPOST : Nat := 3
def rDONE : Nat := 4

/-- A condition and a measurement at arming. -/
def RecCond.init : RecCond := ⟨none, false, false⟩
def RecMeas.init : RecMeas := ⟨0, 0, 0, 0, 0, 0, none, false, 0, 0, 0, 0, false⟩

/-- An instance that has recorded nothing. -/
def RecInst.init : RecInst :=
  ⟨[], none, 0, 0, false, false, 0, 0, List.replicate 4 .init, List.replicate 4 .init, [], [], [], 0, 0, 0, false, none, none, 0, none, 0, false⟩

/-- The recorder after a reset. -/
def RecState.init : RecState := ⟨List.replicate 4 .init, none, false, false, 0, none, [], false, [], 0, [], 3⟩

/-- The instances. -/
def allRecs : List Nat := [0, 1, 2, 3]

/-- An instance. -/
def Dev.recInst (d : Dev) (n : Nat) : RecInst := nth d.rcd.insts n .init

/-- Changes an instance. -/
def Dev.setRec (d : Dev) (n : Nat) (f : RecInst → RecInst) : Dev :=
  { d with rcd := { d.rcd with insts := putAt d.rcd.insts n .init (f (d.recInst n)) } }

/-- Changes the recorder's shared state. -/
def Dev.setIo (d : Dev) (f : RecState → RecState) : Dev := { d with rcd := f d.rcd }

/-- An instance's capture state. -/
def Dev.recSt (d : Dev) (n : Nat) : Nat := d.get (REC_STAT_STATE n)

/-- A field of the configuration that an instance took at arming. -/
def RecInst.get (x : RecInst) (f : Fld) : Nat := x.cfg.getF f

/-- The registers of an instance that hold RW fields: what it copies at arming (R276). -/
def Dev.recConfig (d : Dev) (n : Nat) : Store :=
  d.regs.filter (fun e => (decide (REC_CTRL n ≤ e.1) && decide (e.1 < REC_STAT n)) || e.1 == REC_ATTN_EN n)

/-- Whether an instance arms on an ARM pulse: while it captures, by the copy it took; else its next arming is at hand (R276,
R288). DEDUCED, log entry 28. -/
def Dev.armsOnIo (d : Dev) (n : Nat) : Bool :=
  if d.recSt n = rIDLE ∨ d.recSt n = rDONE then d.is (REC_CTRL_IOARM n) else (d.recInst n).get (REC_CTRL_IOARM n) == 1

/-! ### Rows (R273, R274) -/

/-- NCH as it acts. -/
def recNch (st : Store) (n : Nat) : Nat := min (st.getF (REC_CFG_NCH n)) 16

/-- The cells of the bulk stream. -/
def Dev.recCells (d : Dev) (st : Store) (n : Nat) : List Nat :=
  if st.getF (REC_CFG_BULKEN n) = 0 then []
  else
    let l := (List.range (st.getF (REC_BULK_COUNT n))).map (fun i => st.getF (REC_BULK_FIRST n) + i)
    if st.getF (REC_CFG_PRESONLY n) = 1 then l.filter (fun c => d.is (CELL_W0C_PRES c)) else l

/-- Bytes of a bulk field. -/
def bulkSize (st : Store) (n : Nat) : Nat := if st.getF (REC_CFG_BFIELD n) = 3 then 4 else 2

/-- A cell's bulk field. -/
def Dev.bulkOf (d : Dev) (st : Store) (n c : Nat) : List Byte :=
  let v := if d.is (CELL_W0C_PRES c) = false then 0
    else match st.getF (REC_CFG_BFIELD n) with
      | 0 => d.get (CELL_W00_VCAP c) | 1 => d.get (CELL_W04_STAT c) | 2 => d.get (CELL_W04_TERR c)
      | _ => d.get (CELL_W20_VPRED c)
  leBytes (bulkSize st n) v

/-- ROWB. -/
def Dev.rowBytes (d : Dev) (st : Store) (n : Nat) : Nat :=
  (8 + 4 * recNch st n + bulkSize st n * (d.recCells st n).length + 31) / 32 * 32

/-- The slot of channel i. -/
def chanSlot (st : Store) (n i : Nat) : Nat :=
  if i % 2 = 0 then st.getF (REC_CHSEL_CHA n (i / 2)) else st.getF (REC_CHSEL_CHB n (i / 2))

/-- The bytes of the row of the current cycle. -/
def Dev.rowOf (d : Dev) (n rowb : Nat) (trig gap : Bool) : List Byte :=
  let st := (d.recInst n).cfg
  let flags := d.get (REC_STAT_LOG2D n) + (if trig then 256 else 0) + (if gap then 512 else 0)
  let b := leBytes 4 d.cycle.toNat ++ leBytes 4 flags
    ++ (List.range (recNch st n)).flatMap (fun i => leBytes 4 (d.word (LOOP_SLOT (chanSlot st n i))).toNat)
    ++ (d.recCells st n).flatMap (d.bulkOf st n)
  (b ++ List.replicate rowb 0).take rowb

/-! ### Arming (R275, R276, R281, R282) -/

/-- Whether two ranges of 4 KB pages overlap. -/
def pagesOverlap (b1 s1 b2 s2 : Nat) : Bool := decide (b1 < b2 + s2) && decide (b2 < b1 + s1) && 0 < s1 && 0 < s2

/-- The first failing check of R276, or none. -/
def Dev.recRefusal (d : Dev) (n : Nat) (st : Store) : Option Nat :=
  let b := st.getF (REC_BASE_BASE n)
  let s := st.getF (REC_SIZE_SIZE n)
  let other := fun m => m != n && d.recSt m != rIDLE &&
    pagesOverlap b s ((d.recInst m).get (REC_BASE_BASE m)) ((d.recInst m).get (REC_SIZE_SIZE m))
  let post := st.getF (REC_POST_POST n)
  let bulk := st.getF (REC_CFG_BULKEN n) = 1
  if d.get TOP_CAP1_DDRSZ = 0 then some 1
  else if d.ddrPages < b + s then some 2
  else if allRecs.any other || pagesOverlap b s (d.get SVC_SPILL_BASE) (d.get SVC_SPILLSZ_SIZE) then some 3
  else if (s - 1) * 4096 < (st.getF (REC_PRE_PRE n) + post) * d.rowBytes st n ∨ post = 0 then some 4
  else if d.is (REC_STAT_RDBUSY n) then some 5
  else if (recNch st n = 0 ∧ ¬ bulk) ∨ (bulk ∧ (st.getF (REC_BULK_COUNT n) = 0 ∨
      6144 < st.getF (REC_BULK_FIRST n) + st.getF (REC_BULK_COUNT n))) then some 6
  else none

/-- log2 D after the doublings of R282 and how many there were; `left` bounds them. -/
def rateStart (left : Nat) (rowb share tcyc log : Nat) : Nat × Nat :=
  match left with
  | 0 => (log, 0)
  | left + 1 =>
    if log < 8 ∧ share * tcyc * 2 ^ log < rowb * 1000 then
      let (l, n) := rateStart left rowb share tcyc (log + 1)
      (l, n + 1)
    else (log, 0)

/-- T_cyc in force: of the current cycle, or of the cycle timer's next start. -/
def Dev.tcycNow (d : Dev) : Nat := if d.cyc.inCycle then d.cyc.tm0.tcyc else d.get CYC_PERIOD_PERIOD

/-- An instance takes its configuration and captures from the next cycle on (R272, R275, R276, R281, R282). -/
def Dev.recAccept (d : Dev) (n : Nat) (st : Store) : Dev :=
  let rowb := d.rowBytes st n
  let t := d.tcycNow
  let start := min (st.getF (REC_CFG_DEC n)) 8
  let (log, k) := rateStart 8 rowb (st.getF (REC_SHARE_SHARE n)) t start
  let steps := (List.range k).map (fun i => (0, start + 1 + i))
  let ks := if d.cyc.inCycle then some (d.cycle + 1) else none
  let d := d.setRec n (fun x => { RecInst.init with cfg := st, ks := ks, steps := steps, tcyc := t, seq := x.seq, taken := true })
  let d := d.set (REC_STAT_STATE n) (if st.getF (REC_PRE_PRE n) = 0 then rARMED else rPREFILL)
    |>.set (REC_STAT_LOG2D n) log |>.set (REC_STAT_SHORTPRE n) 0 |>.set (REC_STAT_DROP n) 0
    |>.set (REC_ROWS_ROWS n) 0 |>.set (REC_ROWB_ROWB n) rowb
  if 0 < k then d.raise (REC_EVT_EVT n) 2 else d

/-- A refused arming. -/
def Dev.recRefuse (d : Dev) (n code : Nat) (io : Bool) : Dev :=
  let d := d.set (REC_STAT_REFCODE n) code |>.raise (REC_EVT_EVT n) 4
  if io then d.raise (REC_EVT_EVT n) 5 else d

/-- ARM written, or an ARM pulse on TRIG_IO (R275). -/
def Dev.recArm (d : Dev) (n : Nat) (io : Bool) : Dev :=
  if d.recSt n = rIDLE ∨ d.recSt n = rDONE then
    let st := d.recConfig n
    match d.recRefusal n st with
    | some c => d.recRefuse n c io
    | none => d.recAccept n st
  else d.recRefuse n 7 io

/-- Where a readout that stands at a byte ends for a DISARM: at the end of the header or row in transfer (R287). -/
def rowEnd (pos rowb : Nat) : Nat := if pos < 256 then 256 else 256 + (pos - 256 + rowb - 1) / rowb * rowb

/-- DISARM written (R275, R287): a record in progress is discarded, also one whose trigger this cycle brought; a readout ends at the next
row, its record discarded. -/
def Dev.recDisarm (d : Dev) (n : Nat) : Dev :=
  let st := d.recSt n
  let x := d.recInst n
  let won := d.cyc.inCycle && (match x.trig with | some t => t.decided == d.cycle | none => false)
  if st = rIDLE ∨ (st = rDONE ∧ d.is (REC_STAT_RDBUSY n) = false ∧ won = false) then d
  else
    let d := (d.set (REC_STAT_STATE n) rIDLE).setIo (fun s => { s with dueFire := s.dueFire.filter (· ≠ n) })
    if d.is (REC_STAT_RDBUSY n) then
      let e := rowEnd x.rdPos (d.get (REC_ROWB_ROWB n))
      if e ≤ x.rdPos then d.set (REC_STAT_RDBUSY n) 0 else d.setRec n (fun x => { x with rdEnd := some e })
    else d

/-! ### Measurements (R285) -/

/-- Division rounding towards zero of an integer by a number. -/
def meanOf (s : Int) (n : Nat) : Int := s.tdiv n

/-- The integer square root, bit by bit. -/
def isqrt (x : Nat) : Nat :=
  (List.range 33).foldr (fun i r => if (r + 2 ^ i) * (r + 2 ^ i) ≤ x then r + 2 ^ i else r) 0

/-- The crossing point u of R278 in units of 250 ps from the previous cycle start. -/
def crossing (l prev x : Int) (u : Nat) : Int :=
  let d := x - prev
  ((l - prev) * u + d.tdiv 2).tdiv d

/-- A measurement takes one more value; `u` is the quarter ns from the previous cycle start. -/
def RecMeas.add (m : RecMeas) (lvl hys : Int) (u : Nat) (x : Int) : RecMeas :=
  if m.trunc then m
  else
    let base := if m.n = 0 then 0 else m.base + u
    let hit : Bool := match m.prev with
      | some p => m.ready && decide (p < lvl) && decide (lvl ≤ x)
      | none => false
    let at_ := match m.prev with
      | some p => m.base + (crossing lvl p x u).toNat
      | none => 0
    let m' := if m.n = 0 then { m with maxv := x, minv := x, peak := x } else m
    { n := m.n + 1, maxv := max m'.maxv x, minv := min m'.minv x,
      peak := if m'.peak.natAbs < x.natAbs ∨ (m'.peak.natAbs = x.natAbs ∧ 0 < x) then x else m'.peak,
      sum := m.sum + x, sumsq := m.sumsq + x.natAbs * x.natAbs, prev := some x,
      ready := decide (x ≤ lvl - hys) || (m.ready && !hit), base := base,
      first := if hit ∧ m.cross = 0 then at_ else m.first, last := if hit then at_ else m.last,
      cross := if hit then m.cross + 1 else m.cross, trunc := decide (2 ^ 32 ≤ m.n + 1) }

/-- PERIOD in quarters of a ns. -/
def RecMeas.period (m : RecMeas) : Nat :=
  if m.cross < 2 then 0 else (2 * (m.last - m.first) + (m.cross - 1)) / (2 * (m.cross - 1))

/-- The 32 bytes of a measurement in the header (R286). -/
def RecMeas.bytes (m : RecMeas) (en : Bool) : List Byte :=
  if en ∧ 0 < m.n then
    let q := fun (v : Int) => leBytes 4 (ofSigned 32 v)
    let p := m.period
    q m.peak ++ q m.maxv ++ q m.minv ++ q (satS 32 (m.maxv - m.minv)) ++ q (meanOf m.sum m.n)
      ++ leBytes 4 (isqrt (m.sumsq / m.n)) ++ leBytes 4 p ++ leBytes 4 (if p = 0 then 0 else 4 * 10 ^ 12 / p)
  else List.replicate 32 0

/-- The measurements of instance n take the values of a cycle. -/
def Dev.recMeasure (d : Dev) (n : Nat) (u : Nat) (xs : List Int) : Dev :=
  let c := d.recInst n
  d.setRec n (fun x => { x with meas := x.meas.zipIdx.map (fun (m, i) =>
    if c.get (REC_MCFG_EN n i) = 1 then
      m.add (toSigned 32 (c.get (REC_MLVL_MLVL n i))) (c.get (REC_MHYS_MHYS n i)) u (nth xs i 0)
    else m) })

/-! ### TRIG_IO drive (R289) -/

/-- The device pulls TRIG_IO low now for a time, as a fire of instances or as ARM. -/
def Dev.ioPull (d : Dev) (ns : Nat) (fires : List Nat) : Dev :=
  let d := d.emit (.pin .trigIo .low)
  let d := d.set REC_IOTIME_EDGE (nsOf d.time.tb0).toNat |>.set REC_IOINFO_EDGEINFO 0
  let d := d.setIo (fun s => { s with low := some d.time.tb0, heard := true, drive := some (d.time.up + ns), fires := fires, stuck := false })
  d.each fires fun n d => d.setRec n (fun x => { x with fired := some d.time.tb0 })

/-- An instance fires TRIG_IO (R280, R289): at once on a high line, in one pulse with a fire of the same instant; else it waits. -/
def Dev.ioFire (d : Dev) (n : Nat) : Dev :=
  if d.is REC_IOCFG_LINEEN = false then d
  else if d.rcd.low = none then d.ioPull 500 [n]
  else if d.rcd.low = some d.time.tb0 ∧ d.rcd.drive.isSome ∧ d.rcd.fires ≠ [] then
    (d.setIo (fun s => { s with fires := s.fires ++ [n] })).setRec n (fun x => { x with fired := some d.time.tb0 })
  else d.setIo (fun s => { s with dueFire := s.dueFire ++ [n] })

/-- A write of REC_IOCMD.ARMOUT (R289). -/
def Dev.ioArmout (d : Dev) : Dev :=
  if d.is REC_IOCFG_LINEEN = false then d
  else if d.rcd.low = none then d.ioPull 8000 []
  else d.setIo (fun s => { s with dueArm := true })

/-! ### Triggers (R275, R277 to R280) -/

/-- Source codes of R286. -/
def srcTrigIo : Nat := 4
def srcForce : Nat := 5
def srcAuto : Nat := 6

/-- A trigger that arises: instant, source, event bit. -/
structure RecCand where
  inst : BitVec 48
  source : Nat
  ev : Nat
  deriving DecidableEq, Repr

/-- Whether one trigger is taken before another (R279). -/
def RecCand.before (x y : RecCand) : Bool :=
  let df := (x.inst - y.inst).toInt
  decide (df < 0) || (df == 0 && decide (x.source < y.source))

/-- The trigger taken of several. -/
def firstTrigger (l : List RecCand) : Option RecCand :=
  l.foldl (fun b c => match b with
    | none => some c
    | some x => if c.before x then some c else b) none

/-- An instant on the grid of 250 ps. -/
def quarter (t : BitVec 48) : BitVec 48 := (t >>> 14) <<< 14

/-- The last cycle start at or before an instant, of those kept, newest first; the oldest for an instant before them all. -/
def Dev.startOf (d : Dev) (t : BitVec 48) : Option RecStart :=
  (d.rcd.starts.find? (fun s => decide ((t - s.t0).toNat < 2 ^ 47))).orElse (fun _ => d.rcd.starts.getLast?)

/-- The cycle that an instant lies in. -/
def Dev.cycleOf (d : Dev) (t : BitVec 48) : Word :=
  match d.startOf t with
  | some s => s.cyc
  | none => d.cycle

/-- TB1 a time after a cycle start, with its rate and slew of that start (R159, R176, R286); without a start, back from now.
DEDUCED, log entry 28. -/
def Dev.tb1At (d : Dev) (t : BitVec 48) : Word :=
  match d.rcd.starts.find? (fun s => decide ((t - s.t0).toNat < 2 ^ 47)) with
  | some s =>
    let e := (t - s.t0).toNat
    let a : Int := clampInt (-(e / 2 ^ 16 : Nat)) (e / 2 ^ 16 : Nat) s.slew
    nsOf (s.tb1 + BitVec.ofInt 48 ((rateAdvance (e / 2 ^ 16) 0 s.rate).1 + a * 64 + (e % 2 ^ 16 : Nat)))
  | none =>
    let e := (d.time.tb0 - t).toNat
    nsOf (d.time.tb1 - BitVec.ofInt 48 ((rateAdvance (e / 2 ^ 16) 0 (d.getS TIM_TB1RATE_TB1RATE)).1 + (e % 2 ^ 16 : Nat)))

/-- Whether cycle a is no earlier than cycle b. -/
def cycleGe (a b : Word) : Bool := decide ((a - b).toNat < 2 ^ 31)

/-- Writes TRIGROW of a row already stored (R279). -/
def Dev.markRow (d : Dev) (n idx : Nat) (b : Bool) : Dev :=
  let c := d.recInst n
  let places := c.get (REC_PRE_PRE n) + c.get (REC_POST_POST n)
  let a := c.get (REC_BASE_BASE n) * 4096 + 4096 + (idx % places) * d.get (REC_ROWB_ROWB n) + 5
  d.ddrWrite a ((d.ddrRead a 1).map (fun v => if b then v ||| 1 else v &&& 0xFE))

/-- TTRIG and TTRIGF. -/
def Dev.showTrig (d : Dev) (n : Nat) (c : RecCand) : Dev :=
  d.set (REC_TTRIG_TTRIG n) (nsOf c.inst).toNat
    |>.set (REC_TTRIGF_TTRIGF n) ((fracOf c.inst).toNat / 16384 + c.source * 256)

/-- A trigger as it is kept. -/
def Dev.trigOf (d : Dev) (c : RecCand) (cyc : Word) : RecTrig :=
  ⟨c.inst, cyc, c.source, c.ev, d.tb1At c.inst, d.cycle⟩

/-- The cycle of a trigger (R279): of its instant for TRIG_IO, else the cycle in which it fires. -/
def Dev.candCycle (d : Dev) (c : RecCand) : Word := if c.source = srcTrigIo then d.cycleOf c.inst else d.cycle

/-- The trigger and its row are fixed (R279), and the measurements take the cycles from the trigger cycle that have passed, up to that of
the last post-trigger row if it is stored (R285). -/
def Dev.fixTrigger (d : Dev) (n : Nat) (c : RecCand) : Dev :=
  let cyc := d.candCycle c
  let t := d.trigOf c cyc
  let d := d.showTrig n c
  let d : Dev := match ((d.recInst n).recent.filter (fun r => cycleGe r.2 cyc)).getLast? with
    | some r => (d.setRec n (fun x => { x with trig := some t, trigIdx := r.1, post := x.rows - r.1 })).markRow n r.1 true
    | none => d.setRec n (fun x => { x with trig := some t, trigPend := true })
  let x := d.recInst n
  let last := x.recent.find? (fun r => !x.trigPend && r.1 + 1 == x.trigIdx + x.get (REC_POST_POST n))
  let past := x.hist.filter (fun h => cycleGe h.1 cyc && (match last with | some r => cycleGe r.2 h.1 | none => true))
  d.each past.reverse fun h d => d.recMeasure n h.2.1 h.2.2

/-- What a trigger fixed is taken back. -/
def Dev.unfixTrigger (d : Dev) (n : Nat) : Dev :=
  let x := d.recInst n
  let d := if x.trigPend then d else d.markRow n x.trigIdx false
  d.setRec n (fun x => { x with trigPend := false, post := 0, meas := List.replicate 4 .init })

/-- Whether a source may fire TRIG_IO (R280). -/
def firesIo (source : Nat) : Bool := source != srcTrigIo && source != srcAuto

/-- A trigger takes instance n to POST (R275, R279, R280, R285). -/
def Dev.recTrigger (d : Dev) (n : Nat) (c : RecCand) : Dev :=
  let short := d.recSt n = rPREFILL
  let d := d.setB (REC_STAT_SHORTPRE n) short |>.set (REC_STAT_STATE n) rPOST |>.raise (REC_EVT_EVT n) 1 |>.fixTrigger n c
  if (d.recInst n).get (REC_CTRL_TRIGOUT n) = 1 ∧ firesIo c.source then d.ioFire n else d

/-- A further trigger of the cycle in which an instance triggered replaces the first if R279 takes it, or if that one was AUTO,
which arises only where no other does. DEDUCED, log entry 28. -/
def Dev.recRetrigger (d : Dev) (n : Nat) (c : RecCand) : Dev :=
  match (d.recInst n).trig with
  | some t =>
    if t.decided = d.cycle ∧ c.source ≠ srcAuto ∧ (t.source = srcAuto ∨ c.before ⟨t.inst, t.source, t.ev⟩) then
      let d := (d.unfixTrigger n).fixTrigger n c
      if (d.recInst n).get (REC_CTRL_TRIGOUT n) = 1 ∧ firesIo c.source ∧ firesIo t.source = false then d.ioFire n else d
    else d
  | none => d

/-- A trigger reaches instance n (R275, R277). -/
def Dev.recHit (d : Dev) (n : Nat) (c : RecCand) : Dev :=
  if d.recSt n = rPREFILL ∨ d.recSt n = rARMED then d.recTrigger n c
  else if d.recSt n = rPOST then d.recRetrigger n c
  else d

/-- One condition at the reload of a cycle (R277, R278): its state after it and the trigger, if it fires. -/
def Dev.recCond (d : Dev) (n i : Nat) (u : Nat) (c : RecCond) : RecCond × Option RecCand :=
  let cf := d.recInst n
  let ty := cf.get (REC_TCFG_TYPE n i)
  let x := d.slot (cf.get (REC_TCFG_SLOT n i))
  let l := toSigned 32 (cf.get (REC_TLVL_L n i))
  let hys : Int := cf.get (REC_THYS_HYS n i)
  let rise : Bool := match c.prev with
    | some p => decide (p < l) && decide (l ≤ x) && c.low && (ty == 1 || ty == 3)
    | none => false
  let fall : Bool := match c.prev with
    | some p => decide (l < p) && decide (x ≤ l) && c.high && (ty == 2 || ty == 3)
    | none => false
  let evs := (d.rcd.ev &&& cf.get (REC_TCFG_EVMASK n i))
  let t0 := d.cyc.t0
  let cross := t0 - BitVec.ofNat 48 (u * 16384) + BitVec.ofInt 48 (crossing l (c.prev.getD 0) x u * 16384)
  let cand : Option RecCand :=
    if rise || fall then some ⟨cross, i, 0⟩
    else if ty = 4 ∧ l < x then some ⟨t0, i, 0⟩
    else if ty = 5 ∧ evs ≠ 0 then some ⟨t0, i, ((List.range 10).filter evs.testBit).headD 0⟩
    else none
  (⟨some x, decide (x ≤ l - hys) || (c.low && !rise), decide (l + hys ≤ x) || (c.high && !fall)⟩, cand)

/-! ### Rows and their end (R272, R279, R283, R284, R286) -/

/-- A row that does not fit (R284). -/
def Dev.dropRow (d : Dev) (n : Nat) : Dev :=
  (d.count (REC_DROPCNT_DROPCNT n) 1 |>.set (REC_STAT_DROP n) 1 |>.raise (REC_EVT_EVT n) 3).setRec n
    (fun x => { x with gap := true, drops := x.drops + 1 })

/-- D doubles from the next row when the staging buffer holds more than 12 KB (R283). -/
def Dev.rateStep (d : Dev) (n : Nat) : Dev :=
  let l := d.get (REC_STAT_LOG2D n)
  if 12288 < (d.recInst n).staged ∧ l < 8 then
    (d.set (REC_STAT_LOG2D n) (l + 1) |>.raise (REC_EVT_EVT n) 2).setRec n
      (fun x => { x with steps := x.steps ++ [(x.rows, l + 1)] })
  else d

/-- Stores the row of the current cycle. -/
def Dev.storeRow (d : Dev) (n rowb : Nat) : Dev :=
  let c := d.recInst n
  let places := c.get (REC_PRE_PRE n) + c.get (REC_POST_POST n)
  let d := d.ddrWrite (c.get (REC_BASE_BASE n) * 4096 + 4096 + (c.rows % places) * rowb) (d.rowOf n rowb c.trigPend c.gap)
  let d := d.setRec n (fun x => { x with
    rows := x.rows + 1, staged := x.staged + rowb, gap := false, recent := ((x.rows, d.cycle) :: x.recent).take 16,
    trigIdx := if x.trigPend then x.rows else x.trigIdx, trigPend := false,
    post := if x.trigPend then 1 else if 0 < x.post then x.post + 1 else 0,
    perchg := x.perchg || x.tcyc != d.cyc.tm0.tcyc })
  d.count (REC_ROWS_ROWS n) 1 |>.rateStep n

/-- The row of the current cycle, if one falls (R272, R284): none in the cycle of the arming. -/
def Dev.captureRow (d : Dev) (n : Nat) : Dev :=
  let d := d.setRec n (fun x => { x with ks := x.ks.orElse (fun _ => some d.cycle) })
  let c := d.recInst n
  let k := (d.cycle - c.ks.getD 0).toNat
  if c.ks = some (d.cycle + 1) ∨ k % 2 ^ d.get (REC_STAT_LOG2D n) ≠ 0 then d
  else
    let rowb := d.get (REC_ROWB_ROWB n)
    if 16384 < c.staged + rowb then d.dropRow n else d.storeRow n rowb

/-- The index of the first row of a record: it is the last PRE′ + POST rows stored (R286). -/
def RecInst.firstRow (x : RecInst) (n : Nat) : Nat := x.rows - (min (x.get (REC_PRE_PRE n)) x.trigIdx + x.get (REC_POST_POST n))

/-- PRE′. -/
def RecInst.pre (x : RecInst) (n : Nat) : Nat := min (x.get (REC_PRE_PRE n)) x.trigIdx

/-- The DDR4 address of the row with an index since arming. -/
def Dev.rowAddr (d : Dev) (n idx : Nat) : Nat :=
  let x := d.recInst n
  x.get (REC_BASE_BASE n) * 4096 + 4096 + (idx % (x.get (REC_PRE_PRE n) + x.get (REC_POST_POST n))) * d.get (REC_ROWB_ROWB n)

/-- The header of R286. -/
def Dev.recHeader (d : Dev) (n : Nat) : List Byte :=
  let x := d.recInst n
  let t := x.trig.getD ⟨0, 0, 0, 0, 0, 0⟩
  let first := d.rowAddr n (x.firstRow n)
  let b := fun (c : Bool) (k : Nat) => if c then 2 ^ k else 0
  let edge := x.fired.getD 0
  let quarters := fun (v : BitVec 48) => leBytes 4 ((fracOf v).toNat / 16384)
  let steps := x.steps.take 8
  leBytes 2 0x5243 ++ [1, BitVec.ofNat 8 n]
    ++ leBytes 4 (t.source + t.ev * 256 + b (d.is (REC_STAT_SHORTPRE n)) 16 + b (d.is (REC_STAT_DROP n)) 17
      + b (x.meas.any (·.trunc)) 18 + b x.perchg 19 + b x.fired.isSome 20)
    ++ leBytes 4 t.cyc.toNat ++ leBytes 4 (nsOf t.inst).toNat ++ quarters t.inst ++ leBytes 4 t.tb1.toNat
    ++ leBytes 4 (nsOf edge).toNat ++ quarters edge ++ d.ddrRead first 4 ++ leBytes 4 (x.pre n)
    ++ leBytes 4 (x.get (REC_POST_POST n)) ++ leBytes 2 (d.get (REC_ROWB_ROWB n)) ++ leBytes 1 (recNch x.cfg n)
    ++ d.ddrRead (first + 4) 1 ++ leBytes 4 x.tcyc ++ leBytes 4 x.drops ++ leBytes 4 steps.length
    ++ (List.range 8).flatMap (fun i => match steps[i]? with
        | some (r, l) => leBytes 4 r ++ leBytes 4 l
        | none => List.replicate 8 0)
    ++ (List.range 4).flatMap (fun i => (nth x.meas i .init).bytes (x.get (REC_MCFG_EN n i) = 1)) ++ leBytes 4 0

/-- Starts a readout (R287). -/
def Dev.startReadout (d : Dev) (n : Nat) : Dev := (d.set (REC_STAT_RDBUSY n) 1).setRec n (fun x => { x with rdPos := 0, rdEnd := none })

/-- READ written, or RECREAD: only in state DONE (R287). -/
def Dev.recRead (d : Dev) (n : Nat) : Dev :=
  if d.recSt n = rDONE ∧ d.is (REC_STAT_RDBUSY n) = false then d.startReadout n else d

/-- POST rows are stored: the header is written and the instance is DONE (R275, R286). -/
def Dev.recDone (d : Dev) (n : Nat) : Dev :=
  let x := d.recInst n
  if d.recSt n = rPOST ∧ 0 < x.post ∧ x.get (REC_POST_POST n) ≤ x.post then
    let d := d.ddrWrite (x.get (REC_BASE_BASE n) * 4096) (d.recHeader n)
    let d := (d.set (REC_STAT_STATE n) rDONE |>.raise (REC_EVT_EVT n) 0).setRec n (fun x => { x with seq := x.seq + 1 })
    if x.get (REC_CTRL_AUTORD n) = 1 then d.startReadout n else d
  else d

/-- FORCE written: a trigger at t₀ of the present cycle (R277). -/
def Dev.recForce (d : Dev) (n : Nat) : Dev := (d.recHit n ⟨d.cyc.t0, srcForce, 0⟩).recDone n

/-- AUTOTO cycles since arming with AUTO = 1 (R275). -/
def Dev.recAuto (d : Dev) (n : Nat) : Dev :=
  let x := d.recInst n
  if x.get (REC_CTRL_AUTO n) = 1 ∧ x.get (REC_AUTOTO_AUTOTO n) ≤ x.age then (d.recHit n ⟨d.cyc.t0, srcAuto, 0⟩).recDone n else d

/-- PRE rows are stored. -/
def Dev.recFilled (d : Dev) (n : Nat) : Dev :=
  if d.recSt n = rPREFILL ∧ (d.recInst n).get (REC_PRE_PRE n) ≤ (d.recInst n).rows then d.set (REC_STAT_STATE n) rARMED else d

/-- Quarter ns from t₀(k−1) to t₀(k) (R278). -/
def Dev.cycleQuarters (d : Dev) : Nat :=
  match d.rcd.starts with
  | a :: b :: _ => (a.t0 - b.t0).toNat / 16384
  | _ => 0

/-- Instance n at the reload of a cycle: its conditions, its row, its measurements (R272 to R286). `taken` bytes of its staging
buffer have gone to DDR4 since the last reload (R283). DEDUCED, log entry 28. -/
def Dev.recReload (d : Dev) (n taken : Nat) : Dev :=
  let d := d.setRec n (fun x => { x with staged := x.staged - min taken x.staged })
  let s := d.recSt n
  if s = rIDLE ∨ s = rDONE then d
  else
    let u := d.cycleQuarters
    let rs := (d.recInst n).conds.zipIdx.map (fun (c, i) => d.recCond n i u c)
    let xs := (List.range 4).map (fun i => d.slot ((d.recInst n).get (REC_MCFG_SLOT n i)))
    let d := d.setRec n (fun x => { x with conds := rs.map (·.1), hist := ((d.cycle, u, xs) :: x.hist).take 16 })
    let post := s = rPOST
    let d := if post then d.recMeasure n u xs else d
    let d := match firstTrigger (rs.filterMap (·.2)) with
      | some c => if post then d.recRetrigger n c else d.recTrigger n c
      | none => d
    d.captureRow n |>.recFilled n |>.recDone n

/-- Every instance at the reload. DEDUCED, log entry 28. -/
def Dev.recReloads (d : Dev) (taken : List Nat) : Dev :=
  (d.each allRecs fun n d => d.recReload n (nth taken n 0)).setIo (fun s => { s with ev := 0 })

/-- The recorders note a cycle start; the cycles since arming count (R275). -/
def Dev.recBoundary (d : Dev) : Dev :=
  d.setIo (fun s => { s with
    starts := (⟨d.cycle, d.cyc.t0, d.time.tb1, d.time.slew, d.getS TIM_TB1RATE_TB1RATE⟩ :: s.starts).take 16,
    insts := s.insts.map (fun x => { x with age := x.age + 1 }) })

/-! ### Readout into the REC ring (R287, R366) -/

/-- The bytes of a record from a position. -/
def Dev.recordBytes (d : Dev) (n pos len : Nat) : List Byte :=
  let x := d.recInst n
  let rowb := d.get (REC_ROWB_ROWB n)
  let first := x.firstRow n
  (List.range len).map fun i =>
    let p := pos + i
    if p < 256 then d.mem.ddr |> (Memory.read · (x.get (REC_BASE_BASE n) * 4096 + p))
    else d.mem.ddr |> (Memory.read · (d.rowAddr n (first + (p - 256) / rowb) + (p - 256) % rowb))

/-- The bytes of a record to read out: its header and its rows, or up to where a DISARM ends it. -/
def Dev.recordSize (d : Dev) (n : Nat) : Nat :=
  let x := d.recInst n
  x.rdEnd.getD (256 + (x.pre n + x.get (REC_POST_POST n)) * d.get (REC_ROWB_ROWB n))

/-- Words from little-endian bytes. -/
def bytesDws (b : List Byte) : List Word := (List.range (b.length / 4)).map (fun i => dw (leAt b (4 * i) 4))

/-- DDR4 as a read with errors sees it: a beat of 4 bytes with an uncorrectable one is 0 (R419). -/
def Dev.beatsLost (d : Dev) (errs : List (Nat × DdrFault)) : Dev :=
  (d.each (errs.filter (fun e => e.2 != .ce)) fun e d => d.ddrWrite (e.1 / 4 * 4) [0, 0, 0, 0])

/-- The next block of instance n goes into the REC ring; `errs` are the DDR4 errors that its read meets, by address (R419). -/
def Dev.recBlock (d : Dev) (n : Nat) (errs : List (Nat × DdrFault)) : Dev :=
  let x := d.recInst n
  let size := d.recordSize n
  let used := min 4064 (size - x.rdPos)
  let last := decide (size ≤ x.rdPos + used)
  let data := (d.beatsLost errs).recordBytes n x.rdPos used
  let d := d.each errs fun e d => d.ddrFault e.2 (62 + n) e.1
  let d := d.writeEntry 5 (fun _ ph =>
    [dw n, dw (x.seq - 1), dw (x.rdPos / 4064), dw used, 0, 0, 0, dw ((if last then 1 else 0) + ph * 2 ^ 31)]
      ++ bytesDws ((data ++ List.replicate 4064 0).take 4064))
  let d := (d.setRec n (fun x => { x with rdPos := x.rdPos + used })).setIo (fun s => { s with rdLast := n })
  if last then d.set (REC_STAT_RDBUSY n) 0 else d

/-- The instance whose block is next: in instance order after the last one (R366). -/
def Dev.recNext (d : Dev) : Option Nat :=
  ([1, 2, 3, 4].map (fun i => (d.rcd.rdLast + i) % 4)).find? (fun n => d.is (REC_STAT_RDBUSY n))

/-- A block is transferred when the REC ring has room and the device is bus master (R358, R361). DEDUCED, log entry 28. -/
def Dev.recReadout (d : Dev) (errs : List (Nat × DdrFault)) : Dev :=
  match d.recNext with
  | some n => if d.is (HIF_RING_CTL_EN 5) ∧ d.is HIF_STAT_BME ∧ d.ringFill 5 < d.ringSize 5 then d.recBlock n errs else d
  | none => d

/-! ### TRIG_IO received (R288, R289) -/

/-- A falling edge at an instant; time passes until then. With LINEEN = 0 the level alone is kept. -/
def Dev.ioFall (d : Dev) (t : BitVec 48) : Dev :=
  let d := d.advanceTo t
  let t := quarter t
  if d.rcd.low.isSome then d
  else if d.is REC_IOCFG_LINEEN = false then
    d.setIo (fun s => { s with low := some t, heard := false, stuck := false, fires := [] })
  else
    (d.set REC_IOTIME_EDGE (nsOf t).toNat |>.set REC_IOINFO_EDGEINFO ((fracOf t).toNat / 16384)).setIo
      (fun s => { s with low := some t, heard := true, stuck := false, fires := [] })

/-- A fire heard on the line: every instance with IOTRIG triggers at the edge less IODLY (R288). -/
def Dev.ioHeard (d : Dev) (t : BitVec 48) : Dev :=
  let c : RecCand := ⟨t - BitVec.ofNat 48 (d.get REC_IOCFG_IODLY * 65536), srcTrigIo, 0⟩
  d.each (allRecs.filter (fun n => (d.recInst n).get (REC_CTRL_IOTRIG n) == 1)) fun n d => (d.recHit n c).recDone n

/-- What a measured low period of q quarters of a ns asks for at its end (R288). -/
def Dev.ioPeriod (d : Dev) (f : BitVec 48) (q : Nat) (fires : List Nat) : Dev :=
  if 64000 < q then d
  else if 400 ≤ q ∧ q ≤ 8000 then d.ioHeard f
  else if 16000 ≤ q then
    let d := d.each (allRecs.filter d.armsOnIo) fun n d => d.recArm n true
    if fires = [] then d
    else (d.raise REC_GEVT_GEVT 2).setIo (fun s => { s with dueFire := fires ++ s.dueFire })
  else d.raise REC_GEVT_GEVT 0

/-- A low period that is measured has passed 16 µs, or LINEEN is 0 and it is measured no more (R288). -/
def Dev.ioDue (d : Dev) : Dev :=
  match d.rcd.low with
  | none => d
  | some f =>
    if d.rcd.heard = false then d
    else if d.is REC_IOCFG_LINEEN = false then d.setIo (fun s => { s with heard := false })
    else if d.rcd.stuck ∨ (d.time.tb0 - f).toNat ≤ 16000 * 2 ^ 16 then d
    else (d.raise REC_GEVT_GEVT 1).setIo (fun s => { s with stuck := true })

/-- The rising edge that ends a low period at an instant (R288); time passes until then. The line cannot rise while the device
pulls it. -/
def Dev.ioRise (d : Dev) (t : BitVec 48) : Dev :=
  let d := d.advanceTo t
  match d.rcd.low with
  | none => d
  | some f =>
    if d.rcd.drive.isSome then d
    else
      let q := (quarter t - f).toNat / 16384
      let d := d.ioDue
      let heard := d.rcd.heard
      let fires := d.rcd.fires
      let d := d.setIo (fun s => { s with low := none, heard := false, stuck := false, fires := [], highSince := d.time.up })
      if heard then (d.set REC_IOINFO_EDGEINFO ((fracOf f).toNat / 16384 + min (q / 40) 0xFFFF * 256)).ioPeriod f q fires else d

/-- A low period passes 16 µs; time passes until then (R288). -/
def Dev.ioStuck (d : Dev) : Dev :=
  match d.rcd.low with
  | none => d
  | some f =>
    if d.rcd.stuck ∨ d.rcd.heard = false ∨ d.is REC_IOCFG_LINEEN = false then d
    else ((d.advanceTo (plusNs f 16000)).raise REC_GEVT_GEVT 1).setIo (fun s => { s with stuck := true })

/-- A fire or ARM that waited is driven once the line has been high for 1 µs, a fire before an ARM; time passes until then (R289). -/
def Dev.ioDeferred (d : Dev) : Dev :=
  if d.is REC_IOCFG_LINEEN = false ∨ d.rcd.low.isSome ∨ (d.rcd.dueFire = [] ∧ d.rcd.dueArm = false) then d
  else
    let d := d.elapse (d.rcd.highSince + 1000 - d.time.up)
    let l := d.rcd.dueFire
    if l ≠ [] then (d.setIo (fun s => { s with dueFire := [] })).ioPull 500 l
    else (d.setIo (fun s => { s with dueArm := false })).ioPull 8000 []

/-- The device releases TRIG_IO at the end of its pulse; time passes until then (R289). -/
def Dev.ioRelease (d : Dev) : Dev :=
  match d.rcd.drive with
  | some t => ((d.elapse (t - d.time.up)).emit (.pin .trigIo .released)).setIo (fun s => { s with drive := none })
  | none => d

end Sys2Proof.Machine
end

