-- ==== Sys2Proof/Machine/Solder.lean ====
section
/-! DEFINITION. Solder messages as bytes (R298, R299, R302, R304, R327, R328): header, payload, trailer; the 16-byte units on the four
lanes (R128); the payload of each type. Where the manual names a payload's contents but not their places, the places are DESIGN CHOICE,
log entry 73. -/

namespace Sys2Proof.Machine

open Sys2Proof

/-! ### Messages (R298) -/

/-- Bytes padded with zeros to a multiple of 16. -/
def pad16 (b : List Byte) : List Byte := b ++ List.replicate ((16 - b.length % 16) % 16) 0

/-- n bytes: those given, then zeros. -/
def fit (n : Nat) (b : List Byte) : List Byte := b.take n ++ List.replicate (n - b.length) 0

/-- The words that bytes make, little-endian. -/
def leWords : List Byte → List Word
  | a :: b :: c :: d :: l => dw (leNat [a, b, c, d]) :: leWords l
  | _ => []

/-- The fields of a message header. -/
structure SolderHdr where
  type : Nat
  part : Nat
  last : Bool
  len : Nat
  cyc : Word
  seq : Word
  dep : Word
  deriving DecidableEq, Repr

/-- The 16 bytes of a header. -/
def SolderHdr.bytes (h : SolderHdr) : List Byte :=
  leBytes 1 h.type ++ leBytes 1 (h.part % 32 + if h.last then 128 else 0) ++ leBytes 2 h.len ++ leBytes 4 h.cyc.toNat
    ++ leBytes 4 h.seq.toNat ++ leBytes 4 h.dep.toNat

/-- The header that 16 bytes carry. -/
def SolderHdr.of (b : List Byte) : SolderHdr :=
  ⟨leAt b 0 1, leAt b 1 1 % 32, (leAt b 1 1).testBit 7, leAt b 2 2, dw (leAt b 4 4), dw (leAt b 8 4), dw (leAt b 12 4)⟩

/-- Header and payload with their trailer. -/
def sealed (b : List Byte) : List Byte := b ++ leBytes 4 (crc32Bytes b).toNat ++ List.replicate 12 0

/-- A message, or a part of one. -/
def messageBytes (h : SolderHdr) (payload : List Byte) : List Byte := sealed (h.bytes ++ pad16 payload)

/-- The 16-byte units of received messages: header, payload, and whether the CRC is right. A unit of type 0 fills a block period
that no message uses; a length that no message has takes its unit alone with it. DESIGN CHOICE, log entry 63. -/
def messagesOf : Nat → List (List Byte) → List (SolderHdr × List Byte × Bool)
  | 0, _ => []
  | _ + 1, [] => []
  | n + 1, u :: us =>
    let h := SolderHdr.of u
    if h.type = 0 ∨ 65 < h.len then messagesOf n us
    else
      let p := (us.take h.len).flatten
      let good := match us[h.len]? with
        | some t => leAt t 0 4 == (crc32Bytes (u ++ p)).toNat
        | none => false
      (h, p, good) :: messagesOf n (us.drop (h.len + 1))

/-! ### Units on the lanes (R128) -/

/-- Bits 127 to 0 of a unit's payload block, most significant first within each byte. -/
def unitBits (u : List Byte) : List Bool := u.flatMap (fun b => bitsMsb 8 b.toNat)

/-- The unit of a payload block. -/
def unitOf (p : List Bool) : List Byte := (pieces 8 16 p).map (fun b => BitVec.ofNat 8 (ofBits b))

/-- The payload blocks of a message for each of the four lanes: block i on lane i mod 4, with units of zeros up to a whole block
period. DESIGN CHOICE, log entry 63. -/
def solderBlocks (b : List Byte) : List (List Block) :=
  let us := pieces 16 (b.length / 16) b
  let us := us ++ List.replicate ((4 - us.length % 4) % 4) (List.replicate 16 0)
  (List.range 4).map (fun l => (us.zipIdx.filter (fun x => x.2 % 4 == l)).map (fun x => (false, unitBits x.1)))

/-- The units that four lanes' blocks carry, in order; a block period of control blocks carries none. -/
def unitsOf : List RxBlock → List RxBlock → List RxBlock → List RxBlock → List (List Byte)
  | a :: as, b :: bs, c :: cs, d :: ds =>
    let row := [a, b, c, d]
    (if row.all (fun x => x.1 == .control) then [] else row.map (fun x => unitOf x.2)) ++ unitsOf as bs cs ds
  | _, _, _, _ => []

/-! ### Payloads -/

/-- A stamp's 40 bits, and what bytes at an offset hold of one. -/
def stampBytes (t : BitVec 40) : List Byte := leBytes 5 t.toNat
def stampAt (b : List Byte) (off : Nat) : BitVec 40 := BitVec.ofNat 40 (leAt b off 5)

/-- An arm record of CMDS, 16 bytes: i_k, v_mv, then NSTALE, n and w. -/
def CmdsArm.bytes (x : CmdsArm) : List Byte :=
  fit 16 (leBytes 5 (ofSigned 40 x.ik) ++ leBytes 4 (ofSigned 32 x.vmv)
    ++ leBytes 6 (x.nstale % 2 ^ 11 + x.n % 2 ^ 11 * 2 ^ 11 + x.w % 2 ^ 20 * 2 ^ 22))

/-- The arm record that 16 bytes carry. -/
def CmdsArm.of (b : List Byte) : CmdsArm :=
  let v := leAt b 9 6
  ⟨toSigned 40 (leAt b 0 5), toSigned 32 (leAt b 5 4), v % 2 ^ 11, v / 2 ^ 11 % 2 ^ 11, v / 2 ^ 22 % 2 ^ 20⟩

/-- 4-bit values, the first in bits 3 to 0. -/
def nibbleBytes : List Nat → List Byte
  | [] => []
  | [a] => [BitVec.ofNat 8 (a % 16)]
  | a :: b :: l => BitVec.ofNat 8 (a % 16 + b % 16 * 16) :: nibbleBytes l

/-- The 4-bit values of bytes. -/
def nibblesOf (b : List Byte) : List Nat := b.flatMap (fun x => [x.toNat % 16, x.toNat / 16])

/-- An edge record of CMDS (R302). -/
def edgeBytes (x : Nat × CellCmd) : List Byte :=
  leBytes 8 (x.1 % 2 ^ 13 + x.2.edge1 % 2 ^ 20 * 2 ^ 13 + x.2.edge2 % 2 ^ 20 * 2 ^ 33)

/-- The pairs of a list. -/
def pairsOf {α : Type} : List α → List (α × α)
  | a :: b :: l => (a, b) :: pairsOf l
  | _ => []

/-- The cell, EDGE1 and EDGE2 of an edge record's two words. -/
def edgeOf (x : Word × Word) : Nat × Nat × Nat :=
  let v := x.1.toNat + x.2.toNat * 2 ^ 32
  (v % 2 ^ 13, v / 2 ^ 13 % 2 ^ 20, v / 2 ^ 33 % 2 ^ 20)

/-- The payload of CMDS (R302). -/
def Cmds.bytes (m : Cmds) : List Byte :=
  fit 48 (leBytes 4 m.cyc.toNat ++ leBytes 4 m.len2 ++ leBytes 6 m.unwrap.toNat ++ stampBytes m.t4 ++ leBytes 1 m.t1.toNat
    ++ leBytes 2 m.block.toNat ++ leBytes 2 0 ++ leBytes 4 m.health.toNat)
    ++ fit 192 (m.arms.flatMap CmdsArm.bytes) ++ pad16 (nibbleBytes (m.cells.map (fun x => x.2.mode)))
    ++ pad16 ((m.cells.filter (fun x => x.2.edged)).flatMap edgeBytes)

/-- The CMDS that a payload carries to a unit with these mapped cells, from its departure in ns on. -/
def Cmds.of (cells : List Nat) (dep : Word) (b : List Byte) : Cmds :=
  let modes := nibblesOf (b.drop 240)
  let es := ((pairsOf (leWords (b.drop (240 + up16 ((cells.length + 1) / 2))))).map edgeOf).filter (fun x => x != (0, 0, 0))
  { cyc := dw (leAt b 0 4), len2 := leAt b 4 4, unwrap := BitVec.ofNat 48 (leAt b 8 6), t4 := stampAt b 14,
    t1 := BitVec.ofNat 40 (dep.toNat * 256 + leAt b 19 1), block := BitVec.ofNat 12 (leAt b 20 2), health := dw (leAt b 24 4),
    arms := (pieces 16 12 (b.drop 48)).map CmdsArm.of,
    cells := (cells.zip modes).map (fun x => (x.1, match es.find? (fun e => e.1 == x.1) with
      | some e => ⟨x.2, e.2.1, e.2.2⟩
      | none => plainCmd x.2)) }

/-- The payload of STAT. -/
def Stat.bytes (m : Stat) : List Byte :=
  fit 32 (leBytes 4 m.health.toNat ++ stampBytes m.t3 ++ stampBytes m.t2 ++ leBytes 2 m.lost ++ leBytes 6 m.ports.toNat)

/-- The STAT that a payload carries. -/
def Stat.of (b : List Byte) : Stat :=
  ⟨dw (leAt b 0 4), stampAt b 4, stampAt b 9, BitVec.ofNat 48 (leAt b 16 6), leAt b 14 2⟩

/-- The payload of PAIR. DESIGN CHOICE, log entry 73. -/
def PairMsg.bytes (m : PairMsg) : List Byte :=
  fit 192 (leBytes 1 m.unit ++ leBytes 1 m.role.code ++ leBytes 2 ((if m.passed then 1 else 0) + if m.running then 2 else 0)
    ++ leBytes 4 m.fwver.toNat ++ fit 64 (m.digests.flatMap (fun w => leBytes 4 w.toNat)) ++ leBytes 8 m.ccv.toNat
    ++ leBytes 4 m.epoch.toNat ++ leBytes 8 m.config.toNat ++ stampBytes m.t1 ++ stampBytes m.t4 ++ leBytes 6 m.t0.toNat
    ++ leBytes 4 m.cyc.toNat)

/-- The PAIR that a payload carries. -/
def PairMsg.of (b : List Byte) : PairMsg :=
  { unit := leAt b 0 1, role := .ofCode (leAt b 1 1), passed := (leAt b 2 2).testBit 0, running := (leAt b 2 2).testBit 1,
    fwver := dw (leAt b 4 4), digests := leWords ((b.drop 8).take 64), ccv := BitVec.ofNat 64 (leAt b 72 8),
    epoch := dw (leAt b 80 4), config := BitVec.ofNat 64 (leAt b 84 8), t1 := stampAt b 92, t4 := stampAt b 97,
    t0 := BitVec.ofNat 48 (leAt b 102 6), cyc := dw (leAt b 108 4) }

/-- A record of RELAY (R304): VCAP, AUX, STAT and TERR, 16 bits each. -/
def relayRecord (x : Nat × Nat × Nat × Nat) : List Byte := leBytes 2 x.1 ++ leBytes 2 x.2.1 ++ leBytes 2 x.2.2.1 ++ leBytes 2 x.2.2.2

/-- The payload of RELAY (R304): the records run from the first valid slot to the last; zeros stand for a slot between them that
is not valid. DESIGN CHOICE, log entry 73. -/
def relayPayload (port : Nat) (cyc : Word) (e wpos : Nat) (recs : List (Nat × Nat × Nat × Nat × Nat)) : List Byte :=
  let first := match recs.head? with | some r => r.1 | none => 0
  let n := match recs.getLast? with | some r => r.1 + 1 - first | none => 0
  leBytes 1 port ++ leBytes 1 e ++ leBytes 1 wpos ++ leBytes 1 first ++ leBytes 4 n ++ fit 8 (leBytes 4 cyc.toNat)
    ++ (List.range n).flatMap (fun i => match recs.find? (fun r => r.1 == first + i) with
      | some r => relayRecord r.2
      | none => List.replicate 8 0)

/-- The valid slots of a RELAY payload: STAT bit 15 marks them (R69). -/
def relaySlots (b : List Byte) : List (Nat × Nat × Nat × Nat × Nat) :=
  ((pieces 8 (min (leAt b 4 4) 128) (b.drop 16)).zipIdx.map (fun (r, i) =>
    (leAt b 3 1 + i, leAt r 0 2, leAt r 2 2, leAt r 4 2, leAt r 6 2))).filter (fun x => x.2.2.2.1.testBit 15)

/-- The payload of EPOCH (R328): kind, index, total, records; then a cycle, an instant or a value; the records. DESIGN CHOICE,
log entry 73. -/
def EpochMsg.bytes : EpochMsg → List Byte
  | .group i n recs => fit 16 (leBytes 2 1 ++ leBytes 2 i ++ leBytes 2 n ++ leBytes 2 recs.length)
      ++ recs.flatMap (fun r => leBytes 4 r.1 ++ leBytes 4 r.2.toNat)
  | .commit j a0 => fit 16 (leBytes 2 (2 + (if j.isSome then 16 else 0) + if a0.isSome then 32 else 0) ++ leBytes 4 (j.getD 0).toNat
      ++ leBytes 6 (a0.getD 0).toNat)
  | .abort => fit 16 (leBytes 2 3)
  | .confirm v => fit 16 (leBytes 2 4 ++ leBytes 8 v.toNat)

/-- The EPOCH message that a payload carries. -/
def EpochMsg.of (b : List Byte) : Option EpochMsg :=
  let k := leAt b 0 2
  match k % 16 with
  | 1 => some (.group (leAt b 2 2) (leAt b 4 2) ((pairsOf ((leWords (b.drop 16)).take (2 * leAt b 6 2))).map (fun x => (x.1.toNat, x.2))))
  | 2 => some (.commit (if k.testBit 4 then some (dw (leAt b 2 4)) else none)
      (if k.testBit 5 then some (BitVec.ofNat 48 (leAt b 6 6)) else none))
  | 3 => some .abort
  | 4 => some (.confirm (BitVec.ofNat 64 (leAt b 2 8)))
  | _ => none

/-- The payload of a message. -/
def SolderMsg.payload : SolderMsg → List Byte
  | .blk m => leBytes 2 (m % 4096)
  | .islot _ v => v.flatMap (fun w => leBytes 4 w.toNat)
  | .relay p c e w r => relayPayload p c e w r
  | .ref _ s => s.flatMap (fun x => leBytes 4 x.1.toNat ++ leBytes 4 x.2.toNat)
  | .cmds m => m.bytes
  | .stat m => m.bytes
  | .ingot _ b => b
  | .cast _ b => b
  | .discres p r n w => fit 16 (leBytes 1 p ++ leBytes 1 r ++ leBytes 2 n) ++ w.flatMap (fun x => leBytes 4 x.toNat)
  | .epoch m => m.bytes
  | .pair m => m.bytes

/-- The cycle number in a message's header: the cycle that its contents are of, a cast segment's index, else the sender's cycle.
DESIGN CHOICE, log entry 73. -/
def SolderMsg.cycleNumber (own : Word) : SolderMsg → Word
  | .islot c _ | .relay _ c _ _ _ | .ref c _ => c
  | .cmds m => m.cyc
  | .ingot k _ => k
  | .cast i _ => BitVec.ofNat 32 i
  | _ => own

/-- Whether a type is sent in parts of at most 1,024 payload bytes (R299): CMDS, DISCRES, EPOCH. -/
def sentInParts (type : Nat) : Bool := type == 5 || type == 9 || type == 10

/-- What the next part of a payload takes of it. -/
def partBytes (type : Nat) (left : List Byte) : List Byte := if sentInParts type then left.take 1024 else left

end Sys2Proof.Machine
end

