-- ==== Sys2Proof/Machine/Lane.lean ====
section
/-! DEFINITION. The ring and Solder lanes (R99 to R128): enabling, the bring-up state machine of R123, detectors, restart,
equaliser writes, alignment of the Solder link. -/

namespace Sys2Proof.Machine

open Sys2Proof

/-- The codes of LANE_STAT.STATE (R123). -/
def lDISABLED : Nat := 0
def lPLLWAIT : Nat := 1
def lSIGNAL : Nat := 2
def lCDR : Nat := 3
def lBLOCK : Nat := 4
def lALIGN : Nat := 5
def lUP : Nat := 6

/-- The Solder lanes. -/
def solderLanes : List Nat := [96, 97, 98, 99]

/-- All lanes. -/
def allLanes : List Nat := List.range 100

/-- A lane's state. -/
def Dev.laneSt (d : Dev) (n : Nat) : Nat := d.get (LANE_STAT_STATE n)

/-- Whether the lanes run at all: out of reset and BOOT, boot succeeded, not DEEP, not FAULTED (R290, R459, R460, R464). -/
def Dev.lanesOn (d : Dev) : Bool :=
  d.dstate != .boot && d.get RST_STAT_HCAUSE != 7 && !d.rst.deep && d.role != .faulted

/-- Whether a lane is enabled (R121). The Solder lanes are while DPX_CFG.MODE is duplex. DEDUCED, log entry 19. -/
def Dev.laneEnabled (d : Dev) (n : Nat) : Bool :=
  d.lanesOn && (if n < 96 then
    d.inUse (n / 2) && (!d.is (RING_CTRL_DPX (n / 2)) || d.get (RING_CTRL_OWNEND (n / 2)) == n % 2)
  else d.get DPX_CFG_MODE == 1)

/-! ### The Solder link -/

/-- PLOST begins in a STANDBY or SYNCING unit (R301). -/
def Dev.plost (d : Dev) : Dev :=
  if (d.role = .standby ∨ d.role = .syncing) ∧ d.is DPX_STAT_PLOST = false then
    d.set DPX_STAT_PLOST 1 |>.set DPX_EVT_PLOST 1
  else d

/-- The Solder link leaves UP (R127, R301). -/
def Dev.solderDown (d : Dev) : Dev :=
  if d.is DPX_STAT_SDLUP then
    { d with lane := { d.lane with rxSeq := none, sentUp := 0 } }.set DPX_STAT_SDLUP 0 |>.set DPX_HEALTH_SDLUP 0
      |>.set DPX_STAT_PAIRED 0 |>.set DPX_HEALTH_PAIROK 0 |>.plost |>.ringCauses
  else d

/-- The Solder link comes UP. -/
def Dev.solderUp (d : Dev) : Dev :=
  { d with lane := { d.lane with sentUp := 0 } }.set DPX_STAT_SDLUP 1 |>.set DPX_HEALTH_SDLUP 1 |>.ringCauses

/-! ### State changes -/

/-- A lane leaves UP (R123): DOWN and its counter. -/
def Dev.laneDown (d : Dev) (n : Nat) : Dev := d.set (LANE_EVT_DOWN n) 1 |>.count (LANE_CNT1_DOWNCNT n) 1

/-- The frame in reception on a ring lane ends where it is: the port takes it as cut off (R120). -/
def Dev.cutFrame (d : Dev) (n : Nat) : Dev :=
  match (d.line n).frame with
  | some (w, k, _) =>
    let d := d.setLine n (fun x => { x with frame := none })
    let p := n / 2
    let s := d.port p
    if n < 96 ∧ (d.receives p (n % 2) ∨ s.disc.isSome ∨ s.asked.isSome) then
      d.countRx p (n % 2) (if (Frame.ofBits w k).headerOk then .fcrc else .hcrc)
    else d
  | none => d

/-- The precoders start from s(−1) = 0 as a lane enters SIGNAL, the receiver's again as it enters CDR from there (R101, R123).
DESIGN CHOICE, log entry 63. -/
def Dev.precodersReset (d : Dev) (n was st : Nat) : Dev :=
  if st = lSIGNAL then d.setLine n (fun x => { x with txPrev := 0, rxPrev := 0 })
  else if st = lCDR ∧ was = lSIGNAL then d.setLine n (fun x => { x with rxPrev := 0 })
  else d

/-- A lane's transmit balls: driven from SIGNAL onward, else in electrical idle (R122, R123). -/
def Dev.lanePins (d : Dev) (n was st : Nat) : Dev :=
  if was < lSIGNAL ∧ lSIGNAL ≤ st then d.emit (.pin (.lane n) .driven)
  else if lSIGNAL ≤ was ∧ st < lSIGNAL then d.emit (.pin (.lane n) .idle)
  else d

/-- A lane that is not UP delivers no bits, and no frame may start in what it receives next before a FILL block (R108, R120). -/
def Dev.laneDeaf (d : Dev) (n : Nat) : Dev :=
  (d.cutFrame n).setLine n (fun x => { x with armed := false, win := 0, winLen := 0 })

/-- Writes a lane's state with the lock bits that hold in it; a Solder lane that leaves UP takes the others to ALIGN and the
link down (R123, R128). DEDUCED, log entry 19. -/
def Dev.laneTo (d : Dev) (n st : Nat) : Dev :=
  let was := d.laneSt n
  let d := d.set (LANE_STAT_STATE n) st |>.setB (LANE_STAT_CDRLOCK n) (lBLOCK ≤ st) |>.setB (LANE_STAT_BLKLOCK n) (lALIGN ≤ st)
  let d := (d.precodersReset n was st).lanePins n was st
  if was = lUP ∧ st ≠ lUP then
    let d := (d.laneDown n).laneDeaf n
    if 96 ≤ n then
      (d.each (solderLanes.filter (fun m => d.laneSt m == lUP)) fun m d =>
        (d.set (LANE_STAT_STATE m) lALIGN).laneDown m |>.laneDeaf m).solderDown
    else d
  else d

/-- A lane enters SIGNAL with its receiver reset: no light is qualified yet (R117, R123). DEDUCED, log entry 19. -/
def Dev.laneSignal (d : Dev) (n : Nat) : Dev := (d.laneTo n lSIGNAL).set (LANE_STAT_LOS n) 1

/-- Brings a lane to whether it is enabled (R121 to R123). A lane PLL that has locked runs on when the last lane of its group is
disabled, so that a lane enabled again enters SIGNAL at once. DESIGN CHOICE, log entry 67. -/
def Dev.laneRefresh (d : Dev) (n : Nat) : Dev :=
  let en := d.laneEnabled n
  if en = d.is (LANE_CTRL_EN n) then d
  else if en then
    let d := d.set (LANE_CTRL_EN n) 1 |>.laneTo n lPLLWAIT
    if d.is (LANE_STAT_PLLLOCK n) then d.laneSignal n else d
  else d.set (LANE_CTRL_EN n) 0 |>.laneTo n lDISABLED |>.set (LANE_STAT_LOS n) 0 |>.set (LANE_RXAMP_AMP n) 0

/-- Every lane. -/
def Dev.lanesRefresh (d : Dev) : Dev := d.each allLanes fun n d => d.laneRefresh n

/-- The lanes of group g (R110). -/
def groupLanes (g : Nat) : List Nat := [4 * g, 4 * g + 1, 4 * g + 2, 4 * g + 3]

/-- A lane PLL locks (R111): its lanes in PLLWAIT enter SIGNAL. A PLL runs once a lane of its group is enabled. -/
def Dev.pllLock (d : Dev) (g : Nat) : Dev :=
  if (groupLanes g).any (fun n => d.is (LANE_CTRL_EN n)) then
    d.each (groupLanes g) fun n d =>
      let d := d.set (LANE_STAT_PLLLOCK n) 1
      if d.laneSt n = lPLLWAIT then d.laneSignal n else d
  else d

/-- A lane PLL loses lock (R111): every enabled lane of the group enters PLLWAIT. -/
def Dev.pllLoss (d : Dev) (g : Nat) : Dev :=
  d.each (groupLanes g) fun n d =>
    let d := d.set (LANE_STAT_PLLLOCK n) 0
    if d.laneSt n = lDISABLED then d else d.laneTo n lPLLWAIT |>.set (LANE_RXAMP_AMP n) 0

/-- The threshold of the loss-of-signal detector in mVppd (R117). -/
def Dev.vlos (d : Dev) (n : Nat) : Nat := 40 + 10 * d.get (LANE_RXCFG_LOSTH n)

/-- The time of LANE_RXCFG.LOSQUAL in ns. -/
def Dev.losQual (d : Dev) (n : Nat) : Nat := 1000 * 10 ^ d.get (LANE_RXCFG_LOSQUAL n)

/-- The amplitude that the receiver reports (R116): a lane that is off reports none. -/
def Dev.rxAmp (d : Dev) (n amp : Nat) : Dev := if d.laneSt n < lSIGNAL then d else d.set (LANE_RXAMP_AMP n) (min amp 0xFFF)

/-- LOS asserts on a lane (R117, R119, R123): the amplitude at the balls has been `amp` mVppd for ns, below V_los for 64 ns.
DEDUCED, log entry 19. -/
def Dev.losAssert (d : Dev) (n amp ns : Nat) : Dev :=
  let st := d.laneSt n
  let d := d.rxAmp n amp
  if st < lSIGNAL ∨ d.is (LANE_STAT_LOS n) ∨ d.vlos n ≤ amp ∨ ns < 64 then d
  else
    let d := d.set (LANE_STAT_LOS n) 1 |>.count (LANE_CNT1_LOSCNT n) 1 |>.set (LANE_EVT_LOSSET n) 1
    let d := if st = lUP then d.set (LANE_EVT_LOLSET n) 1 |>.count (LANE_CNT0_LOLCNT n) 1 else d
    d.laneTo n lSIGNAL

/-- LOS deasserts (R117, R123): the amplitude has been `amp` mVppd for ns, above V_los + 20 mVppd for the time of LOSQUAL; SIGNAL gives way
to CDR. -/
def Dev.losDeassert (d : Dev) (n amp ns : Nat) : Dev :=
  let d := d.rxAmp n amp
  if d.laneSt n = lSIGNAL ∧ d.is (LANE_STAT_LOS n) ∧ d.vlos n + 20 < amp ∧ d.losQual n ≤ ns then
    d.set (LANE_STAT_LOS n) 0 |>.set (LANE_EVT_LOSEND n) 1 |>.laneTo n lCDR
  else d

/-- The CDR declares lock (R118, R123). -/
def Dev.cdrLock (d : Dev) (n : Nat) : Dev := if d.laneSt n = lCDR then d.laneTo n lBLOCK else d

/-- Block lock is lost by an UP or ALIGN lane (R119, R123): the next state is given. -/
def Dev.lolTo (d : Dev) (n st : Nat) : Dev :=
  if d.laneSt n = lUP then
    d.set (LANE_EVT_LOLSET n) 1 |>.count (LANE_CNT0_LOLCNT n) 1 |>.laneTo n st
  else if d.laneSt n = lALIGN then d.laneTo n st
  else d

/-- The CDR drops lock (R118, R119, R123). -/
def Dev.cdrLoss (d : Dev) (n : Nat) : Dev := if d.laneSt n = lBLOCK then d.laneTo n lCDR else d.lolTo n lCDR

/-- 64 valid headers in a row (R119, R123). -/
def Dev.blockLock (d : Dev) (n : Nat) : Dev :=
  if d.laneSt n = lBLOCK then
    if n < 96 then d.laneTo n lUP |>.set (LANE_EVT_UP n) 1 else d.laneTo n lALIGN
  else d

/-- 16 invalid headers within 64 blocks (R119, R123). -/
def Dev.lol (d : Dev) (n : Nat) : Dev := d.lolTo n lBLOCK

/-- An invalid header or a reserved control block while UP (R106, R109). -/
def Dev.hdrErr (d : Dev) (n : Nat) : Dev :=
  if d.laneSt n = lUP then d.set (LANE_EVT_HDRERR n) 1 |>.count (LANE_CNT0_HDRERR n) 1 else d

/-- The blocks that a lane receives (R99 to R109): from CDR onward the receiver's precoder and descrambler follow the line; a lane with
block lock delivers, and counts bad blocks in HDRERR while it is UP. -/
def Dev.blocksIn (d : Dev) (n : Nat) (line : List Int) : List RxBlock × Dev :=
  if d.laneSt n < lCDR then ([], d)
  else
    let (bs, x) := (d.line n).receive (d.is (LANE_CTRL_RXPRE n)) (d.is (LANE_CTRL_RXINV n)) line
    let d := d.setLine n (fun _ => x)
    if lALIGN ≤ d.laneSt n then (bs, d.each (bs.filter (fun b => b.bad (96 ≤ n))) fun _ d => d.hdrErr n) else ([], d)

/-- The frames that a ring lane receives, in order (R108). -/
def Dev.framesIn (d : Dev) (n : Nat) (line : List Int) : List Frame × Dev :=
  let (bs, d) := d.blocksIn n line
  let (fs, x) := (d.line n).search bs
  (fs, d.setLine n (fun _ => x))

/-- What comes in on a ring lane, frame by frame, to what takes it. -/
def Dev.onFrames (d : Dev) (n : Nat) (line : List Int) (f : Frame → Dev → Dev) : Dev :=
  let (fs, d) := d.framesIn n line
  d.each fs f

/-! ### Restart and equaliser -/

/-- The receiver reset of an accepted RESTART (R123). -/
def Dev.laneReset (d : Dev) (n : Nat) : Dev := if d.laneSt n < lSIGNAL then d else d.laneSignal n

/-- The receiver reset of a RESTART that is accepted, and of a change of precoding or polarity that applies (R123, R125): the lane, or all
four Solder lanes. -/
def Dev.laneRestarts (d : Dev) (n : Nat) : Dev := if n < 96 then d.laneReset n else d.each solderLanes fun m d => d.laneReset m

/-- A write of 1 to LANE_CTRL.RESTART (R124). -/
def Dev.laneRestart (d : Dev) (n : Nat) (o : Origin) : Dev :=
  if (if n < 96 then d.arm (d.portArm (n / 2)) = .blocked else d.role = .solo ∨ d.role = .syncing ∨ d.role = .witness) then
    d.laneRestarts n
  else d.event 5 o n

/-- A write of LANE_TXEQ (R114). -/
def Dev.laneTxeq (d : Dev) (n : Nat) (v : Word) : Dev :=
  let pre := (LANE_TXEQ_PRE n).of v
  let post := (LANE_TXEQ_POST n).of v
  if 8 < pre ∨ 16 < post ∨ 20 < pre + post then d.set (LANE_EVT_EQERR n) 1
  else d.set (LANE_TXEQ_PRE n) pre |>.set (LANE_TXEQ_POST n) post |>.set (LANE_TXEQ_SWING n) ((LANE_TXEQ_SWING n).of v)

/-! ### Alignment -/

/-- Whether the unit sends ALIGN blocks (R126). -/
def Dev.sendsAlign (d : Dev) : Bool :=
  d.laneSt 96 ≥ lSIGNAL && (!d.is DPX_STAT_SDLUP || !d.lane.peerUp || d.lane.sentUp < 4)

/-- Blocks leave on the four Solder lanes in the same block periods (R128), behind a free number of FILL blocks. DESIGN CHOICE,
log entry 63. -/
def Dev.sendSolder (d : Dev) (bs : List (List Block)) : Dev :=
  (d.each (solderLanes.zip bs) fun (n, l) e => e.sendBlocks n (Config.fillBlocks d.free) d.time.tb0 l).draw

/-- An ALIGN block on all four Solder lanes (R126). -/
def Dev.alignSend (d : Dev) : Dev :=
  if d.sendsAlign then
    let up := d.is DPX_STAT_SDLUP
    let b := alignBlock d.lane.txSeq up
    let d := d.sendSolder (List.replicate 4 [b])
    { d.emit (.align d.lane.txSeq up) with
      lane := { d.lane with txSeq := d.lane.txSeq + 1, sentUp := if up then d.lane.sentUp + 1 else 0 } }
  else d

/-- A set of ALIGN blocks with one SEQ on the four lanes, with each lane's delay behind the earliest in blocks (R127): the
second of two consecutive sets within 16 blocks brings the link UP. -/
def Dev.alignReceive (d : Dev) (seq : BitVec 8) (rxup : Bool) (skew : List Nat) : Dev :=
  if solderLanes.all (fun n => d.laneSt n == lALIGN || d.laneSt n == lUP) then
    let d := { d with lane := { d.lane with peerUp := rxup } }
    let d := d.each (solderLanes.zip skew) fun (n, k) d =>
      let d := d.set (LANE_STAT_SKEW n) (min k 255)
      if 16 < k ∧ d.laneSt n = lALIGN then d.set (LANE_EVT_SKEWERR n) 1 else d
    if skew.any (fun k => decide (16 < k)) then { d with lane := { d.lane with rxSeq := none } }
    else if solderLanes.all (fun n => d.laneSt n == lALIGN) ∧ d.lane.rxSeq = some (seq - 1) then
      (d.each solderLanes fun n d => d.laneTo n lUP |>.set (LANE_EVT_UP n) 1).solderUp
    else { d with lane := { d.lane with rxSeq := some seq } }
  else d

/-- SEQ and RXUP of an ALIGN block (R106). -/
def RxBlock.alignOf (b : RxBlock) : Option (Nat × Bool) :=
  match b.1 with
  | .control =>
    match controlKind (ofBits (b.2.take 8)) true with
    | .align => some (ofBits ((b.2.drop 8).take 8), (b.2.drop 16).headD false)
    | _ => none
  | _ => none

/-- What the Solder lanes receive in the same block periods: the blocks of each lane. -/
def Dev.solderIn (d : Dev) (lines : List (List Int)) : List (List RxBlock) × Dev :=
  (solderLanes.zip lines).foldl (fun (acc : List (List RxBlock) × Dev) (n, line) =>
    let (bs, d) := acc.2.blocksIn n line
    (acc.1 ++ [bs], d)) ([], d)

/-- The 16-byte units that the Solder lanes bring (R128). -/
def Dev.solderUnits (d : Dev) (lines : List (List Int)) : List (List Byte) × Dev :=
  match d.solderIn lines with
  | ([a, b, c, e], d) => (unitsOf a b c e, d)
  | (_, d) => ([], d)

/-- One block on each Solder lane: a set of ALIGN blocks if all four are, with one SEQ (R127). -/
def Dev.alignLines (d : Dev) (lines : List (List Int)) (skew : List Nat) : Dev :=
  let (bs, d) := d.solderIn lines
  match bs.map (fun l => l.head?.bind RxBlock.alignOf) with
  | [some a, some b, some c, some e] =>
    if a.1 = b.1 ∧ b.1 = c.1 ∧ c.1 = e.1 then d.alignReceive (BitVec.ofNat 8 a.1) (a.2 && b.2 && c.2 && e.2) skew else d
  | _ => d

end Sys2Proof.Machine
end

