-- ==== Sys2Proof/Machine/Clk.lean ====
section
/-! DEFINITION. The CLK block: lock detection and reference monitor (R430 to R434), the cast-iron oscillator's trim (R435,
R436), root switching and failover (R438 to R444), dividers, CLKOUT and gates (R445 to R451). -/

namespace Sys2Proof.Machine

open Sys2Proof

/-- Changes the clock block's state beside its registers. -/
def Dev.setClk (d : Dev) (f : ClkState → ClkState) : Dev := { d with clk := f d.clk }

/-! ### Acquisition -/

/-- The dither seed; 0 acts as 1 (R431). -/
def Dev.seed (d : Dev) : BitVec 16 :=
  let s := d.get CLK_MDLL_SEED
  if s = 0 then 1 else BitVec.ofNat 16 s

/-- One step of the dither register, polynomial x¹⁶ + x¹⁴ + x¹³ + x¹¹ + 1 (R431). DEDUCED, log entry 49. -/
def lfsrStep (r : BitVec 16) : BitVec 16 :=
  let b := r.getLsbD 0 ^^ r.getLsbD 2 ^^ r.getLsbD 3 ^^ r.getLsbD 5
  (r >>> 1) ||| (if b then 0x8000 else 0)

/-- n steps of the dither register. DEDUCED, log entry 49. -/
def lfsrSteps (n : Nat) (r : BitVec 16) : BitVec 16 :=
  match n with
  | 0 => r
  | n + 1 => lfsrSteps n (lfsrStep r)

/-- Lock acquisition starts (R430, R431, R433). DEDUCED, log entry 49. -/
def Dev.acquire (d : Dev) : Dev := d.setClk (fun c => { c with lockRun := 0, lfsr := d.seed, winAt := d.time.cio })

/-- Notes since when REFOK and MDLLRDY both hold (R443). -/
def Dev.qualify (d : Dev) : Dev :=
  let ok := d.is CLK_STAT_REFOK && d.is CLK_STAT_MDLLRDY
  d.setClk (fun c => { c with retSince := if ok then c.retSince.orElse (fun _ => some d.time.cio) else none })

/-- The synthesiser is no longer READY; the time bases are not touched (R433, R434). -/
def Dev.unready (d : Dev) : Dev := (d.set CLK_STAT_MDLLRDY 0).setClk (fun c => { c with retSince := none })

/-- MDLLEN set: acquisition starts; cleared: the synthesiser is not READY (R430). -/
def Dev.mdllEnable (d : Dev) (en : Bool) : Dev :=
  if en = d.is CLK_CTRL_MDLLEN then d
  else if en then (d.set CLK_CTRL_MDLLEN 1).acquire
  else (d.set CLK_CTRL_MDLLEN 0).unready

/-- LOCKWIN; values below 4 act as 4. -/
def Dev.lockWin (d : Dev) : Nat := max (d.get CLK_MDLL_LOCKWIN) 4

/-- The reference monitor's part of a window: the reference's distance from nominal in ppm (R434). -/
def Dev.refWindow (d : Dev) (ppm : Nat) : Dev :=
  if 1000 < ppm then
    let d := d.setClk (fun c => { c with refRun := 0 })
    if d.is CLK_STAT_REFOK then
      (d.set CLK_STAT_REFOK 0 |>.set CLK_EVT_REFLOSS 1).unready.acquire.setClk (fun c => { c with frozen := true })
    else d
  else if d.is CLK_STAT_REFOK then d
  else if ppm ≤ 500 then
    let d := d.setClk (fun c => { c with refRun := c.refRun + 1 })
    if 4 ≤ d.clk.refRun then
      (d.set CLK_STAT_REFOK 1).setClk (fun c => { c with refRun := 0, frozen := d.is CLK_STAT_CLKDEG && c.frozen })
    else d
  else d.setClk (fun c => { c with refRun := 0 })

/-- Lock is declared: MDLLRDY; at the first lock after PORST_N the time bases start at 0 (R160, R433). DEDUCED, log entry 12. -/
def Dev.declareLock (d : Dev) : Dev :=
  let d := d.set CLK_STAT_MDLLRDY 1 |>.set CLK_EVT_LOCK 1
  if d.time.on ∨ d.sch.aclkStopped then d
  else { d with time := { d.time with on := true, tb0 := 0, tb1 := 0, tb2 := 0, tb3 := 0, sub1 := 0, sub3 := 0, slew := 0 } }

/-- The lock detector's part of a window: D in root periods (R433); no lock is declared while REFOK = 0 (R434), but the run of
good windows counts, as the example of R443 has both set at once. DEDUCED, log entry 48. -/
def Dev.lockDetect (d : Dev) (dv : Int) : Dev :=
  let d := d.setSat CLK_LOCKCNT_D dv
  if d.is CLK_CTRL_MDLLEN = false then d
  else if d.is CLK_STAT_MDLLRDY then
    if 2 < dv.natAbs then (d.unready.set CLK_EVT_LOL 1).acquire else d
  else if dv.natAbs ≤ 1 then
    let d := d.setClk (fun c => { c with lockRun := c.lockRun + 1 })
    if 4 ≤ d.clk.lockRun ∧ d.is CLK_STAT_REFOK then d.declareLock else d
  else d.setClk (fun c => { c with lockRun := 0 })

/-- A reference period in ns, by REFSEL (R429). -/
def Dev.refPeriod (d : Dev) : Nat := match d.get CLK_MDLL_REFSEL with | 1 => 100 | 2 => 10 | _ => 40

/-- A lock window of 2^LOCKWIN reference periods ends; time passes until then (R431, R433, R434). -/
def Dev.lockWindow (d : Dev) (dv : Int) (ppm : Nat) : Dev :=
  let d := d.elapse (d.clk.winAt + 2 ^ d.lockWin * d.refPeriod - d.time.cio)
  let d := d.setClk (fun c => { c with winAt := d.time.cio })
  let d := if d.is CLK_MDLL_DITHEN ∧ d.is CLK_CTRL_MDLLEN then
      d.setClk (fun c => { c with lfsr := lfsrSteps (2 ^ d.lockWin) c.lfsr }) else d
  (d.refWindow ppm |>.lockDetect dv).qualify

/-- No reference edge for 4 nominal periods (R434). -/
def Dev.refLoss (d : Dev) : Dev :=
  if d.is CLK_STAT_REFOK then
    (d.set CLK_STAT_REFOK 0 |>.set CLK_EVT_REFLOSS 1).unready.acquire.setClk (fun c => { c with frozen := true, refRun := 0 })
  else d.setClk (fun c => { c with refRun := 0 })

/-! ### Root switching -/

/-- A switch starts (R439): away from the synthesiser, after it has ever been the source, clock-degraded mode runs (R443).
DEDUCED, log entry 48. -/
def Dev.startSwitch (d : Dev) (synth : Bool) : Dev :=
  let d := (d.set CLK_STAT_SWBUSY 1).setClk (fun c => { c with switch := some synth })
  if synth = false ∧ d.clk.everSynth then d.set CLK_STAT_CLKDEG 1 else d

/-- Whether a source is READY (R438). -/
def Dev.sourceReady (d : Dev) (synth : Bool) : Bool := if synth then d.is CLK_STAT_MDLLRDY else d.is CLK_STAT_CIORDY

/-- A write of SEL (R440). DEDUCED, log entry 48. -/
def Dev.selectSource (d : Dev) (synth : Bool) : Dev :=
  if synth = d.is CLK_CTRL_SEL ∧ synth = d.is CLK_STAT_SRC then d
  else if d.is CLK_STAT_SWBUSY ∨ d.sourceReady synth = false ∨ (synth = false ∧ d.allBlocked = false) then
    d.set CLK_EVT_SWREF 1
  else
    let d := d.setB CLK_CTRL_SEL synth
    if synth = d.is CLK_STAT_SRC then d else d.startSwitch synth

/-- A write of CLK_CTRL (R430, R435, R440, R443). DEDUCED, log entry 48. -/
def Dev.clkCtrl (d : Dev) (v : Word) : Dev :=
  (d.set CLK_CTRL_TRIMEN (CLK_CTRL_TRIMEN.of v) |>.set CLK_CTRL_AUTORET (CLK_CTRL_AUTORET.of v)).mdllEnable
      (CLK_CTRL_MDLLEN.of v ≠ 0) |>.selectSource (CLK_CTRL_SEL.of v ≠ 0)

/-- What a base loses at a glitch-free switch, at most 0.5 ns and no more than it has counted (R160, R439). DESIGN CHOICE, log
entry 3. -/
def loseSwitch (d : Dev) (n : Nat) (tb : BitVec 48) : BitVec 48 :=
  tb - BitVec.ofNat 48 (min (Config.switchLoss (d.free + n) % 0x8001) tb.toNat)

/-- The loss of the four bases at a switch between running sources. DEDUCED, log entry 48. -/
def Dev.switchLoss (d : Dev) : Dev :=
  if d.time.on then
    { d with time := { d.time with tb0 := loseSwitch d 0 d.time.tb0, tb1 := loseSwitch d 1 d.time.tb1,
                                   tb2 := loseSwitch d 2 d.time.tb2, tb3 := loseSwitch d 3 d.time.tb3 },
             free := d.free + 4 }
  else d

/-- A switch completes (R439, R441, R443); `stopped` says that the old source had stopped, whose lost interval the bases do
not count. -/
def Dev.switchComplete (d : Dev) (stopped : Bool) : Dev :=
  match d.clk.switch with
  | none => d
  | some synth =>
    let d := (d.set CLK_STAT_SWBUSY 0 |>.setB CLK_STAT_SRC synth).setClk (fun c => { c with switch := none })
    let d := if stopped then d.set CLK_EVT_FORCED 1 |>.event 8 .device 0 else d.switchLoss
    if synth then
      let d := if d.is CLK_STAT_CLKDEG then d.set CLK_EVT_RETURN 1 else d
      (d.set CLK_STAT_CLKDEG 0).setClk (fun c => { c with everSynth := true, frozen := false })
    else d

/-- A failover (R442, R444): the root, or a switch to the synthesiser in progress, has a cause present. `monitor` says that
the root period monitor found the root more than 3 % away. -/
def Dev.failover (d : Dev) (monitor : Bool) : Dev :=
  let cause := !d.is CLK_STAT_REFOK || !d.is CLK_STAT_MDLLRDY || monitor
  let onSynth := (d.is CLK_STAT_SRC && d.clk.switch != some false) || d.clk.switch == some true
  if cause ∧ onSynth then
    let d := d.set CLK_EVT_FAILOVER 1 |>.event 9 .device 0
    (d.setClk (fun c => { c with frozen := true, everSynth := c.everSynth || d.is CLK_STAT_SRC })).startSwitch false
  else d

/-- The automatic return (R443): RETQUAL ms of REFOK and MDLLRDY; time passes until then. -/
def Dev.autoReturn (d : Dev) : Dev :=
  match d.clk.retSince with
  | some t =>
    if d.is CLK_CTRL_AUTORET ∧ d.is CLK_STAT_CLKDEG ∧ d.clk.switch = none ∧ d.is CLK_STAT_SRC = false then
      (d.elapse (t + ms (max (d.get CLK_RETQ_RETQUAL) 1) - d.time.cio)).startSwitch true
    else d
  | none => d

/-! ### Trim -/

/-- A trim window of 1 ms of TB2 ends with an error in 0.01 ppm; time passes until then (R435). No window ends before TB2
counts. DEDUCED, log entry 48. -/
def Dev.trimWindow (d : Dev) (err : Int) : Dev :=
  if d.is CLK_CTRL_TRIMEN = false ∨ d.is CLK_STAT_REFOK = false ∨ d.clk.frozen ∨ d.time.on = false then d
  else
    let d := d.elapse (ms 1 - d.time.up % ms 1)
    let d := d.setSat CLK_CIOERR_ERR err
      |>.set CLK_TRIM_TRIM (clampInt 0 0xFFFFFF ((d.get CLK_TRIM_TRIM : Int) - err)).toNat
    if 200 < err.natAbs then
      let d := d.setClk (fun c => { c with trimRun := 0 })
      if d.is CLK_STAT_TRIMOK then d.set CLK_STAT_TRIMOK 0 |>.set CLK_EVT_TRIMERR 1 else d
    else if err.natAbs ≤ 100 then
      let d := d.setClk (fun c => { c with trimRun := min (c.trimRun + 1) 4 })
      if 4 ≤ d.clk.trimRun then d.set CLK_STAT_TRIMOK 1 else d
    else d.setClk (fun c => { c with trimRun := 0 })

/-- MRAM after the trim word is stored: every 60 s and at each failover, while TRIMOK = 1 (R436). DEDUCED, log entry 48. -/
def trimStored (nv : Nonvol) (d : Dev) : Nonvol :=
  if d.is CLK_STAT_TRIMOK then
    { nv with mram := { nv.mram with trim := some (BitVec.ofNat 24 (d.get CLK_TRIM_TRIM)) } }
  else nv

/-! ### Dividers, CLKOUT -/

/-- Whether every divider holds its reset value (R445). -/
def Dev.divsAtReset (d : Dev) : Bool := d.word CLK_DIV == resetWord CLK_DIV

/-- A write of CLK_DIV (R445). -/
def Dev.clkDiv (d : Dev) (v : Word) : Dev :=
  let p := CLK_DIV_PDIV.of v
  let f := CLK_DIV_FDIV.of v
  let s := CLK_DIV_SDIV.of v
  let a := CLK_DIV_ADIV.of v
  let inRange := 16 ≤ p && p ≤ 64 && 4 ≤ f && f ≤ 16 && 3 ≤ s && s ≤ 16 && 2 ≤ a && a ≤ 16
  if inRange ∧ d.running = false ∧ (d.role = .solo ∨ d.role = .witness) ∧ d.is CLK_STAT_SWBUSY = false then
    d.set CLK_DIV_PDIV p |>.set CLK_DIV_FDIV f |>.set CLK_DIV_SDIV s |>.set CLK_DIV_ADIV a
  else d.set CLK_EVT_CFGREF 1

/-- A CLKOUT source's frequency in kHz, with the dividers in force (R429, R445, R446, R112 for the word clock). -/
def Dev.clkoutSource (d : Dev) (src : Nat) : Nat :=
  match src with
  | 0 => match d.get CLK_MDLL_REFSEL with
    | 1 => 10000 | 2 => 100000 | _ => 25000
  | 1 | 2 => 2000000
  | 3 => 2000000 / d.get CLK_DIV_ADIV
  | 4 => 2000000 / d.get CLK_DIV_SDIV
  | 5 => 2000000 / d.get CLK_DIV_FDIV
  | 6 => 2000000 / d.get CLK_DIV_PDIV
  | _ => 312500

/-- CLKOUT carries its source divided by n = DIV + 1, high for n/2 source periods, of an odd n for (n + 1)/2; low while EN = 0 or in BOOT
(R446, R459). -/
def Dev.clkoutDrive (d : Dev) : Dev :=
  if d.dstate = .boot then d
  else if d.is CLK_OUT_EN then
    let n := d.get CLK_OUT_DIV + 1
    d.emit (.clock .clkOut (d.get CLK_OUT_SRC) n ((n + 1) / 2))
  else d.emit (.pin .clkOut .low)

/-- A write of CLK_OUT (R446). -/
def Dev.clkOut (d : Dev) (v : Word) : Dev :=
  if CLK_OUT_EN.of v ≠ 0 ∧ 250000 * (CLK_OUT_DIV.of v + 1) < d.clkoutSource (CLK_OUT_SRC.of v) then
    d.set CLK_EVT_OUTREF 1
  else
    let d := d.set CLK_OUT_EN (CLK_OUT_EN.of v) |>.set CLK_OUT_SRC (CLK_OUT_SRC.of v) |>.set CLK_OUT_DIV (CLK_OUT_DIV.of v)
    d.clkoutDrive

/-- A write of CLK_MDLL while MDLLEN = 1 is discarded (R430); the lock of R373 is the bus's. -/
def Dev.clkMdll (d : Dev) (v : Word) : Dev :=
  if d.is CLK_CTRL_MDLLEN then d.set CLK_EVT_CFGREF 1
  else d.set CLK_MDLL_SEED (CLK_MDLL_SEED.of v) |>.set CLK_MDLL_LOCKWIN (CLK_MDLL_LOCKWIN.of v)
    |>.set CLK_MDLL_DITHEN (CLK_MDLL_DITHEN.of v) |>.set CLK_MDLL_REFSEL (CLK_MDLL_REFSEL.of v)

/-! ### Gates -/

/-- Whether a recorder instance is in use (R447). -/
def Dev.recInUse (d : Dev) (n : Nat) : Bool := d.get (REC_STAT_STATE n) != 0 || d.is (REC_STAT_RDBUSY n)

/-- Whether a pair is in IDLE, RUN or FAULT (R447). -/
def Dev.pairInUse (d : Dev) (n : Nat) : Bool := let s := d.get (SVC_PSTAT_STATE n); s == 2 || s == 3 || s == 4

/-- A mask of the indexes below n that a test takes. -/
def maskWhere (n : Nat) (f : Nat → Bool) : Nat := ((List.range n).filter f).foldl (fun m i => m ||| 2 ^ i) 0

/-- Whether the DDR gate's block is in use (R447): a recorder not IDLE or a spill entry, with DDR4 up. -/
def Dev.ddrInUse (d : Dev) : Bool :=
  d.is MEM_STAT_DDRUP && ((List.range 4).any d.recInUse || d.svc.ready.any (·.spilled) || d.svc.delays.any (·.item.spilled))

/-- CLK_GUSE0 (R447). -/
def Dev.gateUse0 (d : Dev) : Nat :=
  let arms := maskWhere 12 (fun a => !(d.armCells a).isEmpty)
  let recs := maskWhere 4 d.recInUse
  arms + recs * 2 ^ 12 + maskWhere 4 d.pairInUse * 2 ^ 16 + (if recs = 0 then 0 else 2 ^ 20)
    + (if d.ddrInUse then 2 ^ 21 else 0) + (if arms = 0 then 0 else 2 ^ 22)

/-- CLK_GUSE1 (R447). -/
def Dev.gateUse1 (d : Dev) : Nat :=
  maskWhere 25 (fun g => (groupLanes g).any (fun n => d.is (LANE_CTRL_EN n)))
    + (if d.is (ADC_SCTL_EN 0) ∨ d.is (ADC_SCTL_EN 1) then 2 ^ 25 else 0)

/-- The parent of bit i of CLK_GATE0, if it has one (R447): ARMa under ARMS, RECn under RECS, RECS under DDR. DEDUCED, log entry
50. -/
def gateParent (i : Nat) : Option Nat :=
  if i < 12 then some 22 else if i < 16 then some 20 else if i = 20 then some 21 else none

/-- The gates whose blocks stop when bit i of CLK_GATE0 closes: itself and its descendants. -/
def gateTree (i : Nat) : List Nat :=
  if i = 22 then List.range 12 ++ [22]
  else if i = 20 then [12, 13, 14, 15, 20]
  else if i = 21 then [12, 13, 14, 15, 20, 21]
  else [i]

/-- Whether a write of CLK_GATE0 is refused (R448). -/
def Dev.gate0Refused (d : Dev) (new : Nat) : Bool :=
  let old := (d.word CLK_GATE0).toNat
  let use := d.gateUse0
  (List.range 23).any fun i =>
    (old.testBit i && !new.testBit i && (gateTree i).any use.testBit) ||
      (!old.testBit i && new.testBit i && (match gateParent i with | some p => !new.testBit p | none => false))

/-- Whether a write of CLK_GATE1 is refused (R448). -/
def Dev.gate1Refused (d : Dev) (new : Nat) : Bool :=
  let old := (d.word CLK_GATE1).toNat
  (List.range 26).any fun i => old.testBit i && !new.testBit i && d.gateUse1.testBit i

/-- A write of CLK_GATE0 or CLK_GATE1 (R448). -/
def Dev.clkGate (d : Dev) (one : Bool) (v : Word) : Dev :=
  let new := v.toNat % 2 ^ (if one then 26 else 23)
  if (if one then d.gate1Refused new else d.gate0Refused new) then d.set CLK_EVT_GATEREF 1
  else d.setWord (if one then CLK_GATE1 else CLK_GATE0) (dw new)

/-- Whether a bit of CLK_GATE0 and its parents are open. -/
def Dev.gateOpen0 (d : Dev) (i : Nat) : Bool :=
  let g := (d.word CLK_GATE0).toNat
  let up := fun i => match gateParent i with | some p => g.testBit p | none => true
  g.testBit i && up i && (match gateParent i with | some p => up p | none => true)

/-- A write of CLK_LSEN (R451): never refused. -/
def Dev.clkLsen (d : Dev) (v : Word) : Dev := d.setWord CLK_LSEN (dw (v.toNat % 16))

/-- The cast-iron oscillator, which counts from the release of PORST_N, becomes READY 2 µs after it; time passes until then (R438). -/
def Dev.castReady (d : Dev) : Dev := (d.elapse (2000 - d.time.cio)).set CLK_STAT_CIORDY 1

/-- 60 s have passed since the trim word was last stored on time, while TRIMOK = 1; time passes until then (R436). -/
def Dev.trimDue (d : Dev) : Dev :=
  if d.is CLK_STAT_TRIMOK then
    let d := d.elapse (d.clk.storeAt + ms 60000 - d.time.cio)
    d.setClk (fun c => { c with storeAt := d.time.cio })
  else d

end Sys2Proof.Machine
end

