-- ==== Sys2Proof/Machine/Svc.lean ====
section
/-! DEFINITION. The hardware scheduler and the service core pairs (R391 to R412): enqueue, dispatch with affinity, delay lists
and spill, event bindings, semaphores, pair resets, idle depths. -/

namespace Sys2Proof.Machine

open Sys2Proof

/-- Codes of SVC_PSTAT.STATE. RUN is a pair that is awake, with an item in service or without; IDLE one in an idle depth. -/
def pRESET : Nat := 0
def pHALTED : Nat := 1
def pIDLE : Nat := 2
def pRUN : Nat := 3
def pFAULT : Nat := 4

/-- A pair without item and with cleared local memory. -/
def PairState.init : PairState := ⟨none, 0, none, false, false, []⟩

/-- The scheduler after a reset. -/
def SvcState.init : SvcState := ⟨[], [], 0, 1000, [.init, .init, .init, .init], [], [], []⟩

/-- Changes the scheduler's state beside its registers. -/
def Dev.setSvc (d : Dev) (f : SvcState → SvcState) : Dev := { d with svc := f d.svc }

/-- A pair's state. -/
def Dev.pair (d : Dev) (n : Nat) : PairState := nth d.svc.pairs n .init

/-- Changes a pair's state. -/
def Dev.setPair (d : Dev) (n : Nat) (f : PairState → PairState) : Dev :=
  d.setSvc (fun s => { s with pairs := putAt s.pairs n .init (f (d.pair n)) })

/-- The pairs. -/
def allPairs : List Nat := [0, 1, 2, 3]

/-! ### Flows -/

/-- Whether pair n may run flow f (R399). -/
def Dev.mayRun (d : Dev) (n f : Nat) : Bool := (decide (f < 128) == decide (n < 2)) && d.bit (SVC_FCFG_PAIRS f) (n % 2)

/-- Whether a flow's items are dispatched in the unit's role (R411). -/
def Dev.flowActs (d : Dev) (f : Nat) : Bool := !d.is (SVC_FCFG_MIRROR f) || d.role == .solo || d.role == .active

/-- The item with the lowest sequence number of a list. -/
def firstSeq (l : List WorkItem) : Option WorkItem :=
  l.foldl (fun b x => match b with | some y => if x.seq < y.seq then some x else b | none => some x) none

/-- The head item of a flow: its lowest sequence number, if that item is on chip (R400, R405). -/
def Dev.headOf (d : Dev) (f : Nat) : Option WorkItem :=
  match firstSeq (d.svc.ready.filter (fun x => x.flow == f)) with
  | some x => if x.spilled then none else some x
  | none => none

/-- The flows that have ready items, each once. -/
def Dev.readyFlows (d : Dev) : List Nat := (d.svc.ready.map (·.flow)).eraseDups

/-! ### Dispatch -/

/-- How long an item has waited, in ns. -/
def Dev.waited (d : Dev) (x : WorkItem) : Nat := d.time.up - x.since

/-- The longer waiting of two items, the lower sequence number on a tie. -/
def older (x y : WorkItem) : Bool := if x.since ≠ y.since then x.since < y.since else x.seq < y.seq

/-- The oldest item of a list (R402). -/
def oldest (l : List WorkItem) : Option WorkItem :=
  l.foldl (fun b x => match b with | some y => if older x y then some x else b | none => some x) none

/-- steal_ok of R402. -/
def Dev.stealOk (d : Dev) (n : Nat) (x : WorkItem) : Bool :=
  let o := if n % 2 = 0 then n + 1 else n - 1
  !(d.get (SVC_FSTAT_LAST x.flow) == o && (d.pair o).item.isSome && d.waited x < 10 * d.get SVC_AFF_AFFSTEAL)

/-- The head items of one priority that pair n may take (R402). -/
def Dev.headsAt (d : Dev) (n prio : Nat) : List WorkItem :=
  let fs := d.readyFlows.filter (fun f => d.is (SVC_FCFG_EN f) && d.get (SVC_FCFG_PRIO f) == prio && d.mayRun n f &&
    !d.is (SVC_FSTAT_INSVC f) && d.flowActs f)
  fs.filterMap d.headOf

/-- The choice of R402 from a priority on; `left` is how many priorities are left. -/
def Dev.choose (d : Dev) (n prio left : Nat) : Option WorkItem :=
  match left with
  | 0 => none
  | left + 1 =>
    let h := d.headsAt n prio
    if h = [] then d.choose n (prio + 1) left
    else match oldest (h.filter (fun x => d.get (SVC_FSTAT_LAST x.flow) == n)) with
      | some x => some x
      | none => oldest (h.filter (d.stealOk n))

/-- The bytes of an item as the scheduler hands it over (R397, R403). -/
def WorkItem.bytes (x : WorkItem) : List Byte :=
  [BitVec.ofNat 8 x.flow, BitVec.ofNat 8 (x.kind + (if x.late then 8 else 0)), BitVec.ofNat 8 x.origin, 0]
    ++ leBytes 4 x.seq ++ x.payload

/-- Writes bytes into a local memory kept as cells that are not 0, addresses rising. -/
def putBytes (m : List (Nat × Byte)) (addr : Nat) (b : List Byte) : List (Nat × Byte) :=
  let n := b.length
  let new := (b.zipIdx.map (fun (x, i) => (addr + i, x))).filter (fun c => c.2 ≠ 0)
  (m.filter (fun c => decide (c.1 < addr))) ++ new ++ (m.filter (fun c => decide (addr + n ≤ c.1)))

/-- Dispatches an item to pair n (R402, R403). DESIGN CHOICE, log entry 43. -/
def Dev.dispatchTo (d : Dev) (n : Nat) (x : WorkItem) : Dev :=
  (d.setSvc (fun s => { s with ready := s.ready.erase x })).setPair n
      (fun p => { p with item := some x, since := d.time.up, cut := false, lmem := putBytes p.lmem 0x3FFE0 x.bytes })
    |>.set (SVC_PSTAT_STATE n) pRUN |>.set (SVC_PSTAT_DEPTH n) 0 |>.set (SVC_PSTAT_FLOW n) x.flow
    |>.set (SVC_PSEQ_SEQ n) x.seq |>.set (SVC_FSTAT_INSVC x.flow) 1 |>.set (SVC_FSTAT_LAST x.flow) n
    |>.emit (.pair n 0 (dw x.seq))

/-- Whether a pair is free to take an item: awake or in an idle depth, no item in service, not halted. -/
def Dev.pairFree (d : Dev) (n : Nat) : Bool :=
  (d.get (SVC_PSTAT_STATE n) == pIDLE || d.get (SVC_PSTAT_STATE n) == pRUN) && (d.pair n).item.isNone &&
    !d.is (SVC_PCTL_HALT n)

/-- The scheduler chooses for every free pair, the lower-numbered first (R402). -/
def Dev.dispatch (d : Dev) : Dev :=
  d.each allPairs fun n d =>
    if d.pairFree n then
      match d.choose n 0 8 with
      | some x => d.dispatchTo n x
      | none => d
    else d

/-! ### Space -/

/-- Spill places of a kind: half of the region at a size per entry, 0 without DDR4 (R405). -/
def Dev.spillPlaces (d : Dev) (size : Nat) : Nat :=
  if d.get TOP_CAP1_DDRSZ = 0 then 0 else d.get SVC_SPILLSZ_SIZE * 2048 / size

/-- Ready items on chip and spilled. -/
def SvcState.readyOn (s : SvcState) : Nat := (s.ready.filter (fun x => !x.spilled)).length
def SvcState.readySp (s : SvcState) : Nat := (s.ready.filter (·.spilled)).length

/-- Delay entries on chip and spilled. -/
def SvcState.delayOn (s : SvcState) : Nat := (s.delays.filter (fun x => !x.item.spilled)).length
def SvcState.delaySp (s : SvcState) : Nat := (s.delays.filter (·.item.spilled)).length

/-- Whether an item of flow f would spill on arrival (R405). -/
def Dev.wouldSpill (d : Dev) (f : Nat) : Bool :=
  let p := d.get (SVC_FCFG_PRIO f)
  1024 ≤ d.svc.readyOn || d.svc.ready.any (fun x => x.spilled && d.get (SVC_FCFG_PRIO x.flow) == p)

/-- FULL (R398). -/
def Dev.svcFull (d : Dev) : Dev := d.raise SVC_EVT_EVT 0 |>.count SVC_CNT_FULL 1

/-- Whether a ready item of flow f has a place. -/
def Dev.readyRoom (d : Dev) (f : Nat) : Bool := !d.wouldSpill f || d.svc.readySp < d.spillPlaces 32

/-- Puts an item into the ready list, on chip or spilled, or refuses it with FULL (R405). -/
def Dev.pushReady (d : Dev) (x : WorkItem) : Dev :=
  if d.readyRoom x.flow then
    let x := { x with since := d.time.up, spilled := d.wouldSpill x.flow }
    d.setSvc (fun s => { s with ready := s.ready ++ [x] })
  else d.svcFull

/-- The entries of a full on-chip store that a new entry takes to the spill region: those that expire later (R404). -/
def spillLater (l : List DelayEntry) (expiry : Nat) : List DelayEntry :=
  l.map (fun x => if expiry < x.expiry then { x with item := { x.item with spilled := true } } else x)

/-- Insertion in order of expiry, then sequence number (R404). -/
def insertDelay (x : DelayEntry) : List DelayEntry → List DelayEntry
  | [] => [x]
  | y :: ys =>
    if x.expiry < y.expiry ∨ (x.expiry = y.expiry ∧ x.item.seq < y.item.seq) then x :: y :: ys
    else y :: insertDelay x ys

/-- Puts a delay entry into the store, or nothing if it has no place (R404, R405). -/
def Dev.pushDelay (d : Dev) (x : DelayEntry) : Option Dev :=
  if d.svc.delayOn < 4096 then some (d.setSvc (fun s => { s with delays := insertDelay x s.delays }))
  else
    let l := insertDelay { x with item := { x.item with spilled := true } } (spillLater d.svc.delays x.expiry)
    if (l.filter (·.item.spilled)).length ≤ d.spillPlaces 64 then some (d.setSvc (fun s => { s with delays := l })) else none

/-- The first handle not in use from a start, below a bound on the search. DESIGN CHOICE, log entry 42. -/
def freeHandle (used : List Nat) (start left : Nat) : Nat :=
  match left with
  | 0 => start % 65536
  | left + 1 => if used.contains (start % 65536) then freeHandle used (start + 1) left else start % 65536

/-- The instant of the d-th tick boundary after now (R404). -/
def Dev.tickAfter (d : Dev) (n : Nat) : Nat := (d.time.up / d.svc.tick + n) * d.svc.tick

/-! ### Enqueue -/

/-- An origin's copy of the enqueue words. -/
def Dev.enqCopy (d : Dev) (o : Origin) : EnqCopy :=
  (d.svc.enq.find? (fun c => c.origin == o)).getD ⟨o, List.replicate 8 0, 0, 0⟩

/-- Writes an origin's copy. -/
def Dev.setEnq (d : Dev) (o : Origin) (f : EnqCopy → EnqCopy) : Dev :=
  d.setSvc (fun s => { s with enq := f (d.enqCopy o) :: s.enq.filter (fun c => c.origin != o) })

/-- The bytes of little-endian words. -/
def wordBytes (l : List Word) : List Byte := l.flatMap (fun w => leBytes 4 w.toNat)

/-- Whether an origin may enqueue to a flow (R398). -/
def enqAllowed (o : Origin) (f : Nat) : Bool :=
  match o with
  | .svc n => n.val < 2 || 128 ≤ f
  | .pcie | .uart => 128 ≤ f
  | .device => true
  | _ => false

/-- A new item of a flow with the next sequence number. -/
def Dev.newItem (d : Dev) (f kind origin : Nat) (payload : List Byte) (bind : Option Nat) : WorkItem :=
  ⟨f, kind, false, origin, d.svc.nextSeq, payload, d.time.up, bind, false⟩

/-- Takes the next sequence number; an item and SVC_PSEQ show its low 32 bits (R397). -/
def Dev.takeSeq (d : Dev) : Dev := d.setSvc (fun s => { s with nextSeq := s.nextSeq + 1 })

/-- The result word of an enqueue. -/
def Dev.enqResult (d : Dev) (o : Origin) (status handle : Nat) : Dev :=
  d.setEnq o (fun c => { c with res := dw (status * 2 ^ 28 + handle) })

/-- The status that refuses an item of flow f from an origin, or none (R398). DESIGN CHOICE, log entry 42. -/
def Dev.enqRefusal (d : Dev) (o : Origin) (f : Nat) : Option Nat :=
  if d.is (SVC_FCFG_EN f) = false then some 1
  else if enqAllowed o f = false then some 2
  else if d.is (SVC_FCFG_MIRROR f) ∧ (d.role = .standby ∨ d.role = .syncing) then some 4
  else none

/-- Commits an item with a delay: the device after it and its handle, or none for FULL (R398, R404). -/
def Dev.commitItem (d : Dev) (x : WorkItem) (delay : Nat) : Option (Dev × Nat) :=
  if delay = 0 then
    if d.readyRoom x.flow then some ((d.pushReady x).takeSeq, 0) else none
  else
    let h := freeHandle (d.svc.delays.map (·.handle)) (Config.handleStart d.free) 65536
    match d.pushDelay ⟨{ x with kind := if x.kind = 0 then 1 else x.kind }, d.tickAfter delay, h⟩ with
    | some d => some (d.takeSeq.draw, h)
    | none => none

/-- A write of SVC_ENQCMD (R398). -/
def Dev.enqueue (d : Dev) (o : Origin) (delay : Nat) : Dev :=
  let b := wordBytes (d.enqCopy o).words
  let f := leAt b 0 1
  match d.enqRefusal o f with
  | some s => d.enqResult o s 0
  | none =>
    match d.commitItem (d.newItem f 0 o.code (b.drop 8) none) delay with
    | some (d, h) => (d.enqResult o 0 h).dispatch
    | none => d.svcFull.enqResult o 3 0

/-- A write of SVC_CANCEL (R406). -/
def Dev.cancel (d : Dev) (o : Origin) (h : Nat) : Dev :=
  if d.svc.delays.any (fun x => x.handle == h) then
    (d.setSvc (fun s => { s with delays := s.delays.filter (fun x => x.handle != h) })).setEnq o (fun c => { c with canres := 0 })
  else d.setEnq o (fun c => { c with canres := 1 })

/-! ### Tick boundaries and refills -/

/-- Releases one delay entry into its ready list; one that was still spilled, or was held by a stall, is late (R404, R483). -/
def Dev.release (d : Dev) (held : Bool) (x : DelayEntry) : Dev :=
  let late := x.item.spilled || held
  let d := if late then d.raise SVC_EVT_EVT 1 |>.count SVC_CNT_LATE 1 else d
  d.pushReady { x.item with late := late, spilled := false }

/-- Whether DIAG_PDLY holds an entry back (R483). -/
def Dev.stalled (d : Dev) (x : DelayEntry) : Bool := d.perturbed .dly && x.item.flow == d.get DIAG_PDLY_FLOW

/-- The stall of a flow has ended: its entries whose expiry has passed are released at once, in order of expiry, late (R483). -/
def Dev.unstall (d : Dev) (flow : Nat) : Dev :=
  let due := d.svc.delays.filter (fun x => decide (x.expiry ≤ d.time.up) && x.item.flow == flow)
  if due = [] then d
  else
    let d := d.setSvc (fun s => { s with delays := s.delays.filter (fun x => decide (d.time.up < x.expiry) || x.item.flow != flow) })
    (d.each due fun x d => d.release true x).dispatch

/-- Rounds an instant up to a grid. -/
def roundUp (n grid : Nat) : Nat := if grid = 0 then n else (n + grid - 1) / grid * grid

/-- A change of TICK takes effect: entries keep their expiry, rounded up to the new grid. -/
def Dev.newTick (d : Dev) : Dev :=
  let t := max (d.get SVC_CFG_TICK) 1
  if t = d.svc.tick then d
  else d.setSvc (fun s => { s with tick := t, delays := s.delays.map (fun x => { x with expiry := roundUp x.expiry t }) })

/-- A tick boundary: time passes to the next one, due entries are released in order, the scheduler chooses (R402, R404). -/
def Dev.tickBoundary (d : Dev) : Dev :=
  let d := d.elapse (d.tickAfter 1 - d.time.up)
  let due := d.svc.delays.filter (fun x => decide (x.expiry ≤ d.time.up) && !d.stalled x)
  let d := d.setSvc (fun s => { s with delays := s.delays.filter (fun x => decide (d.time.up < x.expiry) || d.stalled x) })
  let d := d.each due fun x d => d.release false x
  d.newTick.dispatch

/-- Brings spilled ready items back on chip, the oldest first, while fewer than 896 are there; n bounds the work (R405). -/
def refillReady (n : Nat) (l : List WorkItem) : List WorkItem :=
  match n with
  | 0 => l
  | n + 1 =>
    if (l.filter (fun x => !x.spilled)).length < 896 then
      match firstSeq (l.filter (·.spilled)) with
      | some x => refillReady n (l.map (fun y => if y.seq = x.seq then { y with spilled := false } else y))
      | none => l
    else l

/-- Brings spilled delay entries back on chip, the earliest first, while fewer than 3,584 are there (R404): of a list in order
of expiry, with the places left. -/
def refillDelays (left : Nat) : List DelayEntry → List DelayEntry
  | [] => []
  | x :: xs =>
    if x.item.spilled then
      match left with
      | 0 => x :: refillDelays 0 xs
      | left + 1 => { x with item := { x.item with spilled := false } } :: refillDelays left xs
    else x :: refillDelays left xs

/-- An uncorrectable DDR4 error in the spill region: the spilled item or entry with a sequence number is lost, SPILLERR sets (R405). No
register counts it. -/
def Dev.spillLost (d : Dev) (seq : Nat) : Dev :=
  (d.setSvc (fun s => { s with ready := s.ready.filter (fun x => !x.spilled || x.seq != seq),
                               delays := s.delays.filter (fun x => !x.item.spilled || x.item.seq != seq) })).raise SVC_EVT_EVT 3

/-- DDR4 errors that the read of spilled places meets: per error the sequence number kept there, the address, the kind (R405, R419). -/
def Dev.spillErrors (d : Dev) (errs : List (Nat × Nat × DdrFault)) : Dev :=
  d.each errs fun e d => let d := d.ddrFault e.2.2 0x7F e.2.1; if e.2.2 = .ce then d else d.spillLost e.1

/-- A refill of both stores (R404, R405). DESIGN CHOICE, log entry 42. -/
def Dev.spillRefill (d : Dev) (errs : List (Nat × Nat × DdrFault)) : Dev :=
  let d := d.spillErrors errs
  (d.setSvc (fun s => { s with ready := refillReady s.readySp s.ready,
                               delays := refillDelays (3584 - s.delayOn) s.delays })).dispatch

/-- The oldest head item that a free pair is kept from by steal_ok (R402). -/
def Dev.heldBack (d : Dev) (n : Nat) : Option WorkItem :=
  if d.pairFree n ∧ d.choose n 0 8 = none then
    match (List.range 8).find? (fun p => !(d.headsAt n p).isEmpty) with
    | some p => oldest (d.headsAt n p)
    | none => none
  else none

/-- The instant the oldest held-back head item reaches AFFSTEAL; time passes until then and the scheduler chooses again (R402). -/
def Dev.affSteal (d : Dev) : Dev :=
  match (allPairs.filterMap d.heldBack).map (fun x => x.since + 10 * d.get SVC_AFF_AFFSTEAL) with
  | [] => d
  | t :: ts => (d.elapse (ts.foldl min t - d.time.up)).dispatch

/-! ### Event bindings -/

/-- The payload of an event item (R401): cycle number, source argument, a count of 1. -/
def eventPayload (cyc : Word) (arg : Nat) : List Byte :=
  leBytes 4 cyc.toNat ++ leBytes 4 arg ++ leBytes 2 1 ++ List.replicate 14 0

/-- Counts one more firing in a queued event item. -/
def countFiring (x : WorkItem) : WorkItem :=
  { x with payload := x.payload.take 8 ++ leBytes 2 (min (leAt x.payload 8 2 + 1) 65535) ++ x.payload.drop 10 }

/-- Binding i fires at a cycle number (R401). -/
def Dev.bindingFire (d : Dev) (i : Nat) (cyc : Word) : Dev :=
  let src := d.get (SVC_BIND_SRC i)
  let f := d.get (SVC_BIND_FLOW i)
  if d.is (SVC_BIND_EN i) = false ∨ src = 0 ∨ 5 < src then d
  else if d.svc.ready.any (fun x => x.bind == some i) then
    d.setSvc (fun s => { s with ready := s.ready.map (fun x => if x.bind = some i then countFiring x else x) })
  else if d.enqRefusal .device f ≠ none then d
  else
    match d.commitItem (d.newItem f 2 0 (eventPayload cyc (d.get (SVC_BIND_ARG i))) (some i)) 0 with
    | some (d, _) => d.dispatch
    | none => d.svcFull

/-! ### Semaphores -/

/-- Frees a semaphore, poisoned or as it is; a poisoning that waits for the release takes place (R408, R409, R412). -/
def Dev.semFree (d : Dev) (i : Nat) (poison : Bool) : Dev :=
  let p := poison || d.svc.poison.contains i
  let d := d.set (SVC_SEMST_HELD i) 0 |>.set (SVC_SEMST_FLOW i) 0 |>.set (SVC_SEMST_ORIGIN i) 0
  let d := if p then d.set (SVC_SEMST_POISONED i) 1 else d
  d.setSvc (fun s => { s with poison := s.poison.filter (fun j => j != i) })

/-- Whether an origin owns a semaphore. -/
def Dev.semOwned (d : Dev) (o : Origin) (i : Nat) : Bool := d.is (SVC_SEMST_HELD i) && d.get (SVC_SEMST_ORIGIN i) == o.code

/-- The flow of the item a pair has in service, 0xFF for none or for an origin that is no pair (R407). -/
def Dev.flowOf (d : Dev) (o : Origin) : Nat :=
  match o with
  | .svc n => match (d.pair n.val).item with | some x => x.flow | none => 0xFF
  | _ => 0xFF

/-- ACQ (R407). -/
def Dev.semAcq (d : Dev) (o : Origin) (i : Nat) : Dev :=
  if d.is (SVC_SEMST_HELD i) then d
  else d.set (SVC_SEMST_HELD i) 1 |>.set (SVC_SEMST_ORIGIN i) o.code |>.set (SVC_SEMST_FLOW i) (d.flowOf o)

/-- REL (R408). -/
def Dev.semRel (d : Dev) (o : Origin) (i : Nat) : Dev :=
  if d.semOwned o i then d.semFree i false else d.raise SVC_EVT_EVT 2

/-- CLRPOIS (R408). -/
def Dev.semClrpois (d : Dev) (o : Origin) (i : Nat) : Dev :=
  if d.semOwned o i then d.set (SVC_SEMST_POISONED i) 0 else d.raise SVC_EVT_EVT 2

/-- Releases every semaphore of an owner with POISONED set (R409). -/
def Dev.semPoison (d : Dev) (o : Origin) : Dev :=
  d.each ((List.range 64).filter (d.semOwned o)) fun i d => d.semFree i true

/-! ### Pairs -/

/-- The device itself or a service core pair. -/
def Origin.isPair (o : Origin) : Bool :=
  match o with
  | .device | .svc _ => true
  | _ => false

/-- The origin of a pair. -/
def pairOrigin (n : Nat) : Origin := .svc ⟨n % 4, Nat.mod_lt n (by decide)⟩

/-- The item of a pair is no longer in service (R395, R400). -/
def Dev.endItem (d : Dev) (n : Nat) : Dev :=
  match (d.pair n).item with
  | none => d
  | some x =>
    (d.setPair n (fun p => { p with item := none })).set (SVC_FSTAT_INSVC x.flow) 0 |>.set (SVC_PSTAT_FLOW n) 0xFF
      |>.set (SVC_PSEQ_SEQ n) 0

/-- A write of 1 to SVC_DONE (R400). -/
def Dev.svcDone (d : Dev) (o : Origin) : Dev :=
  match o with
  | .svc n =>
    if (d.pair n.val).item.isNone then d
    else
      let d := d.endItem n.val |>.count (SVC_PCNT_ITEMS n.val) 1
      let d := if d.is (SVC_PCTL_HALT n.val) then d.set (SVC_PSTAT_STATE n.val) pHALTED else d
      d.dispatch
  | _ => d

/-- Whether a pair is kept from running: HALT once no item is in service, a debug halt, DEEP for pairs 1 to 3 (R402, R464, R490). -/
def Dev.pairKept (d : Dev) (n : Nat) : Bool :=
  (d.is (SVC_PCTL_HALT n) && (d.pair n).item.isNone) || d.diag.halted.testBit n || (d.rst.deep && n != 0)

/-- A pair that HALT, a debug halt or DEEP stopped runs on once none of them keeps it; one that a reset left HALTED does not
(R395). DESIGN CHOICE, log entry 43. -/
def Dev.pairResume (d : Dev) (n : Nat) : Dev :=
  if d.get (SVC_PSTAT_STATE n) = pHALTED ∧ d.pairKept n = false ∧ (d.pair n).down = false then
    (d.set (SVC_PSTAT_STATE n) pRUN).dispatch
  else d

/-- A pair starts from its verified image, or stays in RESET without one or behind a closed gate (R392, R453). -/
def Dev.pairStart (d : Dev) (n : Nat) : Dev :=
  let d := d.setPair n (fun p => { p with restartAt := none, down := false })
  if d.is (SVC_PSTAT_IMAGE n) ∧ d.gateOpen0 (16 + n) then
    d.set (SVC_PSTAT_STATE n) (if d.pairKept n then pHALTED else pRUN) |>.set (SVC_PSTAT_DEPTH n) 0
      |>.raise (SVC_PEVT_PEVT n) 4 |>.emit (.pair n 2 0) |>.dispatch
  else d.set (SVC_PSTAT_STATE n) pRESET

/-- The scheduler's actions when a pair is reset (R395); `why` is the flag of SVC_PEVT. DESIGN CHOICE, DEDUCED, log entries 43,
53. -/
def Dev.pairReset (d : Dev) (n why : Nat) : Dev :=
  let had := (d.pair n).item.isSome
  let d := d.endItem n |>.semPoison (pairOrigin n) |>.raise (SVC_PEVT_PEVT n) why |>.set (SVC_PSTAT_DEPTH n) 0
  let auto := d.is (SVC_PCTL_AUTORST n)
  (d.setPair n (fun p => { p with lmem := [], restartAt := if auto then some (d.time.up + 10000) else none, down := !auto, cut := had })).set
    (SVC_PSTAT_STATE n) (if auto then pRESET else pHALTED) |>.dispatch

/-- A DONE of the pair fell in the SCLK cycle of its reset: it completed the item first (R395). -/
def Dev.doneFirst (d : Dev) (o : Origin) : Dev :=
  match o with
  | .svc n => if (d.pair n.val).cut then (d.count (SVC_PCNT_ITEMS n.val) 1).setPair n.val (fun p => { p with cut := false }) else d
  | _ => d

/-- The restart 10 µs after a reset; time passes until then (R395). -/
def Dev.pairAutoRestart (d : Dev) (n : Nat) : Dev :=
  match (d.pair n).restartAt with
  | some t => (d.elapse (t - d.time.up)).pairStart n
  | none => d

/-- A write of 1 to SVC_PCTL.RESTART (R394, R395): reset and restart; a pair in FAULT stays there. -/
def Dev.pairRestart (d : Dev) (n : Nat) : Dev :=
  if d.get (SVC_PSTAT_STATE n) = pFAULT then d else (d.pairReset n 4).pairStart n

/-- A pair's write to its own SVC_PCTL.IRQ (R396); any other origin's is discarded. -/
def Dev.pairIrq (d : Dev) (o : Origin) (n : Nat) : Dev := if o = pairOrigin n then d.emit (.msix (8 + n)) else d

/-- A write of SVC_PCTL.HALT (R402): no dispatch; an item in service completes. -/
def Dev.pairHalt (d : Dev) (n : Nat) (h : Bool) : Dev :=
  let d := d.setB (SVC_PCTL_HALT n) h
  let st := d.get (SVC_PSTAT_STATE n)
  if h ∧ (d.pair n).item.isNone ∧ (st = pIDLE ∨ st = pRUN) then d.set (SVC_PSTAT_STATE n) pHALTED |>.set (SVC_PSTAT_DEPTH n) 0
  else if h then d
  else d.pairResume n

/-- Whether a pair's cores run: awake or in an idle depth. -/
def Dev.pairRuns (d : Dev) (n : Nat) : Bool := d.get (SVC_PSTAT_STATE n) == pRUN || d.get (SVC_PSTAT_STATE n) == pIDLE

/-- Watchdog expiry: MAXRUN µs in service; time passes until then (R394, R403). -/
def Dev.pairWatchdog (d : Dev) (n : Nat) : Dev :=
  let lim := d.get (SVC_MAXRUN_MAXRUN n) * 1000
  if lim = 0 ∨ (d.pair n).item.isNone ∨ d.diag.halted.testBit n ∨ d.get (SVC_PSTAT_STATE n) = pFAULT then d
  else
    let d := d.elapse ((d.pair n).since + lim - d.time.up)
    (d.count (SVC_PCNT_WDOG n) 1).pairReset n 2

/-! ### Idle depth -/

/-- Time in ns to the next firing of binding i of SRC = 1 (R401, R410): the next cycle whose number is a multiple of ARG + 1.
DESIGN CHOICE, log entry 42. -/
def Dev.nextFiring (d : Dev) (i : Nat) : Option Nat :=
  if d.is (SVC_BIND_EN i) ∧ d.get (SVC_BIND_SRC i) = 1 ∧ d.cyc.inCycle then
    let m := d.get (SVC_BIND_ARG i) + 1
    let k := m - d.cycle.toNat % m
    some (d.cyc.len0 - d.phaseNs + (k - 1) * d.cyc.len1)
  else none

/-- T_next of pair n in ns, or none (R410). -/
def Dev.tNext (d : Dev) (n : Nat) : Option Nat :=
  let ds := (d.svc.delays.filter (fun x => d.mayRun n x.item.flow)).map (fun x => x.expiry - d.time.up)
  let bs := ((List.range 16).filter (fun i => d.mayRun n (d.get (SVC_BIND_FLOW i)))).filterMap d.nextFiring
  match ds ++ bs with
  | [] => none
  | t :: ts => some (ts.foldl min t)

/-- SVC_PNEXT: T_next, saturating (R410). -/
def Dev.nextEv (d : Dev) (n : Nat) : Nat := match d.tNext n with | some t => min t 0xFFFFFFFF | none => 0xFFFFFFFF

/-- The deepest depth a pair may enter (R410). -/
def Dev.idleDepth (d : Dev) (n : Nat) : Nat :=
  let byTime := match d.tNext n with | some t => if 100000 ≤ t then 3 else if 4000 ≤ t then 2 else 1 | none => 3
  min byTime (max (d.get (SVC_PCTL_MAXDEPTH n)) 1)

/-- A pair with no item to run enters its idle depth (R410). DESIGN CHOICE, log entry 42. -/
def Dev.pairIdle (d : Dev) (n : Nat) : Dev :=
  if d.get (SVC_PSTAT_STATE n) = pRUN ∧ (d.pair n).item.isNone ∧ (d.pairFree n = false ∨ d.choose n 0 8 = none) then
    d.set (SVC_PSTAT_STATE n) pIDLE |>.set (SVC_PSTAT_DEPTH n) (d.idleDepth n)
  else d

/-- The wake time of a depth in ns (R410). -/
def wakeTime (depth : Nat) : Nat := if depth = 3 then 40000 else if depth = 2 then 2000 else 10

/-- A pair wakes at T_next minus its wake time and is in RUN at the event; time passes until then (R410). Without a known event nothing
wakes it here. -/
def Dev.pairWake (d : Dev) (n : Nat) : Dev :=
  match d.tNext n with
  | some t =>
    if d.get (SVC_PSTAT_STATE n) = pIDLE then
      let d := d.elapse (t - wakeTime (d.get (SVC_PSTAT_DEPTH n)))
      d.set (SVC_PSTAT_STATE n) pRUN |>.set (SVC_PSTAT_DEPTH n) 0 |>.emit (.pair n 3 0)
    else d
  | none => d

end Sys2Proof.Machine
end

