-- ==== Sys2Proof/Machine/Fault.lean ====
section
/-! DEFINITION. Role changes (R292, R294), device-state transitions (R460, R461), fatal faults (R293, R462), DEEP (R465). -/

namespace Sys2Proof.Machine

open Sys2Proof

/-- Changes the duplex block's state beside its registers. -/
def Dev.setDpx (d : Dev) (f : DpxState → DpxState) : Dev := { d with dpx := f d.dpx }

/-- READY, in DPX_STAT and DPX_HEALTH. -/
def Dev.setReady (d : Dev) (b : Bool) : Dev := d.setB DPX_STAT_READY b |>.setB DPX_HEALTH_READY b

/-- CASTDONE, in DPX_STAT and DPX_HEALTH. -/
def Dev.setCastDone (d : Dev) (b : Bool) : Dev := d.setB DPX_STAT_CASTDONE b |>.setB DPX_HEALTH_CASTDONE b

/-- A cast starts over (R325). DEDUCED, log entry 32. -/
def Dev.castRestart (d : Dev) : Dev :=
  ((d.setCastDone false).setReady false |>.set DPX_CASTSTAT_SEGDONE 0 |>.set DPX_CASTSTAT_SEGTOT 0).setDpx
    (fun x => { x with castIn := [], castHeld := [], castOut := [], castTotal := 0, castBusy := false, castAsk := 0, afterCast := 0, skipped := true })

/-- A role change (R292, R294): ROLECHG, the audit entry of kind 0x20; leaving ACTIVE or STANDBY drops every arm to BLOCKED;
FAULTED darkens every lane (R290). -/
def Dev.setRole (d : Dev) (r : Role) (o : Origin) : Dev :=
  if d.role = r then d
  else
    let leaves := d.role == .active || d.role == .standby
    let d := if leaves ∧ r ≠ .active then d.dropArms else d
    let d := d.set DPX_STAT_ROLE r.code |>.set DPX_EVT_ROLECHG 1 |>.recNote 7
      |>.audit 0x20 r.code (d.get DPX_TERM_TERM) (d.get DPX_STAT_REASON) o
    let d := if r = .syncing then d.castRestart else d
    let d := if r = .witness then d.setDpx (fun x => { x with wit := ⟨⟨none, 0, 0, 0, 0⟩, ⟨none, 0, 0, 0, 0⟩, d.time.cio, false, 0, 0⟩ }) else d
    let d := d.setDpx (fun x => { x with takeover := false, linkRun := 0, abandoned := 0 })
    let d := if r = .standby ∨ r = .syncing then d else d.set DPX_STAT_PLOST 0
    if r = .faulted then d.lanesRefresh else d

/-- The role that DPX_CFG.MODE gives when it applies (R291). DEDUCED, log entry 30. -/
def Dev.configRole (d : Dev) (o : Origin) : Dev :=
  match d.get DPX_CFG_MODE with
  | 0 => d.setRole .solo o
  | 1 => d.setRole .syncing o
  | 2 => d.setRole .witness o
  | _ => d

/-- Entry into HALT raises the FAIL demand (R462). DEDUCED, log entry 34. -/
def Dev.haltFail (d : Dev) : Dev := d.set SAF_STAT_FAIL 1 |>.demand kFAIL 1 (some 4095)

/-- A fatal fault (R293, R333, R460, R462): HALT with its cause, a block cause for every arm, the FAIL demand, role FAULTED in a
pair. Nothing happens in BOOT or HALT. DEDUCED, log entries 47, 53. -/
def Dev.fatal (d : Dev) (cause : Nat) (o : Origin) : Dev :=
  if d.dstate = .boot ∨ d.dstate = .halt then d
  else
    let d := d.set RST_STAT_HCAUSE cause |>.raise RST_EVT_EVT 2 |>.block 4095 .state o |>.haltFail
    let d := if d.role = .active ∨ d.role = .standby ∨ d.role = .syncing then (d.setRole .faulted o).classF else d
    d.enter .halt o

/-- The conditions of R461. -/
def Dev.mayArm (d : Dev) : Bool :=
  d.running && d.is SAF_STAT_GTDONE && d.is SAF_STAT_CONFIRMED && !d.is SAF_STAT_FAIL && !d.anyDemand

/-- The state after ARMED, RUN or BLOCKED gives way without a demand: ARMED, or SYNC if R461 fails. -/
def Dev.backState (d : Dev) : DState := if d.mayArm then .armed else .sync

/-- The next device state by the rows of R460 that depend on conditions alone. -/
def Dev.nextState (d : Dev) : DState :=
  match d.dstate with
  | .sync => if d.mayArm ∧ (d.role = .solo ∨ d.role = .active ∨ d.role = .standby) then .armed else .sync
  | .armed => if d.allBlocked then (if d.mayArm then .armed else .sync) else .run
  | .run =>
    if d.degraded then .degraded
    else if d.allBlocked then (if d.anyDemand then .blocked else d.backState) else .run
  | .degraded =>
    if d.degraded = false then .run
    else if d.allBlocked then (if d.anyDemand then .blocked else d.backState) else .degraded
  | .blocked => if d.anyDemand then .blocked else d.backState
  | x => x

/-- The device-state transitions that are due, at most four in a row. -/
def Dev.stateStep (d : Dev) (o : Origin) : Dev :=
  let f := fun (d : Dev) => d.enter d.nextState o
  f (f (f (f d)))

/-! ### DEEP -/

/-- Discovery runs on some port. -/
def Dev.discovering (d : Dev) : Bool := ringPorts.any (fun p => d.is (RING_STAT_DISCBUSY p))

/-- RST_STAT.PSTATE (R464). -/
def Dev.powerState (d : Dev) : Nat := if d.rst.deep then 2 else if d.running || d.discovering then 0 else 1

/-- Whether DEEP may be entered (R465). DEDUCED, log entry 52. -/
def Dev.deepOk (d : Dev) : Bool :=
  d.powerState == 1 && d.is RST_PCFG_DEEPEN && (d.dstate == .config || d.dstate == .sync) && d.role == .solo &&
    d.epState == .idle && (match d.tNext 0 with
      | some t => decide (ms (max (d.get RST_PCFG_DEEPMIN) 1) ≤ t)
      | none => true)

/-- Entry into DEEP (R464, R465): the lanes and their PLLs stop, pairs 1 to 3 are halted with their memory kept. DEDUCED, log
entry 52. -/
def Dev.deepEnter (d : Dev) : Dev :=
  if d.deepOk then
    let d := { d with rst := { d.rst with deep := true } }.lanesRefresh
    let d := d.each allLanes fun n d => d.set (LANE_STAT_PLLLOCK n) 0
    d.each ([1, 2, 3].filter (fun n => d.pairRuns n)) fun n d => d.set (SVC_PSTAT_STATE n) pHALTED |>.set (SVC_PSTAT_DEPTH n) 0
  else d

/-- DEEP is left (R465): WAKE, the lanes enabled again, pairs 1 to 3 run on unless they are halted. DEDUCED, log entry 52. -/
def Dev.wake (d : Dev) : Dev :=
  if d.rst.deep then
    let d := { d with rst := { d.rst with deep := false } }.raise RST_EVT_EVT 3 |>.lanesRefresh
    d.each [1, 2, 3] fun n d => d.pairResume n
  else d

end Sys2Proof.Machine
end

