-- ==== Sys2Proof/Machine/Diag.lean ====
section
/-! DEFINITION. Diagnostics: perturbations (R483 to R487), JTAG instructions but register access (R488, R489), debug halts
(R490), the background memory self-test (R491, R492). -/

namespace Sys2Proof.Machine

open Sys2Proof

/-- Changes the DIAG block's state beside its registers. -/
def Dev.setDiag (d : Dev) (f : DiagState → DiagState) : Dev := { d with diag := f d.diag }

/-! ### Perturbations -/

/-- All perturbations. -/
def allPerts : List Pert := [.dep, .fwd, .thr, .slot, .ing, .hb, .dly]

/-- The perturbation whose register stands at an offset. -/
def pertAt (off : Nat) : Option Pert := allPerts.find? (fun p => p.off == off)

/-- DIAG_STAT.ACTIVE (R487). -/
def Dev.pertStat (d : Dev) : Dev := d.setB DIAG_STAT_ACTIVE (allPerts.any (fun p => d.is p.en))

/-- A perturbation acts no more; a delay-list stall that ends releases what it held (R483). -/
def Dev.pertOff (d : Dev) (p : Pert) : Dev :=
  let stall := p == .dly && d.perturbed .dly
  let d := d.setDiag (fun s => { s with active := s.active.filter (fun x => x.1 != p) })
  if stall then d.unstall (d.get DIAG_PDLY_FLOW) else d

/-- A TEST unlock is in force (R478). -/
def Dev.unlocked (d : Dev) (type : Nat) : Bool := d.sec.unlocks.any (fun u => u.1 == type)

/-- A write of a perturbation register (R484, R485): at once while the timer is stopped, else from the next boundary. DEDUCED,
log entry 55. -/
def Dev.pertWrite (d : Dev) (p : Pert) (mask v : Word) : Dev :=
  if d.unlocked 1 then
    let d := (d.pertOff p).setWord p.off (v &&& mask)
    let d := if d.is p.en ∧ d.running = false then d.setDiag (fun s => { s with active := (p, 0) :: s.active }) else d
    d.pertStat
  else d.raise DIAG_EVT_EVT 0

/-- A cycle boundary for the perturbations (R485): an enabled one becomes active, an active one counts. -/
def Dev.pertBoundary (d : Dev) : Dev :=
  d.each (allPerts.filter (fun p => d.is p.en)) fun p d =>
    d.setDiag (fun s =>
      match s.active.find? (fun x => x.1 == p) with
      | some x => { s with active := (p, x.2 + 1) :: s.active.filter (fun y => y.1 != p) }
      | none => { s with active := (p, 1) :: s.active })

/-- DUR boundaries have passed (R485): EN clears, PTEND sets. -/
def Dev.pertEnd (d : Dev) (p : Pert) : Dev :=
  if d.diag.active.any (fun x => x.1 == p && d.get p.dur != 0 && decide (d.get p.dur < x.2)) then
    let d := d.setDiag (fun s => { s with active := s.active.filter (fun x => x.1 != p) })
    let d := d.set p.en 0 |>.raise DIAG_EVT_EVT 1 |>.pertStat
    if p = .dly then d.unstall (d.get DIAG_PDLY_FLOW) else d
  else d

/-- Every perturbation returns to its inactive setting (R478). -/
def Dev.pertClear (d : Dev) : Dev := (d.each allPerts fun p d => (d.pertOff p).setWord p.off 0).pertStat

/-! ### JTAG -/

/-- The TAP answers: not while PORST_N is low (R459). -/
def Dev.tapOn (d : Dev) : Bool := !d.rst.porstLow && !d.rst.brownLow

/-- The 32 bits of IDCODE as they leave TDO, bit 0 first (R488). -/
def idcodeBits : List Bool := (List.range 32).map (fun i => (0x261441E3#32).getLsbD i)

/-- An instruction that drives the balls is accepted (R489). -/
def Dev.scanOk (d : Dev) : Bool := d.allBlocked && (d.role == .solo || d.role == .witness)

/-- BYPASS: the bits leave one shift later, after a 0 (R488). -/
def Dev.bypass (d : Dev) (bits : List Bool) : Dev :=
  (d.setDiag (fun s => { s with instr := 0x3F })).emit (.tdo (false :: bits))

/-- A boundary-scan instruction with its effect, or BYPASS with JTAGREF (R489). While it is loaded the cycle timer stops.
DEDUCED, log entry 56. -/
def Dev.scan (d : Dev) (code : Nat) (bits : List Bool) (f : Dev → Dev) : Dev :=
  if d.scanOk then f ((d.setDiag (fun s => { s with instr := code })).set CYC_CTRL_EN 0)
  else (d.bypass bits).raise DIAG_EVT_EVT 2

/-- EXTEST: what was captured leaves, what came in drives (R488, R489). DEDUCED, log entry 56. -/
def Dev.extest (d : Dev) (capture load : List Bool) : Dev :=
  d.scan 0 load fun d => ((d.setDiag (fun s => { s with bsr := load })).emit (.tdo capture)).emit (.boundary load)

/-- SAMPLE/PRELOAD: capture and load without effect on the balls (R488). -/
def Dev.samplePreload (d : Dev) (capture load : List Bool) : Dev :=
  (d.setDiag (fun s => { s with instr := 1, bsr := load })).emit (.tdo capture)

/-- The balls that the model drives, at high impedance. DEDUCED, log entry 56. -/
def Dev.floatPins (d : Dev) : Dev :=
  d.emit (.pin .syncOut .highZ) |>.emit (.pin .clkOut .highZ) |>.emit (.pin .trigIo .released)
    |>.emit (.pin (.wit 0) .highZ) |>.emit (.pin (.wit 1) .highZ) |>.emit (.pin .gpios .highZ)

/-- IDCODE (R488). -/
def Dev.idcode (d : Dev) : Dev := (d.setDiag (fun s => { s with instr := 2 })).emit (.tdo idcodeBits)

/-- A TAP reset: IDCODE is selected; the TAP's semaphores are released POISONED (R409, R488). -/
def Dev.tapReset (d : Dev) : Dev := (d.setDiag (fun s => { s with instr := 2 })).semPoison .jtag

/-! ### Debug halt -/

/-- Stops a pair at an instruction boundary; its watchdog holds: `since` keeps the time in service (R490). -/
def Dev.jtagHalt (d : Dev) (n : Nat) : Dev :=
  if d.diag.halted.testBit n then d
  else
    let d := d.setDiag (fun s => { s with halted := s.halted ||| 2 ^ n })
    let d := d.setPair n (fun x => { x with since := d.time.up - x.since })
    if d.pairRuns n then d.set (SVC_PSTAT_STATE n) pHALTED |>.set (SVC_PSTAT_DEPTH n) 0 else d

/-- A halted pair runs on (R490). -/
def Dev.jtagResume (d : Dev) (n : Nat) : Dev :=
  if d.diag.halted.testBit n then
    let d := d.setDiag (fun s => { s with halted := s.halted - 2 ^ n })
    (d.setPair n (fun x => { x with since := d.time.up - x.since })).pairResume n
  else d

/-- A halt of the pairs of a mask (R478, R490), with the debug halt of R214. -/
def Dev.haltPairs (d : Dev) (mask : Nat) : Dev :=
  let need2 := mask.testBit 2 || mask.testBit 3
  let need3 := mask.testBit 0 || mask.testBit 1
  if (need2 ∧ d.unlocked 2 = false) ∨ (need3 ∧ d.unlocked 3 = false) then d.raise DIAG_EVT_EVT 2
  else
    let d := d.each (allPairs.filter (fun n => mask.testBit n)) fun n d => d.jtagHalt n
    if d.diag.halted = 0 then d else d.haltArms .jtag

/-- A release of the pairs of a mask; the last one ends the debug halt (R490). -/
def Dev.releasePairs (d : Dev) (mask : Nat) : Dev :=
  let was := d.diag.halted
  let d := d.each (allPairs.filter (fun n => mask.testBit n)) fun n d => d.jtagResume n
  if was ≠ 0 ∧ d.diag.halted = 0 then d.haltEnd else d

/-- HALTREQ (R490). -/
def Dev.haltReq (d : Dev) (mask : Nat) (halt : Bool) : Dev := if halt then d.haltPairs mask else d.releasePairs mask

/-! ### Memory self-test -/

/-- The pass of a period ends (R491, R492): time passes until then; clean, or with the bank and check that failed, a fatal fault. -/
def Dev.mbistPass (d : Dev) (bad : Option (Nat × Nat)) : Dev :=
  let d := d.elapse (d.diag.mbAt + ms (max (d.get DIAG_MBCFG_MBPERIOD) 1) - d.time.cio)
  let d := d.setDiag (fun s => { s with mbAt := d.time.cio })
  match bad with
  | none => if d.get DIAG_MBST_CHECK = 0 then d.set DPX_HEALTH_MBISTOK 1 else d
  | some (bank, check) =>
    (d.set DPX_HEALTH_MBISTOK 0 |>.set DIAG_MBST_BANK bank |>.set DIAG_MBST_CHECK check |>.raise DIAG_EVT_EVT 3).fatal 3 .device

end Sys2Proof.Machine
end

