-- ==== Sys2Proof/Machine/Hif.lean ====
section
/-! DEFINITION. The host interface's rings (R358 to R365), completions (R370), the attention interrupt (R32), the link. -/

namespace Sys2Proof.Machine

open Sys2Proof

/-- Changes the host interface's state beside its registers. -/
def Dev.setHif (d : Dev) (f : HifState → HifState) : Dev := { d with hif := f d.hif }

/-- The statuses of R370. -/
def stOK : Nat := 0
def stREFUSED : Nat := 1
def stBADCMD : Nat := 2
def stDMAERR : Nat := 3

/-- Posts a completion (R370): tag, status, opcode, reason, detail, result words 0 and 1. CPL entries carry no LOST bit: a lost
completion shows in HIF_LOST alone. -/
def Dev.complete (d : Dev) (tag : BitVec 16) (op status reason detail : Nat) (r0 r1 : Nat) : Dev :=
  d.pushEntry 1 (fun _ ph =>
    [dw (tag.toNat + status * 2 ^ 16 + op * 2 ^ 24), dw (reason + detail % 2 ^ 16 * 2 ^ 16), dw r0, dw (r1 % 2 ^ 31 + ph * 2 ^ 31)])

/-- A completion without results. -/
def Dev.completeOk (d : Dev) (tag : BitVec 16) (op : Nat) : Dev := d.complete tag op stOK 0 0 0 0

/-- A command or fetch ends with a DMA error (R358). DESIGN CHOICE, log entry 37. -/
def Dev.dmaError (d : Dev) (tag : BitVec 16) (op : Nat) : Dev := d.raise HIF_EVT_EVT 0 |>.complete tag op stDMAERR 0 0 0 0

/-! ### Indices -/

/-- A write of the CMD producer index (R359, R362). DESIGN CHOICE, log entry 37. -/
def Dev.doorbell (d : Dev) (idx : Nat) : Dev :=
  if d.is (HIF_RING_CTL_EN 0) = false then d
  else
    let m := 2 * d.ringSize 0
    let i := idx % m
    if d.ringSize 0 < (i + m - d.get (HIF_RING_DIDX_DIDX 0)) % m then d.raise HIF_EVT_EVT 1
    else d.set (HIF_RING_HIDX_HIDX 0) i

/-- Whether a ring is one that the device writes with a host consumer index: CPL, EVT, TEL, REC (R359). -/
def hostRing (r : Nat) : Bool := r == 1 || r == 2 || r == 4 || r == 5

/-- A write of a consumer index (R359). DESIGN CHOICE, log entry 37. -/
def Dev.consume (d : Dev) (r idx : Nat) : Dev :=
  if hostRing r ∧ d.is (HIF_RING_CTL_EN r) then d.set (HIF_RING_HIDX_HIDX r) (idx % (2 * d.ringSize r)) else d

/-- A write of a HIF_RING control word (R359): EN may be set while both indices are 0; clearing it returns them to 0. -/
def Dev.ringCtl (d : Dev) (r : Nat) (v : Word) : Dev :=
  let en := (HIF_RING_CTL_EN r).of v ≠ 0
  let d := d.set (HIF_RING_CTL_COAL r) ((HIF_RING_CTL_COAL r).of v) |>.set (HIF_RING_CTL_COALT r) ((HIF_RING_CTL_COALT r).of v)
    |>.set (HIF_RING_CTL_SIZE r) ((HIF_RING_CTL_SIZE r).of v)
  if en then
    if d.get (HIF_RING_DIDX_DIDX r) = 0 ∧ d.get (HIF_RING_HIDX_HIDX r) = 0 then d.set (HIF_RING_CTL_EN r) 1 else d
  else
    (d.set (HIF_RING_CTL_EN r) 0 |>.set (HIF_RING_DIDX_DIDX r) 0 |>.set (HIF_RING_HIDX_HIDX r) 0).setHif
      (fun h => { h with unsig := putAt h.unsig r 0 0, lost := putAt h.lost r false false })

/-- COALT µs after the first unsignalled entry (R363); a COAL of 0 disables the ring's interrupt. -/
def Dev.coalesceTimeout (d : Dev) (r : Nat) : Dev :=
  if d.get (HIF_RING_CTL_COAL r) ≠ 0 ∧ nth d.hif.unsig r 0 ≠ 0 then d.signal r else d

/-! ### TEL (R365) -/

/-- Slots per TEL entry; more than 32 act as 32, none as given. -/
def Dev.telSlots (d : Dev) : Nat := min (d.get HIF_TELCFG_TELN) 32

/-- The slot of a TEL position. -/
def Dev.telSlot (d : Dev) (i : Nat) : Nat := if i % 2 = 0 then d.get (HIF_TELSEL_SA (i / 2)) else d.get (HIF_TELSEL_SB (i / 2))

/-- The DWs of a TEL entry: the phase DW is the last, the length a multiple of 64 bytes. LOST of R361 has no bit in this
layout. -/
def Dev.telEntry (d : Dev) (t0 : Word) (ph : Nat) : List Word :=
  let n := d.telSlots
  let len := (20 + 4 * n + 63) / 64 * 16
  let slots := (List.range n).map (fun i => d.word (LOOP_SLOT (d.telSlot i)))
  let body := [d.cycle, t0, 0, 0] ++ slots
  body ++ List.replicate (len - 1 - body.length) 0 ++ [dw (ph * 2 ^ 31)]

/-- The TEL entry of a reload, every TELDEC cycles (R365). -/
def Dev.telReload (d : Dev) : Dev :=
  let n := d.hif.telCount + 1
  if n < max (d.get HIF_TELCFG_TELDEC) 1 then d.setHif (fun h => { h with telCount := n })
  else
    (d.setHif (fun h => { h with telCount := 0 })).pushEntry 4 (fun _ ph => d.telEntry (d.tb1At d.cyc.t0) ph)

/-! ### The SET ring (R364) -/

/-- The read of the entry for cycle k, issued at t₀(k − 1). -/
def Dev.setFetch (d : Dev) : Dev :=
  if d.is (HIF_RING_CTL_EN 3) ∧ d.is HIF_STAT_BME then d.emit (.hostRead 3 ((d.cycle + 1).toNat % d.ringSize 3)) else d

/-- The read of the entry for a cycle completes: it is kept if its loop phase has not begun and its number is right. -/
def Dev.setRead (d : Dev) (cyc : Word) (b : List Byte) : Dev :=
  let now := d.cycle
  let inTime := cyc = now + 1 ∨ (cyc = now ∧ d.cyc.looped = false ∧ d.phaseNs < d.cyc.tm0.tret + d.cyc.tm0.sort)
  if d.is (HIF_RING_CTL_EN 3) = false ∨ d.is HIF_STAT_BME = false ∨ d.running = false ∨ inTime = false then d
  else if BitVec.ofNat 32 (leAt b 0 4) ≠ cyc then d
  else
    let e : SetEntry := ⟨cyc, BitVec.ofNat 64 (leAt b 8 8), (List.range 64).map (fun i => dw (leAt b (32 + 4 * i) 4))⟩
    { d with loop := { d.loop with set := (e :: d.loop.set.filter (fun x => x.cyc != cyc)).take 2 } }

/-! ### Link and attention -/

/-- PCIe link training has completed (R356). -/
def Dev.linkUp (d : Dev) (gen width : Nat) : Dev :=
  d.set HIF_STAT_LINKUP 1 |>.set HIF_STAT_GEN (min (max gen 1) 4)
    |>.set HIF_STAT_WIDTH (if 4 ≤ width then 4 else if 2 ≤ width then 2 else 1)

/-- The host changes Bus Master Enable (R358). -/
def Dev.busMaster (d : Dev) (b : Bool) : Dev := d.setB HIF_STAT_BME b

/-- A function-level reset, hot reset or link down (R409): the function's semaphores are released POISONED; Bus Master Enable,
which lies in configuration space, returns to 0; a link down clears the link's fields. DESIGN CHOICE, log entry 37. -/
def Dev.functionReset (d : Dev) (down : Bool) : Dev :=
  let d := (d.semPoison .pcie).busMaster false
  if down then d.set HIF_STAT_LINKUP 0 |>.set HIF_STAT_GEN 0 |>.set HIF_STAT_WIDTH 0 else d

end Sys2Proof.Machine
end

