-- ==== Sys2Proof/Machine/Keccak.lean ====
section
/-! DEFINITION. SHAKE256 (FIPS 202), which the configuration check value (R343), the audit chain (R385) and the digests of images use.
The manual names the function; its steps are those of FIPS 202, each in the form that generates its constants (PRESUMED,
notes/assumptions/20). -/

namespace Sys2Proof.Machine

open Sys2Proof

/-- The state of the sponge: five planes, y = 0 first, of five 64-bit words, x = 0 first. -/
abbrev Sponge := List (List (BitVec 64))

/-- A list wordTurn left by n places. -/
def wordTurn (n : Nat) (l : List (BitVec 64)) : List (BitVec 64) := l.drop n ++ l.take n

/-- Two planes added word by word. -/
def planeXor (a b : List (BitVec 64)) : List (BitVec 64) := a.zipWith (· ^^^ ·) b

/-- The step θ: the parity plane of all five, wordTurn both ways, is added to each. -/
def Sponge.theta (s : Sponge) : Sponge :=
  let par := s.foldr planeXor (List.replicate 5 0)
  let mix := planeXor (wordTurn 4 par) ((wordTurn 1 par).map (·.rotateLeft 1))
  s.map (planeXor mix)

/-- The word at x in plane y. -/
def Sponge.at_ (s : Sponge) (x y : Nat) : BitVec 64 := ((s.getD y []).getD x 0)

/-- The steps ρ and π in one walk from (1, 0): in step t the word at (x, y), wordTurn by (t + 1)(t + 2)/2, goes to (y, 2x + 3y), where the
walk goes on; `n` steps are left. -/
def Sponge.walk (s : Sponge) : Nat → Nat → Nat → Nat → Sponge → Sponge
  | 0, _, _, _, r => r
  | n + 1, t, x, y, r =>
    let v := (2 * x + 3 * y) % 5
    let w := (s.at_ x y).rotateLeft ((t + 1) * (t + 2) / 2 % 64)
    s.walk n (t + 1) y v (r.set v ((r.getD v []).set y w))

/-- The step χ on a plane: each word is flipped where the next is 0 and the one after is 1. -/
def planeChi (p : List (BitVec 64)) : List (BitVec 64) :=
  planeXor p ((wordTurn 1 p).zipWith (fun a b => b &&& ~~~a) (wordTurn 2 p))

/-- One step of the register that yields the bits of ι: x⁸ + x⁶ + x⁵ + x⁴ + 1. -/
def iotaShift (r : Nat) : Nat := if r < 128 then 2 * r else 2 * r ^^^ 0x171

/-- A round's constant: the register's bit 0 before each of seven steps stands at bit 2^j − 1; with the register after them. -/
def iotaWord (r : Nat) : BitVec 64 × Nat :=
  (List.range 7).foldl (fun a j => (if a.2 % 2 = 1 then a.1 ||| (1 <<< (2 ^ j - 1)) else a.1, iotaShift a.2)) (0, r)

/-- n rounds from a register of ι. -/
def Sponge.rounds (s : Sponge) : Nat → Nat → Sponge
  | 0, _ => s
  | n + 1, r =>
    let t := s.theta
    let c := (t.walk 24 0 1 0 t).map planeChi
    let k := iotaWord r
    Sponge.rounds (match c with
      | (w :: ws) :: ps => ((w ^^^ k.1) :: ws) :: ps
      | _ => c) n k.2

/-- Bytes as 64-bit words, the first byte lowest; n words. -/
def wordsOf : Nat → List Byte → List (BitVec 64)
  | 0, _ => []
  | n + 1, b => BitVec.ofNat 64 ((b.take 8).reverse.foldl (fun a x => 256 * a + x.toNat) 0) :: wordsOf n (b.drop 8)

/-- 25 words as planes. -/
def planesOf (w : List (BitVec 64)) : Sponge := (List.range 5).map (fun y => (w.drop (5 * y)).take 5)

/-- Absorbs n blocks of 136 bytes, each followed by the 64 bytes of the capacity, which stay. -/
def Sponge.absorb (s : Sponge) : Nat → List Byte → Sponge
  | 0, _ => s
  | n + 1, b =>
    let block := planesOf (wordsOf 17 b ++ List.replicate 8 0)
    Sponge.absorb (Sponge.rounds (s.zipWith planeXor block) 24 1) n (b.drop 136)

/-- A message with the suffix 1111 and the padding 10…01, the last bit of the last block. -/
def shakePadded (m : List Byte) : List Byte :=
  let n := 135 - m.length % 136
  if n = 0 then m ++ [0x9F] else m ++ 0x1F :: List.replicate (n - 1) 0 ++ [0x80]

/-- The sponge after a message. -/
def sponge (m : List Byte) : Sponge :=
  let p := shakePadded m
  Sponge.absorb (List.replicate 5 (List.replicate 5 0)) (p.length / 136) p

/-- The first 8 bytes of SHAKE256 over a message, read as a little-endian number. -/
def shake64 (m : List Byte) : BitVec 64 := (sponge m).at_ 0 0

/-- The first 32 bytes of SHAKE256 over a message, little-endian. -/
def shake256 (m : List Byte) : BitVec 256 :=
  let s := sponge m
  (s.at_ 3 0 ++ s.at_ 2 0 ++ s.at_ 1 0 ++ s.at_ 0 0)

end Sys2Proof.Machine
end

