-- ==== Sys2Proof/Machine/Audit.lean ====
section
/-! DEFINITION. The audit log: entries in MRAM with their chain, the queue's writing, the read latch (R384 to R388). -/

namespace Sys2Proof.Machine

open Sys2Proof

/-- The ASCII string "SX6144AUD1" as bytes (R385). -/
def auditSeed : List Byte := [0x53, 0x58, 0x36, 0x31, 0x34, 0x34, 0x41, 0x55, 0x44, 0x31]

/-- Entries that the log holds (R386). -/
def logCapacity : Nat := 65536

/-- Bytes 0 to 23 of an entry (R385). DEDUCED, log entry 41. -/
def auditHead (seq : Word) (e : AudItem) : List Byte :=
  leBytes 4 seq.toNat ++ leBytes 4 e.tb1.toNat ++ leBytes 4 e.tb0.toNat ++ leBytes 1 e.origin ++ leBytes 1 e.kind
    ++ leBytes 2 e.code ++ leBytes 4 e.arg0.toNat ++ leBytes 4 e.arg1.toNat

/-- The chain value before entry 0 (R385). -/
def chainStart (uid : BitVec 64) : BitVec 64 := shake64 (auditSeed ++ leBytes 8 uid.toNat)

/-- The chain value of an entry after another (R385). -/
def chainNext (prev : BitVec 64) (seq : Word) (e : AudItem) : BitVec 64 :=
  shake64 (leBytes 8 prev.toNat ++ auditHead seq e)

/-- The 32 bytes of a held entry (R385). -/
def AudEntry.bytes (e : AudEntry) : List Byte := auditHead e.seq e.item ++ leBytes 8 e.chain.toNat

/-- AUD_ANCHOR: the chain value before the oldest entry held (R386). -/
def Nonvol.anchor (nv : Nonvol) : BitVec 64 := if nv.mram.wrapped then nv.mram.anchor else chainStart nv.fuses.uid

/-- The chain value of the newest entry held, or the one before entry 0. -/
def Nonvol.lastChain (nv : Nonvol) : BitVec 64 :=
  match nv.mram.log with
  | e :: _ => e.chain
  | [] => nv.anchor

/-- Appends an entry to the log; a full log loses its oldest entry, whose chain value becomes the anchor (R385, R386). -/
def Nonvol.append (nv : Nonvol) (e : AudItem) : Nonvol :=
  let m := nv.mram
  let x : AudEntry := ⟨m.nextSeq, e, chainNext nv.lastChain m.nextSeq e⟩
  let log := x :: m.log
  let m := { m with nextSeq := m.nextSeq + 1 }
  match log[logCapacity]? with
  | some y => { nv with mram := { m with log := log.take logCapacity, anchor := y.chain, wrapped := true } }
  | none => { nv with mram := { m with log := log } }

/-- The oldest queued entry is written to MRAM (R387): AUD_EVT.1 when WRAPPED rises, vector 7 if IRQEN (R388). DEDUCED, log
entry 41. -/
def auditWrite (nv : Nonvol) (d : Dev) : Nonvol × Dev :=
  match d.aud.queue with
  | [] => (nv, d)
  | e :: rest =>
    let nv' := nv.append e
    let d := { d with aud := ⟨rest⟩ } |>.audFull
    let d := if nv'.mram.wrapped ∧ nv.mram.wrapped = false then d.raise AUD_EVT_EVT 1 else d
    (nv', d.when (d.is AUD_CTRL_IRQEN) (·.emit (.msix 7)))

/-- A write of AUD_RDSEQ latches the entry of that number, or sets MISS (R388). -/
def Dev.auditRead (d : Dev) (nv : Nonvol) (seq : Word) : Dev :=
  let d := d.setWord AUD_RDSEQ seq
  let e := nv.mram.log.find? (fun e => e.seq == seq)
  let b := match e with | some e => e.bytes | none => []
  (d.setB AUD_RDSTAT_MISS e.isNone).each (List.range 8) fun i d => d.setWord (AUD_RDATA i) (dw (leAt b (4 * i) 4))

end Sys2Proof.Machine
end

