-- ==== Sys2Proof/Machine/Loop.lean ====
section
/-! DEFINITION. The control engine (R231 to R256): arithmetic, elements, groups, the loop phase with its execution time and its
cut, hand-over units. -/

namespace Sys2Proof.Machine

open Sys2Proof

/-- The control engine after a reset. -/
def LoopState.init : LoopState := ⟨[], List.replicate 16 0, 0, List.replicate 16 ⟨0, false, 0⟩, [], none⟩

/-- Changes the engine's state beside its registers. -/
def Dev.setLoop (d : Dev) (f : LoopState → LoopState) : Dev := { d with loop := f d.loop }

/-! ### Arithmetic (R235) -/

/-- A value held to n bits signed, and whether it had to be. -/
def satFlagged (n : Nat) (v : Int) : Int × Bool := let s := satS n v; (s, s != v)

/-- The sum of products in 64 bits with 52 fractional bits, every addition saturating. -/
def macc (l : List (Int × Int)) : Int × Bool :=
  l.foldl (fun (a, o) (c, x) => let (s, f) := satFlagged 64 (a + c * x); (s, o || f)) (0, false)

/-- Rounds an accumulator to Q7.24. -/
def toQ24 (acc : Int) : Int × Bool := satFlagged 32 ((acc + 2 ^ 27).fdiv (2 ^ 28))

/-- A sum of products as a signal. -/
def dot (l : List (Int × Int)) : Int × Bool :=
  let (a, o) := macc l
  let (y, f) := toQ24 a
  (y, o || f)

/-- Sets OVF if a saturation occurred (R235). -/
def Dev.ovf (d : Dev) (b : Bool) : Dev := if b then d.set LOOP_EVT_OVF 1 else d

/-- Slot s as an element reads it: an external slot from the input image, an element slot as it stands (R232). -/
def Dev.elemSlot (d : Dev) (s : Nat) : Int :=
  if s < 256 then (match d.loop.image.find? (fun e => e.1 == s) with | some e => e.2.toInt | none => 0) else d.slot s

/-! ### Limits (R238) -/

/-- The limits an element uses, and whether they were inverted. -/
def limits (lo hi : Int) : Int × Int × Bool := if hi < lo then let m := (lo + hi).fdiv 2; (m, m, true) else (lo, hi, false)

/-- A limit that is a value or names a slot. -/
def Dev.limitOf (d : Dev) (named : Bool) (w : Word) : Int := if named then d.elemSlot (w.toNat % 512) else w.toInt

/-- LIMINV, if limits were inverted. -/
def Dev.limInv (d : Dev) (b : Bool) : Dev := if b then d.set LOOP_EVT_LIMINV 1 else d

/-! ### Compensators -/

/-- An instance's limits. -/
def Dev.compLimits (d : Dev) (i : Nat) : Int × Int × Bool :=
  limits (d.limitOf (d.is (LOOP_CCFG_LOSLOT i)) (d.word (LOOP_CLO i))) (d.limitOf (d.is (LOOP_CCFG_HISLOT i)) (d.word (LOOP_CHI i)))

/-- Whether an instance has no limits: AW = 0; AW = 3 acts as 0 (R520). -/
def Dev.unlimited (d : Dev) (i : Nat) : Bool := d.get (LOOP_CCFG_AW i) == 0 || d.get (LOOP_CCFG_AW i) == 3

/-- An instance's CSAT bit. -/
def Dev.setCsat (d : Dev) (i : Nat) (b : Bool) : Dev := d.setBit (LOOP_CSAT_CSAT (i / 32)) (i % 32) b

/-- An instance's input (R236). -/
def Dev.compInput (d : Dev) (i : Nat) : Int × Bool :=
  satFlagged 32 (d.elemSlot (d.get (LOOP_CIN_IN i)) - (if d.is (LOOP_CIN_FBEN i) then d.elemSlot (d.get (LOOP_CIN_FB i)) else 0))

/-- A state register of an instance, signed. -/
def Dev.cx (d : Dev) (i j : Nat) : Int := d.getS (LOOP_CX_X i j)
def Dev.cy (d : Dev) (i j : Nat) : Int := d.getS (LOOP_CY_Y i j)

/-- The products of R236: terms of the third order unless FORM = 0 (R520: FORM 2 and 3 act as 1). -/
def Dev.compTerms (d : Dev) (i : Nat) (x : Int) : List (Int × Int) :=
  let b := fun j => d.getS (LOOP_CB_B i j)
  let a := fun j => d.getS (LOOP_CA_A i j)
  let third := d.get (LOOP_CCFG_FORM i) ≠ 0
  [(b 0, x), (b 1, d.cx i 0), (b 2, d.cx i 1)] ++ (if third then [(b 3, d.cx i 2)] else [])
    ++ [(-a 0, d.cy i 0), (-a 1, d.cy i 1)] ++ (if third then [(-a 2, d.cy i 2)] else [])

/-- A compensator executes under R236. -/
def Dev.compRun (d : Dev) (i : Nat) : Dev :=
  let (x, o1) := d.compInput i
  let (y, o2) := dot (d.compTerms i x)
  let d := d.ovf (o1 || o2)
  let (d, y, clamped) :=
    if d.is (LOOP_CCFG_WRAP i) then (d, ((y.emod (2 ^ 24) : Int)), false)
    else if d.unlimited i then (d, y, false)
    else
      let (lo, hi, inv) := d.compLimits i
      let c := clampInt lo hi y
      (d.limInv inv, c, c != y)
  let d := d.setSlot (256 + i) y |>.setCsat i clamped
  d.setS (LOOP_CX_X i 2) (d.cx i 1) |>.setS (LOOP_CX_X i 1) (d.cx i 0) |>.setS (LOOP_CX_X i 0) x
    |>.setS (LOOP_CY_Y i 2) (d.cy i 1) |>.setS (LOOP_CY_Y i 1) (d.cy i 0) |>.setS (LOOP_CY_Y i 0) y

/-- The incoming instance of a hand-over executes under R253 with the unit's last output T. DEDUCED, log entry 24. -/
def Dev.compTakeOver (d : Dev) (i : Nat) (t : Int) : Dev :=
  let (x, o) := d.compInput i
  let (tc, inv) := if d.unlimited i then (t, false)
    else
      let (lo, hi, inv) := d.compLimits i
      (clampInt lo hi t, inv)
  let d := (d.ovf o).limInv inv |>.setSlot (256 + i) tc |>.setCsat i (tc != t)
  d.each [0, 1, 2] fun j d => d.setS (LOOP_CX_X i j) x |>.setS (LOOP_CY_Y i j) tc

/-- The replacement of y1 at the end of the group's run (R237, AW = 2). DEDUCED, log entry 24. -/
def Dev.backCalc (d : Dev) (i : Nat) : Dev :=
  let y := d.slot (256 + i)
  let trk := d.elemSlot (d.get (LOOP_CIN_TRK i))
  let (df, o1) := satFlagged 32 (trk - y)
  let (r, o2) := satFlagged 32 (y + (d.getS (LOOP_CKT_KT i) * df + 2 ^ 27).fdiv (2 ^ 28))
  let d := d.ovf (o1 || o2) |>.setS (LOOP_CY_Y i 0) r
  if trk = y then d else d.setCsat i true

/-! ### Ramps, limiters -/

/-- A ramp executes (R241). -/
def Dev.rampRun (d : Dev) (r : Nat) : Dev :=
  let out := fun (d : Dev) (y : Int) (lim : Bool) => d.setSlot (384 + r) y |>.setBit LOOP_RAMPLIM_RAMPLIM r lim
  let y := d.slot (384 + r)
  if d.is (LOOP_RCFG_EN r) = false then (out d y false).set (LOOP_RSTAT_ST r) 0
  else if d.is (LOOP_RSTAT_ST r) = false then (out d (d.elemSlot (d.get (LOOP_RCFG_MEAS r))) false).set (LOOP_RSTAT_ST r) 1
  else
    let sp := d.elemSlot (d.get (LOOP_RCFG_SP r))
    let (df, o) := satFlagged 32 (sp - y)
    let up : Int := d.get (LOOP_RUP_UP r)
    let dn : Int := d.get (LOOP_RDN_DN r)
    let d := d.ovf o
    if up ≠ 0 ∧ up < df then out d (y + up) true
    else if dn ≠ 0 ∧ df < -dn then out d (y - dn) true
    else out d sp false

/-- A limiter executes (R240). -/
def Dev.limiterRun (d : Dev) (l : Nat) : Dev :=
  let x := d.elemSlot (d.get (LOOP_LCFG_IN l))
  let (lo, hi, inv) := limits (d.limitOf (d.is (LOOP_LCFG_LOSLOT l)) (d.word (LOOP_LLO l)))
    (d.limitOf (d.is (LOOP_LCFG_HISLOT l)) (d.word (LOOP_LHI l)))
  let y := clampInt lo hi x
  d.limInv inv |>.setSlot (416 + l) y |>.setBit LOOP_LIMACT_LIMACT l (y != x)

/-! ### Transforms (R242) -/

/-- π/2 in 2⁻⁴⁸. -/
def halfPi : Nat := 442139859501778

/-- The terms of a power series in 2⁻⁴⁸: from a term, x² in 2⁻⁴⁸, and the next factor n of the factorial. -/
def seriesSum (fuel : Nat) (term x2 : Int) (n : Nat) : Int :=
  match fuel with
  | 0 => term
  | fuel + 1 => term + seriesSum fuel (-(term * x2) / (2 ^ 48 * (n * (n + 1) : Nat))) x2 (n + 2)

/-- Sine and cosine of t quarter turns / 2²², 0 ≤ t ≤ 2²², in 2⁻⁴⁸, to better than 2⁻⁴⁰. -/
def sinQuarter (t : Nat) : Int := let x : Int := (halfPi * t / 2 ^ 22 : Nat); seriesSum 9 x (x * x / 2 ^ 48) 2
def cosQuarter (t : Nat) : Int := let x : Int := (halfPi * t / 2 ^ 22 : Nat); seriesSum 10 (2 ^ 48) (x * x / 2 ^ 48) 1

/-- The sine of an angle in 2⁻²⁴ turn, in 2⁻⁴⁸. -/
def sinTurn (a : Nat) : Int :=
  let q := a / 2 ^ 22 % 4
  let t := a % 2 ^ 22
  match q with
  | 0 => sinQuarter t | 1 => cosQuarter t | 2 => -sinQuarter t | _ => -cosQuarter t

/-- The sine that the engine computes, Q3.28: within 2⁻²³ of the exact one, the error a free value (R242). DESIGN CHOICE, log
entries 3, 25. -/
def engineSin (a : Nat) : Int :=
  (sinTurn (a % 2 ^ 24) + 2 ^ 19) / 2 ^ 20 + ((Config.trigError (a % 2 ^ 24) % 63 : Nat) - 31 : Int)

/-- The cosine that the engine computes, Q3.28. DESIGN CHOICE, log entries 3, 25. -/
def engineCos (a : Nat) : Int :=
  (sinTurn ((a + 2 ^ 22) % 2 ^ 24) + 2 ^ 19) / 2 ^ 20 + ((Config.trigError (2 ^ 24 + a % 2 ^ 24) % 63 : Nat) - 31 : Int)

/-- The constants of R242 as Q3.28 coefficients, rounded to nearest. -/
def cOne : Int := 268435456
def cHalf : Int := 134217728
def cThird : Int := 89478485
def cTwoThirds : Int := 178956971
def cInvSqrt3 : Int := 154981283
def cHalfSqrt3 : Int := 232471924

/-- Outputs of a transform and whether any saturated. -/
def three (a b c : Int × Bool) : List Int × Bool := ([a.1, b.1, c.1], a.2 || b.2 || c.2)

/-- Clarke. -/
def clarke (i0 i1 i2 : Int) : List Int × Bool :=
  three (dot [(cTwoThirds, i0), (-cThird, i1), (-cThird, i2)]) (dot [(cInvSqrt3, i1), (-cInvSqrt3, i2)])
    (dot [(cThird, i0), (cThird, i1), (cThird, i2)])

/-- Park, and its inverse with the sine negated; output 2 is given. -/
def park (i0 i1 s c z : Int) : List Int × Bool := three (dot [(c, i0), (s, i1)]) (dot [(-s, i0), (c, i1)]) (z, false)

/-- The outputs of a transform by TYPE (R242); types 5 to 7 write 0 (R520). -/
def transform (type : Nat) (i0 i1 i2 s c : Int) : List Int × Bool :=
  match type with
  | 0 => clarke i0 i1 i2
  | 1 => park i0 i1 s c 0
  | 2 => park i0 i1 (-s) c 0
  | 3 => three (satFlagged 32 (i0 + i2)) (dot [(-cHalf, i0), (cHalfSqrt3, i1), (cOne, i2)])
      (dot [(-cHalf, i0), (-cHalfSqrt3, i1), (cOne, i2)])
  | 4 =>
    let (k, o) := clarke i0 i1 i2
    let (p, o2) := park (nth k 0 0) (nth k 1 0) s c (nth k 2 0)
    (p, o || o2)
  | _ => ([0, 0, 0], false)

/-- A transform unit executes. -/
def Dev.transformRun (d : Dev) (t : Nat) : Dev :=
  let a := ofSigned 32 (d.elemSlot (d.get (LOOP_TANG_ANG t))) % 2 ^ 24
  let (l, o) := transform (d.get (LOOP_TCFG_TYPE t)) (d.elemSlot (d.get (LOOP_TIN_I0 t))) (d.elemSlot (d.get (LOOP_TIN_I1 t)))
    (d.elemSlot (d.get (LOOP_TIN_I2 t))) (engineSin a) (engineCos a)
  (d.ovf o).each l.zipIdx fun (v, j) d => d.setSlot (448 + 3 * t + j) v

/-! ### Hand-over units (R253 to R256) -/

/-- The instance of a side of unit h. -/
def Dev.hoInst (d : Dev) (h side : Nat) : Nat := if side = 0 then d.get (LOOP_HCFG_INSTA h) else d.get (LOOP_HCFG_INSTB h)

/-- Writes a unit's state, M and ACT, and LOOP_HOACT. -/
def Dev.hoState (d : Dev) (h act : Nat) (blending : Bool) (m : Nat) : Dev :=
  d.set (LOOP_HSTAT_ACT h) act |>.setB (LOOP_HSTAT_ST h) blending |>.set (LOOP_HSTAT_M h) m
    |>.setBit LOOP_HOACT_HOACT h (act = 1) |>.setBit LOOP_HOACT_HOACT (16 + h) blending

/-- out(m) of R254. -/
def blendOut (f u : Int) (m l : Nat) : Int := f + divZ ((u - f) * m) l

/-- A hand-over unit executes (R256). T is its own output slot; the incoming instance has executed under R253 in this run if
SEL differs from ACT. -/
def Dev.handOverRun (d : Dev) (h : Nat) : Dev :=
  let sel := d.get (LOOP_HCTL_SEL h)
  let act := d.get (LOOP_HSTAT_ACT h)
  let t := d.slot (496 + h)
  let out := fun (d : Dev) (v : Int) => d.setSlot (496 + h) v
  let blending := d.get (LOOP_HSTAT_ST h) = 1
  if sel ≠ act then
    let sat := d.slot (256 + d.hoInst h sel) != t
    let d := d.setB (LOOP_HSTAT_HOSAT h) sat
    let d := if sat then d.set LOOP_EVT_HOSAT 1 |>.recNote 9 else d
    let fixed := sat || blending
    let l := if fixed then max (d.get (LOOP_HCFG_BLEND h)) 1 else d.get (LOOP_HCFG_BLEND h)
    if l = 0 then out (d.hoState h sel false 0) t
    else
      let f := if fixed then t else d.slot (256 + d.hoInst h act)
      out ((d.hoState h sel true 0).setLoop (fun s => { s with ho := putAt s.ho h ⟨0, false, 0⟩ ⟨l, fixed, t⟩ })) f
  else if blending then
    let x := nth d.loop.ho h ⟨0, false, 0⟩
    let m := d.get (LOOP_HSTAT_M h) + 1
    let u := d.slot (256 + d.hoInst h act)
    if m < x.len then
      out (d.hoState h act true m) (blendOut (if x.fixed then x.start else d.slot (256 + d.hoInst h (1 - act))) u m x.len)
    else out (d.hoState h act false m) u
  else out d (d.slot (256 + d.hoInst h act))

/-! ### Groups -/

/-- A programme entry: type and index (R243). -/
def Dev.entry (d : Dev) (e : Nat) : Nat × Nat := (d.get (LOOP_PROG_TYPE e), d.get (LOOP_PROG_IDX e))

/-- The entries of group g. -/
def Dev.groupEntries (d : Dev) (g : Nat) : List Nat :=
  (List.range (d.get (LOOP_GCFG_PLEN g))).map (fun i => d.get (LOOP_GCFG_PSTART g) + i)

/-- Elements of a type in a group, in programme order. -/
def Dev.groupElems (d : Dev) (g type : Nat) : List Nat :=
  (d.groupEntries g).filterMap (fun e => if (d.entry e).1 = type then some (d.entry e).2 else none)

/-- What an entry's element costs in ns (R247). -/
def Dev.entryCost (d : Dev) (e : Nat) : Nat :=
  match d.entry e with
  | (1, i) => if d.get (LOOP_CCFG_FORM i) = 0 then 14 else 18
  | (2, _) => 6 | (3, _) => 4 | (4, _) => 10 | (5, _) => 32 | _ => 0

/-- Instances that take over in this run of a group, with the unit's last output (R253). -/
def Dev.takeOvers (d : Dev) (g : Nat) : List (Nat × Int) :=
  (d.groupElems g 5).filterMap fun h =>
    let sel := d.get (LOOP_HCTL_SEL h)
    if sel = d.get (LOOP_HSTAT_ACT h) then none else some (d.hoInst h sel, d.slot (496 + h))

/-- An entry's element executes. -/
def Dev.runEntry (d : Dev) (tk : List (Nat × Int)) (e : Nat) : Dev :=
  match d.entry e with
  | (1, i) => match tk.find? (fun x => x.1 == i) with
    | some x => d.compTakeOver i x.2
    | none => d.compRun i
  | (2, r) => d.rampRun r
  | (3, l) => d.limiterRun l
  | (4, t) => d.transformRun t
  | (5, h) => d.handOverRun h
  | _ => d

/-- Clears one element (R249). -/
def Dev.clearEntry (d : Dev) (e : Nat) : Dev :=
  match d.entry e with
  | (1, i) => (d.setSlot (256 + i) 0).each [0, 1, 2] fun j d => d.set (LOOP_CX_X i j) 0 |>.set (LOOP_CY_Y i j) 0
  | (2, r) => d.set (LOOP_RSTAT_ST r) 0 |>.setSlot (384 + r) 0
  | (3, l) => d.setSlot (416 + l) 0
  | (4, t) => d.each [0, 1, 2] fun j d => d.setSlot (448 + 3 * t + j) 0
  | (5, h) => (d.hoState h (d.get (LOOP_HCTL_SEL h)) false 0).setSlot (496 + h) 0
  | _ => d

/-- Clears the groups of pending LOOP_GCLR bits (R249). -/
def Dev.clearGroups (d : Dev) : Dev :=
  let gs := (List.range 16).filter (fun g => d.loop.gclr.getLsbD g)
  (d.each gs fun g d => d.each (d.groupEntries g) fun e d => d.clearEntry e).setLoop (fun s => { s with gclr := 0 })

/-- Whether group g is due (R243). -/
def Dev.groupDue (d : Dev) (g : Nat) : Bool :=
  d.bit LOOP_GEN_GEN g && nth d.loop.counts g 0 == d.get (LOOP_GCFG_PH g)

/-- Every group counter counts on (R243, R250). -/
def Dev.countGroups (d : Dev) : Dev :=
  d.setLoop (fun s => { s with counts := (List.range 16).map (fun g =>
    let n := nth s.counts g 0 + 1
    if d.get (LOOP_GCFG_NM1 g) < n then 0 else n) })

/-! ### The loop phase -/

/-- A loop phase under way: the device, ns used, ns to the reload, and where it was cut: at an entry, or at none. -/
structure LoopRun where
  d : Dev
  t : Nat
  lim : Nat
  stop : Option (Option Nat)

/-- Spends time on something that completes or is cut, and makes its change only if it completes (R250). -/
def LoopRun.spend (r : LoopRun) (ns : Nat) (at_ : Option Nat) (f : Dev → Dev) : LoopRun :=
  if r.stop.isSome then r
  else if r.lim < r.t + ns then { r with t := r.lim, stop := some at_ }
  else { r with d := f r.d, t := r.t + ns }

/-- Whether a compensator takes part in the replacements (R237). -/
def Dev.backCalcs (d : Dev) (i : Nat) : Bool := d.get (LOOP_CCFG_AW i) == 2

/-- What an entry costs before its group's replacements, whose 2 ns each are part of the cost of R247. DESIGN CHOICE, log entry
26. -/
def Dev.entryTime (d : Dev) (e : Nat) : Nat :=
  d.entryCost e - (match d.entry e with | (1, i) => if d.backCalcs i then 2 else 0 | _ => 0)

/-- One due group runs: its entries in order, then the replacements of AW = 2, which a cut charges to the last entry (R237, R244, R250). -/
def LoopRun.group (r : LoopRun) (g : Nat) : LoopRun :=
  if r.d.groupDue g = false then r
  else
    let r := r.spend 8 none id
    let tk := r.d.takeOvers g
    let es := r.d.groupEntries g
    let r := es.foldl (fun r e => r.spend (r.d.entryTime e) (some e) (fun d => d.runEntry tk e)) r
    ((r.d.groupElems g 1).filter r.d.backCalcs).foldl (fun r i => r.spend 2 es.getLast? (fun d => d.backCalc i)) r

/-- Every group in ascending order (R244). -/
def LoopRun.groups (r : LoopRun) : LoopRun := (List.range 16).foldl LoopRun.group r

/-- Set R writes of arm a in the engine's order (R246): WGEN, SCH_VREF, SCH_VOFS, as 0, 1, 2, with their values. -/
def Dev.setRWrites (d : Dev) (a : Nat) : List (Nat × Nat × Nat) :=
  let ofs := if d.is (LOOP_AREF_OFSEN a) then d.elemSlot (d.get (LOOP_AREF_VOFS a)) else 0
  [(a, 0, d.cycle.toNat % 256), (a, 1, ofSigned 32 (d.elemSlot (d.get (LOOP_AREF_VREF a)))), (a, 2, ofSigned 32 ofs)]

/-- One of them takes effect. -/
def Dev.setROne (d : Dev) (w : Nat × Nat × Nat) : Dev :=
  match w with
  | (a, 0, v) => d.set (SCH_WGEN_WGEN a) v
  | (a, n, v) => d.setRWrite true a (n == 2) v

/-- One set R write takes 4 of the 12 ns of R247: one that has begun when the reload arrives completes after it (R217, R250).
DESIGN CHOICE, log entry 26. -/
def LoopRun.setROne (r : LoopRun) (w : Nat × Nat × Nat) : LoopRun :=
  if r.stop.isNone ∧ r.t < r.lim ∧ r.lim < r.t + 4 then
    { r with d := r.d.setLoop (fun s => { s with issued := some w }), t := r.lim, stop := some none }
  else r.spend 4 none (fun d => d.setROne w)

/-- The set R writes, arm by arm (R246). -/
def LoopRun.setR (r : LoopRun) : LoopRun :=
  (allArms.filter (fun a => !(r.d.armCells a).isEmpty && !r.d.is (SCH_ACTL_VSRC a))).foldl
    (fun r a => (r.d.setRWrites a).foldl LoopRun.setROne r) r

/-- The set R write that the reload has overtaken completes (R250). -/
def Dev.setRIssued (d : Dev) : Dev :=
  match d.loop.issued with
  | some w => (d.setROne w).setLoop (fun s => { s with issued := none })
  | none => d

/-- The SET copy (R233). -/
def Dev.setCopy (d : Dev) : Dev :=
  match d.loop.set.find? (fun e => e.cyc == d.cycle) with
  | some e => d.each ((List.range 64).filter (fun i => e.valid.getLsbD i)) fun i d => d.setSlot (112 + i) (nth e.vals i 0).toInt
  | none => d.set LOOP_EVT_SETMISS 1

/-- The raw form of a probe's field (R234). -/
def Dev.probeRaw (d : Dev) (c field : Nat) : Int :=
  match field with
  | 0 => d.getS (CELL_W30_VLAST c) | 1 => d.getS (CELL_W20_VPRED c) | 2 => d.get (CELL_W24_CEST c)
  | 3 => d.get (CELL_W34_ESR c) | 4 => d.get (CELL_W00_VCAP c) | 5 => d.get (CELL_W0C_STALERUN c)
  | 6 => d.getS (CELL_W04_TERR c) | _ => d.get (CELL_W0C_STALE c)

/-- The cell probes (R234). -/
def Dev.probes (d : Dev) : Dev :=
  d.each (List.range 16) fun i d =>
    let c := d.get (LOOP_PROBE_CELL i)
    let v := if d.is (CELL_W0C_PRES c) then satS 32 (shr (d.probeRaw c (d.get (LOOP_PROBE_FIELD i)) * 2 ^ 24) (d.get (LOOP_PROBE_DIV i)))
      else 0
    d.setSlot (176 + i) v

/-- The constants' slots as sampled (R231, R248). -/
def Dev.constants (d : Dev) : Dev := d.each (List.range 64) fun i d => d.setSlot (192 + i) (d.getS (LOOP_CONST_VAL i))

/-- Takes the input image: the external slots that are not 0 (R232). -/
def Dev.takeImage (d : Dev) : Dev :=
  let l := d.regs.filterMap (fun e => if LOOP_SLOT 0 ≤ e.1 ∧ e.1 < LOOP_SLOT 256 then some ((e.1 - LOOP_SLOT 0) / 4, e.2) else none)
  d.setLoop (fun s => { s with image := l })

/-- Records the phase's time and where it was cut (R247, R250). -/
def Dev.loopDone (d : Dev) (t : Nat) (stop : Option (Option Nat)) : Dev :=
  let n := min t 0xFFFF
  let d := d.set LOOP_TEXEC_LAST n |>.set LOOP_TMAX_MAX (max n (d.get LOOP_TMAX_MAX))
  match stop with
  | none => d.set LOOP_STAT_CUT 0
  | some e =>
    d.set LOOP_STAT_CUT 1 |>.set LOOP_EVT_LATE 1 |>.set LOOP_STAT_CUTENT (e.getD 0) |>.setB LOOP_STAT_NOENT e.isNone

/-- The loop phase of cycle k (R232 to R250): `stall` ns of waiting for the fabric come on top of the costs of R247, and `lim`
ns remain until the reload. DESIGN CHOICE, log entry 26. -/
def Dev.loopPhase (d : Dev) (stall lim : Nat) : Dev :=
  let r : LoopRun := ⟨d.setCopy.clearGroups.probes.constants.takeImage, stall, lim, none⟩
  let r := (r.spend 60 none id).groups.setR
  (r.d.countGroups).loopDone r.t r.stop

/-- A write of LOOP_GCLR (R249). -/
def Dev.gclrWrite (d : Dev) (v : Word) : Dev := d.setLoop (fun s => { s with gclr := s.gclr ||| v.setWidth 16 })

/-- The minimum t_loop in ns, rounded up to 10 (R247): every group with entries as due, every arm written. DESIGN CHOICE, log
entry 26. -/
def Dev.loopMin (d : Dev) : Nat :=
  let gs := (List.range 16).filter (fun g => d.get (LOOP_GCFG_PLEN g) != 0)
  let elems := gs.foldl (fun n g => n + 8 + (d.groupEntries g).foldl (fun m e => m + d.entryCost e) 0) 0
  let arms := (allArms.filter (fun a => !(d.armCells a).isEmpty && !d.is (SCH_ACTL_VSRC a))).length
  (60 + elems + 12 * arms + 9) / 10 * 10

end Sys2Proof.Machine
end

