-- ==== Sys2Proof/Machine/Reset.lean ====
section
/-! DEFINITION. The state after power-on and the resets (R457, R458, R460, R474, R477). -/

namespace Sys2Proof.Machine

open Sys2Proof

/-! ### Initial state of each block -/

def TimeState.init : TimeState := ⟨false, 0, 0, 0, 0, 0, 0, 0, 0, 0, []⟩
def PtpState.init : PtpState := ⟨none, none, none, 0, 0, 0, none, none, false, none⟩
def Timing.init : Timing := ⟨20000, 1000, 800, 1000, 500, 500⟩
def CycState.init : CycState :=
  ⟨none, false, false, 0, .init, .init, .init, 20000, 20000, 20000, 0, 0, false, false, [], false, none, 0, 0, false, false, 0, false, false, false, .device⟩
def RstState.init : RstState := ⟨false, false, false, false, false, false, none, .device⟩
def ClkState.init : ClkState := ⟨0, 0, 0, 0, false, none, false, none, 0, 0⟩
def HifState.init : HifState := ⟨List.replicate 6 false, List.replicate 6 0, [], false, 0, false, false, 0, 0⟩
def EpochCtl.init : EpochCtl := ⟨[], .device, none, none, none, 0⟩
def SecState.init : SecState := ⟨none, [], [], none, 0⟩
def SchState.init : SchState := ⟨List.replicate 25 ⟨none, 0, none, false, none⟩, false, 0, [], 0⟩
def LaneState.init : LaneState := ⟨List.replicate 100 .init, 0, none, false, 0⟩
def WitUnit.init : WitUnit := ⟨none, 0, 0, 0, 0⟩
def WitState.init : WitState := ⟨.init, .init, 0, false, 0, 0⟩
def DpxState.init : DpxState :=
  { queue := [], seq := 0, parts := [], partner := none, pstat := none, t4 := 0, t3 := 0, within := 0, beyond := 0, skewed := false,
    takeover := false, linkRun := 0, unanswered := 0, ingok := false, comm := none, prev := none, fill := none, sendK := 0, sending := [],
    sentUpTo := none, sliceAt := 0, abandoned := 0, afterCast := 0, castOut := [], castTotal := 0, castBusy := false, castAsk := 0, castIn := [],
    castHeld := [], refCyc := none, islotCyc := none, shadow := [], loopMis := false, armMis := false, loopRun := 0, armRun := 0,
    skipped := false, cmdsFor := none, blkMask := 0, act := false, actRun := 0, check := 1, demoted := none, wit := .init }
def DiagState.init : DiagState := ⟨[], 2, [], 0, 0⟩

/-- The device with every register at its Reset column value and every block in its initial state, no reset line low (R14,
R457). -/
def Dev.init : Dev :=
  ⟨[], .init, .init, .init, .init, .init, .init, .init, ⟨[]⟩, .init, List.replicate 48 .init, List.replicate 12 .init, .init,
   .init, .init, .init, .init, .init, .init, .init, .init, .init, [], [], 0, []⟩

/-! ### Fuses and MRAM -/

/-- A slot whose hash is programmed but not its valid fuse (R466). -/
def KeySlot.damaged (k : KeySlot) : Bool := !k.valid && k.hash != 0

/-- A slot that may be used: valid and not revoked (R466). -/
def KeySlot.usable (k : KeySlot) : Bool := k.valid && !k.revoked

/-- A key slot. -/
def Nonvol.slot (nv : Nonvol) (n : Nat) : KeySlot := nth nv.fuses.slots n ⟨0, false, false⟩

/-- Writes a key slot's fuses. -/
def Nonvol.setSlot (nv : Nonvol) (n : Nat) (f : KeySlot → KeySlot) : Nonvol :=
  { nv with fuses := { nv.fuses with slots := putAt nv.fuses.slots n ⟨0, false, false⟩ (f (nv.slot n)) } }

/-! ### Resets -/

/-- What leaves the balls when a reset takes hold (R458, R459). -/
def Dev.pinsReset (d : Dev) : Dev :=
  d.emit (.pin .safeOkA .highZ) |>.emit (.pin .safeOkB .highZ) |>.emit (.pin .syncOut .highZ) |>.emit (.pin .clkOut .highZ)
    |>.emit (.pin .trigIo .released) |>.emit (.pin (.wit 0) .highZ) |>.emit (.pin (.wit 1) .highZ) |>.emit (.pin .lanes .highZ)
    |>.emit (.pin .gpios .highZ)

/-- The balls in BOOT (R459). -/
def Dev.pinsBoot (d : Dev) : Dev :=
  d.emit (.pin .safeOkA .low) |>.emit (.pin .safeOkB .low) |>.emit (.pin .syncOut .low) |>.emit (.pin .clkOut .low)
    |>.emit (.pin .trigIo .released) |>.emit (.pin (.wit 0) .low) |>.emit (.pin (.wit 1) .low) |>.emit (.pin .lanes .idle)

/-- PORST_N low, or the brown-out monitor tripped: every register and block returns to its initial state; what the model counts
of free values and observations goes on (R456, R457). DEDUCED, log entry 9. -/
def Dev.powerReset (d : Dev) (r : RstState) : Dev :=
  { Dev.init with rst := r, free := d.free, out := d.out, sec := { SecState.init with draws := d.sec.draws } }.pinsReset

/-- PORST_N falls (R457). -/
def Dev.porstAssert (d : Dev) : Dev :=
  d.powerReset { RstState.init with porstLow := true, brownLow := d.rst.brownLow, tripped := d.rst.brownLow }

/-- The brown-out monitor trips (R456, R499). -/
def Dev.brownout (d : Dev) : Dev :=
  d.powerReset { RstState.init with porstLow := d.rst.porstLow, brownLow := true, tripped := true }

/-- The power-on reset ends once PORST_N and the monitor have both released (R460, R474, R499): BOOT from OFF, a new challenge.
DEDUCED, DESIGN CHOICE, log entries 9, 13. -/
def Dev.powerRelease (d : Dev) : Dev :=
  if d.rst.porstLow ∨ d.rst.brownLow then d
  else
    let d := if d.rst.tripped then d.set RST_CAUSE_CAUSE 2 else d
    ({ d with rst := .init, sec := { d.sec with draws := d.sec.draws + 1 } }.audit 0x60 DState.boot.code 0 0 .device).pinsBoot

/-- PORST_N rises. -/
def Dev.porstRelease (d : Dev) : Dev :=
  if d.rst.porstLow then { d with rst := { d.rst with porstLow := false } }.powerRelease else d

/-- The monitor releases (R499). -/
def Dev.brownRelease (d : Dev) : Dev :=
  if d.rst.brownLow then { d with rst := { d.rst with brownLow := false } }.powerRelease else d

/-- Whether a register keeps its word through SRST_N (R457): the CLK block, TIM_TB1RATE, RST_CAUSE, RST_DBREF, TOP_SCRATCH, and
HIF_STAT, which follows the PCIe link. DEDUCED, log entry 9. -/
def keptOffset (o : Nat) : Bool :=
  (decide (0x010000 ≤ o) && decide (o < 0x020000)) || o == TIM_TB1RATE || o == RST_CAUSE || o == RST_DBREF || o == TOP_SCRATCH
    || o == HIF_STAT

/-- SRST_N falls or SWRST is accepted (R457, R458): the table of R457; every kept block keeps its state; the audit queue, the
TAP and a class F fault's flag with its FAIL demand are kept too; origin and cause go to RST_CAUSE. DEDUCED, DESIGN CHOICE, log
entries 9, 35, 44, 56. -/
def Dev.softReset (d : Dev) (cause : Nat) (o : Origin) (low : Bool) : Dev :=
  let old := d.dstate
  let gt := d.get SAF_STAT_GTDONE
  let cf := d.saf.classF
  let n : Dev :=
    { Dev.init with
      regs := d.regs.filter (fun e => keptOffset e.1)
      time := { d.time with slew := 0, on := d.time.on || d.sch.aclkStopped }
      clk := d.clk
      sch := { SchState.init with interps := d.sch.interps }
      aud := d.aud
      rst := { RstState.init with srstLow := low || d.rst.srstLow, internal := true }
      sec := { SecState.init with draws := d.sec.draws }
      mem := { MemState.init with ddr := d.mem.ddr, sram := d.mem.sram, scrubAt := d.time.cio }
      diag := { DiagState.init with instr := d.diag.instr, bsr := d.diag.bsr, mbAt := d.time.cio }
      free := d.free
      out := d.out }
  let n := n.set SAF_STAT_GTDONE gt
  let n := if cf then n.classF.setSaf (fun s => { s with toAudit := [] }) else n
  let n := n.set RST_CAUSE_CAUSE cause |>.set RST_CAUSE_ORIGIN (if cause = 4 then o.code else 0) |>.pinsReset
  if old = .boot then n.audFull else n.audit 0x60 DState.boot.code old.code 0 o

/-- SRST_N falls (R458). While the power-on reset holds, it changes nothing. DEDUCED, log entry 8. -/
def Dev.srstAssert (d : Dev) : Dev :=
  if d.rst.porstLow ∨ d.rst.brownLow then d else d.softReset 3 .device true

/-- Origins from which SWRST is accepted (R457). -/
def swrstOrigin (o : Origin) : Bool :=
  match o with
  | .pcie | .uart | .jtag => true
  | .svc n => decide (n.val < 2)
  | _ => false

/-- A write of 1 to RST_CTRL.SWRST (R457). -/
def Dev.swrst (d : Dev) (o : Origin) : Dev := if swrstOrigin o then d.softReset 4 o false else d

/-- The internal reset has been held for 4 µs and SRST_N is high (R458): BOOT, with a new challenge (R474). DEDUCED, DESIGN
CHOICE, log entries 9, 13. -/
def Dev.internalEnd (d : Dev) : Dev :=
  if d.rst.internal then
    let d := d.elapse 4000
    { d with rst := .init, sec := { d.sec with draws := d.sec.draws + 1 } }.pinsBoot
  else d

end Sys2Proof.Machine
end

