-- ==== Sys2Proof/Machine/Discovery.lean ====
section
/-! DEFINITION. Discovery of a ring port (R90 to R98), the link delays (R165 to R168) and the cell map (R94, R206, R519). -/

namespace Sys2Proof.Machine

open Sys2Proof

/-- The codes of RING_DISC.RES. -/
def resOK : Nat := 1
def resNOLOCK : Nat := 2
def resTIMEOUT : Nat := 3
def resCOUNT : Nat := 4
def resBREAK : Nat := 5
def resTYPE : Nat := 6
def resPVER : Nat := 7
def resHMAX : Nat := 8
def resTOOMANY : Nat := 9
def resLOAD : Nat := 10

/-! ### The cell map -/

/-- The arm-local index of position i on port p (R94). -/
def Dev.lidxOf (d : Dev) (p i : Nat) : Nat :=
  if d.is (RING_MAP_LREV p) then d.get (RING_MAP_LBASE p) + d.get (RING_MAP_NCELL p) - 1 - i
  else d.get (RING_MAP_LBASE p) + i

/-- Word 0x1C as the cell map in force gives it: 0 while the port is not in use (R97, R519). -/
def Dev.mapWord (d : Dev) (p i : Nat) : Word :=
  if d.inUse p ∧ i < (d.port p).discovered then dw (2 ^ 31 + d.portArm p * 2 ^ 16 + d.lidxOf p i % 1024) else 0

/-- Brings a cell's map word to the map in force: unmapped cells keep words 0x00 to 0x18 and lose CLS, cells that become
mapped or move are initialised (R206, R519). -/
def Dev.mapCell (d : Dev) (p i : Nat) : Dev :=
  let c := 128 * p + i
  let w := d.mapWord p i
  if d.word (CELL_W1C c) = w then d
  else if w = 0 then d.setWord (CELL_W1C c) 0 |>.set (CELL_W3C_CLS c) 3
  else (d.setWord (CELL_W1C c) w).cellMap (d.portArm p) c

/-- An arm with no mapped cells is idle (R21): its registers stay as the last sort left them, and the first sort after it has cells again
has no earlier current sample (R181). -/
def Dev.idleArms (d : Dev) : Dev :=
  d.each (allArms.filter (fun a => (d.armCtl a).iprev.isSome && (d.armCells a).isEmpty)) fun a d =>
    d.setArm a (fun x => { x with iprev := none })

/-- Brings every discovered cell of a port to the map in force. -/
def Dev.mapPort (d : Dev) (p : Nat) : Dev :=
  (d.each (List.range (d.port p).discovered) fun i d => d.mapCell p i).idleArms

/-- Clears every entry of a port's cells (R93, R98), and with them the slots and the wrap that came from them. DEDUCED, log
entry 16. -/
def Dev.clearCells (d : Dev) (p : Nat) : Dev :=
  let lo := CELL_W00 (128 * p)
  ({ d with regs := d.regs.filter (fun e => e.1 < lo || lo + 0x2000 ≤ e.1) }.setPort p (fun x =>
    { x with buf := [], fresh := 0, trk0 := none, trk1 := none, qual := 0, unwrap := 0 })).set (RING_STAT_UNWRAPPING p) 0

/-! ### Link delays -/

/-- A discovery record's field. -/
def recFld (r : BitVec 64) (hi lo : Nat) : Nat := bitsOf r.toNat hi lo

/-- The round trips of the links that a leg from end 0 met, from link 0 on (R165): `rtt` is rtt(j − 1). A turning cell ends
the list; a whole ring adds the far device end's link. -/
def legTrips (rtt : Int) (recs : List (BitVec 64)) (turn : Option Nat) : List Int :=
  match recs with
  | [] => match turn with
    | some t => [rtt - t]
    | none => []
  | r :: rs =>
    (rtt - recFld r 31 16 - recFld r 63 32 - recFld r 15 0) :: legTrips (recFld r 63 32) rs turn

/-- The DELAY records that a leg's frame reached, in the order met from its end. -/
def DiscLeg.met (l : DiscLeg) (e n : Nat) : List (BitVec 64) :=
  match l.wrap with
  | none => if e = 0 then l.delays.take n else (l.delays.take n).reverse
  | some w => if e = 0 then l.delays.take (w + 1) else ((l.delays.take n).drop w).reverse

/-- The round trips of a leg in the order met from its end. -/
def DiscLeg.trips (l : DiscLeg) (e n : Nat) : List Int :=
  legTrips l.rtt (l.met e n) (match l.wrap with | none => some l.turn | some _ => none)

/-- The round trip L_j of link j, j = 0 to N: from the pass that reached both of its elements; 0 at a break (R165). -/
def Disc.trip (x : Disc) (j : Nat) : Int :=
  let a := match x.leg0 with
    | some l => (l.trips 0 x.cells)[j]?
    | none => none
  let b := match x.leg1 with
    | some l => (l.trips 1 x.cells)[x.cells - j]?
    | none => none
  (a.orElse (fun _ => b)).getD 0

/-- Whether an end's leg reached position i. -/
def DiscLeg.reach (l : DiscLeg) (e i : Nat) : Bool := reached e i l.wrap

/-- The ENUM record of position i, from the leg that reached it. -/
def Disc.record (x : Disc) (i : Nat) : BitVec 64 :=
  match x.leg0, x.leg1 with
  | some a, some b => if a.reach 0 i then nth a.recs i 0 else nth b.recs i 0
  | some a, none => nth a.recs i 0
  | none, some b => nth b.recs i 0
  | none, none => 0

/-- ASYM of element j − 1, j = 0 to N + 1: the device ends take EASYM (R165, R166). -/
def Disc.asymOf (x : Disc) (j : Nat) : Int :=
  if j = 0 then x.easym0 else if j = x.cells + 1 then x.easym1 else toSigned 16 (recFld (x.record (j - 1)) 31 16)

/-- The delays of link j towards end 1 and towards end 0 in 2⁻³ ns, before saturation (R166). -/
def Disc.splitLink (x : Disc) (j : Nat) : Int × Int :=
  let l := x.trip j
  let a := shr (x.kappa * l) 24 + x.asymOf j - x.asymOf (j + 1)
  ((l + a + 32).fdiv 64, (l - a + 32).fdiv 64)

/-- A delay as loaded (R167). -/
def satDelay (v : Int) : Nat := (clampInt 0 0xFFFF v).toNat

/-- Every link's delays, and whether any was saturated. -/
def Disc.linkDelays (x : Disc) : List (Nat × Nat) × Bool :=
  let raw := (List.range (x.cells + 1)).map x.splitLink
  (raw.map (fun r => (satDelay r.1, satDelay r.2)), raw.any (fun r => r.1 != satDelay r.1 || r.2 != satDelay r.2))

/-- The 48 bits that LOAD sends to position i (R91): H_hold, DLY0, DLY1, DTX. -/
def Dev.loadBits (d : Dev) (p : Nat) (ls : List (Nat × Nat)) (i : Nat) : BitVec 48 :=
  BitVec.ofNat 48 (d.get (RING_CTRL_HHOLD p) * 2 ^ 44 + (nth ls i (0, 0)).1 * 2 ^ 28 + (nth ls (i + 1) (0, 0)).2 * 2 ^ 12
    + d.get CYC_DTX_DTX % 2 ^ 12)

/-! ### Start and end -/

/-- Starts discovery of a port (R90, R92): the lanes of the driven ends must lock, then ENUM runs from the lowest of them;
NCELL, KAPPA and EASYM are taken now (R168). DEDUCED, log entry 18. -/
def Dev.discStart (d : Dev) (p : Nat) (o : Origin) : Dev :=
  let d := d.epDisc o
  let x : Disc := ⟨d.ends p, d.time.cio, 0, (d.ends p).headD 0, 0, none, [], d.get (RING_MAP_NCELL p), d.getS (TIM_KAPPA_KAPPA p),
    d.getS (TIM_EASYM_EASYM0 p), d.getS (TIM_EASYM_EASYM1 p), none, none, 0, [], [], o⟩
  d.setPort p (fun s => { s with disc := some x, discWait := none })
    |>.set (RING_STAT_DISCBUSY p) 1 |>.set (RING_DISC_PASS p) 0

/-- The leg of an end. -/
def Disc.leg (x : Disc) (e : Nat) : Option DiscLeg := if e = 0 then x.leg0 else x.leg1

/-- Writes the leg of an end. -/
def Disc.setLeg (x : Disc) (e : Nat) (l : DiscLeg) : Disc := if e = 0 then { x with leg0 := some l } else { x with leg1 := some l }

/-- The cells that an ENUM leg of end e reached, of n configured (R92). -/
def DiscLeg.count (l : DiscLeg) (e n : Nat) : Nat :=
  match l.wrap with
  | none => l.hops / 2
  | some w => if e = 0 then w + 1 else n - w

/-- The cells that the discovery reached from an end. -/
def Disc.reachedFrom (x : Disc) (e : Nat) : Nat :=
  match x.leg e with
  | some l => l.count e x.ncfg
  | none => 0

/-- The cells found: those of the whole ring where a device end turned the first frame, else those that turned frames reached (R92). -/
def Disc.found (x : Disc) : Nat :=
  match x.leg0, x.leg1 with
  | some a, some b => (if a.wrap.isSome then a.count 0 x.ncfg else 0) + (if b.wrap.isSome then b.count 1 x.ncfg else 0)
  | _, _ => x.reachedFrom 0 + x.reachedFrom 1

/-- The counts that a discovery reached (R93). -/
def Dev.discCounts (d : Dev) (p : Nat) : Dev :=
  match (d.port p).disc with
  | some x => d.set (RING_DISC_NFOUND p) x.found |>.set (RING_DISC_NA p) (x.reachedFrom 0) |>.set (RING_DISC_NB p) (x.reachedFrom 1)
  | none => d

/-- Ends a discovery (R93): result, counts as reached, and on a failure no discovered cells and cleared entries; RING_DINFO and
RING_LINK keep what they held. DEDUCED, DESIGN CHOICE, log entries 18, 66. -/
def Dev.discEnd (d : Dev) (p res : Nat) : Dev :=
  let d := d.discCounts p |>.set (RING_DISC_RES p) res |>.set (RING_STAT_DISCBUSY p) 0
    |>.setPort p (fun x => { x with disc := none })
  if res = resOK then d.set (RING_EVT_DISCDONE p) 1
  else (d.setPort p (fun x => { x with discovered := 0 })).clearCells p |>.idleArms |>.set (RING_EVT_DISCFAIL p) 1

/-- The smallest and largest of a list of numbers. -/
def listMin (l : List Nat) (dflt : Nat) : Nat := l.foldl min dflt
def listMax (l : List Nat) : Nat := l.foldl max 0

/-- Writes what discovery found: words 0x10 to 0x1C, RING_LINK0, RING_LINK1, RING_DINFO (R92, R97, R206). DEDUCED, log entry 18.
-/
def Dev.discWrite (d : Dev) (p n : Nat) (recs : List (BitVec 64)) (links : List (Nat × Nat)) : Dev :=
  let d := d.clearCells p |>.setPort p (fun x => { x with discovered := n })
  let d := d.each (recs.take n).zipIdx fun (r, i) d =>
    let c := 128 * p + i
    d.setWord (CELL_W10 c) (dw (recFld r 63 32)) |>.setWord (CELL_W14 c) (dw (recFld r 31 0))
      |>.set (CELL_W18_DLY0 c) (nth links i (0, 0)).1 |>.set (CELL_W18_DLY1 c) (nth links (i + 1) (0, 0)).2
      |>.set (CELL_W0C_PRES c) 1 |>.set (CELL_W3C_CLS c) 3
  let types := recs.take n |>.map (fun r => recFld r 63 60)
  let ct := if n = 0 then 0 else if types.all (· == 1) then 1 else if types.all (· == 2) then 2 else 3
  let d := d.set (RING_LINK_LINK p 0) (links.foldl (fun s l => s + l.1) 0)
    |>.set (RING_LINK_LINK p 1) (links.foldl (fun s l => s + l.2) 0)
    |>.set (RING_DINFO_TCONVMAX p) (listMax (recs.take n |>.map (fun r => recFld r 55 48)))
    |>.set (RING_DINFO_HMAXMIN p) (if n = 0 then 0 else listMin (recs.take n |>.map (fun r => recFld r 59 56)) 15)
    |>.set (RING_DINFO_CTYPE p) ct
  d.mapPort p

/-! ### Passes -/

/-- The discovery frame of a pass from end e (R91): NSLOT is 128 from end 0 and NCELL from end 1; LOAD carries its 48 bits.
CYCNUM is the number of the current or the last cycle. DESIGN CHOICE, log entry 66. -/
def Dev.discFrame (d : Dev) (p e pass n : Nat) (loads : List (BitVec 48)) : Frame :=
  let slots := (List.range n).map fun i => sealSlot ((if pass = 2 then (nth loads i 0).toNat else 0) * 2 ^ 80)
  mkFrame (mkHeader d.cycle.toNat d.time.tb0 (d.get HIF_EPOCH_NUM % 65536) 1 e d.actBit false (d.is (RING_CTRL_DPX p)) p n pass) slots

/-- NSLOT of a pass from an end, of n configured cells (R91). -/
def passSlots (e n : Nat) : Nat := if e = 0 then 128 else n

/-- Whether a lane is UP, the lane lock of R92 (R123). -/
def Dev.laneLocked (d : Dev) (p e : Nat) : Bool := d.get (LANE_STAT_STATE (2 * p + e)) == 6

/-- Whether the unit's role leaves it frames other than cycle frames: a WITNESS and a FAULTED unit send none (R290). -/
def Dev.framesOn (d : Dev) : Bool := d.role != .witness && d.role != .faulted

/-- Sends the discovery frame of the pass in progress from end e, once the lanes have locked (R91, R92). -/
def Dev.discPass (d : Dev) (p e : Nat) : Dev :=
  match (d.port p).disc with
  | some x =>
    if x.lock = [] ∧ x.end_ = e ∧ x.sent = none ∧ x.attempt < 3 ∧ d.framesOn then
      d.setPort p (fun s => { s with disc := some { x with sent := some d.time.cio, attempt := x.attempt + 1 } })
        |>.set (RING_DISC_PASS p) x.pass |>.sendFrame p e d.time.tb0 (d.discFrame p e x.pass (passSlots e x.ncfg) x.loads)
    else d
  | none => d

/-- The first failing check of the cells' declarations (R92), or none. -/
def Dev.declared (d : Dev) (p : Nat) (x : Disc) : Option Nat :=
  let rs := (List.range x.cells).map x.record
  if rs.any (fun r => recFld r 15 12 != 1) then some resPVER
  else if rs.any (fun r => recFld r 63 60 != 1 && recFld r 63 60 != 2) then some resTYPE
  else if rs.any (fun r => recFld r 59 56 < d.get (RING_CTRL_HHOLD p)) then some resHMAX
  else none

/-- The next pass of a discovery at an end: a new pass frame with its three attempts. -/
def Dev.discNext (d : Dev) (p : Nat) (x : Disc) (pass e : Nat) : Dev :=
  let done := if pass = x.pass then x.end_ :: x.done else []
  d.setPort p (fun s => { s with disc := some { x with pass := pass, end_ := e, attempt := 0, sent := none, done := done } })

/-- After ENUM: the count and the declarations are checked, then DELAY runs from every end used (R92). -/
def Dev.enumDone (d : Dev) (p : Nat) (x : Disc) (n : Nat) : Dev :=
  let x := { x with cells := n }
  if n ≠ x.ncfg then d.discEnd p resCOUNT
  else match d.declared p x with
    | some r => d.discEnd p r
    | none => d.discNext p x 1 (if x.leg0.isSome then 0 else 1)

/-- An accepted ENUM frame (R92). -/
def Dev.enumLeg (d : Dev) (p e : Nat) (x : Disc) (l : DiscLeg) : Dev :=
  let ncfg := x.ncfg
  let first := x.leg0.isNone && x.leg1.isNone
  let n := l.count e ncfg
  let other := x.reachedFrom (1 - e)
  let x := x.setLeg e l
  let d := d.setPort p (fun s => { s with disc := some x })
  if first then
    match l.wrap with
    | none => if 128 < n then d.discEnd p resTOOMANY else d.enumDone p x n
    | some _ => if n = ncfg then d.enumDone p x n else d.discNext p x 0 (1 - e)
  else if l.wrap = none ∨ other + n ≠ ncfg then d.discEnd p resBREAK
  else d.enumDone p x (other + n)

/-- The end whose pass follows an end's in DELAY and LOAD, if ENUM used it (R92). -/
def Disc.after (x : Disc) (e : Nat) : Option Nat := if e = 0 ∧ x.leg1.isSome then some 1 else none

/-- After DELAY: the link delays are computed and LOAD runs from every end used (R92, R166, R167). A discovery that fails before
this leaves the port's bit of TIM_DLYSAT as it was. DESIGN CHOICE, log entry 66. -/
def Dev.delayDone (d : Dev) (p : Nat) (x : Disc) : Dev :=
  let (ls, sat) := x.linkDelays
  let fld := if p < 32 then TIM_DLYSAT_LO_PORTS_LO else TIM_DLYSAT_HI_PORTS_HI
  let d := d.setBit fld (p % 32) sat
  let d := if sat then d.set TIM_EVT_DLYSAT 1 else d
  let x := { x with links := ls, loads := (List.range x.cells).map (d.loadBits p ls) }
  d.discNext p x 2 (if x.leg0.isSome then 0 else 1)

/-- An accepted DELAY frame. -/
def Dev.delayLeg (d : Dev) (p e : Nat) (x : Disc) (recs : List (BitVec 64)) (rtt turn : Nat) : Dev :=
  match x.leg e with
  | none => d
  | some l =>
    let x := x.setLeg e { l with delays := recs, rtt := rtt, turn := turn }
    match x.after e with
    | some e' => d.discNext p x 1 e'
    | none => d.delayDone p x

/-- Whether a cell's LOAD record fails to echo its 48 bits (R91, R92). -/
def Disc.badEcho (x : Disc) (e i : Nat) : Bool :=
  match x.leg e with
  | some l => l.reach e i && recFld (nth l.echo i 0) 63 16 != (nth x.loads i 0).toNat
  | none => false

/-- After LOAD: every cell must have echoed its 48 bits on each leg that reached it; the result is written (R92, R327).
RING_LINK sums the delays as loaded, after the saturation of R167. DEDUCED, DESIGN CHOICE, log entries 18, 66. -/
def Dev.discFinish (d : Dev) (p : Nat) (x : Disc) : Dev :=
  if (List.range x.cells).any (fun i => x.badEcho 0 i || x.badEcho 1 i) then d.discEnd p resLOAD
  else (d.discWrite p x.cells ((List.range x.cells).map x.record) x.links).discEnd p resOK

/-- An accepted LOAD frame: its echoes are kept until LOAD has run from every end used (R92). -/
def Dev.loadLeg (d : Dev) (p e : Nat) (x : Disc) (recs : List (BitVec 64)) : Dev :=
  match x.leg e with
  | none => d
  | some l =>
    let x := x.setLeg e { l with echo := recs }
    match x.after e with
    | some e' => d.discNext p x 2 e'
    | none => d.discFinish p x

/-- The first failing check of R92 for a discovery frame that returns at end e: `pass` and `n` are what was sent, `dup` says that a
frame of this pass has already been accepted there. -/
def discCheck (p e pass n : Nat) (dup : Bool) (f : Frame) : Option RxFail :=
  if f.headerOk = false then some .hcrc
  else if f.bodyOk = false then some .fcrc
  else if f.type ≠ 1 ∨ f.portNo ≠ p ∨ f.dpass ≠ pass ∨ f.nslot ≠ n then some .seq
  else if f.dir ≠ e then some .seq
  else if f.wrap = 1 ∧ f.hopsOk e = false then some .hoperr
  else if dup then some .dup
  else none

/-- The upstream records of a discovery frame (R91). -/
def discRecs (f : Frame) : List (BitVec 64) := f.slots.map (fun s => BitVec.ofNat 64 (bitsOf s.toNat 79 16))

/-- An accepted discovery frame (R92, R165). -/
def Dev.discLeg (d : Dev) (p e : Nat) (x : Disc) (f : Frame) (rtt : Nat) : Dev :=
  match x.pass with
  | 0 => d.enumLeg p e x ⟨if f.wrap = 1 then some f.wpos else none, f.hops, discRecs f, [], [], 0, 0⟩
  | 1 => d.delayLeg p e x (discRecs f) rtt f.turn
  | _ => d.loadLeg p e x (discRecs f)

/-- A returning discovery frame at end e, with its round trip in 2⁻⁸ ns (R92, R165); one that no attempt waits for is discarded.
A unit that sent it for its partner checks it too (R327). DEDUCED, log entries 18, 31. -/
def Dev.discReceive (d : Dev) (p e : Nat) (f : Frame) (rtt : Nat) : Dev :=
  match (d.port p).disc, (d.port p).asked with
  | some x, _ =>
    match discCheck p e x.pass (passSlots e x.ncfg) (x.done.contains e) f with
    | some r => d.countRx p e r
    | none => if x.end_ = e ∧ x.sent.isSome then d.discLeg p e x f rtt else d
  | none, some (pass, n) =>
    match discCheck p e pass n false f with
    | some r => d.countRx p e r
    | none => d.setPort p (fun s => { s with asked := none })
  | none, none => d

/-- An attempt ends without an accepted frame: up to three attempts, then the discovery fails (R92). -/
def Dev.discFailed (d : Dev) (p : Nat) (x : Disc) : Dev :=
  if x.attempt < 3 then d.setPort p (fun s => { s with disc := some { x with sent := none } })
  else d.discEnd p (if x.pass = 0 ∧ (x.leg0.isSome ∨ x.leg1.isSome) then resBREAK else resTIMEOUT)

/-- 1 ms in which an attempt waits for its frame, and 100 ms in which a lane must lock (R92), in ns. -/
def passNs : Nat := 1000000
def lockNs : Nat := 100000000

/-- A pass without an accepted frame within 1 ms; time passes until then (R92). -/
def Dev.discTimeout (d : Dev) (p : Nat) : Dev :=
  match (d.port p).disc with
  | some x =>
    match x.sent with
    | some t => (d.elapse (t + passNs - d.time.cio)).discFailed p x
    | none => d
  | none => d

/-- The lane of a driven end has not locked within 100 ms; time passes until then (R92). -/
def Dev.discNolock (d : Dev) (p : Nat) : Dev :=
  match (d.port p).disc with
  | some x => if x.lock = [] then d else (d.elapse (x.since + lockNs - d.time.cio)).discEnd p resNOLOCK
  | none => d

/-- The ends that still wait for lane lock, and since when the first of them does: each is waited for in turn (R92). -/
def Dev.locksLeft (d : Dev) (p : Nat) (x : Disc) : List Nat → Disc
  | [] => { x with lock := [] }
  | e :: es => if d.laneLocked p e then d.locksLeft p { x with since := d.time.cio } es else { x with lock := e :: es }

/-- What a discovery's times bring by themselves: a locked lane gives way to the next one, 100 ms without lock and 1 ms without a frame
end (R92). -/
def Dev.discDue (d : Dev) (p : Nat) : Dev :=
  match (d.port p).disc with
  | none => d
  | some x =>
    if x.lock ≠ [] then
      if x.since + lockNs ≤ d.time.cio then d.discEnd p resNOLOCK
      else d.setPort p (fun s => { s with disc := some (d.locksLeft p x x.lock) })
    else match x.sent with
    | some t => if t + passNs ≤ d.time.cio then d.discFailed p x else d
    | none => d

/-- Every discovery in progress. -/
def Dev.discsDue (d : Dev) : Dev := d.each (ringPorts.filter (fun p => (d.port p).disc.isSome)) fun p d => d.discDue p

/-- A discovery frame turned at a device end that did not send it: TURN takes the residence in 2⁻⁸ ns (R91). -/
def turned (f : Frame) (residence : Nat) : Frame :=
  let h := f.hdr.toNat
  mkFrame (h / 2 ^ 32 * 2 ^ 32 + residence % 2 ^ 16 * 2 ^ 16 + h % 2 ^ 16) f.slots

/-- The turn of a discovery frame at end e of port p (R91): one with a bad HCRC is not turned, one with a bad FCRC is turned
whole with a new FCRC. DESIGN CHOICE, log entry 66. -/
def Dev.discTurn (d : Dev) (p e : Nat) (f : Frame) (residence : Nat) : Dev :=
  if d.inUse p ∧ f.type = 1 ∧ f.dir ≠ e ∧ f.headerOk ∧ d.framesOn then d.sendFrame p e d.time.tb0 (turned f residence) else d

end Sys2Proof.Machine
end

