-- ==== Sys2Proof/Machine/Valid.lean ====
section
/-! DEFINITION. Validation of a configuration: the rules of every chapter in the order of R374, the configuration check value
(R343), the wrap budget (R85). -/

namespace Sys2Proof.Machine

open Sys2Proof

/-! ### The register table as lists of offsets -/

/-- A register's RWL fields as a mask. -/
def RDesc.mask (r : RDesc) (p : FTy → Bool) : Word :=
  (r.fields.filter (fun f => p f.ty)).foldl (fun m f => m ||| Fld.mask ⟨0, f.hi, f.lo⟩) 0

/-- The bits of a register whose field's type satisfies a test. -/
def typeMask (p : FTy → Bool) (off : Nat) : Word := match regAt off with | some r => r.mask p | none => 0

/-- The RWL bits of a register. -/
def rwlMask (off : Nat) : Word := typeMask (· == .rwl) off

/-- The offsets of a register's copies. -/
def RDesc.offsets (r : RDesc) : List Nat :=
  (List.range r.n1).flatMap (fun i => (List.range r.n2).map (fun j => r.base + i * r.s1 + j * r.s2))

/-- Insertion into a rising list; an offset enters once. -/
def insertOff (x : Nat) : List Nat → List Nat
  | [] => [x]
  | y :: ys => if x < y then x :: y :: ys else if x = y then y :: ys else y :: insertOff x ys

/-- A list of offsets in rising order. -/
def sortOffs (l : List Nat) : List Nat := l.foldr insertOff []

/-! ### The check value -/

/-- The ASCII string "SX6144CCV1" as bytes (R343). -/
def ccvSeed : List Byte := [0x53, 0x58, 0x36, 0x31, 0x34, 0x34, 0x43, 0x43, 0x56, 0x31]

/-- The covered registers of R343 in rising order. DEDUCED, log entry 34. -/
def Dev.ccvOffsets (d : Dev) : List Nat :=
  let sov := allArms.filter (fun a => d.is (SAF_SOVCFG_EN a))
  let ecfg := sov.flatMap (fun a => [ADC_ECFG 0 (d.get (SAF_SOVCFG_CHA a)), ADC_ECFG 1 (d.get (SAF_SOVCFG_CHB a))])
  [CYC_PERIOD, CYC_DTX] ++ ringPorts.flatMap (fun p => [RING_CTRL p, RING_MAP p])
    ++ allArms.flatMap (fun a => [ARM_SELCFG a, ARM_NREQ a]) ++ allArms.map SCH_ACTL
    ++ [ADC_SCTL 0, ADC_SCTL 1] ++ sortOffs ecfg ++ [DPX_CFG] ++ sortOffs (regsSAF.flatMap RDesc.offsets)

/-- One record of the check value: offset and RWL bits (R343). -/
def Dev.ccvRecord (d : Dev) (off : Nat) : List Byte := leBytes 4 off ++ leBytes 4 (d.word off &&& rwlMask off).toNat

/-- The configuration check value of the registers as they stand (R343). -/
def Dev.ccvOf (d : Dev) : BitVec 64 := shake64 (ccvSeed ++ d.ccvOffsets.flatMap d.ccvRecord)

/-! ### The rules -/

/-- A first failing element: its detail. -/
def firstBad (l : List Nat) (bad : Nat → Bool) : Option Nat := l.find? bad

/-- A rule without an element: detail 0. -/
def fails (b : Bool) : Option Nat := if b then some 0 else none

/-- The timing registers as they stand (R38, R41). -/
def Dev.timing (d : Dev) : Timing :=
  ⟨d.get CYC_PERIOD_PERIOD, d.get CYC_DTX_DTX, 10 * d.get CYC_RESA_SORT, 10 * d.get CYC_RESB_LOOP, 10 * d.get CYC_RESA_SCH,
   10 * d.get CYC_RESA_GUARD⟩

/-- Whether t_ret reaches d_tx (R34, R42). -/
def Timing.closes (t : Timing) : Bool := decide (t.dtx + t.sort + t.loop + t.sch + t.grd ≤ t.tcyc)

/-- The ports in use. -/
def Dev.portsUsed (d : Dev) : List Nat := ringPorts.filter d.inUse

/-- The arms with mapped cells. -/
def Dev.mappedArms (d : Dev) : List Nat := allArms.filter (fun a => !(d.armCells a).isEmpty)

/-- Cells of an arm by the cell map. -/
def Dev.mapCount (d : Dev) (a : Nat) : Nat := (d.armPorts a).foldl (fun n p => n + d.get (RING_MAP_NCELL p)) 0

/-- CYCRES (R41, R42). -/
def Dev.badCycRes (d : Dev) : Bool :=
  let t := d.timing
  let n := listMax (allArms.map d.mapCount)
  !t.closes || t.sort < (128 + 3 * n + 39) / 40 * 10 || t.sch < (800 + 3 * n + 79) / 80 * 10 || t.grd < 500
    || t.loop < d.loopMin

/-- CYCBUD (R45, R46) on a port, in eighths of a ns. -/
def Dev.badBudget (d : Dev) (p : Nat) : Bool :=
  let t := d.timing
  let n := (d.port p).discovered
  let fixed := 8 * t.dtx + 260 + 264 * n
  n != 0 && (8 * t.tret < fixed + d.get (RING_LINK_LINK p 0) || 8 * t.tret < fixed + d.get (RING_LINK_LINK p 1))

/-- The wrap budget of R85 on a port fails, in eighths of a ns. The relay's 500 ns are added for a unit of a duplex pair
(DPX_CFG.MODE = 1), whatever the port's RING_CTRL.DPX. DESIGN CHOICE, log entry 68. -/
def Dev.badWrap (d : Dev) (p : Nat) : Bool :=
  let t := d.timing
  let n := (d.port p).discovered
  let relay := if d.get DPX_CFG_MODE = 1 then 4000 else 0
  n != 0 && 8 * t.tret < 8 * t.dtx + 100 + 424 * n + d.get (RING_LINK_LINK p 0) + d.get (RING_LINK_LINK p 1) + relay

/-- The ports of a port's arm up to it, by number. -/
def Dev.armUpTo (d : Dev) (p : Nat) : List Nat := (d.armPorts (d.portArm p)).filter (· ≤ p)

/-- MAPARM (R95). -/
def Dev.badMapArm (d : Dev) (p : Nat) : Bool := decide (11 < d.portArm p) || decide (8 < (d.armUpTo p).length)

/-- MAPSIZE (R95). -/
def Dev.badMapSize (d : Dev) (p : Nat) : Bool :=
  decide (128 < d.get (RING_MAP_NCELL p)) || decide (1024 < (d.armUpTo p).foldl (fun n q => n + d.get (RING_MAP_NCELL q)) 0)

/-- The range of arm-local indexes of a port, from and to. -/
def Dev.mapRange (d : Dev) (p : Nat) : Nat × Nat :=
  let b := d.get (RING_MAP_LBASE p)
  (b, b + d.get (RING_MAP_NCELL p))

/-- MAPOVL (R95). -/
def Dev.badMapOvl (d : Dev) (p : Nat) : Bool :=
  let (b, e) := d.mapRange p
  (d.armUpTo p).any fun q => let (x, y) := d.mapRange q; q != p && decide (b < y) && decide (x < e) && b != e && x != y

/-- MAPGAP (R95). -/
def Dev.badMapGap (d : Dev) (p : Nat) : Bool :=
  let (b, e) := d.mapRange p
  b != e && b != 0 && (d.armPorts (d.portArm p)).all (fun q => let (x, y) := d.mapRange q; x == y || y != b)

/-- MAPTYP (R95): a port whose own cells are of both types, or a type other than that of the arm's other ports. -/
def Dev.badMapTyp (d : Dev) (p : Nat) : Bool :=
  (d.port p).discovered != 0 && (d.get (RING_DINFO_CTYPE p) == 3 ||
    (d.armUpTo p).any (fun q => (d.port q).discovered != 0 && d.get (RING_DINFO_CTYPE q) != d.get (RING_DINFO_CTYPE p)))

/-- HHOLD (R95). -/
def Dev.badHhold (d : Dev) (p : Nat) : Bool :=
  let h := d.get (RING_CTRL_HHOLD p)
  h == 0 || decide (8 < h) || (d.is (RING_CTRL_DPX p) && decide (h < 3))

/-- Whether some arm of a list is not BLOCKED. -/
def Dev.anyActive (d : Dev) (l : List Nat) : Bool := l.any (fun a => decide (a < 12) && decide (d.arm a ≠ .blocked))

/-- MAPRUN (R95) on a port, against the device as it is. DEDUCED, log entry 40. -/
def Dev.badMapRun (d old : Dev) (p : Nat) : Bool :=
  (d.inUse p || old.inUse p) &&
    (d.word (RING_MAP p) != old.word (RING_MAP p) || d.get (RING_CTRL_HHOLD p) != old.get (RING_CTRL_HHOLD p)) &&
    old.anyActive [old.portArm p, d.portArm p]

/-- MAPRUN (R220) on an arm. -/
def Dev.badModeRun (d old : Dev) (a : Nat) : Bool :=
  (d.get (SCH_ACTL_MODE a) != old.get (SCH_ACTL_MODE a) || d.get (SCH_ACTL_VSRC a) != old.get (SCH_ACTL_VSRC a)) &&
    old.anyActive [a]

/-- LANERUN (R125) on a ring lane. -/
def Dev.badLaneRun (d old : Dev) (n : Nat) : Bool :=
  ((d.word (LANE_CTRL n) ^^^ old.word (LANE_CTRL n)) &&& rwlMask (LANE_CTRL n)) != 0 &&
    old.anyActive [old.portArm (n / 2)]

/-- ARMCFG (R207). -/
def Dev.badArmCfg (d : Dev) (a : Nat) : Bool :=
  let kest := d.get (ARM_ESTCFG_KEST a)
  let kesr := d.get (ARM_ESTCFG_KESR a)
  d.get (ARM_CFG_MODE a) == 3
    || ((d.is (ARM_CFG_PRED a) || d.is (ARM_CFG_EST a)) && (d.word (ARM_CNOM a) == 0 || d.word (ARM_ISCALE a) == 0))
    || decide (kest < 4 ∨ 16 < kest ∨ kesr < 4 ∨ 16 < kesr)
    || decide (300 < d.get (ARM_ESTTH_QMIN a)) || decide (30000 < d.get (ARM_ESTTH_DVMIN a))
    || d.get (ARM_ESTLIM_NACCMAX a) == 0 || d.get (ARM_SELCFG_STALEMAX a) == 0
    || decide ((d.armCells a).length < d.get (ARM_NREQ_NREQ a))
    || d.word (ARM_VSCALE a) == 0 || d.word (ARM_ESCALE a) == 0
    || (d.get (ARM_CFG_MODE a) == 2 && decide (d.get (ARM_BUDCAP_CAP a) < d.get (ARM_BUDCAP_PINTH a)))

/-- SCHCFG (R220). -/
def Dev.badSchCfg (d : Dev) (a : Nat) : Bool :=
  d.word (SCH_VBASE a) == 0 || (d.is (SCH_ACTL_MODE a) && decide (48 < (d.armCells a).length))

/-- Elements of a LOOP_PROG type (R252). -/
def elemCount (type : Nat) : Nat :=
  match type with
  | 1 => 128 | 2 => 32 | 3 => 32 | 4 => 16 | 5 => 16 | _ => 0

/-- The programme's entries that are not empty: entry, type, index. -/
def Dev.progEntries (d : Dev) : List (Nat × Nat × Nat) :=
  ((List.range 256).map (fun e => (e, d.entry e))).filter (fun x => x.2.1 != 0)

/-- The first entry that names no element, or names one that an earlier entry names (R252). -/
def badEntry (l seen : List (Nat × Nat × Nat)) : Option Nat :=
  match l with
  | [] => none
  | x :: xs =>
    if elemCount x.2.1 ≤ x.2.2 ∨ seen.any (fun y => y.2 == x.2) then some x.1 else badEntry xs (x :: seen)

/-- The entry range of a group, from and to. -/
def Dev.groupRange (d : Dev) (g : Nat) : Nat × Nat :=
  let s := d.get (LOOP_GCFG_PSTART g)
  (s, s + d.get (LOOP_GCFG_PLEN g))

/-- A group whose range or phase R252 refuses. -/
def Dev.badGroup (d : Dev) (g : Nat) : Bool :=
  let (s, e) := d.groupRange g
  s != e && (decide (256 < e) || decide (d.get (LOOP_GCFG_NM1 g) < d.get (LOOP_GCFG_PH g)) ||
    (List.range g).any (fun h => let (x, y) := d.groupRange h; x != y && decide (s < y) && decide (x < e)))

/-- A compensator that R252 refuses. -/
def Dev.badComp (d : Dev) (i : Nat) : Bool :=
  let aw := d.get (LOOP_CCFG_AW i)
  decide (2 ≤ d.get (LOOP_CCFG_FORM i)) || aw == 3 || (d.is (LOOP_CCFG_WRAP i) && aw != 0) ||
    (aw != 0 && !d.is (LOOP_CCFG_LOSLOT i) && !d.is (LOOP_CCFG_HISLOT i) &&
      decide ((d.word (LOOP_CHI i)).toInt < (d.word (LOOP_CLO i)).toInt))

/-- The entry and group of an element in the programme. -/
def Dev.placeOf (d : Dev) (l : List (Nat × Nat × Nat)) (type idx : Nat) : Option (Nat × Nat) :=
  match l.find? (fun x => x.2 == (type, idx)) with
  | some x => ((List.range 16).find? (fun g => let (s, e) := d.groupRange g; decide (s ≤ x.1) && decide (x.1 < e))).map
      (fun g => (x.1, g))
  | none => none

/-- A hand-over unit that R252 refuses: its instances, and for a unit of the programme their places. DEDUCED, log entry 40. -/
def Dev.badHandOver (d : Dev) (l : List (Nat × Nat × Nat)) (h : Nat) : Bool :=
  let i := d.get (LOOP_HCFG_INSTA h)
  let j := d.get (LOOP_HCFG_INSTB h)
  i == j || d.is (LOOP_CCFG_WRAP i) || d.is (LOOP_CCFG_WRAP j) ||
    (match d.placeOf l 5 h with
    | none => false
    | some (e, g) =>
      let off := fun n => match d.placeOf l 1 n with | some (x, y) => y != g || decide (e < x) | none => true
      off i || off j)

/-- LOOPCFG (R252), naming the entry, group, compensator, transform unit or hand-over unit by its number. -/
def Dev.badLoop (d : Dev) : Option Nat :=
  let l := d.progEntries
  badEntry l [] <|> firstBad (List.range 16) d.badGroup <|> firstBad (List.range 128) d.badComp
    <|> firstBad (List.range 16) (fun t => decide (5 ≤ d.get (LOOP_TCFG_TYPE t)))
    <|> firstBad (List.range 16) (d.badHandOver l)

/-- A converter in cycle mode and enabled. -/
def Dev.cycleAdc (d : Dev) (x : Nat) : Bool := d.is (ADC_SCTL_EN x) && !d.is (ADC_SCTL_MODE x)

/-- ADCSEQ (R264), naming converter and entry as 32x + i. -/
def Dev.badAdcSeq (d : Dev) : Option Nat :=
  let per := fun x =>
    let len := d.get (ADC_SCTL_LEN x)
    let sofs := d.get (ADC_SCTL_SOFS x)
    if d.is (ADC_SCTL_EN x) = false then none
    else if (d.cycleAdc x && decide (d.timing.tcyc < 10 * sofs + 1000 * len + 100)) || len == 0 || decide (32 < len)
        || (d.cycleAdc x && d.word ADC_HOLD != 0 && decide (sofs < d.get ADC_HOLDOFS_HOLDOFS)) then some (32 * x)
    else (firstBad (List.range len) (fun i => decide (23 < d.get (ADC_ECFG_CH x i)) || decide (8 < d.get (ADC_ECFG_AVG x i))
        || decide (8 < d.get (ADC_ECFG_SHIFT x i)))).map (32 * x + ·)
  per 0 <|> per 1

/-- When the ADC entry of a slot below 64 publishes, in ns after t₀. -/
def Dev.publishAt (d : Dev) (slot : Nat) : Nat := 10 * d.get (ADC_SCTL_SOFS (slot / 32)) + 1000 * (slot % 32 + 1)

/-- The ADC slots that a list of arms name as arm current. -/
def Dev.isrcSlots (d : Dev) (arms : List Nat) : List Nat := (arms.map (fun a => d.get (ARM_ISRC_SLOT a))).filter (· < 64)

/-- ADCLATE (R264), naming the slot. -/
def Dev.badAdcLate (d : Dev) : Option Nat :=
  firstBad (d.isrcSlots d.mappedArms) fun s =>
    let x := s / 32
    let i := s % 32
    !d.cycleAdc x || decide (d.get (ADC_SCTL_LEN x) ≤ i) || !d.is (ADC_ECFG_SLOTEN x i) || d.get (ADC_ECFG_AVG x i) != 0
      || decide (d.timing.tret < d.publishAt s)

/-- S_cmd of R302 and R306. -/
def Dev.cmdsSize (d : Dev) : Nat :=
  let count := fun a => (d.armCells a).length
  let m := d.mappedArms.foldl (fun n a => n + count a) 0
  let e := d.mappedArms.foldl (fun n a => n + if d.is (SCH_ACTL_MODE a) then count a else 1) 0
  let p := cmdsBytes m e
  p + 32 * ((p + 1023) / 1024)

/-- L_ing (R307): NS above 414 acts as 414. -/
def Dev.ingotLen (d : Dev) : Nat := 9760 + 16 * min (d.get DPX_INGCFG_NS) 414

/-- SEGS as it acts. -/
def Dev.castSegs (d : Dev) : Nat := max (d.get DPX_CASTCFG_SEGS) 1

/-- DPXBUD (R306), times in 64ths of a ns. -/
def Dev.badDpxBud (d : Dev) : Bool :=
  let t := d.timing
  let s := d.cmdsSize
  let ing := 1056 * ((d.ingotLen + 1023) / 1024)
  d.get DPX_CFG_MODE == 1 &&
    (decide (64 * (t.grd + t.dtx) < 13 * s + 19200)
      || decide (64 * (t.tcyc - t.grd) < 13 * (s + ing + 1056 * d.castSegs + 2624))
      || (d.isrcSlots allArms).any (fun n => decide (t.tret < d.publishAt n + 400)))

/-- DPXCFG (R291), naming the port. -/
def Dev.badDpxCfg (d : Dev) : Option Nat :=
  if d.get DPX_CFG_MODE = 3 then some 0
  else if d.get DPX_CFG_MODE = 1 then
    firstBad d.portsUsed (fun p => !d.is (RING_CTRL_DPX p) || d.get (RING_CTRL_OWNEND p) != d.get DPX_CFG_UNIT)
  else none

/-- A number outside a range. -/
def outside (v lo hi : Nat) : Bool := decide (v < lo) || decide (hi < v)

/-- An SOV that R342 refuses. -/
def Dev.badSov (d : Dev) (a : Nat) : Bool :=
  let i := d.get (SAF_SOVCFG_CHA a)
  let j := d.get (SAF_SOVCFG_CHB a)
  let plain := fun x n => decide (n < d.get (ADC_SCTL_LEN x)) && d.get (ADC_ECFG_AVG x n) == 0 && d.get (ADC_ECFG_SHIFT x n) == 0
  d.is (SAF_SOVCFG_EN a) && !(d.cycleAdc 0 && d.cycleAdc 1 && plain 0 i && plain 1 j &&
    d.get (ADC_ECFG_RANGE 0 i) == d.get (ADC_ECFG_RANGE 1 j) &&
    decide (d.get (SAF_SOVLIM_HYS a) < d.get (SAF_SOVLIM_LIM a)) && d.get (SAF_SOVARMS_SOVARMS a) != 0)

/-- SAFCFG (R342). -/
def Dev.badSaf (d : Dev) : Option Nat :=
  firstBad allArms d.badSov <|> fails
    (outside (d.get SAF_TIM_FILT) 1 1000 || outside (d.get SAF_TIM_TDISC) 1 500 || outside (d.get SAF_TDEG0_TSAF) 1 10000
      || outside (d.get SAF_TDEG0_TCLK) 1 10000 || outside (d.get SAF_TDEG1_TRING) 1 10000
      || outside (d.get SAF_TDEG1_RECOV) 1 10000 || outside (d.get SAF_SUP_MISSLIM) 1 255
      || outside (d.get SAF_SUP_LATELIM) 1 255 || outside (d.get SAF_STCFG_STTO) 1 1000)

/-- The flows. -/
def allFlows : List Nat := List.range 256

/-- SVCCFG (R413), naming the flow or binding. -/
def Dev.badSvc (d : Dev) : Option Nat :=
  let mirrors := allFlows.filter (fun f => d.is (SVC_FCFG_MIRROR f))
  fails (outside (d.get SVC_CFG_TICK) 100 1000000)
    <|> firstBad allFlows (fun f => d.is (SVC_FCFG_EN f) && d.get (SVC_FCFG_PAIRS f) == 0)
    <|> mirrors[32]?
    <|> firstBad (List.range 16) (fun i => d.is (SVC_BIND_EN i) && !d.is (SVC_FCFG_EN (d.get (SVC_BIND_FLOW i))))
    <|> fails (d.get SVC_SPILLSZ_SIZE != 0 && decide (d.ddrPages < d.get SVC_SPILL_BASE + d.get SVC_SPILLSZ_SIZE))

/-- CLKGATE (R453), naming the gate: its bit of CLK_GATE0, or 32 and its bit of CLK_GATE1. -/
def Dev.badGate (d : Dev) : Option Nat :=
  let g1 := d.word CLK_GATE1
  (firstBad d.mappedArms (fun a => !d.gateOpen0 a))
    <|> (firstBad d.portsUsed (fun p => !g1.getLsbD (p / 2))).map (fun p => 32 + p / 2)
    <|> (if (d.is (ADC_SCTL_EN 0) ∨ d.is (ADC_SCTL_EN 1)) ∧ g1.getLsbD 25 = false then some 57 else none)

/-- The rules of R374 below SPLIT, in ascending order of their codes: code and detail of the first that fails on `d`, a
configuration for the device `old`. DEDUCED, log entry 40. -/
def Dev.ruleFailure (d old : Dev) : Option (Nat × Nat) :=
  let r := fun (code : Nat) (x : Option Nat) => x.map (fun n => (code, n))
  let ps := d.portsUsed
  let as := d.mappedArms
  r 0x01 (fails d.badCycRes) <|> r 0x02 (firstBad ps d.badBudget)
    <|> r 0x03 (fails (old.running && d.get CYC_DTX_DTX != old.get CYC_DTX_DTX))
    <|> r 0x04 (fails (!old.allBlocked && d.get CYC_PERIOD_PERIOD != old.get CYC_PERIOD_PERIOD))
    <|> r 0x05 (firstBad ps d.badMapArm) <|> r 0x06 (firstBad ps d.badMapSize) <|> r 0x07 (firstBad ps d.badMapOvl)
    <|> r 0x08 (firstBad ps d.badMapGap)
    <|> r 0x09 (firstBad ps (fun p => d.get (RING_MAP_NCELL p) != (d.port p).discovered))
    <|> r 0x0A (firstBad ps d.badMapTyp)
    <|> r 0x0B (firstBad ps (fun p => decide (d.timing.dtx < 10 * d.get (RING_DINFO_TCONVMAX p))))
    <|> r 0x0C (firstBad ps d.badHhold)
    <|> r 0x0D (firstBad ringPorts (d.badMapRun old)) <|> r 0x0D (firstBad allArms (d.badModeRun old))
    <|> r 0x0E (firstBad (List.range 96) (d.badLaneRun old))
    <|> r 0x0F (firstBad as d.badArmCfg) <|> r 0x10 (firstBad as d.badSchCfg) <|> r 0x11 d.badLoop
    <|> r 0x12 d.badAdcSeq <|> r 0x13 d.badAdcLate
    <|> r 0x14 (fails (!old.allBlocked && d.word DPX_CFG != old.word DPX_CFG))
    <|> r 0x15 d.badDpxCfg <|> r 0x16 (fails d.badDpxBud) <|> r 0x17 d.badSaf
    <|> r 0x18 (fails (!old.allBlocked && d.ccvOf != old.ccvOf)) <|> r 0x19 d.badSvc <|> r 0x1A d.badGate
    <|> r 0x1B (fails (!old.divsAtReset))

/-- The device as it would stand with a register file: the cell map follows it (R519). -/
def Dev.withConfig (d : Dev) (st : Store) : Dev := ({ d with regs := st }).each ringPorts fun p d => d.mapPort p

/-- A group's records on a register file: each replaces the RW and RWL fields of its register (R375). -/
def Store.applyGroup (st : Store) (g : List EpRec) : Store :=
  g.foldl (fun s r =>
    let m := typeMask (fun t => t == .rw || t == .rwl) r.off
    s.put r.off ((s.get r.off &&& ~~~ m) ||| (r.value &&& m))) st

/-- Whether a group changes one of the four registers of R55. -/
def Store.splits (st : Store) (g : List EpRec) : Bool :=
  [CYC_PERIOD, CYC_DTX, CYC_RESA, CYC_RESB].any (fun o => (st.applyGroup g).get o != st.get o)

/-- Validation of groups one after another (R376): the first failing code with its detail; `n` is the group's index, `split`
says whether an earlier group changed one of the registers of R55. -/
def Dev.validateGroups (d old : Dev) (n : Nat) (split : Bool) (gs : List (List EpRec)) : Option (Nat × Nat) :=
  match gs with
  | [] => none
  | g :: rest =>
    let s := old.regs.splits g
    match (d.withConfig (d.regs.applyGroup g)).ruleFailure old with
    | some x => some x
    | none => if s ∧ split then some (0x22, n) else (d.withConfig (d.regs.applyGroup g)).validateGroups old (n + 1) (split || s) rest

/-- A validation reports the minimum t_loop of the configuration it judges (R247). DESIGN CHOICE, log entry 26. -/
def Dev.reportLoopMin (d cfg : Dev) : Dev := d.set LOOP_TEXEC_MIN (min cfg.loopMin 0xFFFF)

/-- Posts WRAPBUD for the first port whose wrap budget fails (R85). -/
def Dev.wrapbud (d cfg : Dev) (o : Origin) : Dev :=
  match firstBad cfg.portsUsed cfg.badWrap with
  | some p => d.event 0x0007 o p
  | none => d

end Sys2Proof.Machine
end

