-- ==== Sys2Proof/Machine/Live.lean ====
section
/-! DEFINITION. Registers whose value follows from other state at the moment of the read: summaries (R23, R30 to R32), times
(R159, R162), counts, fuse and MRAM contents (R14, R466, R479). -/

namespace Sys2Proof.Machine

open Sys2Proof

/-! ### Attention (R23) -/

/-- Whether an enabled flag of a register is set: flags and enables stand in the low bits of two registers. -/
def Dev.flagged (d : Dev) (flags enables : Nat) : Bool := d.word flags &&& d.word enables != 0

/-- A summary bit. -/
def bitIf (b : Bool) (n : Nat) : Nat := if b then 2 ^ n else 0

/-- A lane's attention output. -/
def Dev.laneAttn (d : Dev) (n : Nat) : Bool := d.flagged (LANE_EVT n) (LANE_ATTN_EN n)

/-- A ring port's summary bit, with its two lanes. -/
def Dev.ringAttn (d : Dev) (p : Nat) : Bool :=
  d.flagged (RING_EVT p) (RING_ATTN_EN p) || d.laneAttn (2 * p) || d.laneAttn (2 * p + 1)

/-- TOP_DSUM_CTRL. CYC's flags stand in CYC_STAT[6:0]. -/
def Dev.sumCtrl (d : Dev) : Nat :=
  maskWhere 12 (fun a => d.flagged (ARM_EVT a) (ARM_ATTN_EN a)) + bitIf (d.flagged CYC_STAT CYC_ATTN_EN) 12
    + bitIf (d.flagged SCH_EVT SCH_ATTN_EN || allArms.any (fun a => d.flagged (SCH_AEVT a) (SCH_AATTN_EN a))) 13
    + bitIf (d.flagged LOOP_EVT LOOP_ATTN_EN) 14

/-- TOP_DSUM_RING. -/
def Dev.sumRing (d : Dev) : Nat := maskWhere 48 d.ringAttn

/-- TOP_DSUM_TIME. -/
def Dev.sumTime (d : Dev) : Nat := bitIf (d.flagged TIM_EVT TIM_ATTN_EN) 0 + bitIf (d.flagged CLK_EVT CLK_ATTN_EN) 1

/-- Whether a recorder instance holds an attention flag: by the enables it took at its last arming, before that as they stand (R276). -/
def Dev.recAttn (d : Dev) (n : Nat) : Bool :=
  match d.rcd.insts[n]? with
  | some x => if x.taken then d.get (REC_EVT_EVT n) &&& x.cfg.getF (REC_ATTN_EN_EN n) != 0 else d.flagged (REC_EVT n) (REC_ATTN_EN n)
  | none => false

/-- TOP_DSUM_MEAS. -/
def Dev.sumMeas (d : Dev) : Nat :=
  bitIf (d.flagged ADC_EVT ADC_ATTN_EN) 0
    + 2 * maskWhere 4 (fun n => d.recAttn n || (n == 0 && d.flagged REC_GEVT REC_GATTN_EN))

/-- TOP_DSUM_DPX. -/
def Dev.sumDpx (d : Dev) : Nat :=
  bitIf (d.flagged DPX_EVT DPX_ATTN_EN || d.flagged DPX_WEVT DPX_WATTN_EN) 0 + 2 * maskWhere 4 (fun i => d.laneAttn (96 + i))

/-- TOP_DSUM_SAFE. -/
def Dev.sumSafe (d : Dev) : Nat := bitIf (d.flagged SAF_EVT SAF_ATTN_EN) 0

/-- TOP_DSUM_PLAT. -/
def Dev.sumPlat (d : Dev) : Nat :=
  bitIf (d.flagged HIF_EVT HIF_ATTN_EN) 0
    + 2 * maskWhere 4 (fun n => d.flagged (SVC_PEVT n) (SVC_PATTN_EN n) || (n == 0 && d.flagged SVC_EVT SVC_ATTN_EN))
    + bitIf (d.flagged ARB_EVT ARB_ATTN_EN) 5 + bitIf (d.flagged MEM_EVT MEM_ATTN_EN) 6 + bitIf (d.flagged RST_EVT RST_ATTN_EN) 7

/-- TOP_DSUM_SECU. -/
def Dev.sumSecu (d : Dev) : Nat :=
  bitIf (d.flagged SEC_EVT SEC_ATTN_EN) 0 + bitIf (d.flagged AUD_EVT AUD_ATTN_EN) 1 + bitIf (d.flagged DIAG_EVT DIAG_ATTN_EN) 2

/-- TOP_STAT[7:0]. -/
def Dev.domains (d : Dev) : Nat :=
  bitIf (d.sumCtrl != 0) 0 + bitIf (d.sumRing != 0) 1 + bitIf (d.sumMeas != 0) 2 + bitIf (d.sumTime != 0) 3
    + bitIf (d.sumDpx != 0) 4 + bitIf (d.sumSafe != 0) 5 + bitIf (d.sumPlat != 0) 6 + bitIf (d.sumSecu != 0) 7

/-- TOP_STAT (R30). SAFEOK shows both SAFE_OK balls energised, as read back. -/
def Dev.topStat (d : Dev) : Nat :=
  d.domains + d.dstate.code * 2 ^ 12 + d.role.code * 2 ^ 16 + bitIf (d.bit SAF_PIN_PINS 6 && d.bit SAF_PIN_PINS 7) 19 + bitIf (d.is SAF_STAT_SAFDEG) 20
    + bitIf (d.is CLK_STAT_CLKDEG) 21 + bitIf (ringPorts.any (fun p => d.inUse p && d.is (RING_STAT_SPATH p))) 22

/-- TOP_ARMSTATE (R31). -/
def Dev.armStates (d : Dev) : Nat :=
  allArms.foldl (fun n a => n + (if (d.armCells a).isEmpty then 0 else (d.arm a).code) * 4 ^ a) 0

/-- The TOP registers that follow other state. DESIGN CHOICE, log entries 11, 70. -/
def Dev.liveTop (d : Dev) (nv : Nonvol) (off : Nat) : Option Nat :=
  if off = TOP_REV then some ((d.word off).toNat + nv.fuses.grade % 16 * 256)
  else if off = TOP_UID_LO then some nv.fuses.uid.toNat
  else if off = TOP_UID_HI then some (nv.fuses.uid.toNat / 2 ^ 32)
  else if off = TOP_CAP1 then
    some ((d.word off).toNat + bitIf nv.fuses.testen 0 + countOver [1, 2, 3, 4] (fun s => (nv.slot s).valid) * 16)
  else if off = TOP_STAT then some d.topStat
  else if off = TOP_ARMSTATE then some d.armStates
  else if off = TOP_DSUM_CTRL then some d.sumCtrl
  else if off = TOP_DSUM_RING_LO then some d.sumRing
  else if off = TOP_DSUM_RING_HI then some (d.sumRing / 2 ^ 32)
  else if off = TOP_DSUM_TIME then some d.sumTime
  else if off = TOP_DSUM_MEAS then some d.sumMeas
  else if off = TOP_DSUM_DPX then some d.sumDpx
  else if off = TOP_DSUM_SAFE then some d.sumSafe
  else if off = TOP_DSUM_PLAT then some d.sumPlat
  else if off = TOP_DSUM_SECU then some d.sumSecu
  else none

/-! ### Times and counts -/

/-- ns since t₀ of the current cycle, as 32 bits; 0 before the first cycle. DESIGN CHOICE, log entry 11. -/
def Dev.phaseWord (d : Dev) : Nat := if d.cyc.inCycle then d.phaseNs % 2 ^ 32 else 0

/-- SCH_ICAL's TAPS: the smallest accepted, whether it applies yet or not; 0 while none is (R229). -/
def Dev.icalTaps (d : Dev) : Nat :=
  match d.sch.interps.filterMap (fun i => i.next.orElse (fun _ => i.taps)) with
  | [] => 0
  | t :: ts => listMin ts t

/-- Time in µs since an interpolator's last acceptance, saturating. -/
def Dev.interpAge (d : Dev) (i : Interp) : Nat := if i.taps.isNone ∧ i.next.isNone then 0xFFFF else min ((d.time.up - i.at_) / 1000) 0xFFFF

/-- SCH_STAT.ICALOK (R230). -/
def Dev.icalOk (d : Dev) : Bool :=
  d.sch.interps.all (fun i => (i.taps.isSome || i.next.isSome) && !i.rejected &&
    decide (d.time.up - i.at_ ≤ 4000 * max (d.get SCH_ICALCFG_INTERVAL) 1))

/-- SAF_RINGMIN: the ring timer that runs with the least time remaining, lowest port on a tie. -/
def Dev.ringMin (d : Dev) : Nat :=
  let rem := fun p => (d.ringTimer p).remain d.time.cio (d.get SAF_TDEG1_TRING)
  let (p, r) := ringPorts.foldl (fun (b : Nat × Nat) p => if rem p < b.2 then (p, rem p) else b) (0, 0x3FFF)
  p * 2 ^ 24 + r

/-- Seconds of a number of ns, rounded up. -/
def seconds (ns : Nat) : Nat := (ns + 999999999) / 1000000000

/-- The registers of blocks from CLK to DPX that follow other state. DESIGN CHOICE, log entry 11. -/
def Dev.liveMid (d : Dev) (off : Nat) : Option Nat :=
  if off = CLK_GUSE0 then some d.gateUse0
  else if off = CLK_GUSE1 then some d.gateUse1
  else if off = RST_STAT then some (RST_STAT_PSTATE.into (d.word off) d.powerState).toNat
  else if off = CYC_PHASE then some d.phaseWord
  else if TIM_TB_NS 0 ≤ off ∧ off < TIM_TB_NS 4 then
    let n := (off - TIM_TB_NS 0) / 8
    some (if off % 8 = 0 then (nsOf (d.tb n)).toNat else (fracOf (d.tb n)).toNat)
  else if off = TIM_STAT then some (TIM_STAT_SLEWING.into (d.word off) (if d.time.slew = 0 then 0 else 1)).toNat
  else if off = SCH_STAT then some (SCH_STAT_ICALOK.into (d.word off) (if d.icalOk then 1 else 0)).toNat
  else if off = SCH_ICAL then some (listMax (d.sch.interps.map d.interpAge) * 2 ^ 16 + d.icalTaps)
  else if off = DPX_INGLEN then some d.ingotLen
  else if off = DPX_WSTAT then
    let hb := fun (u : WitUnit) => match u.at_ with | some t => decide (d.time.cio - t < d.get DPX_WTO_WTO) | none => false
    some (DPX_WSTAT_HBB.into (DPX_WSTAT_HBA.into (d.word off) (if hb d.dpx.wit.a then 1 else 0)) (if hb d.dpx.wit.b then 1 else 0)).toNat
  else none

/-- The saturated count of a flow's items that wait (SVC_FSTAT). -/
def Dev.flowQueued (d : Dev) (f : Nat) : Nat := min (d.svc.ready.filter (fun x => x.flow == f)).length 0xFFFF

/-- The registers of SAF, HIF, SVC and ARB that follow other state; SVC_ENQRES and SVC_CANRES are the origin's own (R398). -/
def Dev.liveHost (d : Dev) (o : Origin) (nv : Nonvol) (off : Nat) : Option Nat :=
  if off = SAF_TREM then
    some (d.saf.ck.remain d.time.cio (d.get SAF_TDEG0_TCLK) * 2 ^ 16 + d.saf.sc.remain d.time.cio (d.get SAF_TDEG0_TSAF))
  else if off = SAF_RINGMIN then some d.ringMin
  else if off = SAF_CCVCONF_LO then some nv.mram.ccvconf.toNat
  else if off = SAF_CCVCONF_HI then some (nv.mram.ccvconf.toNat / 2 ^ 32)
  else if off = SAF_CONF then
    some (SAF_CONF_LOCKREM.into (d.word off) (match d.saf.lockUntil with | some t => seconds (t - d.time.cio) | none => 0)).toNat
  else if off = HIF_GPIOIN then 
    some ((d.hif.gpioDrv &&& d.hif.gpioLvl) ||| (~~~d.hif.gpioDrv &&& Config.gpioInput d.time.cio)).toNat
  else if off = SVC_FILL then some (d.svc.readyOn * 2 ^ 16 + d.svc.delayOn)
  else if off = SVC_SPILLN then some (min d.svc.readySp 0xFFFF * 2 ^ 16 + min d.svc.delaySp 0xFFFF)
  else if off = SVC_ENQRES then some (d.enqCopy o).res.toNat
  else if off = SVC_CANRES then some (d.enqCopy o).canres.toNat
  else if SVC_PNEXT 0 ≤ off ∧ off ≤ SVC_PNEXT 3 ∧ (off - SVC_PNEXT 0) % 0x40 = 0 then some (d.nextEv ((off - SVC_PNEXT 0) / 0x40))
  else if SVC_FSTAT 0 ≤ off ∧ off ≤ SVC_FSTAT 255 ∧ (off - SVC_FSTAT 0) % 0x10 = 0 then
    let f := (off - SVC_FSTAT 0) / 0x10
    some ((SVC_FSTAT_QUEUED f).into (d.word off) (d.flowQueued f)).toNat
  else if ARB_PSTAT 0 ≤ off ∧ off < ARB_PSTAT 72 then some (d.arbStat ((off - ARB_PSTAT 0) / 4)).toNat
  else none

/-! ### Fuses, MRAM and security -/

/-- SEC_STAT (R466, R474, R478). -/
def Dev.secStat (d : Dev) (nv : Nonvol) : Nat :=
  maskWhere 5 (fun s => (nv.slot s).damaged) * 2 ^ 24 + maskWhere 5 (fun s => (nv.slot s).revoked) * 2 ^ 16
    + maskWhere 5 (fun s => (nv.slot s).valid) * 2 ^ 8 + bitIf (decide (2 ^ 40 ≤ nv.mram.attIdx)) 4
    + bitIf (d.unlocked 1) 1 + bitIf (d.unlocked 2) 2 + bitIf (d.unlocked 3) 3 + bitIf d.sec.op.isSome 0

/-- The registers of SEC, DIAG and AUD that follow other state. -/
def Dev.liveSecu (d : Dev) (nv : Nonvol) (off : Nat) : Option Nat :=
  if off = SEC_STAT then some (d.secStat nv)
  else if SEC_CHAL 0 ≤ off ∧ off < SEC_CHAL 4 then
    some ((Config.challenge d.sec.draws).toNat / 2 ^ (32 * ((off - SEC_CHAL 0) / 4)))
  else if off = SEC_UNLREM then some (min (listMax (d.sec.unlocks.map (fun u => seconds (u.2.1 - d.time.up)))) 0xFFFF)
  else if off = SEC_ATTIDX_LO then some nv.mram.attIdx
  else if off = SEC_ATTIDX_HI then some (nv.mram.attIdx / 2 ^ 32 % 256)
  else if off = SEC_SVN then some (nv.mram.svn.zipIdx.foldl (fun n x => n + x.1 % 256 * 256 ^ x.2) 0)
  else if SEC_IDREC 0 ≤ off ∧ off < SEC_IDREC 725 then some (nth nv.fuses.idrec ((off - SEC_IDREC 0) / 4) 0).toNat
  else if off = DIAG_STAT then some (DIAG_STAT_MBRUN.into (d.word off) (if d.dstate = .boot then 0 else 1)).toNat
  else if off = AUD_STAT then some (AUD_STAT_WRAPPED.into (d.word off) (if nv.mram.wrapped then 1 else 0)).toNat
  else if off = AUD_HEAD then some (match nv.mram.log.head? with | some e => e.seq.toNat | none => 0)
  else if off = AUD_TAIL then some (match nv.mram.log.getLast? with | some e => e.seq.toNat | none => 0)
  else if off = AUD_ANCHOR_LO then some nv.anchor.toNat
  else if off = AUD_ANCHOR_HI then some (nv.anchor.toNat / 2 ^ 32)
  else none

/-- A register's value as an origin reads it, before any side effect of the read. DESIGN CHOICE, DEDUCED, log entries 11, 13,
41. -/
def Dev.peek (d : Dev) (nv : Nonvol) (o : Origin) (off : Nat) : Word :=
  let v :=
    if off < 0x010000 then d.liveTop nv off
    else if off < 0x210000 then d.liveMid off
    else if off < 0x260000 then d.liveHost o nv off
    else if off < 0x400000 then d.liveSecu nv off
    else none
  match v with
  | some n => dw n
  | none => d.word off

end Sys2Proof.Machine
end

