-- ==== Sys2Proof/Machine/Time.lean ====
section
/-! DEFINITION. The TIM block: sets, steps and rates of the time bases (R158 to R164), PTP and the TB1 servo (R172 to R179). -/

namespace Sys2Proof.Machine

open Sys2Proof

/-! ### Bases -/

/-- Sets TIM_WRAP.STEPn (R163). DEDUCED, log entry 12. -/
def Dev.stepped (d : Dev) (n : Nat) : Dev := d.raise TIM_WRAP_STEP n

/-- Keeps what a base held before a set or step of this ACLK cycle (R164). -/
def Dev.before (d : Dev) (n : Nat) : Dev :=
  if d.time.pre.any (fun x => x.1 == n) then d else { d with time := { d.time with pre := (n, d.tb n) :: d.time.pre } }

/-- A base's value before the sets and steps of this ACLK cycle. -/
def Dev.tbBefore (d : Dev) (n : Nat) : BitVec 48 := ((d.time.pre.find? (fun x => x.1 == n)).map (·.2)).getD (d.tb n)

/-- An access that captures bases in the ACLK cycle of the last set or step, where the tie says so: it finds the values from before
(R164). -/
def Dev.tied (d : Dev) (tie : Bool) (f : Dev → Dev) : Dev :=
  if tie then
    let t := d.time
    let e := f { d with time := { t with tb0 := d.tbBefore 0, tb1 := d.tbBefore 1, tb3 := d.tbBefore 3 } }
    { e with time := { e.time with tb0 := t.tb0, tb1 := t.tb1, tb3 := t.tb3 } }
  else f d

/-- A write that would log while the audit queue is full is discarded and sets HIF_EVT.AUDFULL (R387). -/
def Dev.audGate (d : Dev) (o : Origin) (f : Dev → Dev) : Dev :=
  if d.withheld o then d.raise HIF_EVT_EVT 3 else f d

/-- A write of TIM_TB0SET (R161, R163). The audit entry of kind 0x40 carries the change of TB0 in ns. -/
def Dev.tb0Set (d : Dev) (o : Origin) (v : Word) : Dev :=
  if d.running ∨ (d.role ≠ .solo ∧ d.role ≠ .witness) then d.raise TIM_EVT_TSETREF 0 |>.event 0x0006 o 0
  else
    d.audGate o fun d =>
      let step := v - nsOf d.time.tb0
      let d := d.before 0
      { d with time := { d.time with tb0 := (v.setWidth 48) <<< 16 } } |>.stepped 0 |>.audit 0x40 0xF step.toNat 0 o

/-- A write of TIM_CTRL.SNAP: all four bases in one ACLK cycle (R162). -/
def Dev.snap (d : Dev) : Dev :=
  d.each (List.range 4) fun n d =>
    d.setWord (TIM_SNAP_NS n) (nsOf (d.tb n)) |>.setWord (TIM_SNAP_FRAC n) (fracOf (d.tb n))

/-- A write of TIM_TB1STEP: a signed step in ns; the remaining slew is discarded (R164); audited as kind 0x40. -/
def Dev.tb1Step (d : Dev) (o : Origin) (v : Word) : Dev :=
  d.audGate o fun d =>
    let d := d.before 1
    { d with time := { d.time with tb1 := d.time.tb1 + ((v.setWidth 48) <<< 16), slew := 0 } }
      |>.stepped 1 |>.audit 0x40 0xF v.toNat 0 o

/-- A write of TIM_TB1SLEW, from service core pair 0 only (R176, R179); TB1 takes no slew in HOLDOVER (R178). -/
def Dev.tb1Slew (d : Dev) (o : Origin) (v : Word) : Dev :=
  if o = .svc 0 ∧ d.get TIM_STAT_TB1ST ≠ 3 then { d with time := { d.time with slew := v.toInt * 1024 } } else d

/-- A rate word clamped to ±100 ppm (R159). -/
def clampRate (v : Int) : Int := clampInt (-0x00068DB9) 0x00068DB9 v

/-- A write of TIM_TB1RATE, from service core pair 0 only (R179). -/
def Dev.tb1Rate (d : Dev) (o : Origin) (v : Word) : Dev :=
  if o = .svc 0 then d.setS TIM_TB1RATE_TB1RATE (clampRate v.toInt) else d

/-- A write of TIM_TB3SET: ns with a fraction of 0. -/
def Dev.tb3Set (d : Dev) (v : Word) : Dev :=
  let d := d.before 3
  { d with time := { d.time with tb3 := (v.setWidth 48) <<< 16, sub3 := 0 } } |>.stepped 3

/-- A write of TIM_TB3STEP: a signed step in ns. -/
def Dev.tb3Step (d : Dev) (v : Word) : Dev :=
  let d := d.before 3
  { d with time := { d.time with tb3 := d.time.tb3 + ((v.setWidth 48) <<< 16) } } |>.stepped 3

/-- A write of TIM_TB3RATE (R159). -/
def Dev.tb3Rate (d : Dev) (v : Word) : Dev := d.setS TIM_TB3RATE_TB3RATE (clampRate v.toInt)

/-- ns until a base carries at its nominal rate. -/
def toCarry (tb : BitVec 48) : Nat := (2 ^ 48 - tb.toNat + 0xFFFF) / 2 ^ 16

/-- Base n counts on until it carries (R163). A base with a rate term comes to its carry in at most 4 goes; the last is one ns longer,
for it still lacks a few ns. -/
def Dev.tbCarry (d : Dev) (n : Nat) : Dev :=
  let again := fun (m : Nat) (d : Dev) => if 2 ^ 47 ≤ (d.tb n).toNat then d.elapse (toCarry (d.tb n) + m) else d
  again 1 (again 0 (again 0 (d.elapse (toCarry (d.tb n)))))

/-! ### PTP -/

/-- Whether PTP runs on a station port (TIM_PTPCFG.EN0, EN1). -/
def Dev.ptpOn (d : Dev) (port : Nat) : Bool := if port = 0 then d.is TIM_PTPCFG_EN0 else d.is TIM_PTPCFG_EN1

/-- Whether a station port takes software timestamps (R173). -/
def Dev.ptpSoft (d : Dev) (port : Nat) : Bool := if port = 0 then d.is TIM_PTPCFG_TSMODE0 else d.is TIM_PTPCFG_TSMODE1

/-- A latency in 2⁻⁸ ns as 2⁻¹⁶ ns. -/
def latency (w : Word) : BitVec 48 := BitVec.ofInt 48 (w.toInt * 256)

/-- An ingress timestamp of TB1, at 1 ns resolution (R173). DEDUCED, log entry 57. -/
def Dev.ingress (d : Dev) (port : Nat) : BitVec 48 :=
  let cap := (d.time.tb1 >>> 16) <<< 16
  if d.ptpSoft port then cap else cap - latency (d.word (TIM_SP_INGLAT port))

/-- An egress timestamp of TB1 (R173). -/
def Dev.egress (d : Dev) (port : Nat) (t : BitVec 48) : BitVec 48 :=
  let cap := (t >>> 16) <<< 16
  if d.ptpSoft port then cap else cap + latency (d.word (TIM_SP_EGRLAT port))

/-- The grandmaster identity in force. -/
def Dev.gmid (d : Dev) : BitVec 64 := (d.word TIM_GMID_HI) ++ (d.word TIM_GMID_LO)

/-- The audit entry of a time source change (R177, R384): TB1 state and grandmaster. -/
def Dev.auditTime (d : Dev) : Dev :=
  d.audit 0x40 (d.get TIM_STAT_TB1ST) (d.word TIM_GMID_LO).toNat (d.word TIM_GMID_HI).toNat .device

/-- TB1 enters HOLDOVER: rate kept, slew discarded; HOLDSEC counts from here, or on from the entry before it if TB1 has not been
LOCKED since (R177, R178). -/
def Dev.toHoldover (d : Dev) : Dev :=
  let from_ := d.ptp.holdFrom.getD d.time.up
  let d := { d with time := { d.time with slew := 0 },
                    ptp := { d.ptp with sync := none, lockrun := 0, holdFrom := some from_ } }
  d.set TIM_STAT_TB1ST 3 |>.raise TIM_EVT_HOLDOVER 0 |>.recNote 8 |>.auditTime

/-- TB1 enters LOCKED: HOLDSEC and HOLDEXP clear (R177, R178). -/
def Dev.toLocked (d : Dev) : Dev :=
  { d with ptp := { d.ptp with everLocked := true, holdFrom := none } }
    |>.set TIM_STAT_TB1ST 2 |>.set TIM_HOLD_HOLDSEC 0 |>.set TIM_STAT_HOLDEXP 0 |>.raise TIM_EVT_LOCKED 0 |>.auditTime

/-- The master is lost (R177): LOCKED goes to HOLDOVER, ACQUIRING to HOLDOVER if TB1 has ever been LOCKED, else FREERUN. -/
def Dev.masterLost (d : Dev) : Dev :=
  match d.get TIM_STAT_TB1ST with
  | 2 => d.toHoldover
  | 1 => if d.ptp.everLocked then d.toHoldover
         else { d with ptp := { d.ptp with sync := none, lockrun := 0 } }.set TIM_STAT_TB1ST 0
  | _ => d

/-- The data set comparison of the default best-master algorithm, lower first. PRESUMED, log entry 58. -/
def Announce.key (a : Announce) : List Nat :=
  [a.prio1, a.cls, a.acc, a.var, a.prio2, a.gmid.toNat, a.steps, a.sender.toNat]

/-- Lexicographic order of equally long lists. PRESUMED, log entry 58. -/
def lexLt : List Nat → List Nat → Bool
  | a :: as, b :: bs => if a < b then true else if b < a then false else lexLt as bs
  | _, _ => false

/-- The interval that a PTP log interval names, in ns. -/
def logInterval (l : Int) : Nat := if 0 ≤ l then 10 ^ 9 * 2 ^ l.toNat else 10 ^ 9 / 2 ^ (-l).toNat

/-- The log intervals of Sync and of Announce that the device supports (R172). DEDUCED, log entry 57. -/
def syncSpan (l : Int) : Bool := decide (-4 ≤ l ∧ l ≤ 1)
def announceSpan (l : Int) : Bool := decide (-3 ≤ l ∧ l ≤ 2)

/-- The best master heard and its port: the receiving port (R172). DEDUCED, PRESUMED, log entries 57, 58. -/
def PtpState.best (s : PtpState) : Option (Nat × Heard) :=
  match s.heard0, s.heard1 with
  | some a, some b => if lexLt b.msg.key a.msg.key then some (1, b) else some (0, a)
  | some a, none => some (0, a)
  | none, some b => some (1, b)
  | none, none => none

/-- An Announce received on a port (R172, R177): the best master is chosen over both ports; a new grandmaster in LOCKED starts
HOLDOVER; HOLDOVER ends for a master heard twice within 4 intervals; FREERUN ends for any master; the same master heard better
on the other port makes that port the receiving port. DEDUCED, log entry 57. -/
def Dev.announce (d : Dev) (port : Nat) (a : Announce) : Dev :=
  if d.ptpOn port = false ∨ a.domain ≠ d.get TIM_PTPCFG_DOMAIN ∨ announceSpan a.logInt = false then d
  else
    let old := if port = 0 then d.ptp.heard0 else d.ptp.heard1
    let n := match old with
      | some h => if h.msg.gmid = a.gmid ∧ d.time.up - h.at_ ≤ 4 * logInterval a.logInt then min (h.count + 1) 2 else 1
      | none => 1
    let h : Heard := ⟨a, d.time.up, n⟩
    let keep := match old with
      | some o => if o.msg.sender ≠ a.sender ∧ lexLt o.msg.key a.key then o else h
      | none => h
    let d := { d with ptp := if port = 0 then { d.ptp with heard0 := some keep } else { d.ptp with heard1 := some keep } }
    match d.ptp.best with
    | none => d
    | some (bp, b) =>
      let st := d.get TIM_STAT_TB1ST
      let newGm := d.gmid ≠ b.msg.gmid
      let put := fun (d : Dev) => d.set TIM_STAT_RXPORT bp |>.setWord TIM_GMID_LO (b.msg.gmid.setWidth 32)
        |>.setWord TIM_GMID_HI ((b.msg.gmid >>> 32).setWidth 32)
        |>.setS TIM_PTPMPD_MPD (if bp = 0 then d.ptp.mpd0 else d.ptp.mpd1)
      if st = 2 ∧ newGm then (put d).raise TIM_EVT_GMCHG 0 |>.toHoldover
      else if st = 1 ∧ newGm then (put d).raise TIM_EVT_GMCHG 0 |>.auditTime
      else if st = 0 ∨ (st = 3 ∧ 2 ≤ b.count) then
        let d := put d
        let d := if newGm then d.auditTime else d
        { d with ptp := { d.ptp with lockrun := 0, sync := none } }.set TIM_STAT_TB1ST 1
      else if (st = 1 ∨ st = 2) ∧ bp ≠ d.get TIM_STAT_RXPORT then put d
      else d

/-- The servo's action on an offset θ in ns (R175). Divisions and shifts round towards minus infinity. -/
def Dev.servo (d : Dev) (theta : Int) (tsNs : Nat) : Dev :=
  let d := d.setSat TIM_PTPOFS_OFS theta
  let lock := fun (d : Dev) =>
    if d.get TIM_STAT_TB1ST = 1 ∧ 16 ≤ d.ptp.lockrun then d.toLocked else d
  if theta.natAbs > d.get TIM_PTPTH_STEPTH * 1000 then
    { d.tb1Step (.svc 0) (BitVec.ofInt 32 (-theta)) with ptp := { d.ptp with lockrun := 0 } }
  else
    let rate := d.getS TIM_TB1RATE_TB1RATE - ((theta * 2 ^ 32).fdiv tsNs).fdiv (2 ^ d.get TIM_PTPCFG_KIS)
    let d := d.tb1Rate (.svc 0) (BitVec.ofInt 32 (clampRate rate))
    let d := d.tb1Slew (.svc 0) (BitVec.ofInt 32 (-(theta.fdiv (2 ^ d.get TIM_PTPCFG_KPS))))
    let n := if theta.natAbs ≤ d.get TIM_PTPTH_LOCKTH then d.ptp.lockrun + 1 else 0
    lock { d with ptp := { d.ptp with lockrun := n } }

/-- The offset of TB1 from the master (IEEE 1588 peer-to-peer): t2 − t1 − mean link delay − correction, in ns, as a signed
32-bit difference. -/
def Dev.offset (d : Dev) (port : Nat) (t2 : BitVec 48) (t1 : Word) (corr : Int) : Int :=
  let mpd := if port = 0 then d.ptp.mpd0 else d.ptp.mpd1
  (nsOf t2 - t1 - BitVec.ofInt 32 (mpd + corr)).toInt

/-- Whether TB1 follows the master of a port (R177): ACQUIRING or LOCKED, and the port is the receiving port. -/
def Dev.follows (d : Dev) (port : Nat) : Bool :=
  let st := d.get TIM_STAT_TB1ST
  (st = 1 || st = 2) && d.get TIM_STAT_RXPORT = port

/-- A Sync received (R172, R175): one-step acts at once, two-step waits for its Follow_Up. DEDUCED, log entry 57. -/
def Dev.syncMsg (d : Dev) (port domain seq : Nat) (twoStep : Bool) (t1 : Word) (corr logInt : Int) : Dev :=
  if d.ptpOn port = false ∨ domain ≠ d.get TIM_PTPCFG_DOMAIN ∨ d.follows port = false ∨ syncSpan logInt = false then d
  else
    let t2 := d.ingress port
    if twoStep then { d with ptp := { d.ptp with sync := some ⟨port, seq, t2, corr, logInt⟩ } }
    else d.servo (d.offset port t2 t1 corr) (logInterval logInt)

/-- A Follow_Up received: completes the two-step Sync of the same port and number. DEDUCED, log entry 57. -/
def Dev.followUp (d : Dev) (port domain seq : Nat) (t1 : Word) (corr : Int) : Dev :=
  match d.ptp.sync with
  | some w =>
    if d.ptpOn port ∧ domain = d.get TIM_PTPCFG_DOMAIN ∧ w.port = port ∧ w.seq = seq ∧ d.follows port then
      { d with ptp := { d.ptp with sync := none } }.servo (d.offset port w.t2 t1 (w.corr + corr)) (logInterval w.logInt)
    else d
  | none => d

/-- A Pdelay_Req received: answered in two-step form on either port (R172). -/
def Dev.pdelayReq (d : Dev) (port domain seq : Nat) : Dev :=
  if d.ptpOn port = false ∨ domain ≠ d.get TIM_PTPCFG_DOMAIN then d
  else d.emit (.ptp port 0x3 seq (d.ingress port)) |>.emit (.ptp port 0xA seq (d.egress port d.time.tb1))

/-- A completed peer delay exchange (R172, R174): t1 is TB1 as captured when the request left, `ago` ns before, t2 and t3 the
peer's times in ns, corr the correction in ns. An exchange that spans a change of the port's timestamping is discarded. DEDUCED,
log entry 57. -/
def Dev.pdelayResp (d : Dev) (port domain : Nat) (t1 : BitVec 48) (ago : Nat) (t2 t3 : Word) (corr : Int) : Dev :=
  let spans : Bool := match (if port = 0 then d.ptp.changed0 else d.ptp.changed1) with
    | some c => decide (d.time.up ≤ c + ago)
    | none => false
  if d.ptpOn port = false ∨ domain ≠ d.get TIM_PTPCFG_DOMAIN ∨ spans then d
  else
    let turn := (nsOf (d.ingress port) - nsOf (d.egress port t1)).toInt
    let mpd := (turn - (t3 - t2).toInt - corr).fdiv 2
    let d := { d with ptp := if port = 0 then { d.ptp with mpd0 := mpd } else { d.ptp with mpd1 := mpd } }
    if d.get TIM_STAT_RXPORT = port then d.setS TIM_PTPMPD_MPD mpd else d

/-- The Announce receipt timeout of a port: 3 intervals without one (R172, R177). -/
def Dev.announceTimeout (d : Dev) (port : Nat) : Dev :=
  let lost := d.get TIM_STAT_RXPORT = port
  let d := { d with ptp := if port = 0 then { d.ptp with heard0 := none } else { d.ptp with heard1 := none } }
  if lost then d.masterLost else d

/-- The receiving port goes down (R177). -/
def Dev.rxPortDown (d : Dev) : Dev := d.announceTimeout (d.get TIM_STAT_RXPORT)

/-- No Sync for 3 Sync intervals (R177). The table has no row for it in ACQUIRING: it is taken as the master lost. DESIGN
CHOICE, log entry 69. -/
def Dev.syncTimeout (d : Dev) : Dev := d.masterLost

/-- HOLDSEC shows the whole seconds of TB2 since the entry into HOLDOVER, and HOLDEXP sets at HOLDLIM (R178). -/
def Dev.holdDue (d : Dev) : Dev :=
  match d.ptp.holdFrom with
  | some t =>
    let d := d.set TIM_HOLD_HOLDSEC (min ((d.time.up - t) / 10 ^ 9) 0xFFFF)
    if d.get TIM_HOLD_HOLDLIM ≤ d.get TIM_HOLD_HOLDSEC ∧ d.is TIM_STAT_HOLDEXP = false then
      d.set TIM_STAT_HOLDEXP 1 |>.raise TIM_EVT_HOLDEXP 0
    else d
  | none => d

/-- Time passes to the next whole second of TB2 since the entry into HOLDOVER (R178). -/
def Dev.holdoverSecond (d : Dev) : Dev :=
  match d.ptp.holdFrom with
  | some t => (d.elapse (10 ^ 9 - (d.time.up - t) % 10 ^ 9)).holdDue
  | none => d

/-- Time passes until the slew of TB1 is absorbed (R176). -/
def Dev.slewAbsorbed (d : Dev) : Dev := d.elapse d.time.slew.natAbs

/-- A change of a port's timestamping drops the Sync in progress and marks exchanges that span it (R174). -/
def Dev.tsChange (d : Dev) (port : Nat) : Dev :=
  let s := d.ptp
  let s := match s.sync with
    | some w => if w.port = port then { s with sync := none } else s
    | none => s
  { d with ptp := if port = 0 then { s with changed0 := some d.time.up } else { s with changed1 := some d.time.up } }

end Sys2Proof.Machine
end

