-- ==== Sys2Proof/Machine/Sec.lean ====
section
/-! DEFINITION. Signed records and unlocks (R474 to R478), attestation (R479 to R482). -/

namespace Sys2Proof.Machine

open Sys2Proof

/-- Changes the security block's state beside its registers. -/
def Dev.setSec (d : Dev) (f : SecState → SecState) : Dev := { d with sec := f d.sec }

/-! ### Records (R475) -/

/-- Bytes n of the record in SEC_MBOX. -/
def Dev.mbox (d : Dev) (n : Nat) : List Byte := ((List.range ((n + 3) / 4)).flatMap (fun i => leBytes 4 (d.word (SEC_MBOX i)).toNat)).take n

/-- Whether every byte of a range is 0. -/
def zeros (b : List Byte) (off n : Nat) : Bool := leAt b off n == 0

/-- The record type's operation: UNLOCK for types 1 to 3, KEYPROG for 4, KEYREV for 5. -/
def recordOp (type : Nat) : Nat := if type = 4 then 2 else if type = 5 then 3 else if 1 ≤ type ∧ type ≤ 3 then 1 else 0

/-- Whether a record is well formed for an operation (R475). -/
def recordForm (b : List Byte) (op : Nat) : Bool :=
  let type := leAt b 2 1
  let key := decide (4 ≤ type)
  leAt b 0 2 == 0x5352 && recordOp type == op && op != 0 && decide (leAt b 3 1 ≤ 4) && ((leAt b 28 2 == 0) == key) &&
    (key || zeros b 30 1) && zeros b 31 1 && (type == 4 || zeros b 32 32)

/-- The signer rule of R476. -/
def Nonvol.signerOk (nv : Nonvol) (type signer : Nat) : Bool :=
  let cust := decide (1 ≤ signer ∧ signer ≤ 4) && (nv.slot signer).usable
  if type = 3 then signer == 0 && (nv.slot 0).usable
  else if type = 4 then cust || (signer == 0 && (nv.slot 0).usable && [1, 2, 3, 4].all (fun s => !(nv.slot s).usable))
  else cust

/-- A BLANK slot (R466). -/
def KeySlot.blank (k : KeySlot) : Bool := !k.valid && k.hash == 0

/-- The bytes of a slot's key hash. DESIGN CHOICE, log entry 21. -/
def Nonvol.keyBytes (nv : Nonvol) (s : Nat) : List Byte := leBytes 32 (nv.slot s).hash.toNat

/-- The result code of the record in SEC_MBOX for an operation (R476). DEDUCED, log entry 54. -/
def Dev.recordCode (d : Dev) (nv : Nonvol) (op : Nat) : Nat :=
  let b := d.mbox 2884
  let type := leAt b 2 1
  let signer := leAt b 3 1
  let target := leAt b 30 1
  if recordForm b op = false then 1
  else if leAt b 4 8 ≠ nv.fuses.uid.toNat then 2
  else if leAt b 12 16 ≠ (Config.challenge d.sec.draws).toNat then 3
  else if Config.xmssVerifies (nv.keyBytes signer) (b.take 64) (b.drop 64) = false then 4
  else if nv.signerOk type signer = false then 5
  else if type = 1 ∧ nv.fuses.testen = false then 6
  else if type = 4 ∧ (target = 0 ∨ 4 < target ∨ (nv.slot target).blank = false) then 7
  else if type = 5 ∧ (target = 0 ∨ 4 < target ∨ (nv.slot target).usable = false) then 7
  else 0

/-- A write of SEC_CMD (R474): one that starts no operation logs nothing (R387). DEDUCED, log entry 41. -/
def Dev.secCmd (d : Dev) (o : Origin) (op : Nat) : Dev :=
  if d.sec.op.isSome ∨ op = 0 ∨ 3 < op then d.raise SEC_EVT_EVT 1
  else d.audGate o fun d => d.setSec (fun s => { s with op := some (op, o) })

/-! ### Unlocks (R478) -/

/-- An unlock ends: SEC_EVT, its audit entry, and what it permitted (R476, R478). DEDUCED, log entry 54. -/
def Dev.endUnlock (d : Dev) (type : Nat) (o : Origin) : Dev :=
  match d.sec.unlocks.find? (fun u => u.1 == type) with
  | none => d
  | some u =>
    let d := d.setSec (fun s => { s with unlocks := s.unlocks.filter (fun u => u.1 != type) })
    let d := d.raise SEC_EVT_EVT 4 |>.audit 0x30 0 6 u.2.2 o
    if type = 1 then d.pertClear else if type = 2 then d.releasePairs 12 else d.releasePairs 3

/-- A write of 1 to SEC_CTRL.RELOCK: every unlock ends (R478). -/
def Dev.relock (d : Dev) (o : Origin) : Dev :=
  if d.sec.unlocks = [] then d else d.audGate o fun d => d.each [1, 2, 3] fun t d => d.endUnlock t o

/-- The unlock that ends first reaches its validity; time passes until then (R478). -/
def Dev.unlockExpiry (d : Dev) : Dev :=
  match d.sec.unlocks with
  | [] => d
  | u :: us =>
    let t := listMin (us.map (·.2.1)) u.2.1
    let d := d.elapse (t - d.time.up)
    d.each ((d.sec.unlocks.filter (fun u => decide (u.2.1 ≤ t))).map (·.1)) fun x d => d.endUnlock x .device

/-- Ends every unlock at a reset, before its registers go (R476, R478). -/
def Dev.resetUnlocks (d : Dev) : Dev := d.each [1, 2, 3] fun t d => d.endUnlock t .device

/-! ### Completion of an operation -/

/-- What an accepted record does to the fuses (R477). -/
def Dev.recordFuses (d : Dev) (nv : Nonvol) : Nonvol :=
  let b := d.mbox 2884
  let target := leAt b 30 1
  match leAt b 2 1 with
  | 4 => nv.setSlot target (fun k => { k with hash := BitVec.ofNat 256 (leAt b 32 32), valid := true })
  | 5 => nv.setSlot target (fun k => { k with revoked := true })
  | _ => nv

/-- What an accepted record does to the device (R476, R478). -/
def Dev.recordActs (d : Dev) (o : Origin) : Dev :=
  let b := d.mbox 64
  let type := leAt b 2 1
  let val := leAt b 28 2
  if type ≤ 3 then
    let u := (type, d.time.up + val * 1000000000, val)
    (d.setSec (fun s => { s with unlocks := u :: s.unlocks.filter (fun u => u.1 != type) })).raise SEC_EVT_EVT 3
      |>.audit 0x30 0 type val o
  else d.audit 0x30 (leAt b 30 1) type (leAt b 32 4) o

/-- SEC_RES and its events (R474). -/
def Dev.secResult (d : Dev) (op : Nat) (o : Origin) (code : Nat) : Dev :=
  let d := d.set SEC_RES_OP op |>.set SEC_RES_ORIGIN o.code |>.set SEC_RES_CODE code |>.raise SEC_EVT_EVT 0
  let d := if code = 0 then d else d.raise SEC_EVT_EVT 2
  d.setSec (fun s => { s with op := none, draws := s.draws + 1 })

/-- A fuse operation cut short by a reset before its valid fuse is programmed (R477). DEDUCED, log entry 54. -/
def Dev.cutFuses (d : Dev) (nv : Nonvol) : Nonvol × Bool :=
  match d.sec.op with
  | some (2, _) =>
    if d.recordCode nv 2 = 0 then
      let b := d.mbox 64
      (nv.setSlot (leAt b 30 1) (fun k => { k with hash := BitVec.ofNat 256 (leAt b 32 32) }), true)
    else (nv, false)
  | _ => (nv, false)

/-- SEC_RES after a reset that cut KEYPROG short: FUSEERR (R477). DEDUCED, log entry 54. -/
def Dev.fuseErr (d : Dev) (cut : Bool) : Dev := if cut then d.set SEC_RES_OP 2 |>.set SEC_RES_CODE 8 else d

/-! ### Attestation (R480 to R482) -/

/-- Bytes of the report (R481). -/
def reportLen : Nat := 5861

/-- Bytes 48 to 51 and 40 to 47 of an ATTEST entry: buffer length and address; bytes 8 to 39: the nonce. -/
def Cmd.bufLen (c : Cmd) : Nat := leAt c.params 40 4
def Cmd.bufAddr (c : Cmd) : BitVec 64 := BitVec.ofNat 64 (leAt c.params 32 8)
def Cmd.nonce (c : Cmd) : List Byte := (c.params.take 32) ++ List.replicate (32 - c.params.length) 0

/-- The reason that refuses an ATTEST, or none (R482). -/
def Nonvol.attestRefusal (nv : Nonvol) (c : Cmd) : Option Nat :=
  if c.bufLen < reportLen then some 0x40
  else if 2 ^ 40 ≤ nv.mram.attIdx then some 0x41
  else if nv.mram.attOk = false then some 0x42
  else none

/-- Reserves the next index in MRAM before anything is signed (R480). -/
def attestReserve (nv : Nonvol) (d : Dev) (c : Cmd) : Nonvol × Dev :=
  ({ nv with mram := { nv.mram with attIdx := nv.mram.attIdx + 1 } },
   (d.setSec (fun s => { s with attest := some (c, some nv.mram.attIdx) })).setHif (fun h => { h with serialBusy := true }))

/-- ATTEST (R474, R481, R482): refused, or waiting for a SEC operation, or signing. -/
def attestStart (nv : Nonvol) (d : Dev) (c : Cmd) : Nonvol × Dev :=
  match nv.attestRefusal c with
  | some r => (nv, (if r = 0x42 then d.mramUe 0x200000 else d).complete c.tag c.opcode.toNat stREFUSED r 0 0 0)
  | none =>
    if d.sec.op.isSome then
      (nv, (d.setSec (fun s => { s with attest := some (c, none) })).setHif (fun h => { h with serialBusy := true }))
    else attestReserve nv d c

/-- The 256 bytes of the report (R481). -/
def Dev.report (d : Dev) (nv : Nonvol) (c : Cmd) (idx : Nat) : List Byte :=
  let w := fun off => leBytes 4 (d.peek nv .device off).toNat
  let dig := fun t => (List.range 8).flatMap (fun i => w (SEC_DIG t i))
  leBytes 4 0x00014154 ++ leBytes 4 reportLen ++ w TOP_UID_LO ++ w TOP_UID_HI ++ w TOP_REV ++ w TOP_CAP1 ++ leBytes 8 idx
    ++ c.nonce ++ dig 0 ++ dig 1 ++ dig 2 ++ dig 3 ++ leBytes 8 d.ccv.toNat ++ leBytes 8 nv.mram.ccvconf.toNat
    ++ w HIF_EPOCH ++ w TOP_STAT ++ w AUD_HEAD ++ leBytes 8 nv.lastChain.toNat ++ w SEC_SVN ++ w SEC_STAT
    ++ leBytes 4 (nsOf d.time.tb1).toNat ++ leBytes 4 (nsOf d.time.tb0).toNat ++ leBytes 4 d.cycle.toNat ++ leBytes 8 0

/-- The signature of a report with an index: 5,605 bytes that the device's key makes (R479). DESIGN CHOICE, log entry 21. -/
def signature (idx : Nat) (msg : List Byte) : List Byte := (List.range 5605).map (Config.xmssmtByte idx msg)

/-- The signature and the write of the report end (R481): the completion, or DMAERR with the index consumed. A device that is no
bus master cannot write (R358). -/
def Dev.attestDone (d : Dev) (nv : Nonvol) (ok : Bool) : Dev :=
  match d.sec.attest with
  | some (c, some i) =>
    let d := (d.setSec (fun s => { s with attest := none })).setHif (fun h => { h with serialBusy := false })
    if ok ∧ d.is HIF_STAT_BME then
      let r := d.report nv c i
      (d.emit (.hostWrite c.bufAddr (r ++ signature i r))).complete c.tag c.opcode.toNat stOK 0 0 reportLen i
    else d.dmaError c.tag c.opcode.toNat
  | _ => d

/-- An operation completes (R474, R476, R477); an ATTEST that waited begins. DESIGN CHOICE, log entry 13. -/
def secComplete (nv : Nonvol) (d : Dev) : Nonvol × Dev :=
  match d.sec.op with
  | none => (nv, d)
  | some (op, o) =>
    let code := d.recordCode nv op
    let nv' := if code = 0 then d.recordFuses nv else nv
    let d := (if code = 0 then d.recordActs o else d).secResult op o code
    match d.sec.attest with
    | some (c, none) => attestReserve nv' d c
    | _ => (nv', d)

end Sys2Proof.Machine
end

