-- ==== Sys2Proof/Machine/Cycle.lean ====
section
/-! DEFINITION. The cycle timer: start and stop (R34 to R36), cycle lengths and timing changes (R37, R56), the boundary (R33),
SYNC_OUT (R57), following SYNC_IN (R58 to R63), late phases (R54), interpolator calibration (R229, R230). -/

namespace Sys2Proof.Machine

open Sys2Proof

/-- Changes the cycle timer's state beside its registers. -/
def Dev.setCyc (d : Dev) (f : CycState → CycState) : Dev := { d with cyc := f d.cyc }

/-! ### Start and stop -/

/-- The first whole microsecond of TB0 at least 2 µs after an instant (R35): a base counts ns modulo 2³², so that the next whole
microsecond after its last one is 0. -/
def startInstant (tb0 : BitVec 48) : BitVec 48 :=
  let x := tb0.toNat + 2000 * 2 ^ 16
  let x := if 2 ^ 48 < x then x - 2 ^ 48 else x
  BitVec.ofNat 48 (min ((x + 1000 * 2 ^ 16 - 1) / (1000 * 2 ^ 16) * (1000 * 2 ^ 16)) (2 ^ 48))

/-- The time reference of a pair: the ACTIVE unit, or unit A while no unit is ACTIVE (R296). -/
def Dev.timeRef (d : Dev) : Bool :=
  d.role == .active || (d.get DPX_CFG_UNIT == 0 && (match d.dpx.partner with
    | some p => p.role != .active
    | none => true))

/-- Whether cycle number and t₀ come from the partner (R35, R296). -/
def Dev.timedByPartner (d : Dev) : Bool := (d.role == .standby || d.role == .syncing) && !d.timeRef

/-- Whole cycles of the partner's timer from its announced boundary to the first one at or after an instant. -/
def cyclesTo (t0 target : BitVec 48) (tcyc : Nat) : Nat :=
  let x := (target - t0).toNat
  if 2 ^ 47 ≤ x ∨ tcyc = 0 then 0 else (x + tcyc * 2 ^ 16 - 1) / (tcyc * 2 ^ 16)

/-- The first boundary that the partner's PAIR message places at least 2 µs from now, and its number (R35, R296). -/
def Dev.partnerStart (d : Dev) : Option (BitVec 48 × Word) :=
  match d.dpx.partner with
  | some p =>
    if p.running then
      let n := cyclesTo p.t0 (startInstant d.time.tb0) d.timing.tcyc
      some (plusNs p.t0 (n * d.timing.tcyc), p.cyc + BitVec.ofNat 32 n)
    else none
  | none => none

/-- The instant of t₀(0) as far as it is known at the start (R35, R59). DEDUCED, log entry 14. -/
def Dev.firstBoundary (d : Dev) (follow : Bool) : Option (BitVec 48) :=
  if d.timedByPartner then d.partnerStart.map (·.1) else if follow then none else some (startInstant d.time.tb0)

/-- What any start of the timer leaves: group counters at 0 (R243), no earlier current sample (R181), empty schedule buffers. -/
def Dev.timerFresh (d : Dev) : Dev :=
  let d := d.setLoop (fun s => { s with counts := List.replicate 16 0 })
  let d := d.each allArms fun a d => d.setArm a (fun x => { x with iprev := none, ranPrev := false, ranNow := false })
  let e := (d.word HIF_EPOCH).setWidth 16
  { d with ports := d.ports.map (fun x => { x with buf := [], bufEpoch := e, idleAt := none }), sch := { d.sch with cmds := [] } }

/-- The timer starts (R35, R36, R445). -/
def Dev.timerRun (d : Dev) (follow : Bool) : Dev :=
  let first := d.firstBoundary follow
  let wait := follow && !d.timedByPartner
  ((d.set CYC_STAT_RUNNING 1).setCyc (fun c =>
    { c with start := first, waitEdge := wait, inCycle := false, edge := false, edgeNext := none, lockrun := 0,
             farAge := 0 })).timerFresh

/-- A write of CYC_CTRL with EN = 1 (R34 to R36, R445). DEDUCED, log entry 14. -/
def Dev.timerStart (d : Dev) (v : Word) : Dev :=
  let follow := CYC_CTRL_FOLLOW.of v
  if d.running then d.set CYC_CTRL_EN 1 |>.set CYC_CTRL_FOLLOW follow
  else if d.timing.closes = false then d.set CYC_STAT_PERERR 1
  else if d.divsAtReset = false ∨ d.boundaryScan then d
  else (d.set CYC_CTRL_EN 1 |>.set CYC_CTRL_FOLLOW follow).timerRun (follow ≠ 0)

/-- A write of CYC_CTRL with EN = 0 (R36). DEDUCED, log entry 14. -/
def Dev.timerStopRequest (d : Dev) (o : Origin) (v : Word) : Dev :=
  if d.is CYC_CTRL_EN ∧ d.allBlocked = false then d.event 3 o 0
  else (d.set CYC_CTRL_EN 0 |>.set CYC_CTRL_FOLLOW (CYC_CTRL_FOLLOW.of v)).setCyc (fun c => { c with by_ := o })

/-- No unwrap is awaited: without a cycle j + 1 nothing is judged (R89). -/
def Dev.unwrapsOff (d : Dev) : Dev :=
  d.each (ringPorts.filter (fun p => (d.port p).unwrap != 0)) fun p d =>
    d.setPort p (fun x => { x with unwrap := 0, qual := 0 }) |>.set (RING_STAT_UNWRAPPING p) 0

/-- The timer stops; SYNC_OUT is low (R36, R57). -/
def Dev.timerStop (d : Dev) : Dev :=
  (d.unwrapsOff.set CYC_STAT_RUNNING 0 |>.set CYC_STAT_SYNCLOCK 0 |>.emit (.pin .syncOut .low)).setCyc
    (fun c => { c with start := none, waitEdge := false, inCycle := false, edge := false, edgeNext := none, lockrun := 0 })

/-! ### Cycle lengths -/

/-- Timing in force from cycle k + 2 on, taken at t₀(k) and again when a group applies there (R56); a correction already
made to len(k+2) stays. -/
def Dev.retime (d : Dev) : Dev :=
  let t := d.timing
  d.setCyc (fun c => { c with tm2 := t, len2 := t.tcyc + c.len2 - c.tm2.tcyc })

/-- The largest correction per cycle (CYC_SYNCCFG.SLEW). -/
def Dev.slew (d : Dev) : Int := min (d.get CYC_SYNCCFG_SLEW) 8

/-- An accepted edge of the current cycle with phase error e (R60, R61): it lengthens or shortens cycle k + 2, also after the
reload. DEDUCED, log entry 15. -/
def Dev.steer (d : Dev) (e : Int) : Dev :=
  let c := clampInt (-d.slew) d.slew (-(e + d.cyc.corr0 + d.cyc.corr1))
  let run := if e.natAbs ≤ 2 then min (d.cyc.lockrun + 1) 16 else 0
  let d := d.setCyc (fun s => { s with edge := true, lockrun := run, len2 := ((s.tm2.tcyc : Int) + c).toNat, step2 := false })
  d.setS CYC_SYNCERR_ERR e |>.set CYC_SYNCERR_MISSRUN 0 |>.setB CYC_STAT_SYNCLOCK (run = 16)

/-- A cycle ends without an accepted edge (R60, R61). DEDUCED, log entry 15. -/
def Dev.edgeMissed (d : Dev) : Dev :=
  (d.count CYC_SYNCERR_MISSRUN 1 |>.set CYC_STAT_SYNCLOCK 0).setCyc (fun c => { c with lockrun := 0 })

/-- A cycle ends in which SYNC_IN is not followed: no run of accepted edges is left (R61). -/
def Dev.edgeless (d : Dev) : Dev := (d.set CYC_STAT_SYNCLOCK 0).setCyc (fun c => { c with lockrun := 0 })

/-- Whether SYNC_IN acts on the timer (R58, R297). -/
def Dev.following (d : Dev) : Bool := d.is CYC_CTRL_FOLLOW && d.running && d.role != .standby && d.role != .syncing

/-- Signed whole ns from one instant to another. -/
def nsBetween (a b : BitVec 48) : Int := (nsOf b - nsOf a).toInt

/-- A step of cycle k + 2 so that t₀(k+3) falls on the grid of a corrected edge (R63). DEDUCED, log entry 15. -/
def Dev.syncStep (d : Dev) (edge : BitVec 48) : Dev :=
  let t := d.cyc.tm2.tcyc
  let x := (nsBetween (plusNs d.cyc.t0 (d.cyc.len0 + d.cyc.len1)) edge).emod t |>.toNat
  let len := if 2 * x < t then x + t else x
  (d.set CYC_STAT_SYNCSTEP 1).setCyc (fun c => { c with len2 := len, step2 := true })

/-- The phase error of a corrected edge that lies within the window of a boundary that has passed, t₀(k), t₀(k−1) or t₀(k−2): the
compensation of R58 can take an edge back over two cycles. -/
def Dev.edgeError (d : Dev) (edge : BitVec 48) : Option Int :=
  let win := d.get CYC_SYNCCFG_WIN
  ((d.cyc.t0 :: d.cyc.past).map (fun t => nsBetween edge t)).find? (fun e => decide (e.natAbs ≤ win))

/-- A rising edge of SYNC_IN at an instant of TB0; time passes until then (R58 to R63). DEDUCED, log entry 15. -/
def Dev.syncEdge (d : Dev) (t : BitVec 48) : Dev :=
  let d := d.advanceTo t
  if d.following = false then d
  else
    let edge := ((t >>> 16) <<< 16) - BitVec.ofNat 48 (d.get CYC_SYNCIN_INDLY * 2 ^ 16)
    if d.cyc.waitEdge then d.setCyc (fun c => { c with waitEdge := false, start := some (plusNs edge d.timing.tcyc) })
    else if d.cyc.inCycle = false then d
    else
      let e1 := nsBetween edge (plusNs d.cyc.t0 d.cyc.len0)
      match d.edgeError edge with
      | some e0 => if d.cyc.edge then d else d.steer e0
      | none =>
        if e1.natAbs ≤ d.get CYC_SYNCCFG_WIN then d.setCyc (fun c => { c with edgeNext := c.edgeNext.orElse (fun _ => some e1) })
        else
          let alone := !d.cyc.edge && d.cyc.edgeNext.isNone
          let d := d.setCyc (fun c => { c with farAge := 9 })
          if alone ∧ d.allBlocked then d.syncStep edge else d

/-- 8 cycles without an accepted edge (R62). DEDUCED, log entry 15. -/
def Dev.syncLoss (d : Dev) : Dev :=
  if d.following ∧ 8 ≤ d.get CYC_SYNCERR_MISSRUN then
    let d := d.set CYC_STAT_SYNCLOSS 1
    if 0 < d.cyc.farAge then d.set CYC_STAT_SYNCFAR 1 else d
  else d

/-! ### The boundary -/

/-- The number of the first cycle: NUMINIT, or the partner's (R35). -/
def Dev.firstNumber (d : Dev) (t0 : BitVec 48) : Word :=
  match d.timedByPartner, d.dpx.partner with
  | true, some p =>
    if d.timing.tcyc = 0 then p.cyc
    else p.cyc + BitVec.ofInt 32 ((nsBetween p.t0 t0).fdiv d.timing.tcyc)
  | _, _ => d.word CYC_NUMINIT

/-- The interpolators take an accepted calibration at a boundary (R229). -/
def Interp.apply (i : Interp) : Interp := { i with taps := i.next.orElse (fun _ => i.taps), next := none }

/-- The pulses of a boundary: SYNC_OUT (R57) and CYCMARK (R513). -/
def Dev.boundaryPulses (d : Dev) : Dev :=
  let t0 := nsOf d.cyc.t0
  let d := if d.is CYC_SYNCOUT_OUTEN then
      d.emit (.pulse .syncOut (t0 + BitVec.ofInt 32 (d.getS CYC_SYNCOUT_OUTOFS)) (d.get CYC_SYNCOUT_WIDTH)) else d
  if d.bit HIF_GPIOFN_FN 0 ∧ d.is CLK_LSEN_GPIOEN then d.emit (.pulse .cycMark t0 100) else d

/-- A cycle begins (R33, R38): number and t₀, lengths and timing; what each block does at t₀. -/
def Dev.beginCycle (d : Dev) (t0 : BitVec 48) (n : Word) (c : CycState) : Dev :=
  let tm := d.timing
  let next := d.cyc.edgeNext
  let d := d.setWord CYC_NUM n |>.setWord CYC_T0 (nsOf t0)
  let d := { d with cyc := { c with start := none, waitEdge := false, inCycle := true, t0 := t0, tm2 := tm, len2 := tm.tcyc,
                                    edge := false, edgeNext := none, farAge := d.cyc.farAge - 1,
                                    step2 := false, departed := false, closed := false, sorted := 0, looped := false, reloaded := false,
                                    copied := false } }
  let d := d.set CYC_RETDL_RETDL d.cyc.tm0.tret
  let d := match next with
    | some e => d.steer e
    | none => d
  let d := { d with sch := { d.sch with interps := d.sch.interps.map Interp.apply } }
  d.openPorts.armsBoundary.recBoundary.pertBoundary.setFetch.sovCycle.boundaryPulses

/-- The first cycle: its timing and the next one's are those in force (R56). DEDUCED, log entry 17. -/
def Dev.firstCycle (d : Dev) (t0 : BitVec 48) : Dev :=
  let tm := d.timing
  (d.advanceTo t0).beginCycle t0 (d.firstNumber t0)
    { d.cyc with tm0 := tm, tm1 := tm, len0 := tm.tcyc, len1 := tm.tcyc, corr0 := 0, corr1 := 0, step1 := false, past := [] }

/-- The next cycle: timing and lengths move up by one (R37, R56, R60); new timing sets PERCHG. -/
def Dev.nextCycle (d : Dev) : Dev :=
  let c := d.cyc
  let d := d.lateRuns (d.is LOOP_STAT_CUT && d.cyc.looped)
  let d := if c.edge then d else if d.following then d.edgeMissed else d.edgeless
  let d := if c.tm1 = c.tm0 then d else d.set CYC_STAT_PERCHG 1
  d.beginCycle (plusNs c.t0 c.len0) (d.cycle + 1)
    { d.cyc with tm0 := c.tm1, tm1 := c.tm2, len0 := c.len1, len1 := c.len2, corr0 := c.corr1,
                 corr1 := (c.len2 : Int) - c.tm2.tcyc, step1 := c.step2, past := (c.t0 :: c.past).take 2 }

/-- The instant of the next boundary, if it is known. -/
def Dev.nextBoundary (d : Dev) : Option (BitVec 48) :=
  if d.running = false then none else if d.cyc.inCycle then some (plusNs d.cyc.t0 d.cyc.len0) else d.cyc.start

/-- The timer reaches the next boundary: it stops if EN reads 0, else a cycle begins (R33, R36). A timer that waits for its
first boundary instant with EN at 0 stops at once. DEDUCED, log entry 14. -/
def Dev.timerBoundary (d : Dev) : Dev :=
  match d.nextBoundary with
  | some t =>
    let d := d.advanceTo t
    if d.is CYC_CTRL_EN = false then d.timerStop else if d.cyc.inCycle then d.nextCycle else d.firstCycle t
  | none => if d.running ∧ d.is CYC_CTRL_EN = false then d.timerStop else d

/-! ### Phases -/

/-- Time passes to an offset in ns from t₀ of the current cycle. DESIGN CHOICE, log entry 6. -/
def Dev.toPhase (d : Dev) (ns : Nat) : Dev := d.advanceTo (plusNs d.cyc.t0 ns)

/-- Whether a cycle runs: not while ACLK stands (R213). DESIGN CHOICE, log entry 7. -/
def Dev.inCycle (d : Dev) : Bool := d.running && d.cyc.inCycle && !d.sch.aclkStopped

/-- A change made once per cycle, in cycles that run. DESIGN CHOICE, log entry 7. -/
def Dev.inPhase (d : Dev) (b : Bool) (f : Dev → Dev) : Dev := if d.inCycle && b then f d else d

/-- A late phase (R54): PHLATE and its counter. -/
def Dev.phaseLate (d : Dev) (f : Fld) : Dev := d.set CYC_STAT_PHLATE 1 |>.count f 1 |>.recNote 1

/-- The sort of arm a runs past the end of t_sort (R54): PHLATE, LATEPH.SORT, and its cells repeat. -/
def Dev.sortOverrun (d : Dev) (a : Nat) : Dev :=
  ((d.toPhase (d.cyc.tm0.tret + d.cyc.tm0.sort)).setArm a (fun x => { x with sortLate := true })).setCyc
    (fun c => { c with sorted := c.sorted ||| BitVec.ofNat 12 (2 ^ a) }) |>.phaseLate CYC_LATEPH_SORT

/-- Whether the sort of arm a is due: after the deadline, not made yet, before the loop phase. -/
def Dev.sortDue (d : Dev) (a : Nat) : Bool := d.cyc.closed && !d.cyc.sorted.getLsbD a && !d.cyc.looped && !d.cyc.reloaded

/-- The sort of arm a has not finished at the end of t_sort (R54). -/
def Dev.sortLate (d : Dev) (a : Nat) : Dev :=
  d.inPhase (d.sortDue a && !(d.armCells a).isEmpty) fun d => d.sortOverrun a

/-- The schedule of arm a has not finished at the end of t_sch (R54): its cells repeat. -/
def Dev.scheduleLate (d : Dev) (a : Nat) : Dev :=
  d.inPhase (d.cyc.reloaded && !d.cyc.copied && !(d.armCtl a).schedLate && !(d.armCells a).isEmpty) fun d =>
    let d := d.toPhase (d.cyc.tm0.tcyc - d.cyc.tm0.grd)
    let d := { d with sch := { d.sch with cmds := d.sch.cmds.map (fun (e : SchedEntry) =>
      if d.get (CELL_W1C_ARM e.1) = a then (e.1, repeatCmd, 0, 0) else e) } }
    (d.setArm a (fun x => { x with schedLate := true })).phaseLate CYC_LATEPH_SCH

/-! ### Interpolators -/

/-- No calibration yet. -/
def Interp.init : Interp := ⟨none, 0, none, false, none⟩

/-- Insertion into a rising list. -/
def putRising (n : Nat) : List Nat → List Nat
  | [] => [n]
  | m :: ms => if n ≤ m then n :: m :: ms else m :: putRising n ms

/-- The median of 16 measurements: the middle two leave it open between them. DESIGN CHOICE, log entry 64. -/
def medianOf (free : Nat) (l : List Nat) : Nat :=
  let s := l.foldr putRising []
  let lo := nth s 7 0
  lo + Config.medianTap free % (nth s 8 0 - lo + 1)

/-- A calibration of interpolator g, at the earliest INTERVAL µs after its last one, on 16 measurements of one ACLK period in taps; their
median is TAPS (R229, R230). -/
def Dev.calibrate (d : Dev) (g : Nat) (meas : List Nat) : Dev :=
  let i := nth d.sch.interps g Interp.init
  let d := match i.last with
    | some t => d.elapse (t + 1000 * max (d.get SCH_ICALCFG_INTERVAL) 1 - d.time.up)
    | none => d
  let taps := medianOf d.free meas
  let d := d.draw
  let put := fun (d : Dev) (i : Interp) => { d with sch := { d.sch with interps := putAt d.sch.interps g Interp.init i } }
  let i := { i with last := some d.time.up }
  if 32 ≤ taps ∧ taps ≤ 120 then put d { i with next := some taps, at_ := d.time.up, rejected := false }
  else put (d.set SCH_EVT_ICALERR 1) { i with rejected := true }

end Sys2Proof.Machine
end

