-- ==== Sys2Proof/Machine/Dpx.lean ====
section
/-! DEFINITION. Duplex operation: the Solder link's messages (R298, R299, R304), shared time and pairing (R295 to R297), verdicts
and roles (R292, R318), BLK, ISLOT, RELAY, REF and CMDS (R300 to R303, R312), STAT (R305), discovery results (R327). -/

namespace Sys2Proof.Machine

open Sys2Proof

/-- Whether the unit is one of a duplex pair. -/
def Dev.duplex (d : Dev) : Bool := d.get DPX_CFG_MODE == 1

/-- Whether the unit works as a STANDBY does: a STANDBY, or a SYNCING unit from its first cast segment on (R325). -/
def Dev.shadowing (d : Dev) : Bool :=
  d.role == .standby || (d.role == .syncing && (!d.dpx.castIn.isEmpty || d.is DPX_STAT_CASTDONE))

/-! ### Time stamps (R296) -/

/-- TB0 in 2⁻⁸ ns, 40 bits. -/
def Dev.stamp (d : Dev) : BitVec 40 := (d.time.tb0 >>> 8).setWidth 40

/-- θ in 2⁻⁸ ns from the four stamps and the link asymmetry. -/
def thetaOf (t1 t2 t3 t4 : BitVec 40) (asym : Int) : Int := ((t2 - t1).toInt - (t4 - t3).toInt - asym).fdiv 2

/-- The cycle timer restarts at the partner's boundary and number (R296). -/
def Dev.timerRealign (d : Dev) : Dev :=
  match d.running, d.partnerStart with
  | true, some (t, _) => (d.setCyc (fun c => { c with start := some t, waitEdge := false, inCycle := false })).timerFresh
  | _, _ => d

/-- TB0 changes by an amount in 2⁻⁸ ns. -/
def Dev.moveTb0 (d : Dev) (v : Int) : Dev := { d with time := { d.time with tb0 := d.time.tb0 + BitVec.ofInt 48 (v * 256) } }

/-- A measurement of θ by a unit that is not the reference (R295, R296). -/
def Dev.measured (d : Dev) (theta : Int) : Dev :=
  let d := d.setS DPX_TOFS_TOFS theta
  let far := decide (d.get DPX_TCFG_TSKEWLIM < theta.natAbs)
  let d := d.setDpx (fun x => { x with within := if far then 0 else min (x.within + 1) 256, skewed := far })
  let d := if 256 ≤ d.dpx.within then d.set DPX_HEALTH_TIMEOK 1 else d
  if 16384 < theta.natAbs ∧ d.allBlocked then (d.moveTb0 (-theta)).stepped 0 |>.timerRealign else d

/-- The run of cycles whose last measurement was beyond the limit, at the boundary that ends a cycle (R296). DEDUCED, log entry
29. -/
def Dev.countSkew (d : Dev) : Dev :=
  let n := if d.dpx.skewed then min (d.dpx.beyond + 1) 16 else 0
  let d := d.setDpx (fun x => { x with beyond := n, skewed := false })
  if n = 16 then d.set DPX_EVT_TSKEW 1 |>.set DPX_HEALTH_TIMEOK 0 else d

/-- Uses the stamps of a message that arrived at t2 (R296). -/
def Dev.useStamps (d : Dev) (t1 t2 t4 : BitVec 40) : Dev :=
  if d.timeRef then d
  else if d.dpx.t3 = 0 ∨ t4 = 0 then d
  else d.measured (thetaOf t1 t2 d.dpx.t3 t4 (d.getS DPX_TCFG_SDLASYM))

/-- The correction of TB0 at t₀: −θ/16, at most 0.125 ns (R296); a carry sets WR0 (R163). DEDUCED, log entry 29. -/
def Dev.slewPair (d : Dev) : Dev :=
  if d.paired ∧ d.timeRef = false ∧ d.follower then
    let th := d.getS DPX_TOFS_TOFS
    if th.natAbs ≤ 16384 ∨ d.allBlocked = false then
      let x := clampInt (-8192) 8192 (-(th * 16))
      let carries := decide (2 ^ 48 ≤ (d.time.tb0.toNat : Int) + x)
      { d with time := { d.time with tb0 := d.time.tb0 + BitVec.ofInt 48 x } }.when carries (·.wrapped 0)
    else d
  else d

/-! ### Pairing (R295) -/

/-- The offsets of registers that hold an RWL field and differ from their reset value. -/
def Dev.changedRwl (d : Dev) : List (Nat × Word) :=
  d.regs.filterMap (fun e => let m := rwlMask e.1
    if m = 0 ∨ e.2 &&& m = resetWord e.1 &&& m then none else some (e.1, e.2 &&& m))

/-- The digest over all RWL registers: those that differ from their reset value, in ascending order. DEDUCED, log entry 29. -/
def Dev.configDigest (d : Dev) : BitVec 64 := shake64 (d.changedRwl.flatMap (fun e => leBytes 4 e.1 ++ leBytes 4 e.2.toNat))

/-- The digests of the customer images, types 0x2 and 0x3, as words. -/
def Dev.imageDigests (d : Dev) : List Word := [1, 2].flatMap (fun t => (List.range 8).map (fun i => d.word (SEC_DIG t i)))

/-- Own PAIR message. -/
def Dev.pairMsg (d : Dev) : PairMsg :=
  ⟨d.get DPX_CFG_UNIT, d.role, d.word SEC_FWVER, d.imageDigests, d.ccv, d.word HIF_EPOCH &&& 0xFFFF, d.configDigest,
   d.dpx.check == 0 || d.dpx.check == 8, 0, d.dpx.t4, d.cyc.inCycle, d.cyc.t0, d.cycle⟩

/-- A unit sends PAIR while the link is UP: every 100 µs of TB2 while either unit is SYNCING, else every 10 ms (R295). -/
def Dev.pairSend (d : Dev) : Dev := if d.paired then d.toPartner (.pair d.pairMsg) else d

/-- The first failing check of R295, or 0. The cast is required of a unit whose partner is ACTIVE. DEDUCED, log entry 29. -/
def Dev.pairCheck (d : Dev) (m : PairMsg) : Nat :=
  let own := d.pairMsg
  if d.is DPX_STAT_SDLUP = false then 1
  else if m.unit = own.unit then 2
  else if m.fwver ≠ own.fwver ∨ m.digests ≠ own.digests then 3
  else if m.ccv ≠ own.ccv then 4
  else if m.epoch ≠ own.epoch ∨ m.config ≠ own.config then 5
  else if d.timeRef = false ∧ d.dpx.within < 256 then 6
  else if (m.role = .active ∧ d.role = .active) ∨ m.role = .faulted ∨ m.role = .witness then 7
  else if d.role ≠ .active ∧ m.role = .active ∧ d.is DPX_STAT_CASTDONE = false then 8
  else 0

/-- PAIRED, in DPX_STAT and DPX_HEALTH. -/
def Dev.setPaired (d : Dev) (b : Bool) : Dev := d.setB DPX_STAT_PAIRED b |>.setB DPX_HEALTH_PAIROK b

/-- The partner's role as last announced, none while the link is not UP. -/
def Dev.partnerRole (d : Dev) : Option Role := if d.is DPX_STAT_SDLUP then d.dpx.partner.map (·.role) else none

/-- Mapped cells. -/
def Dev.mappedCells (d : Dev) : List Nat :=
  ringPorts.flatMap (fun p => (d.portCells p).filter d.mapped)

/-- READY (R326), and with an ACTIVE partner the role STANDBY (R292). DEDUCED, log entry 30. -/
def Dev.readyCheck (d : Dev) : Dev :=
  let ns := d.get DPX_INGCFG_NS
  let need := if ns = 0 then 0 else (d.mappedCells.length + ns - 1) / ns
  if d.role = .syncing ∧ d.is DPX_STAT_CASTDONE ∧ need ≤ d.dpx.afterCast ∧ 64 ≤ d.get DPX_HEALTH_SHRUN ∧ d.is DPX_STAT_PAIRED then
    let d := d.setReady true
    if d.partnerRole = some .active then d.setRole .standby .partner else d
  else d

/-- The words of the cast's stream in order (R325). -/
def Dev.castOffsets (d : Dev) : List Nat :=
  d.portsUsed.flatMap (fun p => [RING_DISC p, RING_LINK p 0, RING_LINK p 1, RING_DINFO p])
    ++ d.mappedCells.flatMap (fun c => (List.range 12).map (fun i => CELL_W10 c + 4 * i))

/-- Segments of a cast: 64 bytes, then the words, in segments of 1,024 bytes (R325). -/
def Dev.castLength (d : Dev) : Nat := (64 + 4 * d.castOffsets.length + 1023) / 1024

/-- A cast starts (R325). DEDUCED, log entry 29. -/
def Dev.castBegin (d : Dev) : Dev :=
  let n := d.castLength
  (d.set DPX_CASTSTAT_SEGTOT n |>.set DPX_CASTSTAT_SEGDONE 0).setDpx (fun x =>
    { x with castOut := List.range n, castTotal := n, castBusy := false, castAsk := 0 })

/-- A SYNCING unit that passed checks 0x01 to 0x07 makes the ACTIVE unit cast (R325). -/
def Dev.castStart (d : Dev) (m : PairMsg) : Dev :=
  if d.role = .active ∧ m.role = .syncing ∧ m.passed ∧ d.dpx.castTotal = 0 ∧ d.is DPX_PHEALTH_CASTDONE = false then d.castBegin
  else d

/-- What the result of the checks does in each role (R292, R295). -/
def Dev.pairJudged (d : Dev) (c : Nat) : Dev :=
  match d.role with
  | .syncing => d.set DPX_STAT_REASON c
  | .standby => if c = 0 then d else (d.set DPX_STAT_REASON c).setRole .syncing .partner
  | .active => if c = 0 then d else d.set DPX_EVT_PAIRMIS 1
  | _ => d

/-- A timer that waits for the partner's boundary takes it (R35). -/
def Dev.pairTimer (d : Dev) : Dev :=
  if d.timedByPartner && !d.cyc.inCycle && d.cyc.start.isNone then d.timerRealign else d

/-- A received PAIR message with its arrival stamp (R295, R296). DEDUCED, log entry 29. -/
def Dev.pairReceive (d : Dev) (m : PairMsg) (t2 : BitVec 40) : Dev :=
  if d.paired = false then d
  else
    let d := d.setDpx (fun x => { x with partner := some m, t4 := t2 })
    let d := d.useStamps m.t1 t2 m.t4
    let d := if d.timeRef then d.set DPX_HEALTH_TIMEOK 1 else d
    let c := d.pairCheck m
    let d := (d.setDpx (fun x => { x with check := c })).setPaired (c == 0)
    d.pairJudged c |>.pairTimer |>.castStart m |>.readyCheck

/-! ### Sending -/

/-- A message with the stamps of its departure. -/
def stamped (m : SolderMsg) (t : BitVec 40) : SolderMsg :=
  match m with
  | .cmds c => .cmds { c with t1 := t }
  | .stat s => .stat { s with t3 := t }
  | .pair p => .pair { p with t1 := t }
  | x => x

/-- Whether a message carries the departure stamp of R296. -/
def hasStamp (m : SolderMsg) : Bool := match m with | .cmds _ | .stat _ | .pair _ => true | _ => false

/-- A relay that ends more than 500 ns after its trailer check is counted (R304): the end is taken at 0.203125 ns per byte.
DEDUCED, log entry 31. -/
def Dev.relayLate (d : Dev) (q : SolderQ) (bytes : Nat) : Dev :=
  if q.prio = 3 ∧ 500 * 64 < (d.time.tb0 - q.at_).toNat / 1024 + bytes * 13 then d.count DPX_CNT3_RLYLATE 1 |>.set DPX_EVT_RLYLATE 1
  else d

/-- The message of a queue entry with its stamps, and what of its payload is still to send (R299). -/
def SolderQ.rest (q : SolderQ) (t : BitVec 40) : SolderMsg × List Byte :=
  if q.part = 0 then (stamped q.msg t, pad16 (stamped q.msg t).payload) else (q.msg, q.left)

/-- The bytes of the next message or part: header, payload, trailer (R298). -/
def Dev.solderBytes (d : Dev) (q : SolderQ) : List Byte :=
  let (m, all) := q.rest d.stamp
  let now := partBytes m.prio all
  messageBytes ⟨m.prio, q.part, now.length == all.length, now.length / 16, m.cycleNumber d.cycle, d.dpx.seq, nsOf d.time.tb0⟩ now

/-- The queue behind the next message or part. -/
def Dev.solderLeft (d : Dev) (q : SolderQ) : List SolderQ :=
  let (m, all) := q.rest d.stamp
  let left := all.drop (partBytes m.prio all).length
  if left.isEmpty then [] else [{ q with msg := m, part := q.part + 1, left := left }]

/-- The next message or part leaves on the Solder link (R128, R298, R299). -/
def Dev.solderSend (d : Dev) : Dev :=
  match d.dpx.queue with
  | [] => d
  | q :: rest =>
    if d.paired = false then d.setDpx (fun x => { x with queue := [] })
    else
      let b := d.solderBytes q
      let d := (if q.part = 0 then d.relayLate q b.length else d).setDpx (fun x =>
        { x with queue := d.solderLeft q ++ rest, seq := x.seq + 1,
                 t3 := if hasStamp q.msg ∧ q.part = 0 then d.stamp else x.t3 })
      (d.emit (.solder b)).sendSolder (solderBlocks b)

/-! ### Receiving (R298, R299) -/

/-- A message whose CRC fails is discarded and counted under the rule of its type: a cast segment as lost (R325); INGOT and CMDS count
when their instants pass; the others have no counter. -/
def Dev.solderLost (d : Dev) (type : Nat) : Dev :=
  (if type = 8 ∧ d.role = .syncing then d.set DPX_EVT_CASTFAIL 1 else d).setDpx (fun x =>
    { x with parts := x.parts.filter (fun y => y.type != type) })

/-- A message or part that has arrived: the whole message with it, if it is complete; a part whose predecessor is missing discards
the whole (R299). -/
def Dev.solderPart (d : Dev) (h : SolderHdr) (b : List Byte) (t : BitVec 40) : Option SolderIn × Dev :=
  let old := d.dpx.parts.find? (fun y => y.type == h.type)
  let d := d.setDpx (fun x => { x with parts := x.parts.filter (fun y => y.type != h.type) })
  let new : Option SolderIn := if h.part = 0 then some ⟨h.type, 1, b, h.cyc, h.dep, t⟩
    else old.bind (fun y => if y.next = h.part then some { y with next := y.next + 1, bytes := y.bytes ++ b } else none)
  match new with
  | none => (none, d)
  | some y => if h.last then (some y, d) else (none, d.setDpx (fun x => { x with parts := y :: x.parts }))

/-- The complete messages of a type that the lanes bring, in order. A command brings the messages of its own type. DESIGN
CHOICE, log entry 63. -/
def Dev.solderTake (d : Dev) (type : Nat) (lines : List (List Int)) (t : BitVec 40) : List SolderIn × Dev :=
  let (us, d) := d.solderUnits lines
  if d.paired = false then ([], d)
  else ((messagesOf us.length us).filter (fun x => x.1.type == type)).foldl (fun (acc : List SolderIn × Dev) (h, b, ok) =>
    if ok then
      match acc.2.solderPart h b t with
      | (some y, d) => (acc.1 ++ [y], d)
      | (none, d) => (acc.1, d)
    else (acc.1, acc.2.solderLost type)) ([], d)

/-- What the messages of a type do. -/
def Dev.onSolder (d : Dev) (type : Nat) (lines : List (List Int)) (t : BitVec 40) (f : SolderIn → Dev → Dev) : Dev :=
  let (l, d) := d.solderTake type lines t
  d.each l f

/-- Messages whose CRC fails (R298). -/
def Dev.solderCrc (d : Dev) (lines : List (List Int)) : Dev :=
  let (us, d) := d.solderUnits lines
  if d.paired then d.each ((messagesOf us.length us).filter (fun x => !x.2.2)) fun x d => d.solderLost x.1.type else d

/-! ### BLK, ISLOT, RELAY -/

/-- A received BLK (R303): the ACTIVE unit takes it as SCH_ARMCMD.BLK, a follower substitutes on its ring ports. -/
def Dev.blkReceive (d : Dev) (mask : Nat) : Dev :=
  if d.paired = false then d
  else if d.role = .active then d.block mask .command .partner
  else if d.follower then d.substitute mask
  else d

/-- ISLOT leaves the ACTIVE unit at t₀ + t_ret − 400 ns (R299). -/
def Dev.islotSend (d : Dev) : Dev :=
  d.inPhase (d.role == .active && !d.cyc.closed) fun d =>
    let d := d.toPhase (d.cyc.tm0.tret - 400)
    d.toPartner (.islot d.cycle ((List.range 64).map (fun i => d.word (LOOP_SLOT i))))

/-- ISLOT received (R300). -/
def Dev.islotReceive (d : Dev) (cyc : Word) (vals : List Word) : Dev :=
  if d.paired ∧ d.shadowing then
    (d.each (vals.take 64).zipIdx fun (v, i) d => d.setWord (LOOP_SLOT i) v).setDpx (fun x => { x with islotCyc := some cyc })
  else d

/-- The valid slots of an accepted wrapped frame at end e, as relay records (R304). -/
def relayRecords (f : Frame) (e : Nat) : List (Nat × Nat × Nat × Nat × Nat) :=
  f.slots.zipIdx.filterMap (fun (s, i) =>
    let u := slotUp s
    if bitsOf s.toNat 15 0 = slotCrc s.toNat ∧ reached e i (some f.wpos) ∧ u.2.2.1.testBit 15 then some (i, u) else none)

/-- A returning cycle frame in a pair (R75, R82, R323): the frame itself, the relay of a wrapped one, and DUALACT. -/
def Dev.frameInPair (d : Dev) (p e : Nat) (f : Frame) (ret : Nat) : Dev :=
  let ok := d.receives p e && (d.checkFrame p e f ret).isNone
  let d := d.receiveFrame p e f ret
  if ok = false ∨ d.duplex = false then d
  else if f.wrap = 1 then d.toPartner (.relay p d.cycle e f.wpos (relayRecords f e))
  else if d.role = .active ∧ f.act = 1 then
    let d := if 1 ≤ d.dpx.actRun then d.set DPX_EVT_DUALACT 1 else d
    d.setDpx (fun x => { x with act := true })
  else d

/-- A received relay (R82): slots of cells that are not fresh, before the own deadline. -/
def Dev.relayReceive (d : Dev) (p : Nat) (cyc : Word) (recs : List (Nat × Nat × Nat × Nat × Nat)) : Dev :=
  if d.paired ∧ p < 48 ∧ d.portActive p ∧ d.running ∧ d.cyc.inCycle ∧ d.cyc.closed = false ∧ cyc = d.cycle ∧ d.phaseNs ≤ d.closesAt p then
    d.each (recs.filter (fun r => decide (r.1 < (d.port p).discovered) && !d.isFresh p r.1)) fun (i, u) d =>
      (d.commitSample (128 * p + i) 3 u).setPort p (fun x => { x with fresh := x.fresh ||| (BitVec.ofNat 128 1 <<< i) })
  else d

/-! ### REF and the shadow schedules (R312) -/

/-- REF leaves the ACTIVE unit at the reload (R299). -/
def Dev.refSend (d : Dev) : Dev :=
  if d.role = .active then
    d.toPartner (.ref d.cycle (allArms.map (fun a => ((d.armCtl a).vref, (d.armCtl a).vofs))))
  else d

/-- The shadow schedule of one arm, as an ACTIVE unit would compute it. -/
def Dev.shadowArm (d : Dev) (a : Nat) : Dev × List SchedEntry :=
  if d.armCells a = [] then (d, [])
  else
    let (d, v) := d.armReference a
    if d.is (SCH_ACTL_MODE a) then d.carrier a v else d.nearest a v

/-- The shadow schedules of every arm. -/
def Dev.shadowAll (d : Dev) : Dev :=
  let (d, es) := allArms.foldl (fun (d, es) a => let (d, l) := d.shadowArm a; (d, es ++ l)) (d, [])
  d.setDpx (fun x => { x with shadow := es.map (fun e => (e.1, e.2.1)) })

/-- REF received: the active sets R, and the shadow schedules (R312). Its 96 bytes hold no tag: SCH_ASTAT.RGEN stays. DESIGN
CHOICE, log entry 73. -/
def Dev.refReceive (d : Dev) (cyc : Word) (sets : List (Word × Word)) : Dev :=
  if d.paired ∧ d.shadowing ∧ d.running ∧ d.cyc.inCycle ∧ cyc = d.cycle then
    let d := d.each sets.zipIdx fun ((r, o), a) d => if a < 12 then d.setArm a (fun x => { x with vref := r, vofs := o }) else d
    d.shadowAll.setDpx (fun x => { x with refCyc := some cyc })
  else d

/-! ### CMDS (R302) -/

/-- The arms whose block mask the ACTIVE unit sends: BLOCKED or BLOCKING. DEDUCED, log entry 31. -/
def Dev.blockMask (d : Dev) : BitVec 12 :=
  BitVec.ofNat 12 (maskWhere 12 (fun a => d.arm a == .blocked || d.arm a == .blocking))

/-- CMDS for F(k+1), from the copy on (R302). -/
def Dev.cmdsMsg (d : Dev) : Cmds :=
  { cyc := d.cycle + 1, len2 := d.cyc.len2, unwrap := BitVec.ofNat 48 (maskWhere 48 (fun p => (d.port p).unwrap == 1)),
    block := d.blockMask, t1 := 0, t4 := d.dpx.t4, health := d.word DPX_HEALTH,
    arms := allArms.map (fun a =>
      ⟨d.getS (ARM_ICUR_ICUR a), d.getS (SCH_AREF_VMV a), d.get (ARM_COUNT1_NSTALE a), d.get (SCH_AOUT_NINS a),
       d.get (SCH_AOUT_FINEW a)⟩),
    cells := d.mappedCells.map (fun c => (c, nth (d.port (c / 128)).buf (c % 128) noneCmd)) }

/-- CMDS leaves the ACTIVE unit at the copy. -/
def Dev.cmdsSend (d : Dev) : Dev := if d.role = .active then d.toPartner (.cmds d.cmdsMsg) else d

/-- σ of a command as sent, in 2⁻¹⁴ of a window of W units, halves away from zero, and its start state (R205, R223). -/
def cmdSigma (c : CellCmd) (win : Nat) : Nat × Nat :=
  if c.mode = 0xF then (0, 3)
  else
    let s := c.mode / 4
    let e2 := if c.edge2 = noEdge then win else c.edge2
    let mid := if c.edge1 = noEdge then 0 else e2 - c.edge1
    let v : Int := conduct s * ((win - mid : Nat) : Int) + conduct (c.mode % 4) * (mid : Int)
    (ofSigned 16 (v.sign * (sigmaOf v.natAbs win : Nat)), s)

/-- Whether a command keeps the previous window: REPEAT or NONE. -/
def CellCmd.keeps (c : CellCmd) : Bool := c.mode == 0xD || c.mode == 0xC

/-- The σ and start-state words of a cell from the command a follower sends (R205, R300). DEDUCED, log entry 24. -/
def Dev.shiftFrom (d : Dev) (c : Nat) (cmd : CellCmd) (win : Nat) : Dev :=
  let (sg, st) := cmdSigma cmd win
  d.shiftCell (c, if cmd.keeps then repeatCmd else cmd, sg, st)

/-- Whether the comparison of an arm is skipped (R312): a stale cell on either unit, REF or ISLOT late in the cycle in which the commands
were computed. -/
def Dev.compareSkipped (d : Dev) (m : Cmds) (a : Nat) : Bool :=
  d.dpx.refCyc != some (m.cyc - 1) || d.dpx.islotCyc != some (m.cyc - 1) || (nth m.arms a ⟨0, 0, 0, 0, 0⟩).nstale != 0
    || d.is (ARM_COUNT1_NSTALE a)

/-- The comparison of one arm's commands with its shadow schedule (R312). -/
def Dev.compareArm (d : Dev) (m : Cmds) (a : Nat) : Dev :=
  let own := fun (c : Nat) => if m.block.getLsbD a then blockedCmd
    else (match d.dpx.shadow.find? (fun e => e.1 == c) with | some e => e.2 | none => noneCmd)
  let sent := fun (c : Nat) => match m.cells.find? (fun e => e.1 == c) with | some e => e.2 | none => noneCmd
  if d.armCells a = [] then d
  else if d.compareSkipped m a then d.count DPX_CNT1_SKIP 1
  else if (d.armCells a).any (fun c => own c != sent c) then
    (d.count DPX_CNT0_ARMMIS 1).setDpx (fun x => { x with armMis := true })
  else d

/-- SHWIN; 0 acts as 1. DEDUCED, log entry 32. -/
def Dev.shwin (d : Dev) : Nat := max (d.get DPX_SHCFG_SHWIN) 1

/-- The run of mismatching cycles after a cycle that mismatched, that matched, or in which nothing was compared: this one ends a
run that has not reached SHWIN (R314). DEDUCED, log entry 32. -/
def mismatchRun (win run : Nat) (mis compared : Bool) : Nat :=
  if mis then min (run + 1) 255 else if compared ∨ run < win then 0 else run

/-- LOOPOK or ARMOK after a cycle (R314, R295): a run of SHWIN clears it with SHMIS and REASON SHADOW; a cycle that was compared
sets it otherwise. DEDUCED, log entry 32. -/
def Dev.shadowHealth (d : Dev) (f : Fld) (run : Nat) (compared : Bool) : Dev :=
  if d.shwin ≤ run then (d.when (d.is f) (fun d => d.set DPX_EVT_SHMIS 1 |>.set DPX_STAT_REASON 0xA)).set f 0
  else d.when compared (·.set f 1)

/-- The run of mismatching cycles of the arms, and ARMOK (R314). -/
def Dev.armHealth (d : Dev) (compared : Bool) : Dev :=
  let n := mismatchRun d.shwin d.dpx.armRun d.dpx.armMis compared
  (d.setDpx (fun x => { x with armRun := n })).shadowHealth DPX_HEALTH_ARMOK n compared

/-- The comparison of the commands of a frame with the shadow schedules (R312, R314). -/
def Dev.compareArms (d : Dev) (m : Cmds) : Dev :=
  if d.shadowing then
    (d.each allArms fun a d => d.compareArm m a).armHealth (allArms.any (fun a => !(d.armCells a).isEmpty && !d.compareSkipped m a))
  else d

/-- Places the received commands in F(k+1) (R290, R302). The substitution lasts while the block mask names an arm, and from a
BLK on at least until the mask has named it (R303). DEDUCED, log entry 31. -/
def Dev.placeCmds (d : Dev) (m : Cmds) : Dev :=
  let take := d.role == .standby || d.is DPX_STAT_PAIRED
  let cmdAt := fun (c : Nat) =>
    if take then (match m.cells.find? (fun e => e.1 == c) with | some e => e.2 | none => noneCmd) else noneCmd
  let d := d.each (ringPorts.filter d.inUse) fun p d =>
    d.setPort p (fun x => { x with buf := (d.portCells p).map cmdAt, bufEpoch := (d.word HIF_EPOCH).setWidth 16,
                                   unwrap := if m.unwrap.getLsbD p then 1 else x.unwrap, ue0 := 0, ue1 := 0 })
  let was := d.dpx.blkMask
  let d := (d.each allArms fun a d => d.setArm a (fun x =>
    { x with subst := if m.block.getLsbD a then x.subst.orElse (fun _ => some d.time.tb0)
                      else if was.getLsbD a then none else x.subst })).setDpx (fun x => { x with blkMask := m.block })
  d.each d.mappedCells fun c d => d.shiftFrom c (cmdAt c) (m.len2 * 4)

/-- CMDS received complete, with its arrival stamp (R297, R301, R302, R312): placed if it is here 50 ns before the departure. -/
def Dev.cmdsReceive (d : Dev) (m : Cmds) (t2 : BitVec 40) : Dev :=
  if d.paired = false ∨ d.follower = false then d
  else
    let d := (d.set DPX_STAT_PLOST 0 |>.setWord DPX_PHEALTH m.health).setDpx (fun x => { x with t4 := t2 })
    let d := d.useStamps m.t1 t2 m.t4
    let next := d.running && d.cyc.inCycle && m.cyc == d.cycle + 1
    let now := d.running && d.cyc.inCycle && m.cyc == d.cycle && !d.cyc.departed && decide (d.phaseNs + 50 ≤ d.cyc.tm0.dtx)
    if next then
      let d := if d.cyc.len2 = m.len2 then d else d.setCyc (fun c => { c with len2 := m.len2 })
      let d := if d.shadowing ∧ d.dpx.refCyc = some d.cycle then d.shadowAll else d
      ((d.compareArms m).placeCmds m).setDpx (fun x => { x with cmdsFor := some m.cyc })
    else if now then
      ((d.setCyc (fun c => { c with len1 := m.len2 })).compareArms m).placeCmds m |>.setDpx (fun x => { x with cmdsFor := some m.cyc })
    else d

/-- A follower without commands at a departure sends NONE in every slot (R301, R302). -/
def Dev.cmdLate (d : Dev) : Dev :=
  if d.follower ∧ d.actBit = false ∧ d.dpx.cmdsFor ≠ some d.cycle then
    let d := d.count DPX_CNT2_CMDLATE 1 |>.set DPX_EVT_CMDLATE 1 |>.plost
    let d := if d.shadowing then d.armHealth false else d
    let d := d.each d.mappedCells fun c d => d.shiftCell (c, repeatCmd, 0, 0)
    d.each (ringPorts.filter d.inUse) fun p d => d.setPort p (fun x => { x with buf := [] })
  else d

/-! ### STAT -/

/-- The lowest segment of a cast under way that has not arrived, from 1; 0 for none. DESIGN CHOICE, log entry 74. -/
def Dev.castMissing (d : Dev) : Nat :=
  if d.role = .syncing ∧ d.dpx.castIn ≠ [] ∧ d.is DPX_STAT_CASTDONE = false then
    match (List.range (max (d.get DPX_CASTSTAT_SEGTOT) 1)).find? (fun i => !d.dpx.castIn.contains i) with
    | some i => i + 1
    | none => 0
  else 0

/-- STAT leaves a follower at t₀ (R299). -/
def Dev.statSend (d : Dev) : Dev :=
  if d.follower then
    d.toPartner (.stat ⟨d.word DPX_HEALTH, 0, d.dpx.t4, BitVec.ofNat 48 (maskWhere 48 d.portActive), d.castMissing⟩)
  else d

/-- STAT received, with its arrival stamp (R296, R305, R314). -/
def Dev.statReceive (d : Dev) (m : Stat) (t4 : BitVec 40) : Dev :=
  if d.paired then (d.setWord DPX_PHEALTH m.health).setDpx (fun x => { x with pstat := some m, t4 := t4, castAsk := m.lost }) else d

/-- Whether a cycle of a port counts towards R88 in the unit's role (R305). -/
def Dev.unwrapCounts (d : Dev) (p : Nat) : Bool :=
  if d.is (RING_CTRL_DPX p) then
    d.role == .active && (match d.dpx.pstat with | some s => s.ports.getLsbD p | none => false)
  else true

/-! ### Verdicts (R292, R318) -/

/-- A verdict of the witness. -/
structure Verdict where
  named : Nat
  order : Nat
  term : BitVec 16
  seq : Word
  cause : Nat
  deriving DecidableEq, Repr

/-- Whether a term is newer than the one held (R292). -/
def newerTerm (t held : BitVec 16) : Bool := let x := (t - held).toNat; 1 ≤ x && x ≤ 32767

/-- The term held. -/
def Dev.term (d : Dev) : BitVec 16 := BitVec.ofNat 16 (d.get DPX_TERM_TERM)

/-- A newer verdict in each role (R292). -/
def Dev.newerVerdict (d : Dev) (v : Verdict) : Dev :=
  let own := d.get DPX_CFG_UNIT
  let take := fun (d : Dev) => d.set DPX_TERM_TERM v.term.toNat
  match d.role with
  | .syncing =>
    if v.named = own then
      if d.allBlocked ∧ d.partnerRole ≠ some .active then (take d).setRole .active .witness else d
    else take d
  | .standby => if v.named = own then (take d).setDpx (fun x => { x with takeover := true }) else take d
  | .active =>
    if v.named = 1 - own then
      ((take d).set DPX_STAT_REASON 0xB |>.setRole .syncing .witness).setDpx (fun x => { x with demoted := some d.time.cio })
    else take d
  | _ => d

/-- A verdict received: WITOK, VACT; newer and equal ones act (R292, R318). DEDUCED, log entry 30. -/
def Dev.verdictReceive (d : Dev) (v : Verdict) : Dev :=
  if d.duplex = false then d
  else
    let d := (d.set DPX_HEALTH_WITOK 1 |>.set DPX_TERM_VACT v.named).setDpx (fun x => { x with unanswered := 0 })
    let newer := newerTerm v.term d.term
    if newer = false ∧ v.term ≠ d.term then d
    else if d.role = .standby ∧ v.order = d.get DPX_CFG_UNIT + 1 ∧ d.dpx.takeover = false ∧ v.named ≠ d.get DPX_CFG_UNIT then
      (d.set DPX_STAT_REASON 0xC |>.set DPX_TERM_TERM v.term.toNat).setRole .syncing .witness
    else if newer then d.newerVerdict v
    else d

/-- No verdict for the last 4 heartbeats (R318). -/
def Dev.witLoss (d : Dev) : Dev :=
  if d.is DPX_HEALTH_WITOK ∧ 4 ≤ d.dpx.unanswered then d.set DPX_HEALTH_WITOK 0 |>.set DPX_EVT_WITLOSS 1 else d

/-- A STANDBY for 8 cycles without the link or without a committed ingot (R292). DEDUCED, log entry 30. -/
def Dev.standbyLoss (d : Dev) : Dev :=
  if d.role = .standby ∧ d.dpx.takeover = false ∧ 8 ≤ d.dpx.linkRun then
    (d.set DPX_STAT_REASON (if d.is DPX_STAT_SDLUP then 9 else 1)).setRole .syncing .partner
  else d

/-! ### Discovery in a pair (R327) -/

/-- Whether a unit of a pair may not lead discovery now. -/
def Dev.discBarred (d : Dev) : Bool :=
  d.duplex && (!d.timeRef || (d.is DPX_STAT_SDLUP && !d.is DPX_STAT_PAIRED))

/-- The results of a port's discovery, to the partner. -/
def Dev.discresSend (d : Dev) (p : Nat) : Dev :=
  let n := (d.port p).discovered
  let words := ([RING_DISC p, RING_LINK p 0, RING_LINK p 1, RING_DINFO p]
    ++ (List.range n).flatMap (fun i => (List.range 4).map (fun j => CELL_W10 (128 * p + i) + 4 * j))).map d.word
  if d.duplex then d.toPartner (.discres p (d.get (RING_DISC_RES p)) n words) else d

/-- Registers written as a message gives them. -/
def Dev.putWords (d : Dev) (l : Words) : Dev := d.each l fun e d => d.setWord e.1 e.2

/-- A pass that the leader's discovery needs from the end that this unit drives (R327). How the leader asks for it, and how it
learns what the frame brought, the manual does not say. DESIGN CHOICE, log entry 66. -/
def Dev.partnerPass (d : Dev) (p e pass n : Nat) (loads : List (BitVec 48)) : Dev :=
  if d.paired ∧ d.timeRef = false ∧ d.inUse p ∧ d.is (RING_CTRL_DPX p) ∧ (d.ends p).contains e ∧ d.framesOn then
    d.setPort p (fun s => { s with asked := some (pass, n) }) |>.sendFrame p e d.time.tb0 (d.discFrame p e pass n loads)
  else d

/-- Discovery results from the leader (R327). DEDUCED, log entry 31. -/
def Dev.discresReceive (d : Dev) (p res cells : Nat) (words : List Word) : Dev :=
  if d.paired = false ∨ d.timeRef then d
  else
    let cells := min cells 128
    let offs := [RING_DISC p, RING_LINK p 0, RING_LINK p 1, RING_DINFO p]
      ++ (List.range cells).flatMap (fun i => (List.range 4).map (fun j => CELL_W10 (128 * p + i) + 4 * j))
    let all := offs.zip words
    let disc := all.filter (fun e => e.1 == RING_DISC p)
    let regs := all.filter (fun e => e.1 != RING_DISC p && (decide (e.1 < 0x400000) || e.1 % 64 != 0x1C))
    let d := (d.clearCells p).setPort p (fun x => { x with discovered := if res = resOK then cells else 0 })
    let d := d.putWords disc |>.set (RING_DISC_RES p) res
    if res = resOK then
      let d := d.putWords regs |>.set (RING_DISC_NFOUND p) cells
      (d.each (List.range cells) fun i d => d.set (CELL_W0C_PRES (128 * p + i)) 1 |>.set (CELL_W3C_CLS (128 * p + i)) 3).mapPort p |>.set (RING_EVT_DISCDONE p) 1
    else d.idleArms.set (RING_EVT_DISCFAIL p) 1

/-- A DISCRES payload (R327). -/
def Dev.discresMessage (d : Dev) (b : List Byte) : Dev :=
  let p := leAt b 0 1
  if p < 48 then d.discresReceive p (leAt b 1 1) (leAt b 2 2) (leWords (b.drop 16)) else d

end Sys2Proof.Machine
end

