-- ==== Sys2Proof/Machine/Ingot.lean ====
section
/-! DEFINITION. Ingots: capture, segments, commit (R307 to R310, R313), shadow replay and health (R311, R314), adoption (R321,
R322, R351, R411, R412), casts (R325, R326). -/

namespace Sys2Proof.Machine

open Sys2Proof

/-! ### Contents (R307) -/

/-- The registers of the LOOP section in its order: compensator states x1 to y3, element slots 256 to 511, ramp states; then those of the
hand-over units, and the engine's flags. -/
def loopOffsets : List Nat :=
  (List.range 128).flatMap (fun i => (List.range 6).map (fun j => 0x181030 + 0x80 * i + 4 * j))
    ++ (List.range 256).map (fun i => 0x180C00 + 4 * i) ++ (List.range 32).map (fun i => 0x18500C + 0x20 * i)
def hoOffsets : List Nat := (List.range 16).map LOOP_HSTAT
def flagOffsets : List Nat := (List.range 7).map (fun i => 0x18001C + 4 * i)

/-- Whether an offset belongs to the LOOP section. -/
def loopOff (o : Nat) : Bool :=
  (decide (0x180C00 ≤ o) && decide (o < 0x181000))
    || (decide (0x181000 ≤ o) && decide (o < 0x185000) && decide (0x30 ≤ o % 0x80) && decide (o % 0x80 < 0x48))
    || (decide (0x185000 ≤ o) && decide (o < 0x185400) && o % 0x20 == 0xC)
    || (decide (0x185700 ≤ o) && decide (o < 0x185800) && o % 0x10 == 8)
    || (decide (0x18001C ≤ o) && decide (o ≤ 0x180034))

/-- Replaces the registers of a set of offsets. -/
def Store.load (st : Store) (p : Nat → Bool) (l : Words) : Store :=
  (l.filter (fun e => p e.1)).foldl (fun s e => s.put e.1 e.2) (st.filter (fun e => !p e.1))

/-- The mirrored flows. -/
def Dev.mirrored (d : Dev) : List Nat := allFlows.filter (fun f => d.is (SVC_FCFG_MIRROR f))

/-- Ticks to a flow's earliest delay entry. -/
def Dev.flowDue (d : Dev) (f : Nat) : Option Nat :=
  match d.svc.delays.find? (fun x => x.item.flow == f) with
  | some x => some ((x.expiry + d.svc.tick - 1) / d.svc.tick - d.time.up / d.svc.tick)
  | none => none

/-- The 4 bytes of a word, little-endian. -/
def leWord (w : Word) : List Byte := leBytes 4 w.toNat

/-- The HDR section: `t0` is t₀(k). -/
def Dev.ingHdr (d : Dev) (k : Word) (t0 : BitVec 48) : List Byte :=
  fit 64 (leBytes 2 0x494E ++ leBytes 1 1 ++ leBytes 1 (d.get DPX_CFG_UNIT) ++ leWord k ++ leBytes 4 (d.get HIF_EPOCH_NUM)
    ++ leBytes 2 (min (d.get DPX_INGCFG_NS) 414) ++ leBytes 2 d.dpx.sliceAt ++ leBytes 4 d.ingotLen ++ leBytes 6 t0.toNat ++ leBytes 2 0
    ++ leBytes 4 d.cyc.len0 ++ leBytes 4 d.cyc.len1 ++ leBytes 4 (ofSigned 32 (d.cyc.corr0 + d.cyc.corr1))
    ++ leBytes 4 (d.get CYC_SYNCERR_MISSRUN))

/-- An arm's record: state; p, direction, SHORT, whether a cycle is pending and whether i_prev is there; NRANK; the pending cycle; i_prev;
v_avg. -/
def Dev.ingArm (d : Dev) (a : Nat) : List Byte :=
  let x := d.armCtl a
  fit 64 (leBytes 1 (d.arm a).code
    ++ leBytes 1 (bitIf x.polNeg 0 + bitIf (d.is (ARM_STAT_DIR a)) 1 + bitIf (d.is (ARM_STAT_SHORT a)) 2 + bitIf x.toRun.isSome 3
      + bitIf x.iprev.isSome 4)
    ++ leBytes 2 (d.get (ARM_COUNT0_NRANK a)) ++ leWord (d.cycle + BitVec.ofNat 32 (x.toRun.getD 0))
    ++ leBytes 8 (ofSigned 64 (x.iprev.getD 0)) ++ leWord (d.word (ARM_VAVG a)))

/-- An arm's schedule generator record: active sets R and P, shadow sets, tags, RGEN, PGEN and WGEN. -/
def Dev.ingSch (d : Dev) (a : Nat) : List Byte :=
  let x := d.armCtl a
  fit 32 (leWord x.vref ++ leWord x.vofs ++ leBytes 2 x.minpw ++ leBytes 1 x.kbal ++ leBytes 1 x.cbase
    ++ leWord (d.word (SCH_VREF a)) ++ leWord (d.word (SCH_VOFS a)) ++ leBytes 2 (d.get (SCH_PCFG_MINPW a))
    ++ leBytes 1 (d.get (SCH_PCFG_KBAL a)) ++ leBytes 1 (d.get (SCH_PSC_CBASE a)) ++ leWord (d.word (SCH_TAGS a))
    ++ leBytes 1 (d.get (SCH_ASTAT_RGEN a)) ++ leBytes 1 (d.get (SCH_ASTAT_PGEN a)) ++ leBytes 1 (d.get (SCH_WGEN_WGEN a)))

/-- A hand-over unit's state: HSTAT, L, T and whether F is fixed at it. -/
def Dev.ingHandOver (d : Dev) (h : Nat) : List Byte :=
  let x := nth d.loop.ho h ⟨0, false, 0⟩
  fit 16 (leWord (d.word (LOOP_HSTAT h)) ++ leBytes 4 x.len ++ leBytes 4 (ofSigned 32 x.start) ++ leBytes 1 (bitIf x.fixed 0))

/-- The LOOP section. -/
def Dev.ingLoop (d : Dev) : List Byte :=
  loopOffsets.flatMap (fun o => leWord (d.word o)) ++ (List.range 16).flatMap d.ingHandOver
    ++ (List.range 16).flatMap (fun g => leBytes 4 (nth d.loop.counts g 0)) ++ fit 64 (flagOffsets.flatMap (fun o => leWord (d.word o)))

/-- The IMAGE section: slots 0 to 191 of the input image. -/
def Dev.ingImage (d : Dev) : List Byte :=
  (List.range 192).flatMap (fun i => leWord (match d.loop.image.find? (fun e => e.1 == i) with | some e => e.2 | none => 0))

/-- The ADC section: per sequencer entry the window's sum and count. -/
def Dev.ingAdc (d : Dev) : List Byte :=
  [0, 1].flatMap (fun x => (List.range 32).flatMap (fun i =>
    let e := (d.conv x).entry i
    leBytes 4 e.sum ++ leBytes 4 e.n))

/-- The SVC section (R411). -/
def Dev.ingSvc (d : Dev) : List Byte :=
  fit 2560 (allFlows.flatMap (fun f => leWord (d.word (SVC_FCFG f)) ++ leWord (d.word (SVC_FSTATE f)))
    ++ (List.range 64).flatMap (fun i => leWord (d.word (SVC_SEMST i))) ++ leBytes 8 (d.time.up / d.svc.tick)
    ++ (((d.mirrored.take 32).flatMap (fun f =>
        leBytes 4 (f + 256 * (match d.flowDue f with | some t => min t 0xFFFFFE | none => 0xFFFFFF))))
      ++ List.replicate (4 * (32 - d.mirrored.length)) 0xFF))

/-- A ring timer's count in TRING/256, rounded up (R351). -/
def Dev.ringUnits (d : Dev) (t : DegTimer) : Nat :=
  let n := ms (d.get SAF_TDEG1_TRING)
  if n = 0 then 0 else min ((t.count d.time.cio * 256 + n - 1) / n) 255

/-- The SAF section (R351). -/
def Dev.ingSaf (d : Dev) : List Byte :=
  fit 64 (ringPorts.flatMap (fun p => leBytes 1 (if (d.ringTimer p).on then d.ringUnits (d.ringTimer p) else 0))
    ++ leBytes 2 (d.get SAF_DEMAND_LATCH) ++ leBytes 2 (d.get SAF_REQ_ARMS))

/-- The SLICE section: NS records of mapped cells from a place in their list, wrapping at its end; a record without a cell has the
index 0x1FFF. -/
def Dev.ingSlice (d : Dev) : List Byte :=
  let cells := d.mappedCells
  let m := cells.length
  (List.range (min (d.get DPX_INGCFG_NS) 414)).flatMap (fun i =>
    if i < m then
      let c := nth cells ((d.dpx.sliceAt + i) % m) 0
      leBytes 4 c ++ leWord (d.word (CELL_W24 c)) ++ leWord (d.word (CELL_W34 c)) ++ leWord (d.word (CELL_W38 c))
    else leBytes 4 0x1FFF ++ List.replicate 12 0)

/-- The COMMIT section behind the bytes of the others. -/
def withCommit (k : Word) (epoch : Nat) (b : List Byte) : List Byte :=
  b ++ fit 32 (leBytes 4 0x1B07C0DE ++ leWord k ++ leBytes 4 (b.length + 32) ++ leBytes 4 epoch ++ leBytes 4 (crc32Bytes b).toNat)

/-- Ingot k, the state at t₀(k+1) (R307, R308). Where the manual names a section's contents but not their places, the places are
DESIGN CHOICE, log entry 73. -/
def Dev.ingBytes (d : Dev) (k : Word) (t0 : BitVec 48) : List Byte :=
  withCommit k (d.get HIF_EPOCH_NUM) (d.ingHdr k t0 ++ allArms.flatMap d.ingArm ++ allArms.flatMap d.ingSch ++ d.ingLoop
    ++ d.ingImage ++ d.ingAdc ++ d.ingSvc ++ d.ingSaf ++ d.ingSlice)

/-- A section of an ingot's bytes: offset and length (R307). -/
def sectionOf (off n : Nat) (b : List Byte) : List Byte := (b.drop off).take n

/-! ### Capture and sending (R308, R309) -/

/-- Bytes in segments of 1,024. -/
def segmentsOf (b : List Byte) : List (List Byte) :=
  (List.range ((b.length + 1023) / 1024)).map (fun i => sectionOf (1024 * i) 1024 b)

/-- Ingot k is captured at t₀(k+1) by an ACTIVE unit with the Solder link UP; `t0` is t₀(k). -/
def Dev.ingCapture (d : Dev) (k : Word) (t0 : BitVec 48) : Dev :=
  if d.role = .active ∧ d.paired then
    let m := max d.mappedCells.length 1
    let b := d.ingBytes k t0
    d.setDpx (fun x => { x with sendK := k, sending := segmentsOf b,
                                sliceAt := (x.sliceAt + min (min (d.get DPX_INGCFG_NS) 414) m) % m })
  else d

/-- The next segment is read and sent; under DIAG_PING it becomes due DELAY × 10 ns later (R309, R483). DEDUCED, log entry 32.
-/
def Dev.ingSend (d : Dev) : Dev :=
  match d.dpx.sending with
  | [] => d
  | b :: rest =>
    if d.role = .active then
      let d := if d.perturbed .ing then d.toPhase (10 * d.get DIAG_PING_DELAY) else d
      let d := (d.setDpx (fun x => { x with sending := rest })).toPartner (.ingot d.dpx.sendK b)
      if rest = [] then (d.setWord DPX_INGSTAT d.dpx.sendK).setDpx (fun x => { x with sentUpTo := some x.sendK }) else d
    else d

/-- Reading is not complete at t₀(k+1) + t_ret: the ingot is abandoned (R308); 3 in consecutive cycles are a fatal fault (R293). -/
def Dev.ingAbandon (d : Dev) : Dev :=
  if d.dpx.sending = [] then (if d.dpx.abandoned = 0 then d else d.setDpx (fun x => { x with abandoned := 0 }))
  else
    let d := (d.set DPX_EVT_INGABN 1).setDpx (fun x => { x with sending := [], abandoned := x.abandoned + 1 })
    if 3 ≤ d.dpx.abandoned then d.fatal 4 .device else d

/-! ### Receiving (R309, R313) -/

/-- The slice records of an ingot: cell index and words 0x24, 0x34, 0x38. -/
def sliceRecords (b : List Byte) : List (Nat × Word × Word × Word) :=
  let s := b.drop 0x2600
  ((pieces 16 (s.length / 16 - 2) s).map (fun r => (leAt r 0 4 % 2 ^ 13, dw (leAt r 4 4), dw (leAt r 8 4), dw (leAt r 12 4)))).filter
    (fun e => e.1 < 6144)

/-- A slice cell's words are overwritten. -/
def Dev.sliceLoad (d : Dev) (e : Nat × Word × Word × Word) : Dev :=
  d.setWord (CELL_W24 e.1) e.2.1 |>.setWord (CELL_W34 e.1) e.2.2.1 |>.setWord (CELL_W38 e.1) e.2.2.2

/-- A slice cell is compared and overwritten (R313). -/
def Dev.sliceCell (d : Dev) (e : Nat × Word × Word × Word) : Dev :=
  let same := d.word (CELL_W24 e.1) == e.2.1 && d.word (CELL_W34 e.1) == e.2.2.1 && d.word (CELL_W38 e.1) == e.2.2.2
  ((d.when (!same) (·.count DPX_CNT1_CELLMIS 1))).sliceLoad e

/-- Whether an ingot's bytes are complete with a correct HDR and COMMIT word (R307, R309). -/
def commitOk (k : Word) (len : Nat) (b : List Byte) : Bool :=
  let c := b.drop (len - 32)
  b.length == len && leAt b 0 2 == 0x494E && leAt b 2 1 == 1 && leAt b 4 4 == k.toNat
    && leAt c 0 4 == 0x1B07C0DE && leAt c 4 4 == k.toNat && leAt c 8 4 == len && leAt c 12 4 == leAt b 8 4
    && leAt c 16 4 == (crc32Bytes (b.take (len - 32))).toNat

/-- An ingot that does not commit (R309). DEDUCED, log entry 32. -/
def Dev.ingLost (d : Dev) : Dev :=
  (d.count DPX_CNT2_INGLOST 1 |>.set DPX_EVT_INGLOST 1).setDpx (fun x => { x with fill := none, afterCast := 0 })

/-- FILLING becomes COMMITTED (R309), and its slices overwrite the unit's own (R313). -/
def Dev.ingCommit (d : Dev) (f : IngFill) : Dev :=
  if commitOk f.k d.ingotLen f.bytes then
    let d := d.setDpx (fun x => { x with fill := none, prev := x.comm, comm := some ⟨f.k, f.bytes, d.time.cio⟩,
                                         afterCast := x.afterCast + 1 })
    ((d.setWord DPX_INGSTAT f.k).each (sliceRecords f.bytes) fun e d => d.sliceCell e).readyCheck
  else d.setDpx (fun x => { x with fill := some f })

/-- A received segment of ingot k (R309), in offset order: it fills the buffer of its ingot, which commits when all of it has come before
t₀(k+2). -/
def Dev.ingReceive (d : Dev) (k : Word) (b : List Byte) : Dev :=
  if d.paired = false ∨ d.shadowing = false ∨ d.running = false ∨ d.cyc.inCycle = false ∨ d.cycle ≠ k + 1 then d
  else
    let old := match d.dpx.fill with | some f => if f.k = k then f.bytes else [] | none => []
    let f : IngFill := ⟨k, old ++ b⟩
    if f.bytes.length < d.ingotLen then d.setDpx (fun x => { x with fill := some f }) else d.ingCommit f

/-- At t₀(k+2): ingot k, if it has not committed, is discarded and counted (R309). DEDUCED, log entry 32. -/
def Dev.ingExpire (d : Dev) : Dev :=
  let k := d.cycle - 2
  if d.paired ∧ d.shadowing ∧ d.dpx.comm.map (·.k) ≠ some k then d.ingLost
  else if d.dpx.fill.isSome then d.setDpx (fun x => { x with fill := none })
  else d

/-- INGOK (R316): while PLOST does not hold, whether the newest committed ingot is of cycle j − 3 or later. -/
def Dev.ingokNow (d : Dev) : Bool :=
  if d.is DPX_STAT_PLOST then d.dpx.ingok
  else match d.dpx.comm with
    | some g => decide ((d.cycle - g.k).toNat ≤ 3)
    | none => false

/-! ### Shadow compute (R311, R314) -/

/-- The LOOP section of an ingot. -/
def loopSection (b : List Byte) : List Byte := sectionOf 0x4C0 4608 b

/-- The IMAGE section of an ingot as slots that are not 0. -/
def imageSection (b : List Byte) : Words :=
  ((leWords (sectionOf 0x16C0 768 b)).zipIdx.map (fun (w, i) => (i, w))).filter (fun e => e.2 != 0)

/-- Loads an ingot's LOOP section. -/
def Dev.loadLoop (d : Dev) (b : List Byte) : Dev :=
  let s := loopSection b
  let ho := pieces 16 16 (s.drop 4224)
  let regs := loopOffsets.zip (leWords s) ++ hoOffsets.zip (ho.map (fun x => dw (leAt x 0 4))) ++ flagOffsets.zip (leWords (s.drop 4544))
  { d with regs := d.regs.load loopOff regs }.setLoop (fun x =>
    { x with counts := (leWords ((s.drop 4480).take 64)).map BitVec.toNat,
             ho := ho.map (fun x => ⟨leAt x 4 4, (leAt x 12 1).testBit 0, toSigned 32 (leAt x 8 4)⟩) })

/-- A cycle runs on an input image, without its time (R311). -/
def Dev.replayRun (d : Dev) (image : Words) : Dev :=
  let consts := ((List.range 64).map (fun i => (192 + i, d.word (LOOP_CONST i)))).filter (fun e => e.2 != 0)
  let d := d.constants.setLoop (fun s => { s with image := image ++ consts })
  ((LoopRun.mk d 0 (10 ^ 9) none).groups).d.countGroups

/-- The run of mismatching cycles of the loops, and LOOPOK (R314). DEDUCED, log entry 32. -/
def Dev.loopHealth (d : Dev) (mis compared : Bool) : Dev :=
  let n := mismatchRun d.shwin d.dpx.loopRun mis compared
  (d.setDpx (fun x => { x with loopRun := n, loopMis := mis })).shadowHealth DPX_HEALTH_LOOPOK n compared

/-- The committed ingot of a cycle: the newest, or the one before it, which stays where the next one commits before the loop phase that
replays it (R309, R311). -/
def Dev.ingotOf (d : Dev) (k : Word) : Option Ingot := [d.dpx.comm, d.dpx.prev].findSome? (fun g => g.filter (fun x => x.k == k))

/-- The replay in the loop phase of cycle k + 2 (R311). -/
def Dev.replay (d : Dev) : Dev :=
  match d.ingotOf (d.cycle - 2) with
  | some g =>
    if d.dpx.skipped then (d.loadLoop g.bytes).setDpx (fun x => { x with skipped := false })
    else
      let mis := (d.replayRun (imageSection g.bytes)).ingLoop != loopSection g.bytes
      ((d.when mis (·.count DPX_CNT0_LOOPMIS 1)).loopHealth mis true).loadLoop g.bytes
  | none => ((d.count DPX_CNT1_SKIP 1).setDpx (fun x => { x with skipped := true })).loopHealth false false

/-- SHRUN at a boundary (DPX_HEALTH). -/
def Dev.shrun (d : Dev) : Dev :=
  if d.shadowing then
    let d := if d.dpx.loopMis ∨ d.dpx.armMis then d.set DPX_HEALTH_SHRUN 0 else d.count DPX_HEALTH_SHRUN 1
    (d.setDpx (fun x => { x with loopMis := false, armMis := false })).readyCheck
  else d

/-! ### Adoption (R321, R322, R351, R412) -/

/-- Loads one arm from its 64 bytes of the ARM section; a pending cycle that has passed comes at the next boundary. DEDUCED, log
entry 22. -/
def Dev.loadArm (d : Dev) (a : Nat) (b : List Byte) : Dev :=
  let st := ArmState.ofCode (leAt b 0 1)
  let flag := (leAt b 1 1).testBit
  let wait := (dw (leAt b 4 4) - d.cycle).toInt
  let run := decide (st = .running)
  d.setArmSt a st |>.setArm a (fun x =>
      { x with toRun := if flag 3 then some (max wait 1).toNat else none,
               iprev := if flag 4 then some (toSigned 64 (leAt b 8 8)) else none, polNeg := flag 0, ranPrev := run,
               ranNow := run, subst := none, blockedSent := false })
    |>.setB (ARM_STAT_DIR a) (flag 1) |>.setWord (ARM_VAVG a) (dw (leAt b 16 4)) |>.set (ARM_COUNT0_NRANK a) (leAt b 2 2)
    |>.setB (ARM_STAT_SHORT a) (flag 2)

/-- Loads one arm from its 32 bytes of the SCH section. -/
def Dev.loadSch (d : Dev) (a : Nat) (b : List Byte) : Dev :=
  d.setArm a (fun x => { x with vref := dw (leAt b 0 4), vofs := dw (leAt b 4 4), minpw := leAt b 8 2, kbal := leAt b 10 1,
                                cbase := leAt b 11 1 })
    |>.setWord (SCH_VREF a) (dw (leAt b 12 4)) |>.setWord (SCH_VOFS a) (dw (leAt b 16 4)) |>.set (SCH_PCFG_MINPW a) (leAt b 20 2)
    |>.set (SCH_PCFG_KBAL a) (leAt b 22 1) |>.set (SCH_PSC_CBASE a) (leAt b 23 1) |>.setWord (SCH_TAGS a) (dw (leAt b 24 4))
    |>.set (SCH_ASTAT_RGEN a) (leAt b 28 1) |>.set (SCH_ASTAT_PGEN a) (leAt b 29 1) |>.set (SCH_WGEN_WGEN a) (leAt b 30 1)

/-- Group counters advance by n cycles (R322). -/
def Dev.advanceGroups (d : Dev) (n : Nat) : Dev :=
  d.setLoop (fun s => { s with counts := (List.range 16).map (fun g =>
    (nth s.counts g 0 + n) % (d.get (LOOP_GCFG_NM1 g) + 1)) })

/-- Loads the window sums and counts. -/
def Dev.loadAdc (d : Dev) (b : List Byte) : Dev :=
  let l := pairsOf (leWords b)
  d.each [0, 1] fun x d => d.setConv x (fun c => { c with entries := c.entries.zipIdx.map (fun (e, i) =>
    match l[32 * x + i]? with | some (s, n) => { e with sum := s.toNat, n := n.toNat } | none => e) })

/-- The SAF section: ring timers take the larger count; latched demands are added (R351), for the arms of the ingot's SAF_REQ,
since it names none per kind. DESIGN CHOICE, log entry 75. -/
def Dev.loadSaf (d : Dev) (b : List Byte) : Dev :=
  let d := d.each ((b.take 48).zipIdx.filter (fun e => e.1 != 0)) fun (n, p) d =>
    let t := d.ringTimer p
    let c := n.toNat * ms (d.get SAF_TDEG1_TRING) / 256
    if c ≤ t.count d.time.cio then d
    else
      let t' : DegTimer := { t with on := true, held := c, since := if t.since.isSome then some d.time.cio else none,
                                    clear := if t.on then t.clear else some d.time.cio,
                                    arm := if t.on then t.arm else d.portArm p }
      (d.setSaf (fun s => { s with ring := putAt s.ring p DegTimer.init t' })).ringCause p
  let arms := leAt b 50 2
  d.each ((List.range 8).filter (fun k => (leAt b 48 2).testBit k)) fun k d => if arms = 0 then d else d.latchDemand k arms

/-- The resume item of a mirrored flow (R412). -/
def Dev.resumeFlow (d : Dev) (f delay : Nat) : Dev :=
  let payload := leBytes 4 (d.word (SVC_FSTATE f)).toNat ++ List.replicate 20 0
  match d.commitItem (d.newItem f 3 0 payload none) delay with
  | some (d, _) => d
  | none => d.svcFull

/-- The delay that the SVC section holds for a mirrored flow, in ticks; 0 for none. -/
def dueOf (b : List Byte) (f : Nat) : Nat :=
  match ((leWords (sectionOf 2312 128 b)).map (·.toNat)).find? (fun w => w % 256 == f && w != 0xFFFFFFFF) with
  | some w => if w / 256 = 0xFFFFFF then 0 else w / 256
  | none => 0

/-- The SVC section on adoption (R412). -/
def Dev.loadSvc (d : Dev) (b : List Byte) : Dev :=
  let mir := d.mirrored
  let d := d.each mir fun f d => d.setWord (SVC_FSTATE f) (dw (leAt b (8 * f + 4) 4))
  let d := d.each mir fun f d => d.resumeFlow f (dueOf b f)
  let held := (List.range 64).filter (fun i => let w := dw (leAt b (2048 + 4 * i) 4)
    (SVC_SEMST_HELD i).of w != 0 && mir.contains ((SVC_SEMST_FLOW i).of w))
  (d.each held fun i d =>
    if d.is (SVC_SEMST_HELD i) then d.setSvc (fun s => { s with poison := s.poison ++ [i] })
    else d.set (SVC_SEMST_POISONED i) 1).dispatch

/-- Loads the ARM, SCH, LOOP, ADC and SAF sections and the slices of an ingot (R321); counters advance to the cycle in progress (R322).
-/
def Dev.loadIngot (d : Dev) (g : Ingot) : Dev :=
  let d := d.each (pieces 64 12 (g.bytes.drop 0x40)).zipIdx fun (b, a) d => d.loadArm a b
  let d := d.each (pieces 32 12 (g.bytes.drop 0x340)).zipIdx fun (b, a) d => d.loadSch a b
  let d := (d.loadLoop g.bytes).advanceGroups (d.cycle - g.k - 1).toNat
  ((d.loadAdc (sectionOf 0x19C0 512 g.bytes)).loadSaf (sectionOf 0x25C0 64 g.bytes)).each (sliceRecords g.bytes) fun e d => d.sliceLoad e

/-- The ingot that an adoption uses: one that committed in this ACLK cycle does not count (R310). -/
def Dev.adoptedIngot (d : Dev) : Option Ingot :=
  match d.dpx.comm with
  | some g => if g.at_ = d.time.cio then d.dpx.prev else some g
  | none => none

/-- The named STANDBY becomes ACTIVE at t₀(j) + t_ret − 200 ns of the first cycle whose instant lies ahead (R321); the role of
the unit is ACTIVE before its scheduler resumes mirrored flows. -/
def Dev.adopt (d : Dev) : Dev :=
  d.inPhase (d.role == .standby && d.dpx.takeover && !d.cyc.closed && decide (d.phaseNs + 200 ≤ d.cyc.tm0.tret)) fun d =>
    let d := d.toPhase (d.cyc.tm0.tret - 200)
    match d.adoptedIngot with
    | none => d.setRole .active .witness
    | some g => ((d.loadIngot g).setRole .active .witness).loadSvc (sectionOf 0x1BC0 2560 g.bytes)

/-! ### Casts (R325) -/

/-- The place of a segment's first word in the stream of words: segment 0 begins with 64 bytes of its own. -/
def castAt (i : Nat) : Nat := if i = 0 then 0 else 240 + 256 * (i - 1)

/-- The bytes of cast segment i: segment 0 carries the cycle, the segment total and M, then the stream of words goes on. -/
def Dev.castBytes (d : Dev) (i : Nat) : List Byte :=
  (if i = 0 then fit 64 (leWord d.cycle ++ leBytes 4 d.dpx.castTotal ++ leBytes 4 d.mappedCells.length) else [])
    ++ ((d.castOffsets.drop (castAt i)).take (if i = 0 then 240 else 256)).flatMap (fun o => leWord (d.word o))

/-- The segments that leave at a boundary: up to SEGS of those still to send; after the last, the one that the partner misses,
once no segment is under way (R325). How the ACTIVE unit learns of a lost segment the manual does not say. DESIGN CHOICE, log
entry 74. -/
def Dev.castNow (d : Dev) : List Nat :=
  if d.dpx.castOut.isEmpty then
    (if d.dpx.castBusy ∨ d.dpx.castAsk = 0 ∨ d.dpx.castTotal < d.dpx.castAsk then [] else [d.dpx.castAsk - 1])
  else d.dpx.castOut.take d.castSegs

/-- Cast segments are captured and queued; the cast has ended when its last segment has left and the partner reports it complete
(R325). -/
def Dev.castSend (d : Dev) : Dev :=
  if d.role ≠ .active ∨ d.paired = false ∨ d.dpx.castTotal = 0 then d
  else if d.dpx.castOut.isEmpty ∧ d.is DPX_PHEALTH_CASTDONE then d.setDpx (fun x => { x with castTotal := 0, castBusy := false })
  else
    let now := d.castNow
    let sent := min d.dpx.castOut.length d.castSegs
    let d := (d.setDpx (fun x => { x with castOut := x.castOut.drop now.length, castBusy := !now.isEmpty, castAsk := 0 })).count
      DPX_CASTSTAT_SEGDONE sent
    d.each now fun i d => d.toPartner (.cast i (d.castBytes i))

/-- Ports learn their cells from RING_DISC, and their cells are mapped. -/
def Dev.castPorts (d : Dev) : Dev :=
  d.each d.portsUsed fun p d =>
    let n := if d.get (RING_DISC_RES p) = resOK then min (d.get (RING_DISC_NFOUND p)) 128 else 0
    if (d.port p).discovered = n then d
    else ((d.setPort p (fun x => { x with discovered := n, buf := [] })).each (List.range n) fun i d =>
      d.set (CELL_W0C_PRES (128 * p + i)) 1 |>.set (CELL_W3C_CLS (128 * p + i)) 3).mapPort p

/-- The words of a cast segment at their places; segment 0 holds those of every port. -/
def Dev.castWrite (d : Dev) (i : Nat) (b : List Byte) : Dev :=
  let ws := leWords (if i = 0 then b.drop 64 else b)
  let d := if i = 0 then (d.putWords ((d.castOffsets.take (4 * d.portsUsed.length)).zip ws)).castPorts else d
  d.putWords ((d.castOffsets.drop (castAt i)).zip ws)

/-- A cast segment received by a SYNCING unit (R325): a gap before it is a lost segment; segments wait for segment 0, which
tells the cells of each port. DEDUCED, log entry 32. -/
def Dev.castReceive (d : Dev) (i : Nat) (b : List Byte) : Dev :=
  if d.paired = false ∨ d.role ≠ .syncing then d
  else
    let d := d.when (0 < i && !d.dpx.castIn.contains (i - 1)) (·.set DPX_EVT_CASTFAIL 1)
    let d := if i = 0 then d.set DPX_CASTSTAT_SEGTOT (leAt b 4 4) else d
    let d := if i = 0 then
        (d.each ((0, b) :: d.dpx.castHeld) fun x d => d.castWrite x.1 x.2).setDpx (fun x => { x with castHeld := [] })
      else if d.dpx.castIn.contains 0 then d.castWrite i b
      else d.setDpx (fun x => { x with castHeld := (i, b) :: x.castHeld.filter (fun y => y.1 != i) })
    let d := d.setDpx (fun x => { x with castIn := if x.castIn.contains i then x.castIn else i :: x.castIn })
    let d := d.set DPX_CASTSTAT_SEGDONE d.dpx.castIn.length
    if d.dpx.castIn.contains 0 ∧ d.get DPX_CASTSTAT_SEGTOT ≤ d.dpx.castIn.length ∧ d.is DPX_STAT_CASTDONE = false then
      ((d.setCastDone true).setDpx (fun x => { x with afterCast := 0 })).readyCheck
    else d

end Sys2Proof.Machine
end

