-- ==== Sys2Proof/Machine/Witness.lean ====
section
/-! DEFINITION. The witness links (R315 to R319): heartbeats of a unit, and in the WITNESS role listening, deciding and the
verdicts. -/

namespace Sys2Proof.Machine

open Sys2Proof

/-! ### A unit's heartbeat (R316) -/

/-- The number of the last closed cycle. DEDUCED, log entry 33. -/
def Dev.lastClosed (d : Dev) : Word := if d.running ∧ d.cyc.inCycle ∧ d.cyc.closed = false then d.cycle - 1 else d.cycle

/-- Whether the unit reports SHMIS (R314): a run of SHWIN mismatching cycles. -/
def Dev.shmis (d : Dev) : Bool := d.shadowing && (decide (d.shwin ≤ d.dpx.loopRun) || decide (d.shwin ≤ d.dpx.armRun))

/-- The flags of bytes 8 to 9. -/
def Dev.beatFlags (d : Dev) : Nat :=
  bitIf (d.is DPX_STAT_PAIRED) 0 + bitIf (d.is DPX_STAT_READY) 1 + bitIf d.ingokNow 2 + bitIf (d.is DPX_STAT_PLOST) 3
    + bitIf d.shmis 4 + bitIf (d.is DPX_HEALTH_MBISTOK) 5 + bitIf d.allBlocked 6 + bitIf (d.is DPX_HEALTH_WITOK) 7
    + bitIf (d.is DPX_STAT_SDLUP) 8

/-- Bytes 0 to 15 of a heartbeat. -/
def Dev.heartbeat (d : Dev) : List Byte :=
  leBytes 1 0x11 ++ leBytes 1 (d.get DPX_CFG_UNIT * 128 + d.role.code * 16) ++ leBytes 4 d.lastClosed.toNat
    ++ leBytes 2 (d.get DPX_TERM_TERM) ++ leBytes 2 d.beatFlags ++ leBytes 2 (d.word DPX_INGSTAT).toNat
    ++ leBytes 2 d.ccv.toNat ++ leBytes 1 (d.get DPX_STAT_REASON) ++ leBytes 1 0

/-- A message leaves on a witness link: its bytes, and its code groups from a running disparity that the idle groups before it
left (R315). PRESUMED, log entry 65. -/
def Dev.witnessSend (d : Dev) (link : Nat) (b : List Byte) : Dev :=
  ((d.emit (.witnessMsg link b)).emit (.witnessLine link (witnessGroups (Config.idleDisparity d.free) b))).draw

/-- A heartbeat leaves on WIT0 (R316); under DIAG_PHB DELAY ns later, or not at all (R483). A heartbeat counts as unanswered
until a verdict arrives (R318). DEDUCED, log entry 55. -/
def Dev.heartbeatSend (d : Dev) : Dev :=
  if d.duplex = false ∨ d.role = .witness ∨ d.role = .solo then d
  else
    let delay := d.get DIAG_PHB_DELAY
    if d.perturbed .hb ∧ delay = 0xFFFF then d
    else
      let d := if d.perturbed .hb then (if d.running ∧ d.cyc.inCycle then d.toPhase delay else d.elapse delay) else d
      let ok := d.ingokNow
      let d := (d.setB DPX_HEALTH_INGOK ok).witnessSend 0 d.heartbeat
      d.setDpx (fun x => { x with ingok := ok, unanswered := x.unanswered + 1 })

/-! ### The witness (R317, R319) -/

/-- Changes the witness's state. -/
def Dev.setWit (d : Dev) (f : WitState → WitState) : Dev := d.setDpx (fun x => { x with wit := f x.wit })

/-- Unit u: 0 A, 1 B. -/
def WitState.unit (w : WitState) (u : Nat) : WitUnit := if u = 0 then w.a else w.b

/-- Changes unit u. -/
def WitState.setUnit (w : WitState) (u : Nat) (x : WitUnit) : WitState := if u = 0 then { w with a := x } else { w with b := x }

/-- No heartbeat from a unit for WTO. DEDUCED, log entry 33. -/
def Dev.silent (d : Dev) (u : Nat) : Bool :=
  let last := match (d.dpx.wit.unit u).at_ with | some t => t | none => d.dpx.wit.since
  decide (d.get DPX_WTO_WTO ≤ d.time.cio - last)

/-- Whether a unit reports a role in a heartbeat not older than WTO. DEDUCED, log entry 33. -/
def Dev.reports (d : Dev) (u : Nat) (r : Role) : Bool :=
  let x := d.dpx.wit.unit u
  x.at_.isSome && !d.silent u && x.role == r.code

/-- A flag of a unit's last heartbeat. -/
def Dev.beat (d : Dev) (u n : Nat) : Bool := (d.dpx.wit.unit u).flags.testBit n

/-- The unit named, 0xF for none. -/
def Dev.named (d : Dev) : Nat := d.get DPX_WSTAT_ACTU

/-- Whether a unit may be named while none is (R319): SYNCING and ARMSBLK, with PAIRED or with the other silent. -/
def Dev.qualifies (d : Dev) (u : Nat) : Bool :=
  d.reports u .syncing && d.beat u 6 && (d.beat u 0 || d.silent (1 - u))

/-- DISAGN; 0 acts as 1. DEDUCED, log entry 33. -/
def Dev.disagn (d : Dev) : Nat := max (d.get DPX_WCFG_DISAGN) 1

/-- ORDER of a verdict (R319): RESYNC of a STANDBY that disagrees with an ACTIVE unit whose self-test is clean. DEDUCED, log
entry 33. -/
def Dev.witOrder (d : Dev) : Nat :=
  let u := d.named
  if u ≤ 1 ∧ d.reports (1 - u) .standby ∧ d.disagn ≤ (d.dpx.wit.unit (1 - u)).shmis ∧ d.beat u 5 then 2 - u else 0

/-- The bytes of a verdict (R317). -/
def Dev.verdictBytes (d : Dev) : List Byte :=
  leBytes 1 0x21 ++ leBytes 1 (d.named * 16 + d.witOrder) ++ leBytes 2 (d.get DPX_WSTAT_TERM)
    ++ leBytes 4 d.dpx.wit.seq.toNat ++ leBytes 1 d.dpx.wit.cause ++ List.replicate 7 0

/-- A verdict leaves on a link; the sequence number counts verdicts. DEDUCED, log entry 33. -/
def Dev.verdictSend (d : Dev) (link : Nat) : Dev :=
  (d.witnessSend link d.verdictBytes).setWit (fun w => { w with seq := w.seq + 1 })

/-- The witness names a unit with a term and a cause: WEVT.NAMED, a verdict to both units at once. -/
def Dev.witName (d : Dev) (u : Nat) (term : BitVec 16) (cause : Nat) : Dev :=
  let d := d.set DPX_WSTAT_ACTU u |>.set DPX_WSTAT_TERM term.toNat |>.raise DPX_WEVT_WEVT 0
  let d := d.setWit (fun w => { w with cause := cause })
  (d.verdictSend 0).verdictSend 1

/-- The next term. -/
def Dev.nextTerm (d : Dev) : BitVec 16 := BitVec.ofNat 16 (d.get DPX_WSTAT_TERM) + 1

/-- The decision while no unit is named. -/
def Dev.witFirst (d : Dev) : Dev :=
  let pref := d.get DPX_CFG_PREF
  if d.qualifies pref then d.witName pref d.nextTerm 1
  else if d.qualifies (1 - pref) then d.witName (1 - pref) d.nextTerm 1
  else d

/-- The decision while unit u is named ACTIVE and s is the other one. DEDUCED, log entry 33. -/
def Dev.witHold (d : Dev) (u s : Nat) : Dev :=
  let up := d.reports s .standby
  if d.reports u .faulted ∧ up ∧ d.beat s 2 then d.witName s d.nextTerm 2
  else if d.silent u ∧ up ∧ d.beat s 2 ∧ d.beat s 3 then d.witName s d.nextTerm 3
  else if d.silent u ∧ up ∧ d.beat s 3 = false then d.raise DPX_WEVT_WEVT 1
  else if up ∧ d.disagn ≤ (d.dpx.wit.unit s).shmis then
    if d.beat u 5 then d.raise DPX_WEVT_WEVT 2
    else if d.beat s 5 then d.witName s d.nextTerm 4
    else d
  else d

/-- The table of R319 after the start. -/
def Dev.witDecide (d : Dev) : Dev :=
  if d.role = .witness ∧ d.dpx.wit.started then
    (if d.named ≤ 1 then d.witHold d.named (1 - d.named) else d.witFirst)
  else d

/-- Whether a message is a heartbeat of the unit on a link (R316). -/
def beatForm (link : Nat) (b : List Byte) : Bool :=
  b.length == 16 && leAt b 0 1 == 0x11 && leAt b 1 1 / 128 == link && decide (leAt b 1 1 / 16 % 8 ≤ 5)

/-- What a heartbeat tells. -/
def WitUnit.heard (x : WitUnit) (b : List Byte) (now : Nat) : WitUnit :=
  let flags := leAt b 8 2
  { at_ := some now, role := leAt b 1 1 / 16 % 8, term := BitVec.ofNat 16 (leAt b 6 2), flags := flags,
    shmis := if flags.testBit 4 then x.shmis + 1 else 0 }

/-- A heartbeat received by a witness (R317, R319): a malformed one sets HBERR; after the start the witness decides and answers.
DEDUCED, log entry 33. -/
def Dev.heartbeatReceive (d : Dev) (link : Nat) (b : List Byte) : Dev :=
  if d.role ≠ .witness then d
  else if beatForm link b = false then d.raise DPX_WEVT_WEVT 3
  else
    let d := d.setWit (fun w => w.setUnit link ((w.unit link).heard b d.time.cio))
    if d.dpx.wit.started then d.witDecide.verdictSend link else d

/-- No heartbeat from unit u for WTO; time passes until then. -/
def Dev.witnessTimeout (d : Dev) (u : Nat) : Dev :=
  if d.role ≠ .witness ∨ d.dpx.wit.started = false then d
  else
    let last := match (d.dpx.wit.unit u).at_ with | some t => t | none => d.dpx.wit.since
    (d.elapse (last + d.get DPX_WTO_WTO - d.time.cio)).witDecide

/-- The newer of the terms reported. -/
def WitState.newest (w : WitState) : BitVec 16 :=
  match w.a.at_, w.b.at_ with
  | some _, some _ => if newerTerm w.b.term w.a.term then w.b.term else w.a.term
  | some _, none => w.a.term
  | none, some _ => w.b.term
  | none, none => 0

/-- The decision at the witness's start: a sole ACTIVE unit is named with the newest term as it is. DEDUCED, log entry 33. -/
def Dev.witBegin (d : Dev) : Dev :=
  let w := d.dpx.wit
  let t := w.newest
  let d := (d.set DPX_WSTAT_TERM t.toNat).setWit (fun w => { w with started := true })
  match d.reports 0 .active, d.reports 1 .active with
  | true, true => d.witName (if newerTerm w.b.term w.a.term then 1 else 0) (t + 1) 1
  | true, false => d.witName 0 t 1
  | false, true => d.witName 1 t 1
  | false, false => d.witDecide

/-- The witness has listened for 3 × WTO; time passes until then (R319). -/
def Dev.witnessStart (d : Dev) : Dev :=
  if d.role ≠ .witness ∨ d.dpx.wit.started then d
  else (d.elapse (d.dpx.wit.since + 3 * d.get DPX_WTO_WTO - d.time.cio)).witBegin

/-- The verdict that 16 bytes carry (R317). -/
def verdictOf (b : List Byte) : Option Verdict :=
  if b.length = 16 ∧ leAt b 0 1 = 0x21 then
    some ⟨leAt b 1 1 / 16, leAt b 1 1 % 16, BitVec.ofNat 16 (leAt b 2 2), dw (leAt b 4 4), leAt b 8 1⟩
  else none

/-- A witness message with a bad CRC is discarded and counted (R315); a WITNESS sets HBERR. -/
def Dev.witnessCrc (d : Dev) : Dev :=
  let d := d.count DPX_CNT3_WITERR 1
  if d.role = .witness then d.raise DPX_WEVT_WEVT 3 else d

/-- What 20 received code groups do: the 16 bytes of a good message, or its discard. -/
def Dev.onWitness (d : Dev) (gs : List (BitVec 10)) (f : List Byte → Dev → Dev) : Dev :=
  match witnessBytes gs with
  | some b => f b d
  | none => d.witnessCrc

/-- A message received by a unit on WIT0: a verdict acts, another form is discarded. -/
def Dev.verdictMessage (d : Dev) (b : List Byte) : Dev :=
  match verdictOf b with
  | some v => d.verdictReceive v
  | none => d

/-- A write of 1 to DPX_CTRL.FAULT (R293). DEDUCED, log entry 53. -/
def Dev.faultWrite (d : Dev) (o : Origin) (v : Word) : Dev := if DPX_CTRL_FAULT.of v = 0 then d else d.fatal 5 o

end Sys2Proof.Machine
end

