-- ==== Sys2Proof/Machine/Phases.lean ====
section
/-! DEFINITION. The cycle as the device runs it (R38): what every block does at the boundary, the departure, the return deadline,
each arm's sort, the loop phase, the reload and the copy; frames after an ACLK stop (R213). -/

namespace Sys2Proof.Machine

open Sys2Proof

/-! ### The boundary (R33) -/

/-- The run of cycles without Solder link or without a committed ingot (R292): `len` is the length of the cycle that ends. -/
def Dev.countLink (d : Dev) (len : Nat) : Dev :=
  let ok := d.paired && (match d.dpx.comm with | some g => decide (d.time.cio - g.at_ ≤ len) | none => false)
  if d.role = .standby then d.setDpx (fun x => { x with linkRun := if ok then 0 else x.linkRun + 1 }) else d

/-- The run of cycles with frames of the partner that carry ACT = 1 (R323). -/
def Dev.countAct (d : Dev) : Dev :=
  d.setDpx (fun x => { x with actRun := if x.act then x.actRun + 1 else 0, act := false })

/-- What the duplex block does at t₀ of a cycle after another one. -/
def Dev.duplexNext (d : Dev) (k : Word) (t0 : BitVec 48) (len : Nat) : Dev :=
  d.ingCapture k t0 |>.ingExpire |>.shrun |>.countSkew |>.countLink len |>.countAct

/-- What the duplex block does at every t₀. -/
def Dev.duplexBoundary (d : Dev) : Dev := d.slewPair |>.castSend |>.statSend

/-- The cycle timer reaches the next boundary (R33, R36): it stops, or a cycle begins. -/
def Dev.cycleBoundary (d : Dev) : Dev :=
  if d.sch.aclkStopped then d
  else
    let had := d.cyc.inCycle
    let k := d.cycle
    let t0 := d.cyc.t0
    let len := d.cyc.len0
    let ending := allArms.filter (fun a => d.arm a == .blocking)
    let d := d.timerBoundary
    let d := match (ending.filter (fun a => d.arm a == .blocked)).getLast? with
      | some a => d.stateStep (d.armCtl a).origin
      | none => if d.running then d else d.stateStep d.cyc.by_
    if d.inCycle then
      let d := if had then d.duplexNext k t0 len else d
      d.duplexBoundary
    else d

/-! ### Frames -/

/-- The departure of F(k) at t₀ + d_tx (R40, R53). -/
def Dev.cycleDepart (d : Dev) : Dev :=
  d.inPhase (!d.cyc.departed) fun d =>
    let x := d.cyc.tm0.dtx
    let d := (d.toPhase x).cmdLate
    (d.departFrames d.cycle.toNat (plusNs d.cyc.t0 x)).setCyc (fun c => { c with departed := true })

/-- A frame of the ring ports after an ACLK stop (R213): the last T_cyc and d_tx carry on, CYCNUM counts, every slot is blocked;
each arm becomes BLOCKED at the start of its first window so commanded, which lies before the second such frame. DEDUCED, log
entry 17. -/
def Dev.stoppedDepart (d : Dev) : Dev :=
  let n := d.sch.stopFrames
  let d := if n = 1 then (d.each allArms fun a d => if d.arm a = .blocking then d.armTo a .blocked else d) else d
  let c := d.cyc
  let t0 := if c.departed then c.t0 else c.past.headD (c.t0 - BitVec.ofNat 48 (c.tm0.tcyc * 2 ^ 16))
  let num := if c.departed then d.cycle else d.cycle - 1
  let d := d.departFrames (num + BitVec.ofNat 32 (n + 1)).toNat (plusNs t0 (c.tm0.dtx + (n + 1) * c.tm0.tcyc))
  { d with sch := { d.sch with stopFrames := n + 1 } }

/-- Frames leave the ring ports. -/
def Dev.frameDepart (d : Dev) : Dev := if d.sch.aclkStopped then d.stoppedDepart else d.cycleDepart

/-- A returning cycle frame (R44 to R52, R75 to R83). -/
def Dev.frameReturns (d : Dev) (p e : Nat) (f : Frame) (ret : Nat) : Dev :=
  if d.sch.aclkStopped then d else d.frameInPair p e f ret

/-- The return deadline t₀ + t_ret (R38, R48): reception closes, supervision, ring degraded modes, and an ingot that has not been
read is abandoned. -/
def Dev.returnDeadline (d : Dev) : Dev :=
  d.inPhase (!d.cyc.closed) fun d =>
    let d := d.toPhase d.cyc.tm0.tret
    let d := (d.closePorts d.unwrapCounts).setDpx (fun x => { x with pstat := none }) |>.supervise |>.ringCauses |>.ingAbandon
    d.setCyc (fun c => { c with closed := true })

/-! ### Compute phases -/

/-- The sort of arm a after the deadline, complete `ns` after it began (R181); beyond its reservation it is late (R54, R183). -/
def Dev.armSort (d : Dev) (a ns : Nat) : Dev :=
  d.inPhase (d.sortDue a) fun d =>
    if d.cyc.tm0.sort < ns ∧ (d.armCells a).isEmpty = false then d.sortOverrun a
    else
      let d := (d.toPhase (d.cyc.tm0.tret + min ns d.cyc.tm0.sort)).sortArm a ns
      d.setCyc (fun c => { c with sorted := c.sorted ||| BitVec.ofNat 12 (2 ^ a) })

/-- A loop phase that the reload cut (R54, R250). DESIGN CHOICE, log entry 26. -/
def Dev.loopCut (d : Dev) : Dev := if d.is LOOP_STAT_CUT then d.phaseLate CYC_LATEPH_LOOP else d

/-- The loop phase at t₀ + t_ret + t_sort (R38, R232); a unit that shadows replays instead (R311). -/
def Dev.loopRun (d : Dev) (stall : Nat) : Dev :=
  d.inPhase (d.cyc.closed && !d.cyc.looped && !d.cyc.reloaded) fun d =>
    let d := d.toPhase (d.cyc.tm0.tret + d.cyc.tm0.sort)
    let d := if d.shadowing then d.replay else (d.loopPhase stall d.cyc.tm0.loop).loopCut
    d.setCyc (fun c => { c with looped := true })

/-- The reload at t₀ + t_ret + t_sort + t_loop (R38, R216): recorders, TEL, the schedule phase, REF. DEDUCED, log entry 23. -/
def Dev.reload (d : Dev) (drained : List Nat) : Dev :=
  d.inPhase (!d.cyc.reloaded) fun d =>
    let d := d.toPhase (d.cyc.tm0.tret + d.cyc.tm0.sort + d.cyc.tm0.loop)
    (d.recReloads drained |>.telReload |>.schedulePhase |>.setRIssued |>.refSend).setCyc (fun c => { c with reloaded := true })

/-- The copy at t₀ + T_cyc − t_grd (R208): a follower's buffers come from CMDS instead (R302). -/
def Dev.scheduleCopy (d : Dev) : Dev :=
  d.inPhase (d.cyc.reloaded && !d.cyc.copied) fun d =>
    let d := d.toPhase (d.cyc.tm0.tcyc - d.cyc.tm0.grd)
    (if d.follower then d else d.copySchedules.cmdsSend).setCyc (fun c => { c with copied := true })

end Sys2Proof.Machine
end

