-- ==== Sys2Proof/Machine/Bus.lean ====
section
/-! DEFINITION. BAR0 accesses (R2 to R13): gating (R452), origins (R393), locks (R3, R373), wide values (R10, R11), registers whose
writes do more than set fields. -/

namespace Sys2Proof.Machine

open Sys2Proof

/-! ### Places -/

/-- The copy of a register that an offset names. -/
def ix (base stride n off : Nat) : Option Nat :=
  if base ≤ off ∧ (off - base) % stride = 0 ∧ (off - base) / stride < n then some ((off - base) / stride) else none

/-- Whether a register lies in a range. -/
def within (lo hi off : Nat) : Bool := decide (lo ≤ off) && decide (off < hi)

/-! ### Locks (R3, R373) -/

/-- What of a written word reaches the fields: locked RWL fields keep the value in force. -/
def Dev.unlockedPart (d : Dev) (off : Nat) (v : Word) : Word :=
  if d.locked then (v &&& ~~~ rwlMask off) ||| (d.word off &&& rwlMask off) else v

/-- One LOCKWR event per access whose value differs in a locked field. -/
def Dev.lockCheck (d : Dev) (o : Origin) (off : Nat) (v : Word) : Dev :=
  if d.locked ∧ (v ^^^ d.word off) &&& rwlMask off ≠ 0 then d.event 1 o off else d

/-- A write that acts on each field by its type (R2, R3, R7); `hw` are flags that hardware sets in the same clock. DESIGN
CHOICE, log entry 6. -/
def Dev.plainWrite (d : Dev) (off : Nat) (v hw : Word) : Dev :=
  let set := typeMask (fun t => t == .rw || t == .rwl) off
  let flags := typeMask (· == .w1c) off
  let old := d.word off
  d.setWord off ((((old &&& ~~~ set) ||| (v &&& set)) &&& ~~~ (v &&& flags)) ||| (hw &&& flags))

/-- A write that would log while the audit queue is full is discarded (R387). DEDUCED, log entry 41. -/
def Dev.audited (d : Dev) (o : Origin) (f : Dev → Dev) : Dev :=
  let e := f d
  if d.withheld o && (e.aud.queue.length != d.aud.queue.length || e.saf.toAudit.length != d.saf.toAudit.length) then
    d.raise HIF_EVT_EVT 3
  else e

/-! ### Counters of flags (R7) -/

/-- The counters of the flag at bit b of an event register: those of which the event that sets the flag counts one (R7). -/
def flagCounters (off b : Nat) : List Fld :=
  if off = CYC_STAT then
    if b = 0 then [CYC_OVRCNT_OVRCNT] else if b = 1 then [CYC_LATEPH_SORT, CYC_LATEPH_LOOP, CYC_LATEPH_SCH] else []
  else if off = ADC_EVT then (if b = 0 then [ADC_SKIPCNT_SKIPA, ADC_SKIPCNT_SKIPB] else [])
  else if off = DPX_EVT then
    (if b = 3 then [DPX_CNT2_INGLOST] else if b = 4 then [DPX_CNT2_CMDLATE] else if b = 9 then [DPX_CNT3_RLYLATE] else [])
  else if off = HIF_EVT then (if b = 2 then [HIF_LOST_CPL, HIF_LOST_EVT, HIF_LOST_TEL] else [])
  else if off = SVC_EVT then (if b = 0 then [SVC_CNT_FULL] else if b = 1 then [SVC_CNT_LATE] else [])
  else if off = MEM_EVT then
    nth [[MEM_CECNT_SRAMCE], [MEM_ERRCNT_UE], [MEM_ERRCNT_MRAMCE], [MEM_ERRCNT_UE], [MEM_CECNT_DDRCE], [MEM_ERRCNT_UE]] b []
  else
    match ix (RING_EVT 0) 0x1000 48 off, ix (LANE_EVT 0) 0x400 100 off, ix (ARM_EVT 0) 0x4000 12 off, ix (SCH_AEVT 0) 0x40 12 off,
        ix (REC_EVT 0) 0x100 4 off, ix (SVC_PEVT 0) 0x40 4 off with
    | some p, _, _, _, _, _ =>
      let both := fun (f : Nat → Nat → Fld) => [f p 0, f p 1]
      nth [both RING_MISSLATE_MISS, both RING_MISSLATE_LATE, both RING_CRC_HCRC ++ both RING_CRC_FCRC ++ both RING_SLOTERR_SLOTCRC,
           both RING_HOPWRAP_HOPERR, both RING_SEQDUP_SEQ, both RING_SEQDUP_DUP, [RING_CNTP_DIRMIS p], [], [],
           [RING_CNTP_UNWRAPCNT p]] b []
    | _, some n, _, _, _, _ =>
      nth [[LANE_CNT1_LOSCNT n], [], [LANE_CNT0_LOLCNT n], [], [LANE_CNT1_DOWNCNT n], [LANE_CNT0_HDRERR n]] b []
    | _, _, some a, _, _, _ => if b = 5 then [ARM_CNT_BUDOVR a] else if b = 6 then [ARM_CNT_ESTREJ a] else []
    | _, _, _, some a, _, _ => if b = 0 then [SCH_GENCNT_GENMIS a] else []
    | _, _, _, _, some n, _ => if b = 3 then [REC_DROPCNT_DROPCNT n] else []
    | _, _, _, _, _, some n => if b = 2 then [SVC_PCNT_WDOG n] else []
    | _, _, _, _, _, _ => []

/-- The events that set flags of a register in the same clock as an access count in the flags' event counters (R7); `which` numbers
the counter where a flag has several. -/
def Dev.tieCount (d : Dev) (off : Nat) (hw : Word) (which : Nat) : Dev :=
  d.each ((List.range 32).filter (fun b => (hw &&& typeMask (· == .w1c) off).getLsbD b)) fun b d =>
    match flagCounters off b with
    | [] => d
    | f :: fs => d.count (nth (f :: fs) (which % (fs.length + 1)) f) 1

/-! ### Registers with effects of their own -/

/-- Whether discovery of a port is refused: none runs, and its arm is not BLOCKED or the unit of a pair may not lead (R90, R327). -/
def Dev.discRefused (d : Dev) (p : Nat) : Bool :=
  (d.port p).disc.isNone && (d.arm (d.portArm p) != .blocked || d.discBarred)

/-- Discovery requested on one port (R90, R327, R383). -/
def Dev.ringDisc (d : Dev) (p : Nat) (o : Origin) : Dev :=
  if (d.port p).disc.isSome then d
  else if d.discRefused p then d.event 4 o p
  else if d.epState = .applying then d.setPort p (fun x => { x with discWait := some o })
  else d.discStart p o

/-- A write of 1 to RST_CTRL.DISC (R460). DEDUCED, log entry 18. -/
def Dev.deviceDisc (d : Dev) (o : Origin) : Dev :=
  if d.dstate = .config ∧ d.portsUsed ≠ [] ∧ d.allBlocked then
    if d.discBarred then d.event 4 o 0
    else ({ d with rst := { d.rst with disc := o } }.each d.portsUsed fun p d => d.ringDisc p o).enter .discover o
  else d

/-- A write of RST_CTRL. -/
def Dev.rstCtrl (d : Dev) (o : Origin) (v : Word) : Dev :=
  if RST_CTRL_SWRST.of v ≠ 0 ∧ swrstOrigin o then d.resetUnlocks.swrst o
  else if RST_CTRL_DISC.of v ≠ 0 then d.deviceDisc o else d

/-- A write of a cycle timing register: the previous value stays, with PERERR, if it is out of range or t_ret would fall below
d_tx (R34). -/
def Dev.cycTiming (d : Dev) (off : Nat) (v : Word) : Dev :=
  let e := d.plainWrite off v 0
  let per := CYC_PERIOD_PERIOD.of v
  if (off = CYC_PERIOD ∧ (per < 5000 ∨ 200000 < per)) ∨ e.timing.closes = false then d.set CYC_STAT_PERERR 1 else e

/-- A write of TIM_PTPCFG: a change of a port's timestamping (R174). -/
def Dev.ptpCfg (d : Dev) (v : Word) : Dev :=
  let e := d.plainWrite TIM_PTPCFG v 0
  let e := if d.is TIM_PTPCFG_TSMODE0 = e.is TIM_PTPCFG_TSMODE0 then e else e.tsChange 0
  if d.is TIM_PTPCFG_TSMODE1 = e.is TIM_PTPCFG_TSMODE1 then e else e.tsChange 1

/-- A write of RING_CTRL: its lanes follow EN and DPX, its cells' entries EN (R519), a class RP cause ends with EN (R347); DISC,
which if refused takes the whole write with it (R90). DEDUCED, log entry 18. -/
def Dev.ringCtrlWrite (d : Dev) (o : Origin) (p : Nat) (v : Word) : Dev :=
  if (RING_CTRL_DISC p).of v ≠ 0 ∧ d.discRefused p then d.event 4 o p
  else
    let d := ((d.plainWrite (RING_CTRL p) v 0).laneRefresh (2 * p) |>.laneRefresh (2 * p + 1)).mapPort p
    let d := if (d.ringTimer p).on ∧ d.inUse p = false then d.ringCause p else d
    if (RING_CTRL_DISC p).of v = 0 then d else d.ringDisc p o

/-- A write of RING_MAP: the entries of the port's cells take the new map. DEDUCED, log entry 18. -/
def Dev.ringMapWrite (d : Dev) (p : Nat) (v : Word) : Dev := (d.plainWrite (RING_MAP p) v 0).mapPort p

/-- A write of LANE_CTRL: RESTART, or a change of precoding or polarity, which restarts the lane (R124, R125). -/
def Dev.laneCtrlWrite (d : Dev) (o : Origin) (n : Nat) (v : Word) : Dev :=
  let e := d.plainWrite (LANE_CTRL n) v 0
  if d.word (LANE_CTRL n) ≠ e.word (LANE_CTRL n) then e.laneRestarts n
  else if (LANE_CTRL_RESTART n).of v ≠ 0 then e.laneRestart n o
  else e

/-- A write of SCH_ACTL: clearing EN is a block cause (R211, R215). -/
def Dev.actlWrite (d : Dev) (o : Origin) (a : Nat) (v : Word) : Dev :=
  let was := d.is (SCH_ACTL_EN a)
  let d := d.plainWrite (SCH_ACTL a) v 0
  if was ∧ d.is (SCH_ACTL_EN a) = false then d.block (2 ^ a) .enable o else d

/-- A write of REC_CTRL of instance n: the settings, then DISARM, ARM, FORCE, READ. DEDUCED, log entry 28. -/
def Dev.recCtrlWrite (d : Dev) (n : Nat) (v : Word) : Dev :=
  let b := fun (f : Fld) => decide (f.of v ≠ 0)
  d.plainWrite (REC_CTRL n) v 0 |>.when (b (REC_CTRL_DISARM n)) (·.recDisarm n) |>.when (b (REC_CTRL_ARM n)) (·.recArm n false)
    |>.when (b (REC_CTRL_FORCE n)) (·.recForce n) |>.when (b (REC_CTRL_READ n)) (·.recRead n)

/-- A write of SVC_PCTL of pair n (R394, R396, R402). DESIGN CHOICE, log entry 42. -/
def Dev.pctlWrite (d : Dev) (o : Origin) (n : Nat) (v : Word) : Dev :=
  let b := fun (f : Fld) => decide (f.of v ≠ 0)
  let d := d.set (SVC_PCTL_MAXDEPTH n) ((SVC_PCTL_MAXDEPTH n).of v) |>.set (SVC_PCTL_AUTORST n) ((SVC_PCTL_AUTORST n).of v)
  let d := if b (SVC_PCTL_HALT n) = d.is (SVC_PCTL_HALT n) then d else d.pairHalt n (b (SVC_PCTL_HALT n))
  d.when (b (SVC_PCTL_RESTART n)) (·.pairRestart n) |>.when (b (SVC_PCTL_IRQ n)) (·.pairIrq o n)

/-- A write of SVC_SEMCTL (R407, R408). -/
def Dev.semWrite (d : Dev) (o : Origin) (i : Nat) (v : Word) : Dev :=
  match (SVC_SEMCTL_OP i).of v with
  | 1 => d.semAcq o i
  | 2 => d.semRel o i
  | 3 => d.semClrpois o i
  | _ => d

/-- A write of SEC_MBOX: discarded while an operation runs (R474). -/
def Dev.mboxWrite (d : Dev) (off : Nat) (v : Word) : Dev :=
  if d.sec.op.isSome then d.raise SEC_EVT_EVT 1 else d.setWord off v

/-! ### Wide values (R10, R11) -/

/-- Registers read as one wide value: low and high word. The ENUM record of a cell's entry (R97) is a wide value too. DEDUCED,
log entry 10. -/
def widePairs : List (Nat × Nat) :=
  [(TOP_UID_LO, TOP_UID_HI), (TOP_DSUM_RING_LO, TOP_DSUM_RING_HI), (CYC_MISS_LO, CYC_MISS_HI), (TIM_GMID_LO, TIM_GMID_HI),
   (TIM_DLYSAT_LO, TIM_DLYSAT_HI), (SAF_RINGDEG_LO, SAF_RINGDEG_HI), (SAF_RINGSOLE_LO, SAF_RINGSOLE_HI),
   (SAF_CCV_LO, SAF_CCV_HI), (SAF_CCVCONF_LO, SAF_CCVCONF_HI), (SEC_ATTIDX_LO, SEC_ATTIDX_HI), (AUD_ANCHOR_LO, AUD_ANCHOR_HI)]
    ++ (List.range 6).map (fun r => (HIF_RING_BASELO r, HIF_RING_BASEHI r))

/-- What a read of an offset latches for its origin (R10, R97, R162, CYC_NUM). DEDUCED, log entry 10. -/
def latchedBy (off : Nat) : List Nat :=
  if off = CYC_NUM then [CYC_T0, CYC_PHASE]
  else
    match ix (TIM_TB_NS 0) 8 4 off, ix (CELL_W14 0) 0x40 6144 off with
    | some _, _ => [off + 4]
    | none, some c => [CELL_W10 c]
    | none, none => (widePairs.filter (fun p => p.1 == off)).map (·.2)

/-- The latch of an origin for an offset. -/
def Dev.latchOf (d : Dev) (o : Origin) (off : Nat) : Option Word :=
  (d.rlatch.find? (fun e => e.1 == (o, off))).map (·.2)

/-- Sets an origin's latch for an offset. -/
def Dev.setLatch (d : Dev) (o : Origin) (off : Nat) (w : Word) : Dev :=
  { d with rlatch := ((o, off), w) :: d.rlatch.filter (fun e => e.1 != (o, off)) }

/-- Consumes it. -/
def Dev.dropLatch (d : Dev) (o : Origin) (off : Nat) : Dev := { d with rlatch := d.rlatch.filter (fun e => e.1 != (o, off)) }

/-- A write of the low word of a wide writable value is held until the high word comes (R11). DEDUCED, log entry 10. -/
def Dev.wideLow (d : Dev) (o : Origin) (off : Nat) (v : Word) : Dev :=
  { d with wlatch := ((o, off), v) :: d.wlatch.filter (fun e => e.1 != (o, off)) }

/-- A write of the high word applies both; without a held low word the low word stays. DEDUCED, log entry 10. -/
def Dev.wideHigh (d : Dev) (o : Origin) (lo hi : Nat) (v : Word) : Dev :=
  let d := match d.wlatch.find? (fun e => e.1 == (o, lo)) with
    | some e => d.plainWrite lo e.2 0
    | none => d
  { d.plainWrite hi v 0 with wlatch := d.wlatch.filter (fun e => e.1 != (o, lo)) }

/-! ### The write by block -/

/-- TOP, CLK, RST, CYC, TIM. -/
def Dev.writeA (d : Dev) (o : Origin) (off : Nat) (v : Word) : Option Dev :=
  if off = CLK_CTRL then some (d.clkCtrl v)
  else if off = CLK_MDLL then some (d.clkMdll v)
  else if off = CLK_DIV then some (d.clkDiv v)
  else if off = CLK_OUT then some (d.clkOut v)
  else if off = CLK_GATE0 then some (d.clkGate false v)
  else if off = CLK_GATE1 then some (d.clkGate true v)
  else if off = CLK_LSEN then some (d.clkLsen v)
  else if off = RST_CTRL then some (d.rstCtrl o v)
  else if off = CYC_CTRL then some (if CYC_CTRL_EN.of v = 0 then d.timerStopRequest o v else (d.timerStart v).setCyc (fun c => { c with by_ := o }))
  else if off = CYC_PERIOD ∨ off = CYC_DTX ∨ off = CYC_RESA ∨ off = CYC_RESB then some (d.cycTiming off v)
  else none

/-- TIM. -/
def Dev.writeT (d : Dev) (o : Origin) (off : Nat) (v : Word) : Option Dev :=
  if off = TIM_CTRL then some (if TIM_CTRL_SNAP.of v = 0 then d else d.snap)
  else if off = TIM_TB0SET then some (d.tb0Set o v)
  else if off = TIM_TB1STEP then some (d.tb1Step o v)
  else if off = TIM_TB1SLEW then some (d.tb1Slew o v)
  else if off = TIM_TB1RATE then some (d.tb1Rate o v)
  else if off = TIM_TB3SET then some (d.tb3Set v)
  else if off = TIM_TB3STEP then some (d.tb3Step v)
  else if off = TIM_TB3RATE then some (d.tb3Rate v)
  else if off = TIM_PTPCFG then some (d.ptpCfg v)
  else
    match ix (TIM_SP_INGLAT 0) 8 2 off, ix (TIM_SP_EGRLAT 0) 8 2 off with
    | some n, _ => some ((d.plainWrite off v 0).tsChange n)
    | _, some n => some ((d.plainWrite off v 0).tsChange n)
    | _, _ => none

/-- RING, LANE, ARM. -/
def Dev.writeR (d : Dev) (o : Origin) (off : Nat) (v : Word) : Option Dev :=
  match ix (RING_CTRL 0) 0x1000 48 off, ix (RING_MAP 0) 0x1000 48 off with
  | some p, _ => some (d.ringCtrlWrite o p v)
  | none, some p => some (d.ringMapWrite p v)
  | none, none =>
    match ix (LANE_CTRL 0) 0x400 100 off, ix (LANE_TXEQ 0) 0x400 100 off with
    | some n, _ => some (d.laneCtrlWrite o n v)
    | none, some n => some (d.laneTxeq n v)
    | none, none => none

/-- A shadow register of an arm (R218, R219). -/
def Dev.shadowWrite (d : Dev) (a reg : Nat) (v : Word) : Dev :=
  match reg with
  | 0 => d.setRWrite false a false v.toNat
  | 1 => d.setRWrite false a true v.toNat
  | 2 => d.pcfgWrite a v
  | _ => d.pscWrite a v

/-- SCH, LOOP, ADC, REC. -/
def Dev.writeS (d : Dev) (o : Origin) (off : Nat) (v : Word) : Option Dev :=
  if off = SCH_ARMCMD then some (d.armCommand v o)
  else if within (SCH_VREF 0) (SCH_VREF 12) off ∧ off % 0x40 ∈ [0x0C, 0x10, 0x14, 0x18] then
    some (d.shadowWrite ((off - SCH_VREF 0) / 0x40) ((off % 0x40 - 0x0C) / 4) v)
  else if off = LOOP_GCLR then some (d.gclrWrite v)
  else if off = ADC_SWSTART then some (d.adcSwstart (ADC_SWSTART_START.of v))
  else if off = ADC_OW0 then some (d.adcOwWrite 0 v)
  else if off = ADC_OW1 then some (d.adcOwWrite 1 (v &&& 0xFFFF))
  else if off = REC_IOCMD then some (if REC_IOCMD_ARMOUT.of v = 0 then d else d.ioArmout)
  else
    match ix (SCH_ACTL 0) 0x40 12 off, ix (REC_CTRL 0) 0x100 4 off with
    | some a, _ => some (d.actlWrite o a v)
    | none, some n => some (d.recCtrlWrite n v)
    | none, none => none

/-- DPX, SAF, HIF. -/
def Dev.writeH (d : Dev) (o : Origin) (off : Nat) (v : Word) : Option Dev :=
  if off = DPX_CTRL then some (d.faultWrite o v)
  else if off = DPX_CFG then some (d.plainWrite off v 0).lanesRefresh
  else if off = SAF_CTRL then some (if SAF_CTRL_ACK.of v = 0 then d else d.safAck o)
  else if within 0x210000 0x220000 off ∧ off ≠ SAF_EVT then some (d.plainWrite off v 0).safRefresh
  else
    match ix (HIF_RING_CTL 0) 0x20 6 off, ix (HIF_RING_BASELO 0) 0x20 6 off, ix (HIF_RING_BASEHI 0) 0x20 6 off with
    | some r, _, _ => some (d.ringCtl r v)
    | _, some _, _ => some (d.wideLow o off v)
    | _, _, some r => some (d.wideHigh o (HIF_RING_BASELO r) off v)
    | _, _, _ => none

/-- SVC. A state word is written only by the pairs, or by the boot ROM's records (R393, R472). DESIGN CHOICE, log entry 42. -/
def Dev.writeV (d : Dev) (o : Origin) (off : Nat) (v : Word) : Option Dev :=
  if off = SVC_ENQCMD then some (d.enqueue o v.toNat)
  else if off = SVC_CANCEL then some (d.cancel o (SVC_CANCEL_HANDLE.of v))
  else if off = SVC_DONE then some (if SVC_DONE_DONE.of v = 0 then d else d.svcDone o)
  else
    match ix (SVC_ENQ 0) 4 8 off, ix (SVC_PCTL 0) 0x40 4 off, ix (SVC_SEMCTL 0) 0x10 64 off, ix (SVC_FCFG 0) 0x10 256 off with
    | none, none, none, none => if (ix (SVC_FSTATE 0) 0x10 256 off).isSome ∧ o.isPair = false then some d else none
    | some i, _, _, _ => some (d.setEnq o (fun c => { c with words := putAt c.words i 0 v }))
    | _, some n, _, _ => some (d.pctlWrite o n v)
    | _, _, some i, _ => some (d.semWrite o i v)
    | _, _, _, some _ => some (d.plainWrite off v 0).dispatch

/-- ARB, MEM, SEC, DIAG, AUD. -/
def Dev.writeM (d : Dev) (nv : Nonvol) (o : Origin) (off : Nat) (v : Word) : Option Dev :=
  if off = SEC_CTRL then some (if SEC_CTRL_RELOCK.of v = 0 then d else d.relock o)
  else if off = SEC_CMD then some (d.secCmd o (SEC_CMD_OP.of v))
  else if within (SEC_MBOX 0) (SEC_MBOX 1024) off then some (d.mboxWrite off v)
  else if off = AUD_RDSEQ then some (d.auditRead nv v)
  else
    match pertAt off, ix (ARB_PORT 0) 4 72 off, ix (ARB_DDRW 0) 4 9 off with
    | some p, _, _ => some (d.pertWrite p (typeMask (· == .rw) off) v)
    | _, some q, _ => some (d.arbPortWrite false q 0 v)
    | _, _, some q => some (d.arbPortWrite true q 0 v)
    | _, _, _ => none

/-- The effect of a write that has a meaning of its own. -/
def Dev.special (d : Dev) (nv : Nonvol) (o : Origin) (off : Nat) (v : Word) : Option Dev :=
  if off < 0x040000 then d.writeA o off v
  else if off < 0x080000 then d.writeT o off v
  else if off < 0x140000 then d.writeR o off v
  else if off < 0x200000 then d.writeS o off v
  else if off < 0x230000 then d.writeH o off v
  else if off < 0x240000 then d.writeV o off v
  else d.writeM nv o off v

/-- A write to an implemented register: the lock of R3, then its effect. -/
def Dev.regWrite (d : Dev) (nv : Nonvol) (o : Origin) (off : Nat) (v hw : Word) : Dev :=
  let w := d.unlockedPart off v
  let d := d.lockCheck o off v
  d.audited o fun d => (d.special nv o off w).getD (d.plainWrite off w hw)

/-! ### Access rules -/

/-- Whether an access from an origin reaches a block behind a closed gate or enable (R451, R452). DEDUCED, log entry 50. -/
def Dev.gated (d : Dev) (off : Nat) : Bool :=
  let g1 := (d.word CLK_GATE1).toNat
  if within 0x0C0000 (0x0C0000 + 100 * 0x400) off then !g1.testBit ((off - 0x0C0000) / 0x400 / 4)
  else if within 0x100000 (0x100000 + 12 * 0x4000) off then !d.gateOpen0 ((off - 0x100000) / 0x4000)
  else if within 0x1C0000 0x1D0000 off then !g1.testBit 25
  else if within 0x1D0000 0x1D0100 off then !d.gateOpen0 20
  else if within 0x1D0100 0x1D0500 off then !d.gateOpen0 (12 + (off - 0x1D0100) / 0x100)
  else if within (SVC_PCTL 0) (SVC_PCTL 4) off then !d.gateOpen0 (16 + (off - SVC_PCTL 0) / 0x40)
  else if off = HIF_UART then !d.is CLK_LSEN_UARTEN
  else if off = HIF_I2C then !d.is CLK_LSEN_I2CEN
  else if within HIF_GPIODIR (HIF_GPIOFN + 4) off then !d.is CLK_LSEN_GPIOEN
  else false

/-- How an access ends in an error for its origin (R452). -/
def Origin.gatedAnswer (o : Origin) (wr : Bool) : Answer :=
  match o with
  | .pcie => if wr then .written else .completerAbort
  | .jtag => .jtagError
  | _ => .busError

/-- An access to a gated block (R452): no effect on the block; GATEACC, and CLK_GATEERR for the first one. DEDUCED, log entry
50. -/
def Dev.gatedAccess (d : Dev) (o : Origin) (off : Nat) (wr : Bool) : Dev :=
  let d := d.set CLK_EVT_GATEACC 1
  let d := if d.is CLK_GATEERR_VALID then d
    else d.set CLK_GATEERR_VALID 1 |>.set CLK_GATEERR_ORIGIN o.code |>.set CLK_GATEERR_OFFSET off
  d.emit (.answer o off (o.gatedAnswer wr))

/-- Whether pair 2 or 3 may not write an offset (R393). -/
def pairBarred (off : Nat) : Bool :=
  within 0x010000 0x030000 off || within 0x260000 0x400000 off || off == DPX_CTRL || off == TIM_TB0SET || off == TIM_TB1STEP
    || off == TIM_TB3SET || off == TIM_TB3STEP
    || (match ix (SVC_FSTATE 0) 0x10 128 off with | some _ => true | none => false)

/-- A write of pair n ∈ {2, 3} under R393: none for one that is let through, else what becomes of it. Reserved bits are disregarded
(R4). -/
def Dev.pairRule (d : Dev) (n off : Nat) (v : Word) : Option Dev :=
  let ref := d.raise (SVC_PEVT_PEVT n) 3
  if pairBarred off then some ref
  else
    match ix (SVC_PCTL 0) 0x40 4 off with
    | none => none
    | some m =>
      let fields := typeMask (· != .ro) off
      let rest := v &&& fields &&& ~~~ (0x100 : Word)
      let same := rest = 0 ∨ rest = d.word off &&& typeMask (fun t => t == .rw || t == .rwl) off
      if m = n ∧ (SVC_PCTL_IRQ n).of v = 1 ∧ same then some (d.pairIrq (pairOrigin n) n) else some ref

/-- A write that reaches the register map (R2 to R6, R27, R28, R393). -/
def Dev.mapWrite (d : Dev) (nv : Nonvol) (o : Origin) (off be : Nat) (v hw : Word) : Dev :=
  if 0x460000 ≤ off then d.event 2 o off
  else if be ≠ 0xF ∨ 0x400000 ≤ off then d
  else
    match o with
    | .svc n =>
      match (if 2 ≤ n.val then d.pairRule n.val off v else none) with
      | some e => e
      | none => if (regAt off).isSome then d.regWrite nv o off v hw else d
    | _ => if (regAt off).isSome then d.regWrite nv o off v hw else d

/-- The bits that byte enables let through (R6). -/
def beMask (be : Nat) : Word :=
  dw ((if be.testBit 0 then 0xFF else 0) + (if be.testBit 1 then 0xFF00 else 0) + (if be.testBit 2 then 0xFF0000 else 0)
    + (if be.testBit 3 then 0xFF000000 else 0))

/-- The bytes of a word that byte enables let through, with their places (R6). -/
def enabledBytes (be : Nat) (v : Word) : List (Nat × Byte) :=
  ((leBytes 4 v.toNat).zipIdx.filter (fun x => be.testBit x.2)).map (fun x => (x.2, x.1))

/-- The DDR4 address behind an address of pair n's window (R419). -/
def Dev.ddrWindow (d : Dev) (n addr : Nat) : Nat := d.get (MEM_DWIN_BASE n) * 2 ^ 28 + (addr - 0x80000000)

/-- A write of pair n to state SRAM or DDR4. Pairs 2 and 3 reach the general state region alone (R415). An address beyond the
DDR4 found at BOOT is answered with a bus error. DESIGN CHOICE, log entry 45. -/
def Dev.pairMemWrite (d : Dev) (n addr be : Nat) (v : Word) : Dev :=
  let l := enabledBytes be v
  if 0x80000000 ≤ addr then
    let a := d.ddrWindow n addr
    if 4096 * d.ddrPages ≤ a then d.emit (.answer (pairOrigin n) addr .busError)
    else
      (d.setMem (fun m => { m with ddr := l.foldl (fun m x => Memory.write m (a + x.1) x.2) m.ddr })).emit (.answer (pairOrigin n) addr .written)
  else
    let a := addr - 0x40000000
    let d := if a < 0x240000 then (if 2 ≤ n then d.raise (SVC_PEVT_PEVT n) 3 else d)
      else d.setMem (fun m => { m with sram := l.foldl (fun m x => Memory.write m (a + x.1) x.2) m.sram })
    d.emit (.answer (pairOrigin n) addr .written)

/-- A read of pair n from state SRAM or DDR4; of the blocks' working state only the cell table has a layout (R415, R518). DESIGN
CHOICE, log entry 45. -/
def Dev.pairMemRead (d : Dev) (nv : Nonvol) (n addr be : Nat) : Dev :=
  let o := pairOrigin n
  if 0x80000000 ≤ addr then
    let a := d.ddrWindow n addr
    if 4096 * d.ddrPages ≤ a then d.emit (.answer o addr .busError)
    else d.emit (.answer o addr (.data (dw (leNat (d.ddrRead a 4)) &&& beMask be)))
  else
    let a := addr - 0x40000000
    if 0x240000 ≤ a then d.emit (.answer o addr (.data (dw (leNat (Memory.readBytes d.mem.sram a 4)) &&& beMask be)))
    else if a < 0x60000 then d.emit (.answer o addr (.data (d.peek nv o (0x400000 + a) &&& beMask be)))
    else (d.emit (.answer o addr (.data (Config.sramWord d.free &&& beMask be)))).draw

/-- A BAR0 write, or a write of a pair to memory. An access that is not DW-aligned has no effect and is answered with
Unsupported Request over PCIe (R6, R357), to the UART, a pair or JTAG as an access to a gated block is. DESIGN CHOICE, log entry
7. -/
def Dev.busWrite (d : Dev) (nv : Nonvol) (o : Origin) (off be : Nat) (v hw : Word) : Dev :=
  let d := d.wake
  if off % 4 = 0 ∧ isPairMem off ∧ o.pairOf.isSome then d.pairMemWrite (o.pairOf.getD 0) off be v
  else if off % 4 ≠ 0 ∨ 0x1000000 ≤ off then d.emit (.answer o off (if o = .pcie then .unsupportedRequest else o.gatedAnswer true))
  else if d.gated off then d.gatedAccess o off true
  else (d.mapWrite nv o off be v hw).emit (.answer o off .written)

/-! ### Reads -/

/-- What a read changes: ADC flags (R269), RC fields with what hardware adds in the same clock (R8). -/
def Dev.readEffect (d : Dev) (off : Nat) (hw : Word) : Dev :=
  match ix (ADC_RES 0 0) 4 64 off with
  | some i => (d.adcResRead (i / 32) (i % 32)).2
  | none =>
    let m := typeMask (· == .rc) off
    if m = 0 then d else d.setWord off ((d.word off &&& ~~~ m) ||| (hw &&& m))

/-- A register read with its latches (R10, R12, R162): the word and the device after it. Without a latch of the origin a read of
TIM_TBn_FRAC returns the fraction of the moment. DESIGN CHOICE, log entry 72. -/
def Dev.regRead (d : Dev) (nv : Nonvol) (o : Origin) (off : Nat) (hw : Word) : Word × Dev :=
  let v := (d.latchOf o off).getD (d.peek nv o off)
  let d := d.each (latchedBy off) fun u d => d.setLatch o u (d.peek nv o u)
  (v, (d.dropLatch o off).readEffect off hw)

/-- A read that reaches the register map (R5, R27). -/
def Dev.mapRead (d : Dev) (nv : Nonvol) (o : Origin) (off : Nat) (hw : Word) : Word × Dev :=
  if 0x460000 ≤ off then (0, d.event 2 o off)
  else if (regAt off).isSome then d.regRead nv o off hw
  else (0, d)

/-- A BAR0 read, or a read of a pair from memory. DESIGN CHOICE, log entry 7. -/
def Dev.busRead (d : Dev) (nv : Nonvol) (o : Origin) (off be : Nat) (hw : Word) : Dev :=
  let d := d.wake
  if off % 4 = 0 ∧ isPairMem off ∧ o.pairOf.isSome then d.pairMemRead nv (o.pairOf.getD 0) off be
  else if off % 4 ≠ 0 ∨ 0x1000000 ≤ off then d.emit (.answer o off (if o = .pcie then .unsupportedRequest else o.gatedAnswer false))
  else if d.gated off then d.gatedAccess o off false
  else
    let (v, d) := d.mapRead nv o off hw
    d.emit (.answer o off (.data (v &&& beMask be)))

end Sys2Proof.Machine
end

