-- ==== Sys2Proof/Machine/Epoch.lean ====
section
/-! DEFINITION. Configuration epochs: the EP commands (R373 to R379), the apply (R379 to R383), the follower's copy (R328). -/

namespace Sys2Proof.Machine

open Sys2Proof

/-- Changes the epoch's state beside its registers. -/
def Dev.setEp (d : Dev) (f : EpochCtl → EpochCtl) : Dev := { d with ep := f d.ep }

/-- Opcodes of R367. -/
def opEPOPEN : Nat := 0x10
def opEPGROUP : Nat := 0x11
def opEPVALID : Nat := 0x12
def opEPCOMMIT : Nat := 0x13
def opEPABORT : Nat := 0x14

/-- A refused EP command (R374, R377): completion and HIF_EPRES. -/
def Dev.epRefuse (d : Dev) (tag : BitVec 16) (op reason detail : Nat) : Dev :=
  d.complete tag op stREFUSED reason detail 0 0 |>.set HIF_EPRES_REASON reason |>.set HIF_EPRES_DETAIL (detail % 65536)

/-- A refused epoch (R384): the audit entry of kind 0x03 for a refused group, validation or locking commit. DEDUCED, log entry
40. -/
def Dev.epRefused (d : Dev) (reason detail : Nat) (o : Origin) : Dev := d.audit 0x03 reason d.epState.code (detail % 65536) o

/-- The buffer is discarded; an ACTIVE unit tells its partner (R328, R377). DEDUCED, log entry 39. -/
def Dev.epDiscard (d : Dev) (reason : Nat) (o : Origin) : Dev :=
  let d := (d.setEp (fun x => { x with groups := [], validTag := none, applyAt := none, applyTime := none, next := 0 })).epEnter
    .idle reason o
  if d.role = .active then d.toPartner (.epoch .abort) else d

/-! ### Staging -/

/-- EPOPEN (R377). DEDUCED, log entry 39. -/
def Dev.epOpen (d : Dev) (tag : BitVec 16) : Dev :=
  if d.epState ≠ .idle then d.epRefuse tag opEPOPEN 0x23 0
  else if d.role = .standby ∨ d.role = .syncing then d.epRefuse tag opEPOPEN 0x24 0
  else if d.locked = false ∨ d.role = .faulted then d.epRefuse tag opEPOPEN 0x23 0
  else ((d.setEp (fun _ => { EpochCtl.init with origin := .pcie })).epEnter .staging 0 .pcie).completeOk tag opEPOPEN

/-- Whether a group's bytes are well formed (R375). DEDUCED, log entry 39. -/
def groupForm (b : List Byte) (idx len : Nat) : Bool :=
  decide (len ≤ 4096) && b.length == len && decide (16 ≤ len) && leAt b 0 2 == 0x4547 && leAt b 2 2 == idx
    && leAt b 6 10 == 0 && len == 16 + 8 * leAt b 4 2

/-- The records of a group. -/
def groupRecs (b : List Byte) : List EpRec :=
  (List.range (leAt b 4 2)).map (fun i => ⟨leAt b (16 + 8 * i) 4, dw (leAt b (20 + 8 * i) 4)⟩)

/-- Whether an offset lies in TOP, CLK, RST, HIF, SVC, SEC, DIAG or AUD (R375). -/
def epBarred (off : Nat) : Bool := within 0 0x030000 off || within 0x220000 0x240000 off || within 0x260000 0x400000 off

/-- Whether a record names a register that an epoch may change (R375). -/
def recNames (off : Nat) : Bool := typeMask (fun t => t == .rw || t == .rwl) off != 0 && !epBarred off

/-- A refused group: the buffer is discarded (R377). -/
def Dev.groupRefused (d : Dev) (tag : BitVec 16) (reason : Nat) : Dev :=
  (d.epRefused reason d.ep.groups.length .pcie |>.epRefuse tag opEPGROUP reason d.ep.groups.length).epDiscard reason .pcie

/-- EPGROUP with the bytes read from host memory (R375, R377). DEDUCED, log entry 39. -/
def Dev.epGroup (d : Dev) (tag : BitVec 16) (len : Nat) (b : List Byte) : Dev :=
  if d.epState ≠ .staging then d.epRefuse tag opEPGROUP 0x23 0
  else if groupForm b d.ep.groups.length len = false ∨ 128 ≤ d.ep.groups.length then d.groupRefused tag 0x20
  else if (groupRecs b).all (fun r => recNames r.off) = false then d.groupRefused tag 0x21
  else (d.setEp (fun x => { x with groups := x.groups ++ [groupRecs b] })).completeOk tag opEPGROUP

/-- EPVALID: validation begins (R376, R377). -/
def Dev.epValid (d : Dev) (tag : BitVec 16) : Dev :=
  if d.epState ≠ .staging then d.epRefuse tag opEPVALID 0x23 0
  else ((d.setEp (fun x => { x with validTag := some tag })).setHif (fun h => { h with serialBusy := true })).epEnter .validating 0 .pcie

/-- The configuration that the staged groups leave. -/
def Dev.staged (d : Dev) : Dev := d.withConfig (d.ep.groups.foldl Store.applyGroup d.regs)

/-- A group as register values. -/
def recWords (g : List EpRec) : Words := g.map (fun r => (r.off, r.value))

/-- The ACTIVE unit forwards the staged groups (R328). -/
def Dev.epForward (d : Dev) : Dev :=
  if d.role = .active then
    d.each d.ep.groups.zipIdx fun g d => d.toPartner (.epoch (.group g.2 d.ep.groups.length (recWords g.1)))
  else d

/-- Validation ends (R85, R376, R377). -/
def Dev.validationEnd (d : Dev) : Dev :=
  match d.ep.validTag with
  | none => d
  | some tag =>
    let d := (d.setEp (fun x => { x with validTag := none })).setHif (fun h => { h with serialBusy := false })
    let d := d.reportLoopMin d.staged
    match d.validateGroups d 0 false d.ep.groups with
    | some (reason, detail) => (d.epRefused reason detail .pcie |>.epRefuse tag opEPVALID reason detail).epDiscard reason .pcie
    | none =>
      let e := d.staged
      let v := e.ccvOf.toNat
      (d.epEnter .valid 0 .pcie |>.complete tag opEPVALID stOK 0 0 (v % 2 ^ 32) (v / 2 ^ 32)).wrapbud e .pcie |>.epForward

/-- EPABORT (R377); a pending EPVALID completes REFUSED with EPSTATE. -/
def Dev.epAbort (d : Dev) (tag : BitVec 16) : Dev :=
  if d.epState = .idle ∨ d.epState = .applying then d.epRefuse tag opEPABORT 0x23 0
  else
    let d := match d.ep.validTag with
      | some t => (d.epRefuse t opEPVALID 0x23 0).setHif (fun h => { h with serialBusy := false })
      | none => d
    (d.epDiscard 0 .pcie).completeOk tag opEPABORT

/-! ### Commit -/

/-- The configuration in force has changed: SAF_CCV and CONFIRMED (R343, R344). -/
def Dev.newCcv (d : Dev) (nv : Nonvol) : Dev :=
  let v := d.ccvOf
  (d.setWord SAF_CCV_LO (v.setWidth 32) |>.setWord SAF_CCV_HI ((v >>> 32).setWidth 32)).evalConfirmed nv

/-- The locking commit (R373): validation of the registers as they stand; the RWL fields lock, the epoch number becomes 1.
DEDUCED, log entry 39. -/
def Dev.lockCommit (d : Dev) (nv : Nonvol) (tag : BitVec 16) : Dev :=
  let d := d.reportLoopMin d
  match d.ruleFailure d with
  | some (reason, detail) => d.epRefused reason detail .pcie |>.epRefuse tag opEPCOMMIT reason detail
  | none =>
    let d := (d.set HIF_EPRES_LOCKED 1 |>.setWord HIF_EPOCH 1).newCcv nv
    let v := d.ccv.toNat
    let d := d.audit 0x01 0 (v % 2 ^ 32) (v / 2 ^ 32) .pcie |>.configRole .pcie |>.epEnter .idle 0 .pcie
    let d := if d.dstate = .config then d.enter .sync .pcie else d
    (d.wrapbud d .pcie).completeOk tag opEPCOMMIT

/-- T_cyc in force. -/
def Dev.tcyc (d : Dev) : Nat := if d.cyc.inCycle then d.cyc.tm0.tcyc else d.timing.tcyc

/-- The boundaries to come, with their cycle numbers: the next one and the lengths after it (R33, R56). While the first boundary
waits for an edge of SYNC_IN it is taken as one T_cyc away. -/
def Dev.boundaries (d : Dev) (n : Nat) : List (Word × BitVec 48) :=
  let c := d.cyc
  let len := fun i => if c.inCycle then (if i = 0 then 0 else if i = 1 then c.len1 else if i = 2 then c.len2 else c.tm2.tcyc)
    else if i = 0 then 0 else d.timing.tcyc
  let first := d.nextBoundary.getD (plusNs d.time.tb0 d.timing.tcyc)
  let num := if c.inCycle then d.cycle + 1 else d.firstNumber first
  (List.range n).map (fun i => (num + BitVec.ofNat 32 i, plusNs first ((List.range (i + 1)).foldl (fun s j => s + len j) 0)))

/-- How long before the first apply the commit must be complete: 2 µs, in ACTIVE 4 × T_cyc (R378). -/
def Dev.commitLead (d : Dev) : Nat := if d.role = .active then 4 * d.tcyc else 2000

/-- The earliest apply cycle (R378). DEDUCED, log entry 14. -/
def Dev.earliestApply (d : Dev) : Word :=
  match (d.boundaries 16).find? (fun b => decide (d.commitLead ≤ nsUntil d.time.tb0 b.2)) with
  | some b => b.1
  | none => d.cycle + 16

/-- Whether a given apply cycle may be used: not before the earliest one and at most 2³¹ − 1 cycles ahead of it (R292, R378).
DEDUCED, log entry 40. -/
def applyCycleOk (x jmin : Word) : Bool := decide ((x - jmin).toNat ≤ 0x7FFFFFFF)

/-- The commit of a valid epoch: APPLYING, the completion with j, the partner told (R328, R378, R379). -/
def Dev.commitAt (d : Dev) (tag : BitVec 16) (j : Option Word) (a0 : Option (BitVec 48)) : Dev :=
  let d := (d.setEp (fun x => { x with applyAt := j, applyTime := a0, next := 0 })).epEnter .applying 0 .pcie
  let d := d.complete tag opEPCOMMIT stOK 0 0 (j.getD 0xFFFFFFFF).toNat 0
  if d.role = .active then d.toPartner (.epoch (.commit j a0)) else d

/-- EPCOMMIT (R373, R377 to R379). -/
def Dev.epCommit (d : Dev) (nv : Nonvol) (tag : BitVec 16) (x : Word) : Dev :=
  if d.epState = .idle ∧ d.locked = false then d.lockCommit nv tag
  else if d.epState ≠ .valid then d.epRefuse tag opEPCOMMIT 0x23 0
  else if d.running then
    let jmin := d.earliestApply
    if x = 0 then d.commitAt tag (some jmin) none
    else if applyCycleOk x jmin then d.commitAt tag (some x) none
    else d.epRefuse tag opEPCOMMIT 0x25 0
  else if x ≠ 0 then d.epRefuse tag opEPCOMMIT 0x25 0
  else d.commitAt tag none (some (plusNs d.time.tb0 (if d.role = .active then 80000 else 2000)))

/-! ### The apply -/

/-- One record takes effect (R375, R380): RW and RWL fields alone, with what its register's write does. -/
def Dev.applyRec (d : Dev) (nv : Nonvol) (o : Origin) (r : EpRec) : Dev :=
  let m := typeMask (fun t => t == .rw || t == .rwl) r.off
  let v := r.value &&& m
  if r.off = CYC_PERIOD ∨ r.off = CYC_DTX ∨ r.off = CYC_RESA ∨ r.off = CYC_RESB then d.plainWrite r.off v 0
  else (d.special nv o r.off v).getD (d.plainWrite r.off v 0)

/-- The counters of the groups whose NM1 or PH changed return to 0 (R243). -/
def Dev.groupCounters (d old : Dev) : Dev :=
  let m := (LOOP_GCFG_NM1 0).mask ||| (LOOP_GCFG_PH 0).mask
  d.setLoop (fun s => { s with counts := (List.range 16).map (fun g =>
    if (d.word (LOOP_GCFG g) ^^^ old.word (LOOP_GCFG g)) &&& m ≠ 0 then 0 else nth s.counts g 0) })

/-- What an applied group asks of the control engine's states (R251): an element that no programme entry named before starts as
after a clear, and a compensator whose FORM changed loses the third pole's states. DEDUCED, log entry 39. -/
def Dev.placeElements (d old : Dev) : Dev :=
  let had := old.progEntries
  let d := d.each (d.progEntries.filter (fun x => !had.any (fun y => y.2 == x.2))) fun x d => d.clearEntry x.1
  d.each ((List.range 128).filter (fun i => d.get (LOOP_CCFG_FORM i) != old.get (LOOP_CCFG_FORM i))) fun i d =>
    d.set (LOOP_CX_X i 2) 0 |>.set (LOOP_CY_Y i 2) 0

/-- A group's records on the registers, as if at once (R380): those of the ring ports last, so that a cell that they map finds the values
that its arm has from here on; an arm that had cells and has cells keeps its current sample (R181, R196, R202). -/
def Dev.applyRecs (d : Dev) (nv : Nonvol) (o : Origin) (g : List EpRec) : Dev :=
  let ring := fun (r : EpRec) => within 0x080000 0x0C0000 r.off
  let e := d.each (g.filter (fun r => !ring r) ++ g.filter ring) fun r d => d.applyRec nv o r
  e.each (allArms.filter (fun a => (d.armCtl a).iprev.isSome && (e.armCtl a).iprev.isNone && !(e.armCells a).isEmpty)) fun a e =>
    e.setArm a (fun x => { x with iprev := (d.armCtl a).iprev })

/-- Group n applies (R56, R243, R251, R291, R343, R377, R380, R384). -/
def Dev.applyGroupNow (d : Dev) (nv : Nonvol) (g : List EpRec) : Dev :=
  let o := d.ep.origin
  let n := d.ep.next
  let old := d
  let d := d.applyRecs nv o g
  let d := ((d.groupCounters old).placeElements old).retime
  let d := if n = 0 then d.setWord HIF_EPOCH (d.word HIF_EPOCH + 1) else d
  let d := if g.any (fun r => r.off == DPX_CFG) then d.configRole o else d
  let d := d.newCcv nv
  let num := d.word HIF_EPOCH
  let d := d.audit 0x02 n num.toNat g.length o |>.event 0x11 o (n + num.toNat % 2 ^ 15 * 2 ^ 16)
  let d := d.setEp (fun x => { x with next := n + 1 })
  if n + 1 < d.ep.groups.length then d else (d.setEp (fun _ => EpochCtl.init)).epEnter .idle 0 o

/-- Whether the boundary of cycle j + n has come, under the arithmetic of R292. DEDUCED, log entry 39. -/
def Dev.applyDue (d : Dev) (j : Word) : Bool :=
  d.inCycle && decide ((d.cycle - (j + BitVec.ofNat 32 d.ep.next)).toNat < 2 ^ 31)

/-- The next group applies: at its boundary, or at its instant while the timer is stopped; a timer that starts meanwhile takes
the rest to its boundaries (R379, R380). Before its time it does not. -/
def Dev.groupApply (d : Dev) (nv : Nonvol) : Dev :=
  match d.epState, d.ep.groups[d.ep.next]?, d.ep.applyAt, d.ep.applyTime with
  | .applying, some g, some j, _ => if d.applyDue j then d.applyGroupNow nv g else d
  | .applying, some g, none, some a0 =>
    let a := plusNs a0 (d.ep.next * 20000)
    if d.running = false then (d.advanceTo a).applyGroupNow nv g
    else if d.inCycle ∧ (d.cyc.t0 - a).toNat < 2 ^ 47 then
      (d.setEp (fun x => { x with applyAt := some (d.cycle - BitVec.ofNat 32 x.next), applyTime := none })).applyGroupNow nv g
    else d
  | .applying, none, _, _ => (d.setEp (fun _ => EpochCtl.init)).epEnter .idle 0 d.ep.origin
  | _, _, _, _ => d

/-- Discoveries requested during APPLYING start after the last group (R383). -/
def Dev.deferredStart (d : Dev) : Dev :=
  if d.epState = .applying then d
  else
    d.each (ringPorts.filter (fun p => (d.port p).discWait.isSome)) fun p d =>
      match (d.port p).discWait with
      | some o => (d.setPort p (fun x => { x with discWait := none })).ringDisc p o
      | none => d

/-! ### The follower (R328, R345) -/

/-- A follower whose copy fails (R328, R345): SYNCING with its reason. -/
def Dev.followerFails (d : Dev) (reason : Nat) : Dev :=
  let d := d.set DPX_STAT_REASON reason
  if d.role = .syncing then d else d.setRole .syncing .partner

/-- A forwarded group; the last one starts the validation. -/
def Dev.epochGroup (d : Dev) (i total : Nat) (recs : Words) : Dev :=
  let g := recs.map (fun r => (⟨r.1, r.2⟩ : EpRec))
  let d := if i = 0 then (d.setEp (fun _ => { EpochCtl.init with origin := .partner })).epEnter .staging 0 .partner else d
  if d.epState ≠ .staging ∨ d.ep.origin ≠ .partner ∨ d.ep.groups.length ≠ i then d
  else
    let d := d.setEp (fun x => { x with groups := x.groups ++ [g] })
    if i + 1 < total then d
    else
      let d := d.reportLoopMin d.staged
      match d.validateGroups d 0 false d.ep.groups with
      | none => d.epEnter .valid 0 .partner
      | some (reason, detail) => ((d.epRefused reason detail .partner |>.setEp (fun _ => EpochCtl.init)).epEnter .idle reason .partner).followerFails 5

/-- An EPOCH message at a follower (R328, R345). DEDUCED, log entry 39. -/
def Dev.epochReceive (d : Dev) (nv : Nonvol) (m : EpochMsg) : Nonvol × Dev :=
  if d.follower = false ∨ d.locked = false then (nv, d)
  else
    match m with
    | .group i total recs => (nv, if d.epState = .applying then d else d.epochGroup i total recs)
    | .commit j a0 =>
      (nv, if d.epState = .valid ∧ d.ep.origin = .partner then
        (d.setEp (fun x => { x with applyAt := j, applyTime := a0, next := 0 })).epEnter .applying 0 .partner
      else d)
    | .abort =>
      (nv, if d.epState = .idle ∨ d.epState = .applying then d
      else (d.setEp (fun _ => EpochCtl.init)).epEnter .idle 0 .partner)
    | .confirm v =>
      let (r, nv, d) := d.confirm nv v .partner
      (nv, if r.isSome then d.followerFails 4 else d)

/-- An EPOCH payload; one of no kind is discarded. -/
def Dev.epochMessage (d : Dev) (nv : Nonvol) (b : List Byte) : Nonvol × Dev :=
  match EpochMsg.of b with
  | some m => d.epochReceive nv m
  | none => (nv, d)

end Sys2Proof.Machine
end

