-- ==== Sys2Proof/Machine/Cmd.lean ====
section
/-! DEFINITION. Commands on the CMD ring (R362, R367 to R370), DMA read timeouts (R358), the management UART (R389). -/

namespace Sys2Proof.Machine

open Sys2Proof

/-! ### Immediate commands -/

/-- BLOCK (R211, R367, R368). -/
def Dev.cmdBlock (d : Dev) (tag : BitVec 16) (m : Nat) : Dev := (d.block (m % 4096) .command .pcie).completeOk tag 0x01

/-- DEBLOCK (R369): both masks in the completion, the reason of the lowest refused arm. -/
def Dev.cmdDeblock (d : Dev) (tag : BitVec 16) (m : Nat) : Dev :=
  let m := m % 4096
  let (refused, reason) := d.deblockMask m
  let r0 := (m &&& (4095 ^^^ refused)) + refused * 2 ^ 16
  match reason with
  | some r => (d.deblock m .pcie).complete tag 0x02 stREFUSED r ((maskArms refused).headD 0) r0 0
  | none => (d.deblock m .pcie).complete tag 0x02 stOK 0 0 r0 0

/-- SAFACK. -/
def Dev.cmdSafack (d : Dev) (tag : BitVec 16) : Dev := (d.safAck .pcie).completeOk tag 0x03

/-- CCVCONF (R345); an ACTIVE unit forwards an accepted confirmation. -/
def cmdCcvconf (nv : Nonvol) (d : Dev) (tag : BitVec 16) (v : BitVec 64) : Nonvol × Dev :=
  let (r, nv, d) := d.confirm nv v .pcie
  match r with
  | some reason => (nv, d.complete tag 0x04 stREFUSED reason 0 0 0)
  | none => (nv, (if d.role = .active then d.toPartner (.epoch (.confirm v)) else d).completeOk tag 0x04)

/-- RECREAD: acts as REC_CTRL.READ; an instance behind a closed gate is not reached (R452). -/
def Dev.cmdRecread (d : Dev) (tag : BitVec 16) (n : Nat) : Dev :=
  let n := n % 4
  (if d.gated (REC_CTRL n) then d.gatedAccess .pcie (REC_CTRL n) true else d.recRead n).completeOk tag 0x05

/-- An immediate command by its opcode. -/
def runImmediate (nv : Nonvol) (d : Dev) (c : Cmd) : Nonvol × Dev :=
  match c.opcode.toNat with
  | 0x01 => (nv, d.cmdBlock c.tag (leAt c.params 0 2))
  | 0x02 => (nv, d.cmdDeblock c.tag (leAt c.params 0 2))
  | 0x03 => (nv, d.cmdSafack c.tag)
  | 0x04 => cmdCcvconf nv d c.tag (BitVec.ofNat 64 (leAt c.params 0 8))
  | 0x05 => (nv, d.cmdRecread c.tag (leAt c.params 0 1))
  | 0x14 => (nv, d.epAbort c.tag)
  | _ => (nv, d.completeOk c.tag c.opcode.toNat)

/-! ### Serial commands (R368) -/

/-- A serial command's start, but for EPGROUP, which waits for its bytes. -/
def runSerial (nv : Nonvol) (d : Dev) (c : Cmd) : Nonvol × Dev :=
  match c.opcode.toNat with
  | 0x10 => (nv, d.epOpen c.tag)
  | 0x12 => (nv, d.epValid c.tag)
  | 0x13 => (nv, d.epCommit nv c.tag (dw (leAt c.params 0 4)))
  | _ => attestStart nv d c

/-- Whether a serial command waits for bytes from host memory. -/
def Cmd.reads (c : Cmd) : Bool := c.opcode == 0x11

/-- The serial commands that may run now, in ring order; `n` bounds their number. -/
def pump : Nat → Nonvol → Dev → Nonvol × Dev
  | 0, nv, d => (nv, d)
  | n + 1, nv, d =>
    match d.hif.serial with
    | [] => (nv, d)
    | c :: rest =>
      if d.hif.serialBusy then (nv, d)
      else if c.reads then (nv, d.emit (.hostRead 0 (d.ep.groups.length)))
      else
        let (nv, d) := runSerial nv (d.setHif (fun h => { h with serial := rest })) c
        pump n nv d

/-- Runs what may run after a serial command has ended. -/
def pumpAll (nv : Nonvol) (d : Dev) : Nonvol × Dev := pump (d.hif.serial.length + 1) nv d

/-- A serial command joins the queue and runs if nothing is before it. -/
def submitSerial (nv : Nonvol) (d : Dev) (c : Cmd) : Nonvol × Dev :=
  if d.hif.serial = [] then pumpAll nv (d.setHif (fun h => { h with serial := [c] }))
  else (nv, d.setHif (fun h => { h with serial := h.serial ++ [c] }))

/-- Whether an opcode is a serial command's (R367). -/
def serialOp (op : Nat) : Bool := op == 0x10 || op == 0x11 || op == 0x12 || op == 0x13 || op == 0x20

/-- A command of either class. -/
def runCmd (nv : Nonvol) (d : Dev) (c : Cmd) : Nonvol × Dev :=
  if serialOp c.opcode.toNat then submitSerial nv d c else runImmediate nv d c

/-- EPGROUP's bytes arrive (R375): for the EPGROUP in front of the serial queue, or for one given now. -/
def runGroup (nv : Nonvol) (d : Dev) (c : Cmd) (b : List Byte) : Nonvol × Dev :=
  if d.hif.serialBusy then (nv, d.setHif (fun h => { h with serial := h.serial ++ [c] }))
  else
    match d.hif.serial with
    | [] => (nv, d.epGroup c.tag (leAt c.params 8 4) b)
    | x :: rest =>
      if x.reads then pumpAll nv ((d.setHif (fun h => { h with serial := rest })).epGroup x.tag (leAt x.params 8 4) b)
      else (nv, d.setHif (fun h => { h with serial := h.serial ++ [c] }))

/-- Validation ends; the commands behind EPVALID run on. -/
def runValidationEnd (nv : Nonvol) (d : Dev) : Nonvol × Dev :=
  if d.ep.validTag.isSome then pumpAll nv d.validationEnd else (nv, d)

/-- The report of an ATTEST ends; the commands behind it run on. -/
def runAttestDone (nv : Nonvol) (d : Dev) (ok : Bool) : Nonvol × Dev :=
  match d.sec.attest with
  | some (_, some _) => pumpAll nv (d.attestDone nv ok)
  | _ => (nv, d)

/-! ### Fetch (R362, R367) -/

/-- Parameter bytes of an opcode, none for an unknown one (R367). -/
def paramBytes (op : Nat) : Option Nat :=
  match op with
  | 0x00 | 0x03 | 0x10 | 0x12 | 0x14 => some 0
  | 0x01 | 0x02 => some 2
  | 0x04 => some 8
  | 0x05 => some 1
  | 0x11 => some 12
  | 0x13 => some 4
  | 0x20 => some 44
  | _ => none

/-- Whether an entry is a command: a known opcode and zeros outside its parameters (R367). -/
def entryOk (b : List Byte) : Bool :=
  match paramBytes (leAt b 0 1) with
  | some n => leAt b 1 1 == 0 && leAt b 4 4 == 0 && leAt b (8 + n) (56 - n) == 0
  | none => false

/-- The command of an entry. -/
def entryCmd (b : List Byte) : Cmd := ⟨BitVec.ofNat 8 (leAt b 0 1), BitVec.ofNat 16 (leAt b 2 2), (b.drop 8).take 56⟩

/-- Entries of the CMD ring that stand between the indices. -/
def Dev.cmdWaiting (d : Dev) : Nat :=
  let m := 2 * d.ringSize 0
  (d.get (HIF_RING_HIDX_HIDX 0) + m - d.get (HIF_RING_DIDX_DIDX 0) % m) % m

/-- Whether the device may fetch a command (R358, R359, R387). -/
def Dev.mayFetch (d : Dev) : Bool :=
  d.is (HIF_RING_CTL_EN 0) && d.is HIF_STAT_BME && !d.is AUD_STAT_FULL && decide (0 < d.cmdWaiting)

/-- The CMD ring's own index moves on. -/
def Dev.cmdNext (d : Dev) : Dev :=
  d.set (HIF_RING_DIDX_DIDX 0) ((d.get (HIF_RING_DIDX_DIDX 0) + 1) % (2 * d.ringSize 0))

/-- A CMD entry arrives (R362, R367, R368). -/
def cmdFetch (nv : Nonvol) (d : Dev) (b : List Byte) : Nonvol × Dev :=
  if d.mayFetch = false then (nv, d)
  else
    let d := d.cmdNext
    let c := entryCmd b
    if entryOk b then runCmd nv d c else (nv, d.complete c.tag c.opcode.toNat stBADCMD 0 0 0 0)

/-- A DMA read ended with an error or timed out (R358): of a CMD entry (0), of an EPGROUP's group (1), of a SET entry (2). -/
def dmaTimeout (nv : Nonvol) (d : Dev) (which : Nat) : Nonvol × Dev :=
  match which with
  | 0 => (nv, if d.mayFetch then d.cmdNext.dmaError 0 0 else d)
  | 1 =>
    match d.hif.serial with
    | x :: rest =>
      if x.reads ∧ d.hif.serialBusy = false then
        pumpAll nv ((d.setHif (fun h => { h with serial := rest })).dmaError x.tag opEPGROUP)
      else (nv, d)
    | [] => (nv, d)
  | _ => (nv, if d.is (HIF_RING_CTL_EN 3) ∧ d.is HIF_STAT_BME then d.raise HIF_EVT_EVT 0 else d)

/-! ### The management UART (R389) -/

/-- The answer frame: opcode with bit 7, status, value, CRC. DEDUCED, log entry 38. -/
def uartAnswer (op status : Nat) (v : Word) : List Byte :=
  let body := leBytes 1 (op ||| 0x80) ++ leBytes 1 status ++ leBytes 4 v.toNat
  (0x7E : Byte) :: body ++ leBytes 2 (crc16Bytes body).toNat

/-- The value an access answered with, if it succeeded. -/
def Dev.lastAnswer (d : Dev) : Option Word :=
  match d.out with
  | .answer _ _ (.data v) :: _ => some v
  | .answer _ _ .written :: _ => some 0
  | _ => none

/-- The answer to an access that has been made. DEDUCED, log entry 38. -/
def Dev.uartReply (d : Dev) (op : Nat) : Dev :=
  match d.lastAnswer with
  | some v => d.emit (.uart (uartAnswer op 0 v))
  | none => d.emit (.uart (uartAnswer op 2 0))

/-- A request frame received within 10 ms (R389). A frame of another form is not a request and is not answered. DEDUCED, log
entry 38. -/
def Dev.uartFrame (d : Dev) (nv : Nonvol) (b : List Byte) : Dev :=
  let op := leAt b 1 1
  let n := if op = 2 then 10 else 6
  if d.is CLK_LSEN_UARTEN = false ∨ (op ≠ 1 ∧ op ≠ 2) ∨ leAt b 0 1 ≠ 0x7E ∨ b.length ≠ n + 2 then d
  else if leAt b n 2 ≠ (crc16Bytes ((b.take n).drop 1)).toNat then d.emit (.uart (uartAnswer op 1 0))
  else
    let off := leAt b 2 4
    (if op = 1 then d.busRead nv .uart off 15 0 else d.busWrite nv .uart off 15 (dw (leAt b 6 4)) 0).uartReply op

end Sys2Proof.Machine
end

