-- ==== Sys2Proof/Machine/Boot.lean ====
section
/-! DEFINITION. BOOT (R469 to R473): the flash directory and its images, the clocks, the configuration records; its end (R460,
R471). Uncorrectable errors of state SRAM by requester (R416). -/

namespace Sys2Proof.Machine

open Sys2Proof

/-! ### The flash (R468) -/

/-- A directory entry: type, copy (B is true), flash offset, total length. -/
structure DirEntry where
  type : Nat
  copyB : Bool
  off : Nat
  len : Nat
  deriving DecidableEq, Repr

/-- Bytes of the flash from an offset. -/
def flashBytes (f : List Byte) (off n : Nat) : List Byte := (f.drop off).take n

/-- Entry i of the directory, if it is well formed. -/
def dirEntry (f : List Byte) (i : Nat) : Option DirEntry :=
  let b := flashBytes f (16 + 16 * i) 16
  if b.length = 16 ∧ 1 ≤ leAt b 0 1 ∧ leAt b 0 1 ≤ 4 ∧ leAt b 1 1 ≤ 1 ∧ leAt b 2 2 = 0 ∧ leAt b 12 4 = 0 then
    some ⟨leAt b 0 1, leAt b 1 1 == 1, leAt b 4 4, leAt b 8 4⟩
  else none

/-- The directory, if it is well formed. DEDUCED, log entry 51. -/
def directory (f : List Byte) : Option (List DirEntry) :=
  let n := leAt f 4 2
  if 16 ≤ f.length ∧ leAt f 0 4 = 0x46445231 ∧ 1 ≤ n ∧ n ≤ 8 ∧ leAt f 6 10 = 0 then (List.range n).mapM (dirEntry f) else none

/-- The largest body of an image type. -/
def largestBody (type : Nat) : Nat := if type = 4 then 65536 else 262144

/-- Bytes of a signature (R467). -/
def sigLen : Nat := 2820

/-- An image copy's header fields. -/
def imgSlot (b : List Byte) : Nat := leAt b 5 1
def imgSvn (b : List Byte) : Nat := leAt b 6 1
def imgVersion (b : List Byte) : Word := dw (leAt b 8 4)
def imgBody (b : List Byte) : Nat := leAt b 12 4

/-- Whether an image's header is well formed and its length fits its directory entry (R468, R470). -/
def imgForm (b : List Byte) (e : DirEntry) : Bool :=
  b.length == e.len && leAt b 0 4 == 0x494D4731 && leAt b 4 1 == e.type && leAt b 7 1 == 0 && leAt b 16 48 == 0
    && decide (imgBody b ≤ largestBody e.type) && e.len == 64 + imgBody b + sigLen

/-- Whether a slot is allowed for a type (R468). -/
def slotAllowed (type slot : Nat) : Bool := if type = 1 then slot == 0 else decide (1 ≤ slot) && decide (slot ≤ 4)

/-- The check of R470 that an image copy fails, as SEC_IMGSTAT codes it, or none. -/
def Nonvol.imageFault (nv : Nonvol) (b : List Byte) (e : DirEntry) : Option Nat :=
  if imgForm b e = false then some 3
  else if (slotAllowed e.type (imgSlot b) && (nv.slot (imgSlot b)).usable) = false then some 4
  else if imgSvn b < nth nv.mram.svn (e.type - 1) 0 then some 6
  else if Config.xmssVerifies (nv.keyBytes (imgSlot b)) (b.take (64 + imgBody b)) (b.drop (64 + imgBody b)) = false then some 5
  else none

/-- A copy that stands before another: a higher SVN, copy A first on a tie (R470). -/
def copyBefore (x y : List Byte × DirEntry) : Bool :=
  decide (imgSvn y.1 < imgSvn x.1) || (imgSvn x.1 == imgSvn y.1 && !x.2.copyB && y.2.copyB)

/-- Insertion of a copy in the order of R470. -/
def insertCopy (x : List Byte × DirEntry) : List (List Byte × DirEntry) → List (List Byte × DirEntry)
  | [] => [x]
  | y :: ys => if copyBefore y x then y :: insertCopy x ys else x :: y :: ys

/-- The copies of a type in the order in which the boot ROM tries them. -/
def copiesOf (f : List Byte) (dir : List DirEntry) (type : Nat) : List (List Byte × DirEntry) :=
  ((dir.filter (fun e => e.type == type)).map (fun e => (flashBytes f e.off e.len, e))).foldl (fun l x => insertCopy x l) []

/-- The copy used of a type, or the code of the last one's fault; 0 where none is present. -/
def Nonvol.tryCopies (nv : Nonvol) (code : Nat) : List (List Byte × DirEntry) → Nat × Option (List Byte × DirEntry)
  | [] => (code, none)
  | x :: xs =>
    match nv.imageFault x.1 x.2 with
    | none => (if x.2.copyB then 2 else 1, some x)
    | some c => nv.tryCopies c xs

/-! ### Verification (step 0x02) -/

/-- What the verification of one type leaves: SEC_IMGSTAT, the digest, the versions, the image store, the pair's image. -/
def Dev.loadImage (d : Dev) (type code : Nat) (img : Option (List Byte × DirEntry)) : Dev :=
  let st := d.get SEC_IMGSTAT_IMGSTAT
  let d := d.set SEC_IMGSTAT_IMGSTAT (st + code * 16 ^ (type - 1))
  match img with
  | none => d
  | some (b, _) =>
    let dig := shake256 (b.take (64 + imgBody b))
    let ver := imgVersion b
    let d := d.each (List.range 8) fun i d => d.setWord (SEC_DIG (type - 1) i) ((dig >>> (32 * i)).setWidth 32)
    let d := if type = 1 then d.setWord SEC_FWVER ver |>.set (SVC_PSTAT_IMAGE 0) 1 |>.set (SVC_PSTAT_IMAGE 1) 1
      else if type = 2 then d.setWord SEC_CUSTVER ((d.word SEC_CUSTVER &&& 0xFFFF0000) ||| (ver &&& 0xFFFF)) |>.set (SVC_PSTAT_IMAGE 2) 1
      else if type = 3 then d.setWord SEC_CUSTVER ((d.word SEC_CUSTVER &&& 0xFFFF) ||| (ver <<< 16)) |>.set (SVC_PSTAT_IMAGE 3) 1
      else d
    if type = 4 then d
    else d.setSec (fun s => { s with store := s.store ++ [⟨type, ver, dig, flashBytes b 64 (imgBody b)⟩] })

/-- The body of the configuration image in use. -/
def configBody (img : Option (List Byte × DirEntry)) : Option (List Byte) := img.map (fun x => flashBytes x.1 64 (imgBody x.1))

/-! ### Clocks and records (steps 0x04 and 0x05) -/

/-- CLK_MDLL from the configuration image, MDLLEN, and the root switch once the synthesiser is READY (R430, R438, R469). A lock
shows that the reference is good. DEDUCED, log entry 51. -/
def Dev.bootClock (d : Dev) (mdll : Option Word) (ready : Bool) : Dev :=
  let d := match mdll with
    | some v => d.clkMdll v
    | none => d
  let d := d.mdllEnable true
  let d := if ready ∧ d.is CLK_STAT_MDLLRDY = false then (d.set CLK_STAT_REFOK 1).declareLock.qualify else d
  if d.is CLK_STAT_MDLLRDY then (d.selectSource true).switchComplete false else d

/-- The records of a configuration image's body (R472). -/
def configRecs (b : List Byte) : List EpRec :=
  (List.range ((b.length - 4) / 8)).map (fun i => ⟨leAt b (4 + 8 * i) 4, dw (leAt b (8 + 8 * i) 4)⟩)

/-- Whether a record breaks R472. -/
def recBreaks (off : Nat) : Bool :=
  typeMask (fun t => t == .rw || t == .rwl) off == 0 || within 0 0x030000 off || within 0x260000 0x400000 off

/-- The records applied in order as writes of the device; false once one breaks R472. DEDUCED, log entry 51. -/
def Dev.bootRecords (d : Dev) (nv : Nonvol) : List EpRec → Dev × Bool
  | [] => (d, true)
  | r :: rs =>
    if recBreaks r.off then (d, false)
    else (if d.gated r.off then d.gatedAccess .device r.off true else d.regWrite nv .device r.off r.value 0).bootRecords nv rs

/-! ### BOOT -/

/-- BOOT ends at a step with a result; `svns` are the SVNs of the copies used, by type. DEDUCED, log entry 51. -/
def Dev.bootResult (d : Dev) (step res : Nat) (svns : List Nat) : Dev :=
  { d.set RST_BOOT_STEP step with rst := { d.rst with boot := some (res, svns) } }

/-- Steps 0x03 to 0x05. -/
def Dev.bootBring (d : Dev) (nv : Nonvol) (x : BootInput) (cfg : Option (List Byte)) (svns : List Nat) : Dev :=
  let d := d.set TOP_CAP1_DDRSZ x.ddr |>.setB MEM_STAT_DDRUP (x.ddr ≠ 0)
  let d := d.bootClock (cfg.map (fun b => dw (leAt b 0 4))) x.ready
  if d.is CLK_STAT_MDLLRDY = false then d.bootResult 0x04 0x15 svns
  else
    match d.bootRecords nv (configRecs (cfg.getD [])) with
    | (d, true) => d.bootResult 0x05 1 svns
    | (d, false) => d.bootResult 0x05 0x14 svns

/-- Step 0x02 and what follows it. DEDUCED, log entry 51. -/
def Dev.bootImages (d : Dev) (nv : Nonvol) (x : BootInput) (f : List Byte) (dir : List DirEntry) : Dev :=
  let pick := fun t => nv.tryCopies 0 (copiesOf f dir t)
  let svn := fun t => match (pick t).2 with
    | some i => imgSvn i.1
    | none => 0
  let svns := [1, 2, 3, 4].map svn
  let d := d.each [1, 2, 3, 4] fun t d => d.loadImage t (pick t).1 (pick t).2
  if (pick 1).2.isNone then d.bootResult 0x02 0x12 svns
  else if (pick 4).2.isNone ∧ (pick 4).1 ≠ 0 then d.bootResult 0x02 0x13 svns
  else d.bootBring nv x (configBody (pick 4).2) svns

/-- The boot ROM's work (R451, R469). It runs once in a BOOT. -/
def Dev.boot (d : Dev) (nv : Nonvol) (x : BootInput) : Dev :=
  if d.dstate ≠ .boot ∨ d.rst.boot.isSome then d
  else
    let d := d.set CLK_LSEN_UARTEN 1 |>.set CLK_LSEN_SPIEN 1 |>.setB MEM_STAT_MRAMOK x.mram
    if x.fuses = false then d.bootResult 0x01 0x10 []
    else if x.mram = false then (d.mramUe 0x300000).bootResult 0x02 0x16 []
    else
      match x.flash with
      | none => d.bootResult 0x02 0x11 []
      | some f =>
        match directory f with
        | none => d.bootResult 0x02 0x11 []
        | some dir => d.bootImages nv x f dir

/-- The floors rise to the SVNs that booted (R470). -/
def Nonvol.raiseFloors (nv : Nonvol) (svns : List Nat) : Nonvol :=
  { nv with mram := { nv.mram with svn := (List.range 4).map (fun i => max (nth nv.mram.svn i 0) (nth svns i 0)) } }

/-- A pair leaves RESET after a BOOT if its image is there (R392). DESIGN CHOICE, log entry 43. -/
def Dev.pairBoot (d : Dev) (n : Nat) : Dev :=
  if d.is (SVC_PSTAT_IMAGE n) ∧ d.gateOpen0 (16 + n) then
    (d.set (SVC_PSTAT_STATE n) (if d.is (SVC_PCTL_HALT n) then pHALTED else pRUN)).dispatch
  else d

/-- BOOT ends (R460, R462, R470, R471): CONFIG, or HALT with its cause. -/
def bootEnd (nv : Nonvol) (d : Dev) : Nonvol × Dev :=
  match d.dstate, d.rst.boot with
  | .boot, some (res, svns) =>
    let d := { d.set RST_BOOT_RESULT res with rst := { d.rst with boot := none } }
    if res = 1 then
      let d := (d.set RST_BOOT_STEP 0xFF).enter .config .device
      let d := (d.lanesRefresh.evalConfirmed nv).clkoutDrive.each [0, 1, 2, 3] fun n d => d.pairBoot n
      (nv.raiseFloors svns, d)
    else
      let d := d.set RST_STAT_HCAUSE 7 |>.raise RST_EVT_EVT 2 |>.block 4095 .state .device |>.haltFail
      (nv, d.enter .halt .device)
  | _, _ => (nv, d)

/-! ### Uncorrectable errors of state SRAM (R416) -/

/-- A read of a port finds an uncorrectable word; `rmw` says that it belongs to a read-modify-write, whose write is discarded.
DESIGN CHOICE, DEDUCED, log entries 45, 47. -/
def Dev.sramUncorrectable (d : Dev) (port addr : Nat) (rmw : Bool) : Dev :=
  let d := d.sramUe port addr
  if rmw then d
  else if port < 48 then d.portUe port addr
  else if port < 62 ∨ port = 66 then d.fatal 6 .device
  else if port < 66 then (if d.get (REC_STAT_STATE (port - 62)) = 0 then d else d.dropRow (port - 62))
  else if port = 67 then (if addr < 0x60000 then d.emit (.answer .pcie (0x400000 + addr) .completerAbort) else d)
  else if port < 72 then d.emit (.answer (pairOrigin (port - 68)) addr .busError)
  else d

end Sys2Proof.Machine
end

