-- ==== Sys2Proof/Machine/Settle.lean ====
section
/-! DEFINITION. What follows from any change at once: degraded modes, SAF demands, the device state, SAFE_OK, the attention
interrupt, the Solder link's loss; the frame in which every command runs. -/

namespace Sys2Proof.Machine

open Sys2Proof

/-- The domains that the attention interrupt shows (R32). -/
def Dev.attnDomains (d : Dev) : Nat := if d.word TOP_ATTN_EN = 0 then 0 else (d.word TOP_ATTN_EN).toNat &&& d.domains

/-- The attention interrupt follows TOP_STAT and TOP_ATTN_EN (R30, R32, R363): vector 6 when it is asserted. -/
def Dev.attention (d : Dev) : Dev :=
  let on := d.attnDomains != 0
  if on = d.hif.attn then d
  else
    let d := d.setHif (fun h => { h with attn := on })
    if on then d.emit (.msix 6) else d

/-- The GPIOs with their alternate function, of GPIO0 to GPIO4 (R513). -/
def Dev.gpioAlt (d : Dev) : Word := d.word HIF_GPIOFN &&& 0x1F

/-- The GPIOs that are outputs: CYCMARK, ATTN_N and SAFEOK_MON by their function, any other by DIR (R390, R513). -/
def Dev.gpioOutputs (d : Dev) : Word := (d.word HIF_GPIODIR &&& ~~~d.gpioAlt) ||| (d.gpioAlt &&& 0x13)

/-- Their levels: ATTN_N low while the attention interrupt is asserted, SAFEOK_MON a copy of SAF_STAT.SAFEOK, CYCMARK low but for its
pulses, any other from OUT (R513). -/
def Dev.gpioLevels (d : Dev) : Word :=
  ((d.word HIF_GPIOOUT &&& ~~~d.gpioAlt) ||| (d.gpioAlt &&& ((if d.hif.attn then 0 else 2) + (if d.is SAF_STAT_SAFEOK then 16 else 0))))
    &&& d.gpioOutputs

/-- The ball of GPIO n, by its function. -/
def gpioPin (alt : Word) (n : Nat) : Pin :=
  if alt.getLsbD n then (if n = 0 then .cycMark else if n = 1 then .attnN else if n = 4 then .safeOkMon else .gpio n) else .gpio n

/-- The GPIO balls take new levels; while GPIO is gated they hold (R451). -/
def Dev.gpioDrive (d : Dev) : Dev :=
  let drv := d.gpioOutputs
  let lvl := d.gpioLevels
  if d.is CLK_LSEN_GPIOEN = false ∨ (drv = d.hif.gpioDrv ∧ lvl = d.hif.gpioLvl) then d
  else
    let diff := (drv ^^^ d.hif.gpioDrv) ||| (lvl ^^^ d.hif.gpioLvl)
    let d := d.each ((List.range 32).filter (fun n => diff.getLsbD n)) fun n d =>
      d.emit (.pin (gpioPin d.gpioAlt n) (if drv.getLsbD n = false then .highZ else if lvl.getLsbD n then .high else .low))
    d.setHif (fun h => { h with gpioDrv := drv, gpioLvl := lvl })

/-- While the Solder link is not UP, nothing waits for it; a SYNCING unit shows NOLINK and a cast starts over (R295, R325). -/
def Dev.linkLost (d : Dev) : Dev :=
  if d.duplex ∧ d.is DPX_STAT_SDLUP = false then
    let d := if d.dpx.queue = [] ∧ d.dpx.parts = [] then d else d.setDpx (fun x => { x with queue := [], parts := [] })
    let d := if d.dpx.pstat.isSome then d.setDpx (fun x => { x with pstat := none }) else d
    let d := if d.dpx.castTotal ≠ 0 ∨ d.dpx.castIn ≠ [] then d.castRestart else d
    let d := if d.is DPX_STAT_PAIRED then d.setPaired false else d
    if d.role = .syncing ∧ d.get DPX_STAT_REASON ≠ 1 then d.set DPX_STAT_REASON 1 else d
  else d

/-- Demands, block requests and device state that follow from a change; twice, since a device state may raise a demand. -/
def Dev.follow (d : Dev) (o : Origin) : Dev := (d.deviceCauses.safPublish o).stateStep o

/-- Everything that follows at once from what a command did; nothing runs during a reset. -/
def Dev.settle (d : Dev) (o : Origin) : Dev :=
  if d.held then d else ((d.adcRefresh.linkLost.holdDue.discsDue.ioDue.safDue.follow o).follow o).driveSafeOk.deviceCauses.attention.gpioDrive

/-- The device has entered CONFIG (R354). -/
def Dev.configEntered (d old : Dev) (o : Origin) : Dev :=
  if d.held = false ∧ d.dstate = .config ∧ old.dstate ≠ .config then d.telConfig.settle o else d

/-- A change of a SAF pin or demand wakes the device (R465). -/
def Dev.safWake (d old : Dev) : Dev :=
  if d.rst.deep ∧ (d.word SAF_DEMAND ≠ old.word SAF_DEMAND ∨ (d.word SAF_PIN ^^^ old.word SAF_PIN) &&& 0xFF ≠ 0) then d.wake
  else d

/-- A port whose discovery has ended in a pair: its results go to the partner (R327). -/
def Dev.discEnded (d old : Dev) : Dev :=
  if d.duplex then
    d.each (ringPorts.filter (fun p => (old.port p).disc.isSome && (d.port p).disc.isNone)) fun p d => d.discresSend p
  else d

/-- Discovery of every port in use has ended: DISCOVER gives way to CONFIG (R460). -/
def Dev.discoveryComplete (d : Dev) : Dev :=
  if d.dstate = .discover ∧ d.discovering = false then d.enter .config d.rst.disc else d

end Sys2Proof.Machine
end

