-- ==== Sys2Proof/Machine/Operands.lean ====
section
/-! DEFINITION. Operands of the command rows as register writes: a row that names a register's write is a BAR0 access of its
origin, with the register's other fields as in force. -/

namespace Sys2Proof.Machine

open Sys2Proof

/-- A write of a whole register. -/
def Dev.writeReg (d : Dev) (nv : Nonvol) (o : Origin) (off : Nat) (v : Word) : Dev := d.busWrite nv o off 0xF v 0

/-- The word that gives one field of a register a value, its RW and RWL fields what they hold, and the others 0. -/
def Dev.fieldWord (d : Dev) (f : Fld) (v : Nat) : Word :=
  f.into (d.word f.off &&& typeMask (fun t => t == .rw || t == .rwl) f.off) v

/-- A write that gives one field a value and leaves the register's other fields as they are. -/
def Dev.writeField (d : Dev) (nv : Nonvol) (o : Origin) (f : Fld) (v : Nat) : Dev := d.writeReg nv o f.off (d.fieldWord f v)

/-- A read of a register with byte enables (R6). -/
def Dev.readReg (d : Dev) (nv : Nonvol) (o : Origin) (off be : Nat) : Dev := d.busRead nv o off be 0

/-- The low and high offset of wide value w (R10): the wide registers, then the ENUM record of every cell. -/
def wideAt (w : Nat) : Nat × Nat := nth widePairs w (CELL_W14 (w - 17), CELL_W10 (w - 17))

/-- CYC_CTRL with EN and FOLLOW. -/
def cycCtrlWord (en : Bool) (follow : Bool) : Word :=
  CYC_CTRL_EN.into (CYC_CTRL_FOLLOW.into 0 (if follow then 1 else 0)) (if en then 1 else 0)

/-- The offset of a shadow register of an arm (R218). -/
def shadowOff (a reg : Nat) : Nat := if reg = 0 then SCH_VREF a else if reg = 1 then SCH_VOFS a else if reg = 2 then SCH_PCFG a else SCH_PSC a

/-- The parameter bytes of an EPGROUP (R367). -/
def groupParams (addr : BitVec 64) (len : Word) : List Byte := leBytes 8 addr.toNat ++ leBytes 4 len.toNat

/-- The parameter bytes of an ATTEST (R482). -/
def attestParams (nonce : BitVec 256) (addr : BitVec 64) (len : Word) : List Byte :=
  leBytes 32 nonce.toNat ++ leBytes 8 addr.toNat ++ leBytes 4 len.toNat

end Sys2Proof.Machine
end

