-- ==== Sys2Proof/Machine/State.lean ====
section
/-! DEFINITION. The state of the block: the commands that wait, what keeps its contents without power, and the device; the state
right after reset. -/

namespace Sys2Proof.Machine

open Sys2Proof

/-- The state: `pending` is the queue of waiting commands, first in, first out; `nv` fuses and MRAM (R457); `dev` the device. -/
structure State where
  pending : List Instr
  nv : Nonvol
  dev : Dev
  deriving DecidableEq, Repr

/-- Why a command would stop the machine. The specification gives every command an effect, an answer or a discard, so the type
has no constructor: no command ends in a fault. Safe. DESIGN CHOICE, log entry 60. -/
inductive Fault where
  deriving DecidableEq, Repr

/-- Why a command has no meaning. DESIGN CHOICE, log entry 60. -/
inductive Refusal where
  /-- Raised by `exec` alone, for a row of the opcode table without a meaning; no arm uses it. Safe: nothing is claimed of such a
  row. -/
  | notModelled (mnemonic : String)
  deriving DecidableEq, Repr

/-- A key slot that leaves the foundry: slot 0 holds the Fjarox key, the others are BLANK. DESIGN CHOICE, log entry 4. -/
def KeySlot.new (vendor : Bool) : KeySlot := ⟨if vendor then 1 else 0, vendor, false⟩

/-- Fuses whose contents the manual does not give. DESIGN CHOICE, log entry 4. -/
def Fuses.new : Fuses := ⟨0, 0, false, [.new true, .new false, .new false, .new false, .new false], List.replicate 725 0⟩

/-- An empty audit log and MRAM that nothing has written. DESIGN CHOICE, log entry 4. -/
def Mram.new : Mram := ⟨[], 0, 0, false, 0, none, [0, 0, 0, 0], 0, true, []⟩

/-- A device that has never run. DESIGN CHOICE, log entry 4. -/
def Nonvol.new : Nonvol := ⟨.new, .new⟩

/-- Right after the power-on reset: BOOT, with every register at its reset value, no command waiting. DESIGN CHOICE, log entry
4. -/
def State.reset : State := ⟨[], .new, { Dev.init with rst := RstState.init }.powerRelease⟩

end Sys2Proof.Machine
end

