-- ==== Sys2Proof/Machine/Act.lean ====
section
/-! DEFINITION. The frames in which commands run: nothing while a reset holds the device (R457), then the command's own effect,
then what follows from it at once. -/

namespace Sys2Proof.Machine

open Sys2Proof

/-- The outcome of a command. -/
abbrev Out := Host.Outcome State Fault Refusal

/-- Whether the source of binding i has fired between two states (R401): a cycle has begun, TOP_STAT's bit has risen, a SAF demand kind has
risen, the role or the epoch state has changed. -/
def Dev.sourceFired (d old : Dev) (i : Nat) : Bool :=
  let arg := d.get (SVC_BIND_ARG i)
  match d.get (SVC_BIND_SRC i) with
  | 1 => d.inCycle && (!old.inCycle || d.cyc.t0 != old.cyc.t0) && d.cycle.toNat % (arg + 1) == 0
  | 2 => decide (arg < 23) && d.topStat.testBit arg && !old.topStat.testBit arg
  | 3 => d.bit SAF_DEMAND_PRESENT arg && !old.bit SAF_DEMAND_PRESENT arg
  | 4 => d.role != old.role
  | 5 => d.epState != old.epState
  | _ => false

/-- Notes the firings of the enabled bindings for EVENT_BINDING_FIRE (R401). DESIGN CHOICE, log entry 42. -/
def Dev.noteFirings (d old : Dev) : Dev :=
  let l := ((List.range 16).filter (fun i => d.is (SVC_BIND_EN i) && d.sourceFired old i)).map (fun i => (i, d.cycle))
  if l = [] then d else d.setSvc (fun s => { s with due := s.due ++ l })

/-- What follows from a command's effect. -/
def Dev.after (d old : Dev) (o : Origin) : Dev := ((((d.discEnded old).settle o).configEntered old o).safWake old).noteFirings old

/-- A reset that takes hold cuts a fuse operation short (R477). -/
def resetCut (nv : Nonvol) (old new : Dev) : Nonvol × Dev :=
  if new.held ∧ old.held = false then ((old.cutFuses nv).1, new.fuseErr (old.cutFuses nv).2) else (nv, new)

/-- The state with its non-volatile part and its device replaced. -/
def State.with_ (s : State) (x : Nonvol × Dev) : State := { s with nv := x.1, dev := x.2 }

/-- The state after a command whose own effect leaves the device d'. -/
def State.ran (s : State) (o : Origin) (d' : Dev) : State := { s with dev := d'.after s.dev o }

/-- The state after an access or a reset line whose own effect leaves the device d', which a reset may hold (R477). -/
def State.came (s : State) (o : Origin) (d' : Dev) : State := s.with_ (resetCut s.nv s.dev (d'.after s.dev o))

/-- A command of the device alone. DESIGN CHOICE, DEDUCED, log entries 7, 8, 59. -/
def State.act (s : State) (o : Origin) (f : Dev → Dev) : Out := .next (if s.dev.held then s else s.ran o (f s.dev))

/-- A command that reads the non-volatile part. -/
def State.look (s : State) (o : Origin) (f : Nonvol → Dev → Dev) : Out := s.act o (f s.nv)

/-- A command that may change the non-volatile part. -/
def State.store (s : State) (o : Origin) (f : Nonvol → Dev → Nonvol × Dev) : Out :=
  .next (if s.dev.held then s else s.with_ ((f s.nv s.dev).1, (f s.nv s.dev).2.after s.dev o))

/-- An access, which may reset the device. DEDUCED, DESIGN CHOICE, log entries 52, 59. -/
def State.access (s : State) (o : Origin) (f : Nonvol → Dev → Dev) : Out :=
  .next (if s.dev.held then s else s.came o (f s.nv s.dev))

/-- A reset line or the brown-out monitor, whatever holds the device. DEDUCED, log entry 8. -/
def State.line (s : State) (f : Dev → Dev) : Out := .next (s.came .device (f s.dev))

/-- An instruction of the TAP, which answers unless PORST_N or the monitor holds the device (R459). DEDUCED, log entry 8. -/
def State.tap (s : State) (f : Dev → Dev) : Out :=
  .next (if s.dev.tapOn then s.ran .jtag (f s.dev) else s)

/-- A register write of an origin. -/
def State.write (s : State) (o : Origin) (off : Nat) (v : Word) : Out := s.access o fun nv d => d.writeReg nv o off v

/-- A write of one field of a register. -/
def State.writeF (s : State) (o : Origin) (f : Fld) (v : Nat) : Out := s.access o fun nv d => d.writeField nv o f v

end Sys2Proof.Machine
end

