-- ==== Sys2Proof/Machine/CmdAdc.lean ====
section
/-! DEFINITION. Meanings of the analog input commands (R258 to R271). -/

namespace Sys2Proof.Machine

open Sys2Proof

/-- ADC_HOLD (R259). -/
def execAdcHold (volts : List Nat) (s : State) : Out := s.act .device (·.adcHold volts)

/-- ADC_RUN_START (R260 to R263). -/
def execAdcRunStart (x : Fin 2) (volts : List Nat) (s : State) : Out := s.act .device (·.adcRunStart x volts)

/-- ADC_SWSTART (R262): the inputs stand at `volts` when the runs start. -/
def execAdcSwstart (o : Origin) (mask : BitVec 2) (volts : List Nat) (s : State) : Out :=
  s.access o fun nv d => (d.adcInputs volts).writeField nv o ADC_SWSTART_START mask.toNat

/-- ADC_PUBLISH (R260, R265 to R271). -/
def execAdcPublish (x : Fin 2) (volts : List Nat) (s : State) : Out := s.act .device (·.adcPublish x volts)

/-- ADC_OW_WRITE (R270). -/
def execAdcOwWrite (o : Origin) (reg : Fin 2) (v : Word) (s : State) : Out :=
  s.write o (if reg = 0 then ADC_OW0 else ADC_OW1) v

end Sys2Proof.Machine
end

