-- ==== Sys2Proof/Machine/CmdBus.lean ====
section
/-! DEFINITION. Meanings of the register access commands (R2 to R32, R162, R269, R452). -/

namespace Sys2Proof.Machine

open Sys2Proof

/-- REGISTER_WRITE (R2, R3, R6, R7). -/
def execRegisterWrite (o : Origin) (off be : Nat) (v hw : Word) (which : Nat) (s : State) : Out :=
  s.access o fun nv d => (d.tieCount off hw which).busWrite nv o off be v hw

/-- UNMAPPED (R27): an access beyond the cell table window. -/
def execUnmapped (o : Origin) (off : Nat) (wr : Bool) (s : State) : Out :=
  s.access o fun nv d => if wr then d.busWrite nv o off 0xF 0 0 else d.busRead nv o off 0xF 0

/-- UNSUPPORTED_REQUEST (R357). -/
def execUnsupportedRequest (off : Nat) (s : State) : Out :=
  s.act .pcie fun d => d.wake.emit (.answer .pcie off .unsupportedRequest)

/-- GATED_ACCESS (R451, R452); with its gate open the block answers under the rows of the access. -/
def execGatedAccess (o : Origin) (off : Nat) (wr : Bool) (s : State) : Out :=
  s.act o fun d => if d.gated off then d.wake.gatedAccess o off wr else d

/-- WIDE_LOW_READ (R10). -/
def execWideLowRead (o : Origin) (w : Fin 6161) (be : Nat) (s : State) : Out :=
  s.access o fun nv d => d.readReg nv o (wideAt w).1 be

/-- WIDE_UPPER_READ (R10). -/
def execWideUpperRead (o : Origin) (w : Fin 6161) (be : Nat) (s : State) : Out :=
  s.access o fun nv d => d.readReg nv o (wideAt w).2 be

/-- WIDE_LOW_WRITE (R11). -/
def execWideLowWrite (o : Origin) (r : Fin 6) (v : Word) (s : State) : Out := s.write o (HIF_RING_BASELO r) v

/-- WIDE_UPPER_WRITE (R11). -/
def execWideUpperWrite (o : Origin) (r : Fin 6) (v : Word) (s : State) : Out := s.write o (HIF_RING_BASEHI r) v

/-- RC_FIELD_READ (R6, R8). -/
def execRcFieldRead (o : Origin) (off be : Nat) (hw : Word) (s : State) : Out :=
  s.access o fun nv d => d.busRead nv o off be hw

/-- CYC_NUM_READ (R162). -/
def execCycNumRead (o : Origin) (be : Nat) (s : State) : Out := s.access o fun nv d => d.readReg nv o CYC_NUM be

/-- TB_NS_READ (R162, R164). -/
def execTbNsRead (o : Origin) (n : Fin 4) (be : Nat) (tie : Bool) (s : State) : Out :=
  s.access o fun nv d => d.tied tie fun d => d.readReg nv o (TIM_TB_NS n) be

/-- ADC_RES_READ (R269). -/
def execAdcResRead (o : Origin) (x : Fin 2) (i : Fin 32) (be : Nat) (s : State) : Out :=
  s.access o fun nv d => d.readReg nv o (ADC_RES x i) be

/-- ATTN_EN_WRITE (R32). -/
def execAttnEnWrite (o : Origin) (v : Word) (s : State) : Out := s.write o TOP_ATTN_EN v

end Sys2Proof.Machine
end

