-- ==== Sys2Proof/Machine/CmdClk.lean ====
section
/-! DEFINITION. Meanings of the clock commands (R429 to R453). -/

namespace Sys2Proof.Machine

open Sys2Proof

/-- CLOCK_SOURCE_SELECT (R440): a write of CLK_CTRL. -/
def execClockSourceSelect (o : Origin) (v : Word) (s : State) : Out := s.write o CLK_CTRL v

/-- CLOCK_SWITCH_COMPLETE (R439, R441, R443). -/
def execClockSwitchComplete (stopped : Bool) (s : State) : Out := s.act .device (·.switchComplete stopped)

/-- MDLL_ENABLE (R430): a write of 1 to CLK_CTRL.MDLLEN. -/
def execMdllEnable (o : Origin) (s : State) : Out := s.writeF o CLK_CTRL_MDLLEN 1

/-- CLK_MDLL_WRITE (R430). -/
def execClkMdllWrite (o : Origin) (v : Word) (s : State) : Out := s.write o CLK_MDLL v

/-- LOCK_WINDOW (R431 to R434). -/
def execLockWindow (dv : Int) (ppm : Nat) (s : State) : Out := s.act .device (·.lockWindow dv ppm)

/-- REFLOSS (R434). -/
def execRefloss (s : State) : Out := s.act .device (·.refLoss)

/-- A failover with the trim word's store (R436, R442). -/
def failoverStored (nv : Nonvol) (d : Dev) (monitor : Bool) : Nonvol × Dev :=
  (if (d.failover monitor).clk.switch = d.clk.switch then nv else trimStored nv d, d.failover monitor)

/-- FAILOVER (R436, R442, R444). -/
def execFailover (monitor : Bool) (s : State) : Out := s.store .device fun nv d => failoverStored nv d monitor

/-- CLOCK_AUTO_RETURN (R443). -/
def execClockAutoReturn (s : State) : Out := s.act .device (·.autoReturn)

/-- TRIM_WINDOW (R435). -/
def execTrimWindow (err : Int) (s : State) : Out := s.act .device (·.trimWindow err)

/-- TRIM_STORE (R436). -/
def execTrimStore (s : State) : Out := s.store .device fun nv d => (trimStored nv d, d.trimDue)

/-- CLK_DIV_WRITE (R445). -/
def execClkDivWrite (o : Origin) (v : Word) (s : State) : Out := s.write o CLK_DIV v

/-- CLK_OUT_WRITE (R446). -/
def execClkOutWrite (o : Origin) (v : Word) (s : State) : Out := s.write o CLK_OUT v

/-- CLK_GATE_WRITE (R448). -/
def execClkGateWrite (o : Origin) (one : Bool) (v : Word) (s : State) : Out :=
  s.write o (if one then CLK_GATE1 else CLK_GATE0) v

/-- CLK_LSEN_WRITE (R451). -/
def execClkLsenWrite (o : Origin) (v : Word) (s : State) : Out := s.write o CLK_LSEN v

/-- CAST_IRON_OSCILLATOR_READY (R438). -/
def execCastIronOscillatorReady (s : State) : Out := s.act .device (·.castReady)

end Sys2Proof.Machine
end

