-- ==== Sys2Proof/Machine/CmdCycle.lean ====
section
/-! DEFINITION. Meanings of the control cycle's commands (R33 to R63, R73 to R83, R181 to R250). -/

namespace Sys2Proof.Machine

open Sys2Proof

/-- CYCLE_TIMER_START (R34, R35). -/
def execCycleTimerStart (o : Origin) (follow : Bool) (s : State) : Out := s.write o CYC_CTRL (cycCtrlWord true follow)

/-- CYCLE_TIMER_STOP_REQUEST (R36). -/
def execCycleTimerStopRequest (o : Origin) (follow : Bool) (s : State) : Out := s.write o CYC_CTRL (cycCtrlWord false follow)

/-- CYCLE_BOUNDARY (R33). -/
def execCycleBoundary (s : State) : Out := s.act .device (·.cycleBoundary)

/-- FRAME_DEPART (R40, R53, R73, R213). -/
def execFrameDepart (s : State) : Out := s.act .device (·.frameDepart)

/-- IDLE_FRAME_SEND (R74). -/
def execIdleFrameSend (p : Fin 48) (s : State) : Out := s.act .device (·.sendIdle p)

/-- FRAME_RECEIVE (R44 to R52, R75 to R83, R108). -/
def execFrameReceive (p : Fin 48) (e : Fin 2) (line : List Int) (ret : Nat) (s : State) : Out :=
  s.act .device (·.onFrames (2 * p + e) line fun f d => d.frameReturns p e f ret)

/-- RETURN_DEADLINE (R48, R83 to R89, R335). -/
def execReturnDeadline (s : State) : Out := s.act .device (·.returnDeadline)

/-- UNWRAP_QUALIFIED (R88). -/
def execUnwrapQualified (p : Fin 48) (s : State) : Out := s.act .device (·.unwrapQualified p)

/-- ARM_SORT (R181 to R204). -/
def execArmSort (a : Fin 12) (ns : Nat) (s : State) : Out := s.act .device (·.armSort a ns)

/-- SORT_LATE (R54). -/
def execSortLate (a : Fin 12) (s : State) : Out := s.act .device (·.sortLate a)

/-- SCHEDULE_LATE (R54). -/
def execScheduleLate (a : Fin 12) (s : State) : Out := s.act .device (·.scheduleLate a)

/-- LOOP_PHASE (R232 to R254, R311). -/
def execLoopPhase (stall : Nat) (s : State) : Out := s.act .device (·.loopRun stall)

/-- LOOP_GCLR_WRITE (R249). -/
def execLoopGclrWrite (o : Origin) (v : Word) (s : State) : Out := s.write o LOOP_GCLR v

/-- RELOAD (R216 to R228, R272 to R286, R365). -/
def execReload (drained : List Nat) (s : State) : Out := s.act .device (·.reload drained)

/-- SCHEDULE_COPY (R205, R208, R302). -/
def execScheduleCopy (s : State) : Out := s.act .device (·.scheduleCopy)

/-- SYNC_IN_EDGE (R58 to R63). -/
def execSyncInEdge (t : BitVec 48) (s : State) : Out := s.act .device (·.syncEdge t)

/-- SYNCLOSS (R62). -/
def execSyncloss (s : State) : Out := s.act .device (·.syncLoss)

end Sys2Proof.Machine
end

