-- ==== Sys2Proof/Machine/CmdDisc.lean ====
section
/-! DEFINITION. Meanings of the discovery commands (R90 to R98, R383). -/

namespace Sys2Proof.Machine

open Sys2Proof

/-- RING_DISCOVER (R90): a write of 1 to RING_CTRL.DISC. -/
def execRingDiscover (o : Origin) (p : Fin 48) (s : State) : Out := s.writeF o (RING_CTRL_DISC p) 1

/-- DISCOVERY_DEFERRED_START (R383). -/
def execDiscoveryDeferredStart (s : State) : Out := s.act .device (·.deferredStart)

/-- DISCOVERY_PASS (R91, R92, R327). -/
def execDiscoveryPass (p : Fin 48) (e : Fin 2) (ask : Option (Fin 3 × Nat × List (BitVec 48))) (s : State) : Out :=
  s.act .device fun d =>
    match ask with
    | none => d.discPass p e
    | some (k, n, loads) => d.partnerPass p e k n loads

/-- DISCOVERY_FRAME_RECEIVE (R92, R93, R97, R98, R108). -/
def execDiscoveryFrameReceive (p : Fin 48) (e : Fin 2) (line : List Int) (rtt : Nat) (s : State) : Out :=
  s.act .device (·.onFrames (2 * p + e) line fun f d => d.discReceive p e f rtt)

/-- DISCOVERY_PASS_TIMEOUT (R92). -/
def execDiscoveryPassTimeout (p : Fin 48) (s : State) : Out := s.act .device (·.discTimeout p)

/-- DISCOVERY_NOLOCK (R92). -/
def execDiscoveryNolock (p : Fin 48) (s : State) : Out := s.act .device (·.discNolock p)

/-- DISCOVERY_FRAME_TURN (R91, R108). -/
def execDiscoveryFrameTurn (p : Fin 48) (e : Fin 2) (line : List Int) (residence : Nat) (s : State) : Out :=
  s.act .device (·.onFrames (2 * p + e) line fun f d => d.discTurn p e f residence)

end Sys2Proof.Machine
end

