-- ==== Sys2Proof/Machine/CmdDpx.lean ====
section
/-! DEFINITION. Meanings of the duplex commands (R290 to R328). -/

namespace Sys2Proof.Machine

open Sys2Proof

/-- VERDICT_RECEIVE (R292, R317, R318). -/
def execVerdictReceive (gs : List (BitVec 10)) (s : State) : Out := s.act .witness (·.onWitness gs fun b d => d.verdictMessage b)

/-- ADOPTION (R321, R322). -/
def execAdoption (s : State) : Out := s.act .witness (·.adopt)

/-- STANDBY_LINK_LOSS (R292). -/
def execStandbyLinkLoss (s : State) : Out := s.act .device (·.standbyLoss)

/-- DPX_FAULT_WRITE (R293): a write of 1 to DPX_CTRL.FAULT. -/
def execDpxFaultWrite (o : Origin) (s : State) : Out := s.writeF o DPX_CTRL_FAULT 1

/-- HEARTBEAT_SEND (R316). -/
def execHeartbeatSend (s : State) : Out := s.act .device (·.heartbeatSend)

/-- HEARTBEAT_RECEIVE (R317, R319). -/
def execHeartbeatReceive (link : Fin 2) (gs : List (BitVec 10)) (s : State) : Out :=
  s.act .partner (·.onWitness gs fun b d => d.heartbeatReceive link b)

/-- WITNESS_TIMEOUT (R319, R320). -/
def execWitnessTimeout (u : Fin 2) (s : State) : Out := s.act .device (·.witnessTimeout u)

/-- WITNESS_START (R319). -/
def execWitnessStart (s : State) : Out := s.act .device (·.witnessStart)

/-- WITLOSS (R318). -/
def execWitloss (s : State) : Out := s.act .device (·.witLoss)

/-- WITNESS_MESSAGE_CRC_ERROR (R315): code groups without a good message. -/
def execWitnessMessageCrcError (gs : List (BitVec 10)) (s : State) : Out := s.act .device (·.onWitness gs fun _ d => d)

/-- PAIR_SEND (R295). -/
def execPairSend (s : State) : Out := s.act .device (·.pairSend)

/-- PAIR_RECEIVE (R295, R296). -/
def execPairReceive (lines : List (List Int)) (t2 : BitVec 40) (s : State) : Out :=
  s.act .partner (·.onSolder 11 lines t2 fun x d => d.pairReceive (.of x.bytes) x.stamp)

/-- SOLDER_MESSAGE_SEND (R298, R299). -/
def execSolderMessageSend (s : State) : Out := s.act .device (·.solderSend)

/-- SOLDER_MESSAGE_CRC_ERROR (R298, R299). -/
def execSolderMessageCrcError (lines : List (List Int)) (s : State) : Out := s.act .partner (·.solderCrc lines)

/-- BLK_RECEIVE (R303). -/
def execBlkReceive (lines : List (List Int)) (s : State) : Out :=
  s.act .partner (·.onSolder 1 lines 0 fun x d => d.blkReceive (leAt x.bytes 0 2))

/-- ISLOT_SEND (R299, R300). -/
def execIslotSend (s : State) : Out := s.act .device (·.islotSend)

/-- ISLOT_RECEIVE (R300). -/
def execIslotReceive (lines : List (List Int)) (s : State) : Out :=
  s.act .partner (·.onSolder 2 lines 0 fun x d => d.islotReceive x.cyc (leWords x.bytes))

/-- RELAY_RECEIVE (R82, R304). The end does not change what a relayed slot does. -/
def execRelayReceive (lines : List (List Int)) (s : State) : Out :=
  s.act .partner (·.onSolder 3 lines 0 fun x d => d.relayReceive (leAt x.bytes 0 1) (dw (leAt x.bytes 8 4)) (relaySlots x.bytes))

/-- REF_RECEIVE (R312). -/
def execRefReceive (lines : List (List Int)) (s : State) : Out :=
  s.act .partner (·.onSolder 4 lines 0 fun x d => d.refReceive x.cyc (pairsOf (leWords x.bytes)))

/-- CMDS_RECEIVE (R290, R296, R297, R302, R303, R312). -/
def execCmdsReceive (lines : List (List Int)) (t2 : BitVec 40) (s : State) : Out :=
  s.act .partner (·.onSolder 5 lines t2 fun x d => d.cmdsReceive (.of d.mappedCells x.dep x.bytes) x.stamp)

/-- STAT_RECEIVE (R296, R305, R314). -/
def execStatReceive (lines : List (List Int)) (t4 : BitVec 40) (s : State) : Out :=
  s.act .partner (·.onSolder 6 lines t4 fun x d => d.statReceive (.of x.bytes) x.stamp)

/-- INGOT_SEGMENT_SEND (R307 to R309). -/
def execIngotSegmentSend (s : State) : Out := s.act .device (·.ingSend)

/-- INGOT_SEGMENT_RECEIVE (R309, R310, R313). -/
def execIngotSegmentReceive (lines : List (List Int)) (s : State) : Out :=
  s.act .partner (·.onSolder 7 lines 0 fun x d => d.ingReceive x.cyc x.bytes)

/-- CAST_SEGMENT_RECEIVE (R325). -/
def execCastSegmentReceive (lines : List (List Int)) (s : State) : Out :=
  s.act .partner (·.onSolder 8 lines 0 fun x d => d.castReceive x.cyc.toNat x.bytes)

/-- DISCRES_RECEIVE (R327). -/
def execDiscresReceive (lines : List (List Int)) (s : State) : Out :=
  s.act .partner (·.onSolder 9 lines 0 fun x d => d.discresMessage x.bytes)

/-- EPOCH_RECEIVE (R328, R345). -/
def execEpochReceive (lines : List (List Int)) (s : State) : Out :=
  s.store .partner fun nv d =>
    (d.solderTake 10 lines 0).1.foldl (fun x m => x.2.epochMessage x.1 m.bytes) (nv, (d.solderTake 10 lines 0).2)

end Sys2Proof.Machine
end

