-- ==== Sys2Proof/Machine/CmdHif.lean ====
section
/-! DEFINITION. Meanings of the host interface's commands, of configuration epochs and of the audit log (R356 to R389). -/

namespace Sys2Proof.Machine

open Sys2Proof

/-- CMD_DOORBELL (R359, R362): a BAR2 write. -/
def execCmdDoorbell (idx : Nat) (s : State) : Out := s.act .pcie fun d => d.wake.doorbell idx

/-- CONSUMER_INDEX_WRITE (R359): a BAR2 write. -/
def execConsumerIndexWrite (r : Fin 6) (idx : Nat) (s : State) : Out := s.act .pcie fun d => d.wake.consume r idx

/-- CMD_FETCH (R362, R367, R368). -/
def execCmdFetch (b : List Byte) (s : State) : Out := s.store .pcie fun nv d => cmdFetch nv d b

/-- NOP (R367). -/
def execNop (tag : BitVec 16) (s : State) : Out := s.act .pcie (·.completeOk tag 0x00)

/-- BLOCK (R211, R368). -/
def execBlock (tag : BitVec 16) (mask : BitVec 12) (s : State) : Out := s.act .pcie (·.cmdBlock tag mask.toNat)

/-- DEBLOCK (R210, R369). -/
def execDeblock (tag : BitVec 16) (mask : BitVec 12) (s : State) : Out := s.act .pcie (·.cmdDeblock tag mask.toNat)

/-- SAFACK (R336). -/
def execSafack (tag : BitVec 16) (s : State) : Out := s.act .pcie (·.cmdSafack tag)

/-- CCVCONF (R345). -/
def execCcvconf (tag : BitVec 16) (v : BitVec 64) (s : State) : Out := s.store .pcie fun nv d => cmdCcvconf nv d tag v

/-- RECREAD (R367). -/
def execRecread (tag : BitVec 16) (n : Fin 4) (s : State) : Out := s.act .pcie (·.cmdRecread tag n)

/-- EPOPEN (R377). -/
def execEpopen (tag : BitVec 16) (s : State) : Out := s.store .pcie fun nv d => submitSerial nv d ⟨0x10, tag, []⟩

/-- EPGROUP (R375, R377). -/
def execEpgroup (tag : BitVec 16) (addr : BitVec 64) (len : Word) (b : List Byte) (s : State) : Out :=
  s.store .pcie fun nv d => runGroup nv d ⟨0x11, tag, groupParams addr len⟩ b

/-- EPVALID (R376, R377). -/
def execEpvalid (tag : BitVec 16) (s : State) : Out := s.store .pcie fun nv d => submitSerial nv d ⟨0x12, tag, []⟩

/-- VALIDATION_END (R376, R377). -/
def execValidationEnd (s : State) : Out := s.store .pcie runValidationEnd

/-- EPCOMMIT (R373, R377 to R379). -/
def execEpcommit (tag : BitVec 16) (cyc : Word) (s : State) : Out :=
  s.store .pcie fun nv d => submitSerial nv d ⟨0x13, tag, leBytes 4 cyc.toNat⟩

/-- EPABORT (R377). What EPVALID held back runs on. -/
def execEpabort (tag : BitVec 16) (s : State) : Out := s.store .pcie fun nv d => pumpAll nv (d.epAbort tag)

/-- GROUP_APPLY (R379, R380). -/
def execGroupApply (s : State) : Out := s.look s.dev.ep.origin fun nv d => d.groupApply nv

/-- ATTEST (R480 to R482). -/
def execAttest (tag : BitVec 16) (nonce : BitVec 256) (addr : BitVec 64) (len : Word) (s : State) : Out :=
  s.store .pcie fun nv d => submitSerial nv d ⟨0x20, tag, attestParams nonce addr len⟩

/-- ATTEST_COMPLETION (R481). -/
def execAttestCompletion (ok : Bool) (s : State) : Out := s.store .pcie fun nv d => runAttestDone nv d ok

/-- INTERRUPT_COALESCE_TIMEOUT (R363). -/
def execInterruptCoalesceTimeout (r : Fin 6) (s : State) : Out := s.act .device (·.coalesceTimeout r)

/-- DMA_READ_TIMEOUT (R358). -/
def execDmaReadTimeout (which : Fin 3) (s : State) : Out := s.store .device fun nv d => dmaTimeout nv d which

/-- RING_EN_WRITE (R359): a write of a HIF_RING control word. -/
def execRingEnWrite (o : Origin) (r : Fin 6) (v : Word) (s : State) : Out := s.write o (HIF_RING_CTL r) v

/-- UART_FRAME (R389). -/
def execUartFrame (b : List Byte) (s : State) : Out := s.access .uart fun nv d => d.uartFrame nv b

/-- UART_FRAME_TIMEOUT (R389): the bytes of an unfinished frame are discarded; they have had no effect. -/
def execUartFrameTimeout (s : State) : Out := .next s

/-- AUDIT_ENTRY_WRITE (R385 to R387). -/
def execAuditEntryWrite (s : State) : Out := s.store .device auditWrite

/-- AUDIT_READ_LATCH (R388). -/
def execAuditReadLatch (o : Origin) (seq : Word) (s : State) : Out := s.write o AUD_RDSEQ seq

/-- PCIE_FUNCTION_RESET (R409). -/
def execPcieFunctionReset (down : Bool) (s : State) : Out := s.act .pcie (·.functionReset down)

/-- BUS_MASTER_ENABLE_CHANGE (R358). -/
def execBusMasterEnableChange (on : Bool) (s : State) : Out := s.act .pcie (·.busMaster on)

/-- PCIE_LINK_UP (R356). -/
def execPcieLinkUp (gen width : Nat) (s : State) : Out := s.act .pcie (·.linkUp gen width)

end Sys2Proof.Machine
end

