-- ==== Sys2Proof/Machine/CmdLane.lean ====
section
/-! DEFINITION. Meanings of the lane commands (R106 to R128). -/

namespace Sys2Proof.Machine

open Sys2Proof

/-- LANE_PLL_LOCK (R111). -/
def execLanePllLock (g : Fin 25) (s : State) : Out := s.act .device (·.pllLock g)

/-- LANE_PLL_LOSS (R111). -/
def execLanePllLoss (g : Fin 25) (s : State) : Out := s.act .device (·.pllLoss g)

/-- LOS_ASSERT (R116, R117). -/
def execLosAssert (n : Fin 100) (amp ns : Nat) (s : State) : Out := s.act .device (·.losAssert n amp ns)

/-- LOS_DEASSERT (R116, R117). -/
def execLosDeassert (n : Fin 100) (amp ns : Nat) (s : State) : Out := s.act .device (·.losDeassert n amp ns)

/-- CDR_LOCK (R118). -/
def execCdrLock (n : Fin 100) (s : State) : Out := s.act .device (·.cdrLock n)

/-- CDR_LOCK_LOSS (R118). -/
def execCdrLockLoss (n : Fin 100) (s : State) : Out := s.act .device (·.cdrLoss n)

/-- BLOCK_LOCK (R119). -/
def execBlockLock (n : Fin 100) (s : State) : Out := s.act .device (·.blockLock n)

/-- LOL (R119). -/
def execLol (n : Fin 100) (s : State) : Out := s.act .device (·.lol n)

/-- HDRERR (R106, R109). -/
def execHdrerr (n : Fin 100) (s : State) : Out := s.act .device (·.hdrErr n)

/-- ALIGN_BLOCK_RECEIVE (R106, R127). -/
def execAlignBlockReceive (lines : List (List Int)) (skew : List Nat) (s : State) : Out :=
  s.act .partner (·.alignLines lines skew)

/-- ALIGN_BLOCK_SEND (R126). -/
def execAlignBlockSend (s : State) : Out := s.act .device (·.alignSend)

/-- LANE_RESTART (R124): a write of 1 to LANE_CTRL.RESTART. -/
def execLaneRestart (o : Origin) (n : Fin 100) (s : State) : Out := s.writeF o (LANE_CTRL_RESTART n) 1

/-- LANE_TXEQ_WRITE (R114). -/
def execLaneTxeqWrite (o : Origin) (n : Fin 100) (v : Word) (s : State) : Out := s.write o (LANE_TXEQ n) v

end Sys2Proof.Machine
end

