-- ==== Sys2Proof/Machine/CmdMem.lean ====
section
/-! DEFINITION. Meanings of the commands of memory and arbitration (R414 to R428, R491). -/

namespace Sys2Proof.Machine

open Sys2Proof

/-- ARB_WINDOW_BOUNDARY (R422 to R426). -/
def execArbWindowBoundary (phases : List ArbPhase) (s : State) : Out := s.act .device (·.arbWindow phases)

/-- STARVE (R424). -/
def execStarve (s : State) : Out := s.act .device (·.starve)

/-- The arbiters keep what they held through the cycle in which an ARB_PORT write falls (R427), if the write has changed it. -/
def Dev.arbPortAt (d old : Dev) (ddr : Bool) (q cyc : Nat) : Dev :=
  d.each (if ddr then [64] else List.range 64) fun t d =>
    let r := d.arbReq t q
    if r.keep = (old.arbReq t q).keep then d
    else d.setReq t q { r with keep := (old.arbReq t q).keep ++ [(256 * d.mem.window + cyc, old.arbRegs ddr q)] }

/-- ARB_PORT_WRITE (R427, R428). -/
def execArbPortWrite (o : Origin) (ddr : Bool) (q : Fin 72) (v : Word) (cyc : Nat) (s : State) : Out :=
  s.access o fun nv d => (d.writeReg nv o (if ddr then ARB_DDRW q else ARB_PORT q) v).arbPortAt d ddr q cyc

/-- ARB_SLOT_WRITE (R426). -/
def execArbSlotWrite (o : Origin) (i : Fin 256) (v : Word) (s : State) : Out := s.write o (ARB_SLOT i) v

/-- SRAM_UNCORRECTABLE (R416). -/
def execSramUncorrectable (port : Fin 72) (addr : Nat) (rmw : Bool) (s : State) : Out :=
  s.act .device (·.sramUncorrectable port addr rmw)

/-- SCRUB_PASS (R417). -/
def execScrubPass (ce ue : List Nat) (s : State) : Out := s.act .device (·.scrubPass ce ue)

/-- MBIST_PASS (R491, R492). -/
def execMbistPass (bad : Option (Nat × Nat)) (s : State) : Out := s.act .device (·.mbistPass bad)

end Sys2Proof.Machine
end

