-- ==== Sys2Proof/Machine/CmdRec.lean ====
section
/-! DEFINITION. Meanings of the recorder commands (R272 to R289). -/

namespace Sys2Proof.Machine

open Sys2Proof

/-- REC_ARM (R275, R276): a write of 1 to REC_CTRL.ARM. -/
def execRecArm (o : Origin) (n : Fin 4) (s : State) : Out := s.writeF o (REC_CTRL_ARM n) 1

/-- REC_DISARM (R275). -/
def execRecDisarm (o : Origin) (n : Fin 4) (s : State) : Out := s.writeF o (REC_CTRL_DISARM n) 1

/-- REC_FORCE (R277). -/
def execRecForce (o : Origin) (n : Fin 4) (s : State) : Out := s.writeF o (REC_CTRL_FORCE n) 1

/-- REC_READ (R287). -/
def execRecRead (o : Origin) (n : Fin 4) (s : State) : Out := s.writeF o (REC_CTRL_READ n) 1

/-- REC_AUTO_TRIGGER (R275). -/
def execRecAutoTrigger (n : Fin 4) (s : State) : Out := s.act .device (·.recAuto n)

/-- REC_READOUT_BLOCK (R287, R366). -/
def execRecReadoutBlock (errs : List (Nat × DdrFault)) (s : State) : Out := s.act .device (·.recReadout errs)

/-- ARMOUT (R289): a write of 1 to REC_IOCMD.ARMOUT. -/
def execArmout (o : Origin) (s : State) : Out := s.writeF o REC_IOCMD_ARMOUT 1

/-- TRIG_IO_FALL (R288). -/
def execTrigIoFall (t : BitVec 48) (s : State) : Out := s.act .device (·.ioFall t)

/-- TRIG_IO_RISE (R288). -/
def execTrigIoRise (t : BitVec 48) (s : State) : Out := s.act .device (·.ioRise t)

/-- LINESTUCK (R288). -/
def execLinestuck (s : State) : Out := s.act .device (·.ioStuck)

/-- TRIG_IO_DEFERRED_DRIVE (R289). -/
def execTrigIoDeferredDrive (s : State) : Out := s.act .device (·.ioDeferred)

/-- TRIG_IO_PULSE_END (R289). -/
def execTrigIoPulseEnd (s : State) : Out := s.act .device (·.ioRelease)

end Sys2Proof.Machine
end

