-- ==== Sys2Proof/Machine/CmdReset.lean ====
section
/-! DEFINITION. Meanings of the reset and bring-up commands (R456 to R465). -/

namespace Sys2Proof.Machine

open Sys2Proof

/-- The trim word that MRAM holds is loaded at the power-on reset's end, mid-scale if none was ever stored (R436). -/
def Dev.loadTrim (d : Dev) (nv : Nonvol) : Dev :=
  if d.held then d
  else
    match nv.mram.trim with
    | some t => d.set CLK_TRIM_TRIM t.toNat
    | none => d.set CLK_TRIM_TRIM 0x800000

/-- PORST_N_ASSERT (R457). -/
def execPorstNAssert (s : State) : Out := s.line (·.porstAssert)

/-- PORST_N_RELEASE (R460, R499). -/
def execPorstNRelease (s : State) : Out :=
  s.line fun d => if d.rst.porstLow then d.porstRelease.loadTrim s.nv else d

/-- The trip level of the brown-out monitor in µV (R499). DESIGN CHOICE, log entry 61. -/
def tripLevel : Nat := 725000 + Config.brownoutTrip % 30001

/-- BROWNOUT (R456, R499): VDD_CORE has lain at `uv` µV for `ns`; below the trip level for more than 2 µs the monitor trips.
DESIGN CHOICE, log entry 61. -/
def execBrownout (uv ns : Nat) (s : State) : Out := s.line fun d => if uv < tripLevel ∧ 2000 < ns then d.brownout else d

/-- BROWNOUT_RELEASE (R499): VDD_CORE has lain at `uv` µV or above for `ns`; more than 20 mV above the trip level for 1 ms the
monitor releases. DESIGN CHOICE, log entry 61. -/
def execBrownoutRelease (uv ns : Nat) (s : State) : Out :=
  s.line fun d => if d.rst.brownLow ∧ tripLevel + 20000 < uv ∧ 1000000 ≤ ns then d.brownRelease.loadTrim s.nv else d

/-- SRST_N_ASSERT (R457, R458): the unlocks end with their entries first. -/
def execSrstNAssert (s : State) : Out :=
  s.line fun d => (if d.held then d else d.resetUnlocks).srstAssert

/-- SWRST (R457): a write of 1 to RST_CTRL.SWRST. -/
def execSwrst (o : Origin) (s : State) : Out := s.writeF o RST_CTRL_SWRST 1

/-- INTERNAL_RESET_END (R458): SRST_N is high and 4 µs have passed. -/
def execInternalResetEnd (s : State) : Out := s.line (·.internalEnd)

/-- BOOT (R469 to R473). -/
def execBoot (x : BootInput) (s : State) : Out := s.look .device fun nv d => d.boot nv x

/-- BOOT_END (R460, R470, R471). -/
def execBootEnd (s : State) : Out := s.store .device bootEnd

/-- DEVICE_DISCOVER (R460): a write of 1 to RST_CTRL.DISC. -/
def execDeviceDiscover (o : Origin) (s : State) : Out := s.writeF o RST_CTRL_DISC 1

/-- DISCOVERY_COMPLETE (R460). -/
def execDiscoveryComplete (s : State) : Out := s.act .device (·.discoveryComplete)

/-- The fatal causes of R293; the ingot cause is one of the ACTIVE unit alone. -/
def Dev.fatalCause (d : Dev) (cause : Nat) : Dev := if cause = 3 ∧ d.role ≠ .active then d else d.fatal (cause + 1) .device

/-- FATAL_FAULT (R293, R460, R462). -/
def execFatalFault (cause : Fin 5) (s : State) : Out := s.act .device (·.fatalCause cause)

/-- DEEP_ENTRY (R464, R465). -/
def execDeepEntry (s : State) : Out := s.act .device (·.deepEnter)

/-- DEEP is left 2 ms before pair 0's next known event; time passes until then (R465). -/
def Dev.deepLeave (d : Dev) : Dev :=
  match d.rst.deep, d.tNext 0 with
  | true, some t => (d.elapse (t - ms 2)).wake
  | _, _ => d

/-- DEEP_EXIT (R465). Accesses, UART frames, SAF changes and bindings wake the device within their own rows. -/
def execDeepExit (s : State) : Out := s.act .device (·.deepLeave)

end Sys2Proof.Machine
end

