-- ==== Sys2Proof/Machine/CmdSaf.lean ====
section
/-! DEFINITION. Meanings of the safety commands (R329 to R355). -/

namespace Sys2Proof.Machine

open Sys2Proof

/-- SAF_INPUT_FILTERED (R331). -/
def execSafInputFiltered (ch : Fin 4) (level : Bool) (held : Nat) (s : State) : Out := s.act .device (·.safInput ch level held)

/-- CHANNEL_DISCREPANCY (R331). -/
def execChannelDiscrepancy (pair : Fin 2) (s : State) : Out := s.act .device (·.discrepancy pair)

/-- SAFE_OK_READBACK_FAULT (R332). -/
def execSafeOkReadbackFault (chB : Bool) (level : Option Bool) (s : State) : Out := s.act .device (·.readbackFault chB level)

/-- SAF_CHANNEL_MISMATCH (R333). -/
def execSafChannelMismatch (s : State) : Out := s.act .device (·.classF)

/-- SAF_OSCILLATOR_DIFFERENCE (R333). -/
def execSafOscillatorDifference (ppm ns : Nat) (s : State) : Out := s.act .device (·.oscDiffers ppm ns)

/-- SOV_CHANNEL_SILENT (R341). -/
def execSovChannelSilent (a : Fin 12) (chB : Bool) (s : State) : Out := s.act .device (·.sovSilent a chB)

/-- SOV_DISCREPANCY (R341). -/
def execSovDiscrepancy (a : Fin 12) (s : State) : Out := s.act .device (·.sovDiffer a)

/-- SAF_ACK_WRITE (R336): a write of 1 to SAF_CTRL.ACK. -/
def execSafAckWrite (o : Origin) (s : State) : Out := s.writeF o SAF_CTRL_ACK 1

/-- DEGRADED_TIMER_EXPIRY (R348). -/
def execDegradedTimerExpiry (k : Deg) (s : State) : Out := s.act .device (·.degExpire k)

/-- DEGRADED_MODE_END (R348). -/
def execDegradedModeEnd (k : Deg) (s : State) : Out := s.act .device (·.degEnd k)

/-- CONFLOCK_END (R345). -/
def execConflockEnd (s : State) : Out := s.act .device (·.conflockEnd)

/-- STATION_TELEGRAM_RECEIVE (R352 to R354). -/
def execStationTelegramReceive (port : Fin 2) (f : List Byte) (s : State) : Out := s.act .device (·.telReceive port f)

/-- STATION_TELEGRAM_TIMEOUT (R354). -/
def execStationTelegramTimeout (port : Fin 2) (s : State) : Out := s.act .device (·.telTimeout port)

/-- MISM_CLEAR (R354). -/
def execMismClear (s : State) : Out := s.act .device (·.mismClear)

/-- STATUS_TELEGRAM_SEND (R353, R355). -/
def execStatusTelegramSend (s : State) : Out := s.act .device (·.telSend)

end Sys2Proof.Machine
end

