-- ==== Sys2Proof/Machine/CmdSch.lean ====
section
/-! DEFINITION. Meanings of the commands of the arms and their schedules (R207 to R230, R364). -/

namespace Sys2Proof.Machine

open Sys2Proof

/-- ARM_DEBLOCK_WRITE (R210, R463): a write of SCH_ARMCMD.DEBLK. -/
def execArmDeblockWrite (o : Origin) (mask : BitVec 12) (s : State) : Out :=
  s.write o SCH_ARMCMD (SCH_ARMCMD_DEBLK.into 0 mask.toNat)

/-- ARM_BLOCK_WRITE (R211): a write of SCH_ARMCMD.BLK. -/
def execArmBlockWrite (o : Origin) (mask : BitVec 12) (s : State) : Out :=
  s.write o SCH_ARMCMD (SCH_ARMCMD_BLK.into 0 mask.toNat)

/-- SCH_ENABLE_CLEAR (R211, R215): a write of 0 to SCH_ACTL.EN. -/
def execSchEnableClear (o : Origin) (a : Fin 12) (s : State) : Out := s.writeF o (SCH_ACTL_EN a) 0

/-- ACLK_STOP (R213). -/
def execAclkStop (s : State) : Out := s.act .device (·.aclkStop)

/-- SHADOW_WRITE (R218, R219). -/
def execShadowWrite (o : Origin) (a : Fin 12) (reg : Fin 4) (v : Word) (s : State) : Out := s.write o (shadowOff a reg) v

/-- INTERP_CALIBRATION (R229, R230). -/
def execInterpCalibration (g : Fin 25) (meas : List Nat) (s : State) : Out := s.act .device (·.calibrate g meas)

/-- SET_ENTRY_READ_COMPLETE (R233, R364). -/
def execSetEntryReadComplete (cyc : Word) (b : List Byte) (s : State) : Out := s.act .device (·.setRead cyc b)

end Sys2Proof.Machine
end

