-- ==== Sys2Proof/Machine/CmdSec.lean ====
section
/-! DEFINITION. Meanings of the commands of security, diagnostics and the JTAG port (R466 to R492). -/

namespace Sys2Proof.Machine

open Sys2Proof

/-- SEC_UNLOCK (R474, R476): a write of 1 to SEC_CMD.OP. -/
def execSecUnlock (o : Origin) (s : State) : Out := s.writeF o SEC_CMD_OP 1

/-- SEC_KEYPROG (R474, R477). -/
def execSecKeyprog (o : Origin) (s : State) : Out := s.writeF o SEC_CMD_OP 2

/-- SEC_KEYREV (R474, R477). -/
def execSecKeyrev (o : Origin) (s : State) : Out := s.writeF o SEC_CMD_OP 3

/-- SEC_OPERATION_COMPLETE (R474 to R478). -/
def execSecOperationComplete (s : State) : Out := s.store .device secComplete

/-- RELOCK (R478): a write of 1 to SEC_CTRL.RELOCK. -/
def execRelock (o : Origin) (s : State) : Out := s.writeF o SEC_CTRL_RELOCK 1

/-- UNLOCK_EXPIRY (R478). -/
def execUnlockExpiry (s : State) : Out := s.act .device (·.unlockExpiry)

/-- PERTURBATION_WRITE (R484, R485). -/
def execPerturbationWrite (o : Origin) (k : Pert) (v : Word) (s : State) : Out := s.write o k.off v

/-- PERTURBATION_END (R485). -/
def execPerturbationEnd (k : Pert) (s : State) : Out := s.act .device (·.pertEnd k)

/-- EXTEST (R488, R489). -/
def execExtest (capture load : List Bool) (s : State) : Out := s.tap (·.extest capture load)

/-- SAMPLE_PRELOAD (R488). -/
def execSamplePreload (capture load : List Bool) (s : State) : Out := s.tap (·.samplePreload capture load)

/-- IDCODE (R488). -/
def execIdcode (s : State) : Out := s.tap (·.idcode)

/-- HIGHZ (R488, R489). -/
def execHighz (s : State) : Out := s.tap (·.scan 4 [] (·.floatPins))

/-- CLAMP (R488, R489): the boundary register drives the outputs. -/
def execClamp (s : State) : Out := s.tap (·.scan 5 [] fun d => d.emit (.boundary d.diag.bsr))

/-- A BAR0 access of the TAP (R488). -/
def Dev.jtagAccess (d : Dev) (nv : Nonvol) (wr : Bool) (off : Nat) (v : Word) : Dev :=
  let d := d.setDiag (fun s => { s with instr := 0x10 })
  if wr then d.busWrite nv .jtag off 0xF v 0 else d.busRead nv .jtag off 0xF 0

/-- REGACC (R488). -/
def execRegacc (wr : Bool) (off : Nat) (v : Word) (s : State) : Out := s.access .jtag fun nv d => d.jtagAccess nv wr off v

/-- HALTREQ (R490). -/
def execHaltreq (mask : BitVec 4) (halt : Bool) (s : State) : Out :=
  s.act .jtag fun d => (d.setDiag (fun s => { s with instr := 0x11 })).haltReq mask.toNat halt

/-- BYPASS (R488). -/
def execBypass (bits : List Bool) (s : State) : Out := s.tap (·.bypass bits)

/-- JTAG_TAP_RESET (R409, R488). -/
def execJtagTapReset (s : State) : Out := s.tap (·.tapReset)

end Sys2Proof.Machine
end

