-- ==== Sys2Proof/Machine/CmdSvc.lean ====
section
/-! DEFINITION. Meanings of the service core commands (R390 to R413). -/

namespace Sys2Proof.Machine

open Sys2Proof

/-- SVC_ENQUEUE (R398): a write of SVC_ENQCMD. -/
def execSvcEnqueue (o : Origin) (v : Word) (s : State) : Out := s.write o SVC_ENQCMD v

/-- SVC_DONE (R400): a write of 1 to SVC_DONE. `tie`: it falls in the same SCLK cycle as the reset of the writing pair, which came in
front of it in the queue (R395). -/
def execSvcDone (o : Origin) (tie : Bool) (s : State) : Out :=
  if tie then s.act o (·.doneFirst o) else s.writeF o SVC_DONE_DONE 1

/-- SVC_CANCEL (R406). -/
def execSvcCancel (o : Origin) (v : Word) (s : State) : Out := s.write o SVC_CANCEL v

/-- AFFSTEAL_TIMEOUT (R402). -/
def execAffstealTimeout (s : State) : Out := s.act .device (·.affSteal)

/-- TICK_BOUNDARY (R404). -/
def execTickBoundary (s : State) : Out := s.act .device (·.tickBoundary)

/-- SPILL_REFILL (R405). -/
def execSpillRefill (errs : List (Nat × Nat × DdrFault)) (s : State) : Out := s.act .device (·.spillRefill errs)

/-- Whether a flow may run on one of pairs 1 to 3 (R399). -/
def Dev.flowWakes (d : Dev) (f : Nat) : Bool := [1, 2, 3].any (fun n => d.mayRun n f)

/-- The source of a binding has fired: the scheduler takes the oldest firing (R401); a binding that names a flow of pairs 1 to 3 wakes the
device (R465). Without a firing nothing happens. -/
def Dev.bindingEvent (d : Dev) (i : Nat) : Dev :=
  match d.svc.due.find? (fun x => x.1 == i) with
  | none => d
  | some x =>
    let d := d.setSvc (fun s => { s with due := s.due.erase x })
    (if d.is (SVC_BIND_EN i) ∧ d.flowWakes (d.get (SVC_BIND_FLOW i)) then d.wake else d).bindingFire i x.2

/-- EVENT_BINDING_FIRE (R401). -/
def execEventBindingFire (i : Fin 16) (s : State) : Out := s.act .device (·.bindingEvent i)

/-- SEM_ACQ (R407): a write of OP = 1 to SVC_SEMCTL. `tie`: it falls in the same SCLK cycle as a reset of its origin and is discarded, as
one with OP = 0 (R409). -/
def execSemAcq (o : Origin) (i : Fin 64) (tie : Bool) (s : State) : Out := s.writeF o (SVC_SEMCTL_OP i) (if tie then 0 else 1)

/-- SEM_REL (R408). -/
def execSemRel (o : Origin) (i : Fin 64) (s : State) : Out := s.writeF o (SVC_SEMCTL_OP i) 2

/-- SEM_CLRPOIS (R408). -/
def execSemClrpois (o : Origin) (i : Fin 64) (s : State) : Out := s.writeF o (SVC_SEMCTL_OP i) 3

/-- PAIR_RESTART (R394, R395): a write of 1 to SVC_PCTL.RESTART. -/
def execPairRestart (o : Origin) (n : Fin 4) (s : State) : Out := s.writeF o (SVC_PCTL_RESTART n) 1

/-- PAIR_IRQ (R396): a write of 1 to SVC_PCTL.IRQ. -/
def execPairIrq (o : Origin) (n : Fin 4) (s : State) : Out := s.writeF o (SVC_PCTL_IRQ n) 1

/-- PAIR_HALT_WRITE (R402): a write of SVC_PCTL.HALT. -/
def execPairHaltWrite (o : Origin) (n : Fin 4) (halt : Bool) (s : State) : Out :=
  s.writeF o (SVC_PCTL_HALT n) (if halt then 1 else 0)

/-- A fault of a pair whose cores run (R394): pair 0 or 1 stays in FAULT and the fault is fatal, pair 2 or 3 is reset; `flag` is
the bit of SVC_PEVT. -/
def Dev.pairFault (d : Dev) (n flag : Nat) : Dev :=
  if d.pairRuns n = false then d
  else if n < 2 then
    (d.raise (SVC_PEVT_PEVT n) flag |>.set (SVC_PSTAT_STATE n) pFAULT |>.set (SVC_PSTAT_DEPTH n) 0).fatal 1 .device
  else d.pairReset n flag

/-- PAIR_LOCKSTEP_MISMATCH (R293, R394). -/
def execPairLockstepMismatch (n : Fin 4) (s : State) : Out := s.act .device (·.pairFault n 0)

/-- PAIR_ECC_ERROR (R293, R394). -/
def execPairEccError (n : Fin 4) (s : State) : Out := s.act .device (·.pairFault n 1)

/-- PAIR_WATCHDOG (R394, R403). -/
def execPairWatchdog (n : Fin 4) (s : State) : Out := s.act .device (·.pairWatchdog n)

/-- PAIR_AUTO_RESTART (R395). -/
def execPairAutoRestart (n : Fin 4) (s : State) : Out := s.act .device (·.pairAutoRestart n)

/-- PAIR_IDLE_ENTRY (R410). -/
def execPairIdleEntry (n : Fin 4) (s : State) : Out := s.act .device (·.pairIdle n)

/-- PAIR_WAKE (R410). -/
def execPairWake (n : Fin 4) (s : State) : Out := s.act .device (·.pairWake n)

end Sys2Proof.Machine
end

