-- ==== Sys2Proof/Machine/CmdTime.lean ====
section
/-! DEFINITION. Meanings of the commands of the time bases and of PTP (R158 to R179). -/

namespace Sys2Proof.Machine

open Sys2Proof

/-- TB0_SET (R161). -/
def execTb0Set (o : Origin) (v : Word) (s : State) : Out := s.write o TIM_TB0SET v

/-- SNAP (R162, R164). -/
def execSnap (o : Origin) (tie : Bool) (s : State) : Out :=
  s.access o fun nv d => d.tied tie fun d => d.writeField nv o TIM_CTRL_SNAP 1

/-- TB1_STEP (R164). -/
def execTb1Step (o : Origin) (v : Word) (s : State) : Out := s.write o TIM_TB1STEP v

/-- TB1_SLEW (R176). -/
def execTb1Slew (o : Origin) (v : Word) (s : State) : Out := s.write o TIM_TB1SLEW v

/-- TB1_RATE_WRITE (R159, R179). -/
def execTb1RateWrite (o : Origin) (v : Word) (s : State) : Out := s.write o TIM_TB1RATE v

/-- TB3_SET (R158). -/
def execTb3Set (o : Origin) (v : Word) (s : State) : Out := s.write o TIM_TB3SET v

/-- TB3_STEP (R158). -/
def execTb3Step (o : Origin) (v : Word) (s : State) : Out := s.write o TIM_TB3STEP v

/-- TB3_RATE_WRITE (R159). -/
def execTb3RateWrite (o : Origin) (v : Word) (s : State) : Out := s.write o TIM_TB3RATE v

/-- TB_CARRY (R163): time passes until base n carries. -/
def execTbCarry (n : Fin 4) (s : State) : Out := s.act .device (·.tbCarry n)

/-- PTP_SYNC_RECEIVE (R172 to R176). -/
def execPtpSyncReceive (port : Fin 2) (domain seq : Nat) (twoStep : Bool) (t1 : Word) (corr logInt : Int) (s : State) : Out :=
  s.act .device (·.syncMsg port domain seq twoStep t1 corr logInt)

/-- FOLLOW_UP_RECEIVE (R172, R175). -/
def execFollowUpReceive (port : Fin 2) (domain seq : Nat) (t1 : Word) (corr : Int) (s : State) : Out :=
  s.act .device (·.followUp port domain seq t1 corr)

/-- ANNOUNCE_RECEIVE (R172, R177). -/
def execAnnounceReceive (port : Fin 2) (m : Announce) (s : State) : Out := s.act .device (·.announce port m)

/-- PDELAY_REQ_RECEIVE (R172). -/
def execPdelayReqReceive (port : Fin 2) (domain seq : Nat) (s : State) : Out := s.act .device (·.pdelayReq port domain seq)

/-- PDELAY_RESP_RECEIVE (R172). -/
def execPdelayRespReceive (port : Fin 2) (domain : Nat) (t1 : BitVec 48) (ago : Nat) (t2 t3 : Word) (corr : Int) (s : State) : Out :=
  s.act .device (·.pdelayResp port domain t1 ago t2 t3 corr)

/-- ANNOUNCE_TIMEOUT (R177). -/
def execAnnounceTimeout (port : Fin 2) (s : State) : Out := s.act .device (·.announceTimeout port)

/-- SYNC_TIMEOUT (R177). -/
def execSyncTimeout (s : State) : Out := s.act .device (·.syncTimeout)

/-- HOLDOVER_SECOND (R178). -/
def execHoldoverSecond (s : State) : Out := s.act .device (·.holdoverSecond)

/-- RECEIVING_PORT_DOWN (R177). -/
def execReceivingPortDown (s : State) : Out := s.act .device (·.rxPortDown)

/-- TB1_SLEW_ABSORBED (R176). -/
def execTb1SlewAbsorbed (s : State) : Out := s.act .device (·.slewAbsorbed)

end Sys2Proof.Machine
end

