-- ==== Sys2Proof/Machine/Dispatch.lean ====
section
/-! DEFINITION. One arm per command of the opcode table. -/

namespace Sys2Proof.Machine

open Sys2Proof

/-- What a command does to everything but the queue. DESIGN CHOICE, log entry 60. -/
def exec (i : Instr) (s : State) : Host.Outcome State Fault Refusal :=
  match i with
  | .porstNAssert => Sys2Proof.Machine.execPorstNAssert s
  | .porstNRelease => Sys2Proof.Machine.execPorstNRelease s
  | .brownout uv ns => Sys2Proof.Machine.execBrownout uv ns s
  | .srstNAssert => Sys2Proof.Machine.execSrstNAssert s
  | .swrst o => Sys2Proof.Machine.execSwrst o s
  | .internalResetEnd => Sys2Proof.Machine.execInternalResetEnd s
  | .boot x => Sys2Proof.Machine.execBoot x s
  | .bootEnd => Sys2Proof.Machine.execBootEnd s
  | .deviceDiscover o => Sys2Proof.Machine.execDeviceDiscover o s
  | .discoveryComplete => Sys2Proof.Machine.execDiscoveryComplete s
  | .fatalFault cause => Sys2Proof.Machine.execFatalFault cause s
  | .deepEntry => Sys2Proof.Machine.execDeepEntry s
  | .deepExit => Sys2Proof.Machine.execDeepExit s
  | .registerWrite o off be v hw which => Sys2Proof.Machine.execRegisterWrite o off be v hw which s
  | .unmapped o off wr => Sys2Proof.Machine.execUnmapped o off wr s
  | .unsupportedRequest off => Sys2Proof.Machine.execUnsupportedRequest off s
  | .gatedAccess o off wr => Sys2Proof.Machine.execGatedAccess o off wr s
  | .wideLowRead o w be => Sys2Proof.Machine.execWideLowRead o w be s
  | .wideUpperRead o w be => Sys2Proof.Machine.execWideUpperRead o w be s
  | .wideLowWrite o r v => Sys2Proof.Machine.execWideLowWrite o r v s
  | .wideUpperWrite o r v => Sys2Proof.Machine.execWideUpperWrite o r v s
  | .rcFieldRead o off be hw => Sys2Proof.Machine.execRcFieldRead o off be hw s
  | .cycNumRead o be => Sys2Proof.Machine.execCycNumRead o be s
  | .tbNsRead o n be tie => Sys2Proof.Machine.execTbNsRead o n be tie s
  | .adcResRead o x n be => Sys2Proof.Machine.execAdcResRead o x n be s
  | .attnEnWrite o v => Sys2Proof.Machine.execAttnEnWrite o v s
  | .cycleTimerStart o follow => Sys2Proof.Machine.execCycleTimerStart o follow s
  | .cycleTimerStopRequest o follow => Sys2Proof.Machine.execCycleTimerStopRequest o follow s
  | .cycleBoundary => Sys2Proof.Machine.execCycleBoundary s
  | .frameDepart => Sys2Proof.Machine.execFrameDepart s
  | .idleFrameSend p => Sys2Proof.Machine.execIdleFrameSend p s
  | .frameReceive p e line ret => Sys2Proof.Machine.execFrameReceive p e line ret s
  | .returnDeadline => Sys2Proof.Machine.execReturnDeadline s
  | .unwrapQualified p => Sys2Proof.Machine.execUnwrapQualified p s
  | .armSort a ns => Sys2Proof.Machine.execArmSort a ns s
  | .sortLate a => Sys2Proof.Machine.execSortLate a s
  | .scheduleLate a => Sys2Proof.Machine.execScheduleLate a s
  | .loopPhase stall => Sys2Proof.Machine.execLoopPhase stall s
  | .loopGclrWrite o v => Sys2Proof.Machine.execLoopGclrWrite o v s
  | .reload drained => Sys2Proof.Machine.execReload drained s
  | .scheduleCopy => Sys2Proof.Machine.execScheduleCopy s
  | .syncInEdge t => Sys2Proof.Machine.execSyncInEdge t s
  | .syncloss => Sys2Proof.Machine.execSyncloss s
  | .ringDiscover o p => Sys2Proof.Machine.execRingDiscover o p s
  | .discoveryDeferredStart => Sys2Proof.Machine.execDiscoveryDeferredStart s
  | .discoveryPass p e ask => Sys2Proof.Machine.execDiscoveryPass p e ask s
  | .discoveryFrameReceive p e line rtt => Sys2Proof.Machine.execDiscoveryFrameReceive p e line rtt s
  | .discoveryPassTimeout p => Sys2Proof.Machine.execDiscoveryPassTimeout p s
  | .discoveryNolock p => Sys2Proof.Machine.execDiscoveryNolock p s
  | .discoveryFrameTurn p e line residence => Sys2Proof.Machine.execDiscoveryFrameTurn p e line residence s
  | .lanePllLock g => Sys2Proof.Machine.execLanePllLock g s
  | .lanePllLoss g => Sys2Proof.Machine.execLanePllLoss g s
  | .losAssert n amp ns => Sys2Proof.Machine.execLosAssert n amp ns s
  | .losDeassert n amp ns => Sys2Proof.Machine.execLosDeassert n amp ns s
  | .cdrLock n => Sys2Proof.Machine.execCdrLock n s
  | .cdrLockLoss n => Sys2Proof.Machine.execCdrLockLoss n s
  | .blockLock n => Sys2Proof.Machine.execBlockLock n s
  | .lol n => Sys2Proof.Machine.execLol n s
  | .hdrerr n => Sys2Proof.Machine.execHdrerr n s
  | .alignBlockReceive lines skew => Sys2Proof.Machine.execAlignBlockReceive lines skew s
  | .alignBlockSend => Sys2Proof.Machine.execAlignBlockSend s
  | .laneRestart o n => Sys2Proof.Machine.execLaneRestart o n s
  | .laneTxeqWrite o n v => Sys2Proof.Machine.execLaneTxeqWrite o n v s
  | .tb0Set o v => Sys2Proof.Machine.execTb0Set o v s
  | .snap o tie => Sys2Proof.Machine.execSnap o tie s
  | .tb1Step o v => Sys2Proof.Machine.execTb1Step o v s
  | .tb1Slew o v => Sys2Proof.Machine.execTb1Slew o v s
  | .tb1RateWrite o v => Sys2Proof.Machine.execTb1RateWrite o v s
  | .tb3Set o v => Sys2Proof.Machine.execTb3Set o v s
  | .tb3Step o v => Sys2Proof.Machine.execTb3Step o v s
  | .tb3RateWrite o v => Sys2Proof.Machine.execTb3RateWrite o v s
  | .tbCarry n => Sys2Proof.Machine.execTbCarry n s
  | .ptpSyncReceive port domain seq twoStep t1 corr logInt => Sys2Proof.Machine.execPtpSyncReceive port domain seq twoStep t1 corr logInt s
  | .followUpReceive port domain seq t1 corr => Sys2Proof.Machine.execFollowUpReceive port domain seq t1 corr s
  | .announceReceive port m => Sys2Proof.Machine.execAnnounceReceive port m s
  | .pdelayReqReceive port domain seq => Sys2Proof.Machine.execPdelayReqReceive port domain seq s
  | .pdelayRespReceive port domain t1 ago t2 t3 corr => Sys2Proof.Machine.execPdelayRespReceive port domain t1 ago t2 t3 corr s
  | .announceTimeout port => Sys2Proof.Machine.execAnnounceTimeout port s
  | .syncTimeout => Sys2Proof.Machine.execSyncTimeout s
  | .holdoverSecond => Sys2Proof.Machine.execHoldoverSecond s
  | .armDeblockWrite o mask => Sys2Proof.Machine.execArmDeblockWrite o mask s
  | .armBlockWrite o mask => Sys2Proof.Machine.execArmBlockWrite o mask s
  | .schEnableClear o a => Sys2Proof.Machine.execSchEnableClear o a s
  | .aclkStop => Sys2Proof.Machine.execAclkStop s
  | .shadowWrite o a reg v => Sys2Proof.Machine.execShadowWrite o a reg v s
  | .interpCalibration g meas => Sys2Proof.Machine.execInterpCalibration g meas s
  | .setEntryReadComplete cyc b => Sys2Proof.Machine.execSetEntryReadComplete cyc b s
  | .adcHold volts => Sys2Proof.Machine.execAdcHold volts s
  | .adcRunStart x volts => Sys2Proof.Machine.execAdcRunStart x volts s
  | .adcSwstart o mask volts => Sys2Proof.Machine.execAdcSwstart o mask volts s
  | .adcPublish x volts => Sys2Proof.Machine.execAdcPublish x volts s
  | .adcOwWrite o reg v => Sys2Proof.Machine.execAdcOwWrite o reg v s
  | .recArm o n => Sys2Proof.Machine.execRecArm o n s
  | .recDisarm o n => Sys2Proof.Machine.execRecDisarm o n s
  | .recForce o n => Sys2Proof.Machine.execRecForce o n s
  | .recRead o n => Sys2Proof.Machine.execRecRead o n s
  | .recAutoTrigger n => Sys2Proof.Machine.execRecAutoTrigger n s
  | .recReadoutBlock errs => Sys2Proof.Machine.execRecReadoutBlock errs s
  | .armout o => Sys2Proof.Machine.execArmout o s
  | .trigIoFall t => Sys2Proof.Machine.execTrigIoFall t s
  | .trigIoRise t => Sys2Proof.Machine.execTrigIoRise t s
  | .linestuck => Sys2Proof.Machine.execLinestuck s
  | .trigIoDeferredDrive => Sys2Proof.Machine.execTrigIoDeferredDrive s
  | .trigIoPulseEnd => Sys2Proof.Machine.execTrigIoPulseEnd s
  | .verdictReceive groups => Sys2Proof.Machine.execVerdictReceive groups s
  | .adoption => Sys2Proof.Machine.execAdoption s
  | .standbyLinkLoss => Sys2Proof.Machine.execStandbyLinkLoss s
  | .dpxFaultWrite o => Sys2Proof.Machine.execDpxFaultWrite o s
  | .heartbeatSend => Sys2Proof.Machine.execHeartbeatSend s
  | .heartbeatReceive link groups => Sys2Proof.Machine.execHeartbeatReceive link groups s
  | .witnessTimeout u => Sys2Proof.Machine.execWitnessTimeout u s
  | .witnessStart => Sys2Proof.Machine.execWitnessStart s
  | .witloss => Sys2Proof.Machine.execWitloss s
  | .witnessMessageCrcError groups => Sys2Proof.Machine.execWitnessMessageCrcError groups s
  | .pairSend => Sys2Proof.Machine.execPairSend s
  | .pairReceive lines t2 => Sys2Proof.Machine.execPairReceive lines t2 s
  | .solderMessageSend => Sys2Proof.Machine.execSolderMessageSend s
  | .solderMessageCrcError lines => Sys2Proof.Machine.execSolderMessageCrcError lines s
  | .blkReceive lines => Sys2Proof.Machine.execBlkReceive lines s
  | .islotSend => Sys2Proof.Machine.execIslotSend s
  | .islotReceive lines => Sys2Proof.Machine.execIslotReceive lines s
  | .relayReceive lines => Sys2Proof.Machine.execRelayReceive lines s
  | .refReceive lines => Sys2Proof.Machine.execRefReceive lines s
  | .cmdsReceive lines t2 => Sys2Proof.Machine.execCmdsReceive lines t2 s
  | .statReceive lines t4 => Sys2Proof.Machine.execStatReceive lines t4 s
  | .ingotSegmentSend => Sys2Proof.Machine.execIngotSegmentSend s
  | .ingotSegmentReceive lines => Sys2Proof.Machine.execIngotSegmentReceive lines s
  | .castSegmentReceive lines => Sys2Proof.Machine.execCastSegmentReceive lines s
  | .discresReceive lines => Sys2Proof.Machine.execDiscresReceive lines s
  | .epochReceive lines => Sys2Proof.Machine.execEpochReceive lines s
  | .safInputFiltered ch level held => Sys2Proof.Machine.execSafInputFiltered ch level held s
  | .channelDiscrepancy pair => Sys2Proof.Machine.execChannelDiscrepancy pair s
  | .safeOkReadbackFault chB level => Sys2Proof.Machine.execSafeOkReadbackFault chB level s
  | .safChannelMismatch => Sys2Proof.Machine.execSafChannelMismatch s
  | .safOscillatorDifference ppm ns => Sys2Proof.Machine.execSafOscillatorDifference ppm ns s
  | .sovChannelSilent a chB => Sys2Proof.Machine.execSovChannelSilent a chB s
  | .safAckWrite o => Sys2Proof.Machine.execSafAckWrite o s
  | .degradedTimerExpiry k => Sys2Proof.Machine.execDegradedTimerExpiry k s
  | .degradedModeEnd k => Sys2Proof.Machine.execDegradedModeEnd k s
  | .conflockEnd => Sys2Proof.Machine.execConflockEnd s
  | .stationTelegramReceive port frame => Sys2Proof.Machine.execStationTelegramReceive port frame s
  | .stationTelegramTimeout port => Sys2Proof.Machine.execStationTelegramTimeout port s
  | .mismClear => Sys2Proof.Machine.execMismClear s
  | .statusTelegramSend => Sys2Proof.Machine.execStatusTelegramSend s
  | .cmdDoorbell idx => Sys2Proof.Machine.execCmdDoorbell idx s
  | .consumerIndexWrite r idx => Sys2Proof.Machine.execConsumerIndexWrite r idx s
  | .cmdFetch b => Sys2Proof.Machine.execCmdFetch b s
  | .nop tag => Sys2Proof.Machine.execNop tag s
  | .block tag mask => Sys2Proof.Machine.execBlock tag mask s
  | .deblock tag mask => Sys2Proof.Machine.execDeblock tag mask s
  | .safack tag => Sys2Proof.Machine.execSafack tag s
  | .ccvconf tag v => Sys2Proof.Machine.execCcvconf tag v s
  | .recread tag n => Sys2Proof.Machine.execRecread tag n s
  | .epopen tag => Sys2Proof.Machine.execEpopen tag s
  | .epgroup tag addr len b => Sys2Proof.Machine.execEpgroup tag addr len b s
  | .epvalid tag => Sys2Proof.Machine.execEpvalid tag s
  | .validationEnd => Sys2Proof.Machine.execValidationEnd s
  | .epcommit tag cyc => Sys2Proof.Machine.execEpcommit tag cyc s
  | .epabort tag => Sys2Proof.Machine.execEpabort tag s
  | .groupApply => Sys2Proof.Machine.execGroupApply s
  | .attest tag nonce addr len => Sys2Proof.Machine.execAttest tag nonce addr len s
  | .interruptCoalesceTimeout r => Sys2Proof.Machine.execInterruptCoalesceTimeout r s
  | .dmaReadTimeout which => Sys2Proof.Machine.execDmaReadTimeout which s
  | .ringEnWrite o r v => Sys2Proof.Machine.execRingEnWrite o r v s
  | .uartFrame b => Sys2Proof.Machine.execUartFrame b s
  | .uartFrameTimeout => Sys2Proof.Machine.execUartFrameTimeout s
  | .auditEntryWrite => Sys2Proof.Machine.execAuditEntryWrite s
  | .auditReadLatch o seq => Sys2Proof.Machine.execAuditReadLatch o seq s
  | .pcieFunctionReset down => Sys2Proof.Machine.execPcieFunctionReset down s
  | .svcEnqueue o v => Sys2Proof.Machine.execSvcEnqueue o v s
  | .svcDone o tie => Sys2Proof.Machine.execSvcDone o tie s
  | .svcCancel o v => Sys2Proof.Machine.execSvcCancel o v s
  | .affstealTimeout => Sys2Proof.Machine.execAffstealTimeout s
  | .tickBoundary => Sys2Proof.Machine.execTickBoundary s
  | .spillRefill errs => Sys2Proof.Machine.execSpillRefill errs s
  | .eventBindingFire n => Sys2Proof.Machine.execEventBindingFire n s
  | .semAcq o n tie => Sys2Proof.Machine.execSemAcq o n tie s
  | .semRel o n => Sys2Proof.Machine.execSemRel o n s
  | .semClrpois o n => Sys2Proof.Machine.execSemClrpois o n s
  | .pairRestart o n => Sys2Proof.Machine.execPairRestart o n s
  | .pairIrq o n => Sys2Proof.Machine.execPairIrq o n s
  | .pairHaltWrite o n halt => Sys2Proof.Machine.execPairHaltWrite o n halt s
  | .pairLockstepMismatch n => Sys2Proof.Machine.execPairLockstepMismatch n s
  | .pairEccError n => Sys2Proof.Machine.execPairEccError n s
  | .pairWatchdog n => Sys2Proof.Machine.execPairWatchdog n s
  | .pairAutoRestart n => Sys2Proof.Machine.execPairAutoRestart n s
  | .pairIdleEntry n => Sys2Proof.Machine.execPairIdleEntry n s
  | .pairWake n => Sys2Proof.Machine.execPairWake n s
  | .arbWindowBoundary phases => Sys2Proof.Machine.execArbWindowBoundary phases s
  | .starve => Sys2Proof.Machine.execStarve s
  | .arbPortWrite o ddr q v cyc => Sys2Proof.Machine.execArbPortWrite o ddr q v cyc s
  | .arbSlotWrite o n v => Sys2Proof.Machine.execArbSlotWrite o n v s
  | .sramUncorrectable port addr rmw => Sys2Proof.Machine.execSramUncorrectable port addr rmw s
  | .scrubPass ce ue => Sys2Proof.Machine.execScrubPass ce ue s
  | .mbistPass bad => Sys2Proof.Machine.execMbistPass bad s
  | .clockSourceSelect o v => Sys2Proof.Machine.execClockSourceSelect o v s
  | .clockSwitchComplete stopped => Sys2Proof.Machine.execClockSwitchComplete stopped s
  | .mdllEnable o => Sys2Proof.Machine.execMdllEnable o s
  | .clkMdllWrite o v => Sys2Proof.Machine.execClkMdllWrite o v s
  | .lockWindow dv ppm => Sys2Proof.Machine.execLockWindow dv ppm s
  | .refloss => Sys2Proof.Machine.execRefloss s
  | .failover monitor => Sys2Proof.Machine.execFailover monitor s
  | .clockAutoReturn => Sys2Proof.Machine.execClockAutoReturn s
  | .trimWindow err => Sys2Proof.Machine.execTrimWindow err s
  | .trimStore => Sys2Proof.Machine.execTrimStore s
  | .clkDivWrite o v => Sys2Proof.Machine.execClkDivWrite o v s
  | .clkOutWrite o v => Sys2Proof.Machine.execClkOutWrite o v s
  | .clkGateWrite o one v => Sys2Proof.Machine.execClkGateWrite o one v s
  | .clkLsenWrite o v => Sys2Proof.Machine.execClkLsenWrite o v s
  | .secUnlock o => Sys2Proof.Machine.execSecUnlock o s
  | .secKeyprog o => Sys2Proof.Machine.execSecKeyprog o s
  | .secKeyrev o => Sys2Proof.Machine.execSecKeyrev o s
  | .secOperationComplete => Sys2Proof.Machine.execSecOperationComplete s
  | .relock o => Sys2Proof.Machine.execRelock o s
  | .unlockExpiry => Sys2Proof.Machine.execUnlockExpiry s
  | .perturbationWrite o k v => Sys2Proof.Machine.execPerturbationWrite o k v s
  | .perturbationEnd k => Sys2Proof.Machine.execPerturbationEnd k s
  | .extest capture load => Sys2Proof.Machine.execExtest capture load s
  | .samplePreload capture load => Sys2Proof.Machine.execSamplePreload capture load s
  | .idcode => Sys2Proof.Machine.execIdcode s
  | .highz => Sys2Proof.Machine.execHighz s
  | .clamp => Sys2Proof.Machine.execClamp s
  | .regacc wr off v => Sys2Proof.Machine.execRegacc wr off v s
  | .haltreq mask halt => Sys2Proof.Machine.execHaltreq mask halt s
  | .bypass bits => Sys2Proof.Machine.execBypass bits s
  | .jtagTapReset => Sys2Proof.Machine.execJtagTapReset s
  | .brownoutRelease uv ns => Sys2Proof.Machine.execBrownoutRelease uv ns s
  | .sovDiscrepancy a => Sys2Proof.Machine.execSovDiscrepancy a s
  | .receivingPortDown => Sys2Proof.Machine.execReceivingPortDown s
  | .tb1SlewAbsorbed => Sys2Proof.Machine.execTb1SlewAbsorbed s
  | .busMasterEnableChange on => Sys2Proof.Machine.execBusMasterEnableChange on s
  | .attestCompletion ok => Sys2Proof.Machine.execAttestCompletion ok s
  | .castIronOscillatorReady => Sys2Proof.Machine.execCastIronOscillatorReady s
  | .pcieLinkUp gen width => Sys2Proof.Machine.execPcieLinkUp gen width s

end Sys2Proof.Machine
end

