-- ==== Sys2Proof/Machine/Step.lean ====
section
/-! DEFINITION. The step: the front of the queue runs with the rest of the queue; an empty queue lets one ACLK period pass. -/

namespace Sys2Proof.Machine

open Sys2Proof

/-- The state with another queue. -/
def State.withQueue (s : State) (q : List Instr) : State := { s with pending := q }

/-- DESIGN CHOICE (log entry 2): with no command waiting, time passes by one period of ACLK. -/
def State.idle (s : State) : State := { s with dev := s.dev.elapse 1 }

/-- One step. -/
def step (s : State) : Host.Outcome State Fault Refusal :=
  match s.pending with
  | [] => .next s.idle
  | c :: rest => exec c (s.withQueue rest)

/-- The state with the command that a word spells in front of its queue; no word spells one. DESIGN CHOICE, log entry 1. -/
def State.withFetchWord (s : State) (nbits w : Nat) : State :=
  match decodeTableWord nbits w with
  | some c => s.withQueue (c :: s.pending)
  | none => s

end Sys2Proof.Machine
end

