-- ==== Sys2Proof/Safety.lean ====
section
/-! DEFINITION. The terms that claims use: frames over the parts of the device and its registers, how a command runs, which
accesses reach their register, and the invariants that every step keeps. -/

namespace Sys2Proof.Machine

open Sys2Proof

/-! ### Frames -/

/-- The parts of the device beside its register file. -/
inductive DevPart where
  | time | ptp | cyc | rst | clk | hif | ep | aud | sec | ports | arms | sch | saf | lane | svc | loop | adc | rcd | mem | dpx | diag
  | rlatch | wlatch | free | out
  deriving DecidableEq, Repr

/-- A part is the same in two devices. -/
def DevPart.same (a b : Dev) : DevPart → Prop
  | .time => b.time = a.time | .ptp => b.ptp = a.ptp | .cyc => b.cyc = a.cyc | .rst => b.rst = a.rst | .clk => b.clk = a.clk
  | .hif => b.hif = a.hif | .ep => b.ep = a.ep | .aud => b.aud = a.aud | .sec => b.sec = a.sec | .ports => b.ports = a.ports
  | .arms => b.arms = a.arms | .sch => b.sch = a.sch | .saf => b.saf = a.saf | .lane => b.lane = a.lane | .svc => b.svc = a.svc
  | .loop => b.loop = a.loop | .adc => b.adc = a.adc | .rcd => b.rcd = a.rcd | .mem => b.mem = a.mem | .dpx => b.dpx = a.dpx
  | .diag => b.diag = a.diag | .rlatch => b.rlatch = a.rlatch | .wlatch => b.wlatch = a.wlatch | .free => b.free = a.free
  | .out => b.out = a.out

/-- From a to b, only the parts of `ps` and the registers at the offsets of `S` may differ. -/
def Dev.Changes (ps : List DevPart) (S : Nat → Prop) (a b : Dev) : Prop :=
  (∀ p, p ∉ ps → p.same a b) ∧ ∀ off, ¬ S off → b.word off = a.word off

/-- The offsets of a list. -/
abbrev At (l : List Nat) (off : Nat) : Prop := off ∈ l

/-- The offsets of two sets. -/
abbrev Either (S T : Nat → Prop) (off : Nat) : Prop := S off ∨ T off

/-- The offsets of registers that each of a list of copies has. -/
abbrev Each (l : List Nat) (r : Nat → List Nat) (off : Nat) : Prop := ∃ n ∈ l, off ∈ r n

/-! ### How a command runs -/

/-- The command runs, and its own effect leaves a device with P; what follows at once is `Dev.after`. -/
def Runs (c : Instr) (o : Origin) (s : State) (P : Dev → Prop) : Prop := ∃ d', exec c s = .next (s.ran o d') ∧ P d'

/-- An access runs, and its own effect leaves a device with P; a reset that takes hold cuts a fuse operation (R477). -/
def Comes (c : Instr) (o : Origin) (s : State) (P : Dev → Prop) : Prop := ∃ d', exec c s = .next (s.came o d') ∧ P d'

/-- A command that may write MRAM or fuses runs, and its own effect leaves them and the device with P. -/
def Stores (c : Instr) (o : Origin) (s : State) (P : Nonvol → Dev → Prop) : Prop :=
  ∃ nv' d', exec c s = .next (s.with_ (nv', d'.after s.dev o)) ∧ P nv' d'

/-! ### Accesses that reach their register -/

/-- The device takes accesses: no reset holds it and it is not in DEEP, from which an access wakes it first (R457, R465). -/
abbrev Dev.awake (d : Dev) : Prop := d.held = false ∧ d.rst.deep = false

/-- Whether an origin may write an offset (R393): pairs 2 and 3 are kept from some, and SVC_PCTL has a rule of its own for them. -/
def Origin.mayWrite (o : Origin) (off : Nat) : Bool :=
  match o with
  | .svc n => decide (n.val < 2) || (!pairBarred off && (ix (SVC_PCTL 0) 0x40 4 off).isNone)
  | _ => true

/-- An access from an origin to a register is let through: the block answers (R452), the origin may write there (R393), and nothing
is withheld for a full audit queue (R387). -/
abbrev State.Lets (s : State) (o : Origin) (off : Nat) : Prop :=
  s.dev.awake ∧ s.dev.gated off = false ∧ o.mayWrite off = true ∧ s.dev.is AUD_STAT_FULL = false

/-- It is let through, and no field is locked (R3, R373). -/
abbrev State.Reaches (s : State) (o : Origin) (off : Nat) : Prop := s.Lets o off ∧ (s.dev.locked = false ∨ rwlMask off = 0)

/-! ### Invariants -/

/-- The chain value before a log held newest first: that of its newest entry, or the base of an empty log (R385). -/
def chainBefore (base : BitVec 64) : List AudEntry → BitVec 64
  | [] => base
  | e :: _ => e.chain

/-- The audit log's chain (R385): entries newest first, numbered without a gap below `next`, each chain value made from the one
before it, the oldest entry's from the base. -/
def Chained (base : BitVec 64) : Word → List AudEntry → Prop
  | _, [] => True
  | next, e :: rest => e.seq + 1 = next ∧ e.chain = chainNext (chainBefore base rest) e.seq e.item ∧ Chained base e.seq rest

/-- The audit log in MRAM is whole (R385, R386): its chain verifies from AUD_ANCHOR on, and it holds no more than its capacity. -/
def Nonvol.LogOk (nv : Nonvol) : Prop := Chained nv.anchor nv.mram.nextSeq nv.mram.log ∧ nv.mram.log.length ≤ logCapacity

end Sys2Proof.Machine
end

