-- ==== Sys2Proof/Certificates/Slice0/Obligations.lean ====
section
/-! DEFINITION. The statements for the provers. A clause says how a command completes: under hypotheses on the state and the
operands alone `exec` answers a next state, whose device has the effect that the cited rule names, and `Dev.Changes` says what
the command leaves unchanged. `Runs`, `Comes` and `Stores` name the command's own effect; what follows at once from it
(`Dev.after`) has statements of its own. -/

open Sys2Proof Sys2Proof.Machine

/-! ### Terms -/

/-- An offset lies in one of the blocks of a list (R26). -/
abbrev Sys2Proof.Machine.InAny (l : List (Nat × Nat)) (off : Nat) : Prop := ∃ b ∈ l, b.1 ≤ off ∧ off < b.2

namespace Sys2Proof.Machine

/-! The blocks of BAR0 (R26). -/
def bTOP : Nat × Nat := (0x000000, 0x010000)
def bCLK : Nat × Nat := (0x010000, 0x020000)
def bRST : Nat × Nat := (0x020000, 0x030000)
def bCYC : Nat × Nat := (0x030000, 0x040000)
def bTIM : Nat × Nat := (0x040000, 0x080000)
def bRING : Nat × Nat := (0x080000, 0x0C0000)
def bLANE : Nat × Nat := (0x0C0000, 0x100000)
def bARM : Nat × Nat := (0x100000, 0x140000)
def bSCH : Nat × Nat := (0x140000, 0x180000)
def bLOOP : Nat × Nat := (0x180000, 0x1C0000)
def bADC : Nat × Nat := (0x1C0000, 0x1D0000)
def bREC : Nat × Nat := (0x1D0000, 0x200000)
def bDPX : Nat × Nat := (0x200000, 0x210000)
def bSAF : Nat × Nat := (0x210000, 0x220000)
def bHIF : Nat × Nat := (0x220000, 0x230000)
def bSVC : Nat × Nat := (0x230000, 0x240000)
def bARB : Nat × Nat := (0x240000, 0x250000)
def bMEM : Nat × Nat := (0x250000, 0x260000)
def bSEC : Nat × Nat := (0x260000, 0x270000)
def bDIAG : Nat × Nat := (0x270000, 0x280000)
def bAUD : Nat × Nat := (0x280000, 0x400000)
def bCELL : Nat × Nat := (0x400000, 0x460000)

/-- The registers of an entry in the EVT ring (R360, R361, R371). -/
def evtRegs : List Nat := [HIF_RING_DIDX 2, HIF_LOST, HIF_EVT]

/-- The registers of an audit entry's queueing (R387). -/
def audRegs : List Nat := [AUD_EVT, AUD_STAT]

/-- The port and end that a frame leaves from. -/
def Emission.frameAt : Emission → Option (Nat × Nat)
  | .frame p e _ _ => some (p, e)
  | _ => none

/-- The registers in which a lane counts what its receiver takes from the line (R106). -/
def laneRegs (n : Nat) : List Nat := [LANE_EVT n, LANE_CNT0 n]

/-- The same of the four Solder lanes. -/
def solderRegs : List Nat := solderLanes.flatMap laneRegs

/-- A saturating counter has gone up by one. -/
abbrev Dev.Counted (d d' : Dev) (f : Fld) : Prop := d'.get f = min (d.get f + 1) (2 ^ f.width - 1)

/-- The EVT ring takes an entry (R359, R360, R361). -/
abbrev Dev.EvtRoom (d : Dev) : Prop :=
  d.get (HIF_RING_CTL_EN 2) = 1 ∧ d.get HIF_STAT_BME = 1 ∧ d.ringFill 2 ≠ d.ringSize 2

/-- Code and origin of an entry written to the EVT ring (R371). -/
def Emission.evt : Emission → Option (Nat × Nat)
  | .hostEntry 2 _ l _ => some ((nth l 0 0).toNat % 2 ^ 16, (nth l 0 0).toNat / 2 ^ 16 % 16)
  | _ => none

/-- From d to d' one event has been posted, if the ring takes it (R371). -/
abbrev Dev.Posts (d d' : Dev) (code : Nat) (o : Origin) : Prop :=
  d.EvtRoom → d'.out.filterMap Emission.evt = (code, o.code) :: d.out.filterMap Emission.evt

/-- From d to d' one audit entry has been queued, of a kind, code and origin (R384). -/
abbrev Dev.Logs (d d' : Dev) (kind code : Nat) (o : Origin) : Prop :=
  (d'.aud.queue.drop d.aud.queue.length).map (fun e => (e.kind, e.code, e.origin)) = [(kind, code, o.code)]

/-- The CPL ring takes an entry (R359, R360, R361). -/
abbrev Dev.CplRoom (d : Dev) : Prop :=
  d.get (HIF_RING_CTL_EN 1) = 1 ∧ d.get HIF_STAT_BME = 1 ∧ d.ringFill 1 ≠ d.ringSize 1

/-- Tag, status, opcode and reason of a completion (R370). -/
def Emission.cpl : Emission → Option (Nat × Nat × Nat × Nat)
  | .hostEntry 1 _ l _ =>
    some ((nth l 0 0).toNat % 2 ^ 16, (nth l 0 0).toNat / 2 ^ 16 % 256, (nth l 0 0).toNat / 2 ^ 24, (nth l 1 0).toNat % 2 ^ 16)
  | _ => none

/-- From d to d' one completion has been posted, if the ring takes it (R370). -/
abbrev Dev.Completes (d d' : Dev) (tag : BitVec 16) (status op reason : Nat) : Prop :=
  d.CplRoom → d'.out.filterMap Emission.cpl = (tag.toNat, status, op, reason) :: d.out.filterMap Emission.cpl

/-- The registers of a completion. -/
def cplRegs : List Nat := [HIF_RING_DIDX 1, HIF_LOST, HIF_EVT]

/-- No serial command waits or runs (R368). -/
abbrev Dev.SerialFree (d : Dev) : Prop := d.hif.serial = [] ∧ d.hif.serialBusy = false

/-- An access from an origin reaches a block that answers (R452, R457, R465). -/
abbrev Dev.Answers (d : Dev) (off : Nat) : Prop := d.awake ∧ d.gated off = false

end Sys2Proof.Machine

/-! ### Lanes (R106 to R128) -/

/-- Lane n is in a state of R123, with the lock bits that hold in it. -/
abbrev Sys2Proof.Machine.Dev.LaneIs (d : Dev) (n st : Nat) : Prop :=
  d.get (LANE_STAT_STATE n) = st ∧ d.get (LANE_STAT_CDRLOCK n) = (if 4 ≤ st then 1 else 0) ∧
    d.get (LANE_STAT_BLKLOCK n) = (if 5 ≤ st then 1 else 0)

/-- From d to d', of a ring lane's detector: its own registers, its line, its balls and its port's counters (R75, R120) may differ. -/
abbrev Sys2Proof.Machine.Dev.LaneMoves (d d' : Dev) (n : Nat) : Prop :=
  d.Changes [.lane, .out] (At ([LANE_STAT n, LANE_EVT n, LANE_CNT0 n, LANE_CNT1 n, LANE_RXAMP n] ++
    [RING_EVT (n / 2), RING_CRC (n / 2) (n % 2)])) d'

/-- R106, R116 to R120, R122, R123: the detectors of a lane, whose amplitude the receiver reports. LOS_ASSERT below V_los for
64 ns, LOS_DEASSERT more than 20 mVppd above it for the time of LOSQUAL, CDR_LOCK, CDR_LOCK_LOSS, BLOCK_LOCK, LOL and HDRERR
move the lane through the bring-up states and count, each in the states in which the detector acts; otherwise nothing but the
amplitude changes. A lane that leaves UP counts it, and ends a frame in reception. Of a ring lane only its own registers and
its port's counters change. R111, R122, R123: the lane PLL of a group with an enabled lane locks and takes the lanes of the
group that wait for it to SIGNAL, driven and with no light qualified; one that loses lock takes every enabled lane of its group
to PLLWAIT, in electrical idle. R106, R126, R127, R128: ALIGN blocks of the Solder link. While the link is down, or the partner
has not seen it UP, or fewer than four have said that it is, a set leaves on the four lanes with the next sequence number. The
second consecutive set within 16 blocks, with every lane in ALIGN, takes the lanes and the link UP; one in which a lane is
later than 16 blocks sets its SKEWERR and begins anew. Blocks that are no set of ALIGN blocks change nothing. -/
def Obligations.LaneBringUp : Prop :=
  (∀ (s : State) (n : Fin 100) (amp ns : Nat), s.dev.held = false →
    (2 ≤ s.dev.get (LANE_STAT_STATE n) → s.dev.get (LANE_STAT_LOS n) = 0 → amp < 40 + 10 * s.dev.get (LANE_RXCFG_LOSTH n) → 64 ≤ ns →
      Runs (.losAssert n amp ns) .device s fun d =>
        d.LaneIs n 2 ∧ d.get (LANE_STAT_LOS n) = 1 ∧ d.get (LANE_EVT_LOSSET n) = 1 ∧ s.dev.Counted d (LANE_CNT1_LOSCNT n) ∧
        d.get (LANE_RXAMP_AMP n) = min amp 0xFFF ∧
        (s.dev.get (LANE_STAT_STATE n) = 6 → d.get (LANE_EVT_LOLSET n) = 1 ∧ d.get (LANE_EVT_DOWN n) = 1 ∧
          s.dev.Counted d (LANE_CNT0_LOLCNT n) ∧ s.dev.Counted d (LANE_CNT1_DOWNCNT n)) ∧
        (n.val < 96 → s.dev.LaneMoves d n) ∧ s.dev.Changes [.lane, .saf, .out] (InAny [bLANE, bRING, bDPX, bSAF]) d) ∧
    (2 ≤ s.dev.get (LANE_STAT_STATE n) →
      s.dev.get (LANE_STAT_LOS n) = 1 ∨ 40 + 10 * s.dev.get (LANE_RXCFG_LOSTH n) ≤ amp ∨ ns < 64 → Runs (.losAssert n amp ns) .device s fun d =>
        d.get (LANE_RXAMP_AMP n) = min amp 0xFFF ∧ s.dev.Changes [] (At [LANE_RXAMP n]) d) ∧
    (s.dev.get (LANE_STAT_STATE n) < 2 → Runs (.losAssert n amp ns) .device s fun d => d = s.dev) ∧
    (s.dev.get (LANE_STAT_STATE n) = 2 → s.dev.get (LANE_STAT_LOS n) = 1 → 40 + 10 * s.dev.get (LANE_RXCFG_LOSTH n) + 20 < amp →
      1000 * 10 ^ s.dev.get (LANE_RXCFG_LOSQUAL n) ≤ ns → Runs (.losDeassert n amp ns) .device s fun d =>
        d.LaneIs n 3 ∧ d.get (LANE_STAT_LOS n) = 0 ∧ d.get (LANE_EVT_LOSEND n) = 1 ∧ d.get (LANE_RXAMP_AMP n) = min amp 0xFFF ∧
        (d.line n).rxPrev = 0 ∧ s.dev.Changes [.lane] (At [LANE_STAT n, LANE_EVT n, LANE_RXAMP n]) d) ∧
    (s.dev.get (LANE_STAT_STATE n) ≠ 2 ∨ s.dev.get (LANE_STAT_LOS n) = 0 ∨ amp ≤ 40 + 10 * s.dev.get (LANE_RXCFG_LOSTH n) + 20 ∨
      ns < 1000 * 10 ^ s.dev.get (LANE_RXCFG_LOSQUAL n) → Runs (.losDeassert n amp ns) .device s fun d =>
        d.get (LANE_RXAMP_AMP n) = (if s.dev.get (LANE_STAT_STATE n) < 2 then s.dev.get (LANE_RXAMP_AMP n) else min amp 0xFFF) ∧
        s.dev.Changes [] (At [LANE_RXAMP n]) d) ∧
    (s.dev.get (LANE_STAT_STATE n) = 3 → Runs (.cdrLock n) .device s fun d => d.LaneIs n 4 ∧ s.dev.Changes [] (At [LANE_STAT n]) d) ∧
    (s.dev.get (LANE_STAT_STATE n) ≠ 3 → Runs (.cdrLock n) .device s fun d => d = s.dev) ∧
    (s.dev.get (LANE_STAT_STATE n) = 4 ∨ s.dev.get (LANE_STAT_STATE n) = 5 → Runs (.cdrLockLoss n) .device s fun d =>
      d.LaneIs n 3 ∧ s.dev.Changes [] (At [LANE_STAT n]) d) ∧
    (s.dev.get (LANE_STAT_STATE n) = 6 → Runs (.cdrLockLoss n) .device s fun d =>
      d.LaneIs n 3 ∧ d.get (LANE_EVT_LOLSET n) = 1 ∧ d.get (LANE_EVT_DOWN n) = 1 ∧ s.dev.Counted d (LANE_CNT0_LOLCNT n) ∧
      s.dev.Counted d (LANE_CNT1_DOWNCNT n) ∧ (n.val < 96 → s.dev.LaneMoves d n) ∧
      s.dev.Changes [.lane, .saf, .out] (InAny [bLANE, bRING, bDPX, bSAF]) d) ∧
    (s.dev.get (LANE_STAT_STATE n) < 4 ∨ s.dev.get (LANE_STAT_STATE n) = 7 → Runs (.cdrLockLoss n) .device s fun d => d = s.dev) ∧
    (s.dev.get (LANE_STAT_STATE n) = 4 → Runs (.blockLock n) .device s fun d =>
      (if n.val < 96 then d.LaneIs n 6 ∧ d.get (LANE_EVT_UP n) = 1 else d.LaneIs n 5) ∧
      s.dev.Changes [] (At [LANE_STAT n, LANE_EVT n]) d) ∧
    (s.dev.get (LANE_STAT_STATE n) ≠ 4 → Runs (.blockLock n) .device s fun d => d = s.dev) ∧
    (s.dev.get (LANE_STAT_STATE n) = 6 → Runs (.lol n) .device s fun d =>
      d.LaneIs n 4 ∧ d.get (LANE_EVT_LOLSET n) = 1 ∧ d.get (LANE_EVT_DOWN n) = 1 ∧ s.dev.Counted d (LANE_CNT0_LOLCNT n) ∧
      s.dev.Counted d (LANE_CNT1_DOWNCNT n) ∧ (n.val < 96 → s.dev.LaneMoves d n) ∧
      s.dev.Changes [.lane, .saf, .out] (InAny [bLANE, bRING, bDPX, bSAF]) d) ∧
    (s.dev.get (LANE_STAT_STATE n) = 5 → Runs (.lol n) .device s fun d => d.LaneIs n 4 ∧ s.dev.Changes [] (At [LANE_STAT n]) d) ∧
    (s.dev.get (LANE_STAT_STATE n) < 5 ∨ s.dev.get (LANE_STAT_STATE n) = 7 → Runs (.lol n) .device s fun d => d = s.dev) ∧
    (s.dev.get (LANE_STAT_STATE n) = 6 → Runs (.hdrerr n) .device s fun d =>
      d.get (LANE_EVT_HDRERR n) = 1 ∧ s.dev.Counted d (LANE_CNT0_HDRERR n) ∧ s.dev.Changes [] (At [LANE_EVT n, LANE_CNT0 n]) d) ∧
    (s.dev.get (LANE_STAT_STATE n) ≠ 6 → Runs (.hdrerr n) .device s fun d => d = s.dev)) ∧
  (∀ (s : State) (g : Fin 25) (n : Nat), s.dev.held = false → n / 4 = g.val →
    ((∃ m ∈ groupLanes g, s.dev.get (LANE_CTRL_EN m) = 1) → Runs (.lanePllLock g) .device s fun d =>
      d.get (LANE_STAT_PLLLOCK n) = 1 ∧
      (s.dev.get (LANE_STAT_STATE n) = 1 → d.LaneIs n 2 ∧ d.get (LANE_STAT_LOS n) = 1 ∧ Emission.pin (.lane n) .driven ∈ d.out) ∧
      (s.dev.get (LANE_STAT_STATE n) ≠ 1 → d.get (LANE_STAT_STATE n) = s.dev.get (LANE_STAT_STATE n)) ∧
      s.dev.Changes [.lane, .out] (Each (groupLanes g) fun m => [LANE_STAT m]) d) ∧
    ((∀ m ∈ groupLanes g, s.dev.get (LANE_CTRL_EN m) = 0) → Runs (.lanePllLock g) .device s fun d => d = s.dev) ∧
    (Runs (.lanePllLoss g) .device s fun d =>
      d.get (LANE_STAT_PLLLOCK n) = 0 ∧
      (s.dev.get (LANE_STAT_STATE n) ≠ 0 → d.LaneIs n 1 ∧ d.get (LANE_RXAMP_AMP n) = 0) ∧
      (2 ≤ s.dev.get (LANE_STAT_STATE n) → Emission.pin (.lane n) .idle ∈ d.out) ∧
      (s.dev.get (LANE_STAT_STATE n) = 0 → d.get (LANE_STAT_STATE n) = 0) ∧
      (s.dev.get (LANE_STAT_STATE n) = 6 → d.get (LANE_EVT_DOWN n) = 1 ∧ (g.val = 24 → d.get DPX_STAT_SDLUP = 0)) ∧
      (g.val < 24 → s.dev.Changes [.lane, .out] (Each (groupLanes g) fun m => [LANE_STAT m, LANE_EVT m, LANE_CNT1 m, LANE_RXAMP m,
        RING_EVT (m / 2), RING_CRC (m / 2) (m % 2)]) d) ∧
      s.dev.Changes [.lane, .saf, .out] (InAny [bLANE, bRING, bDPX, bSAF]) d)) ∧
  (∀ (s : State) (lines : List (List Int)) (bs : List (List RxBlock)) (y : Dev) (q : Nat)
    (u0 u1 u2 u3 : Bool) (k0 k1 k2 k3 : Nat), s.dev.held = false →
    (2 ≤ s.dev.get (LANE_STAT_STATE 96) → s.dev.get DPX_STAT_SDLUP = 0 ∨ s.dev.lane.peerUp = false ∨ s.dev.lane.sentUp < 4 →
      Runs .alignBlockSend .device s fun d => Emission.align s.dev.lane.txSeq (s.dev.is DPX_STAT_SDLUP) ∈ d.out ∧
        d.lane.txSeq = s.dev.lane.txSeq + 1 ∧ s.dev.Changes [.lane, .free, .out] (At []) d) ∧
    (s.dev.get (LANE_STAT_STATE 96) < 2 ∨ (s.dev.get DPX_STAT_SDLUP = 1 ∧ s.dev.lane.peerUp = true ∧ 4 ≤ s.dev.lane.sentUp) →
      Runs .alignBlockSend .device s fun d => d = s.dev) ∧
    (s.dev.solderIn lines = (bs, y) →
      (bs.map (fun l => l.head?.bind RxBlock.alignOf) = [some (q, u0), some (q, u1), some (q, u2), some (q, u3)] →
        (∀ n ∈ solderLanes, s.dev.get (LANE_STAT_STATE n) = 5) →
        (k0 ≤ 16 → k1 ≤ 16 → k2 ≤ 16 → k3 ≤ 16 →
          (s.dev.lane.rxSeq = some (BitVec.ofNat 8 q - 1) → Runs (.alignBlockReceive lines [k0, k1, k2, k3]) .partner s fun d =>
            (∀ n ∈ solderLanes, d.LaneIs n 6 ∧ d.get (LANE_EVT_UP n) = 1) ∧ d.get DPX_STAT_SDLUP = 1 ∧ d.get DPX_HEALTH_SDLUP = 1 ∧
            d.lane.peerUp = (u0 && u1 && u2 && u3) ∧ d.lane.sentUp = 0 ∧ s.dev.Changes [.lane, .saf] (InAny [bLANE, bDPX, bSAF]) d) ∧
          (s.dev.lane.rxSeq ≠ some (BitVec.ofNat 8 q - 1) → Runs (.alignBlockReceive lines [k0, k1, k2, k3]) .partner s fun d =>
            d.lane.rxSeq = some (BitVec.ofNat 8 q) ∧ d.lane.peerUp = (u0 && u1 && u2 && u3) ∧ d.get (LANE_STAT_SKEW 96) = k0 ∧
            d.get (LANE_STAT_SKEW 97) = k1 ∧ d.get (LANE_STAT_SKEW 98) = k2 ∧ d.get (LANE_STAT_SKEW 99) = k3 ∧
            s.dev.Changes [.lane] (Either (At solderRegs) (Each solderLanes fun n => [LANE_STAT n])) d)) ∧
        (16 < k3 → Runs (.alignBlockReceive lines [k0, k1, k2, k3]) .partner s fun d =>
          d.lane.rxSeq = none ∧ d.get (LANE_EVT_SKEWERR 99) = 1 ∧ d.get (LANE_STAT_SKEW 99) = min k3 255 ∧
          s.dev.Changes [.lane] (Either (At solderRegs) (Each solderLanes fun n => [LANE_STAT n])) d)) ∧
      ((∃ l ∈ bs, l.head?.bind RxBlock.alignOf = none) → Runs (.alignBlockReceive lines [k0, k1, k2, k3]) .partner s fun d =>
        d.get DPX_STAT_SDLUP = s.dev.get DPX_STAT_SDLUP ∧ s.dev.Changes [.lane] (At solderRegs) d)))

/-- R114, R123, R124: LANE_TXEQ_WRITE and LANE_RESTART. Coefficients in range are taken; others leave the register as it is and
set EQERR. A restart of a ring lane whose arm is BLOCKED resets its receiver, if the lane's PLL has locked; a restart of a
Solder lane in SOLO, SYNCING or WITNESS resets those of all four. Otherwise it is refused and posts the event LRSTREF. -/
def Obligations.LaneWrites : Prop := ∀ (s : State) (o : Origin) (n : Fin 100) (v : Word),
  (s.Reaches o (LANE_TXEQ n) →
    (v.toNat % 16 ≤ 8 ∧ v.toNat / 256 % 32 ≤ 16 ∧ v.toNat % 16 + v.toNat / 256 % 32 ≤ 20 →
      Comes (.laneTxeqWrite o n v) o s fun d => d.get (LANE_TXEQ_PRE n) = v.toNat % 16 ∧
        d.get (LANE_TXEQ_POST n) = v.toNat / 256 % 32 ∧ d.get (LANE_TXEQ_SWING n) = v.toNat / 2 ^ 16 % 16 ∧
        s.dev.Changes [.out] (At [LANE_TXEQ n]) d) ∧
    (8 < v.toNat % 16 ∨ 16 < v.toNat / 256 % 32 ∨ 20 < v.toNat % 16 + v.toNat / 256 % 32 →
      Comes (.laneTxeqWrite o n v) o s fun d => d.get (LANE_EVT_EQERR n) = 1 ∧ s.dev.Changes [.out] (At [LANE_EVT n]) d)) ∧
  (s.Lets o (LANE_CTRL n) → n.val < 96 →
    (s.dev.arm (s.dev.portArm (n.val / 2)) = .blocked → Comes (.laneRestart o n) o s fun d =>
      (2 ≤ s.dev.get (LANE_STAT_STATE n) → d.LaneIs n 2 ∧ d.get (LANE_STAT_LOS n) = 1 ∧ (d.line n).rxPrev = 0) ∧
      (s.dev.get (LANE_STAT_STATE n) < 2 → d.word (LANE_STAT n) = s.dev.word (LANE_STAT n)) ∧
      s.dev.Changes [.lane, .out] (At ([LANE_CTRL n, LANE_STAT n, LANE_EVT n, LANE_CNT1 n] ++ [RING_EVT (n / 2), RING_CRC (n / 2) (n % 2)])) d) ∧
    (s.dev.arm (s.dev.portArm (n.val / 2)) ≠ .blocked → Comes (.laneRestart o n) o s fun d => s.dev.Posts d 5 o ∧
      d.word (LANE_STAT n) = s.dev.word (LANE_STAT n) ∧ s.dev.Changes [.hif, .out] (At (LANE_CTRL n :: evtRegs)) d)) ∧
  (s.Lets o (LANE_CTRL n) → 96 ≤ n.val →
    (s.dev.role = .solo ∨ s.dev.role = .syncing ∨ s.dev.role = .witness → Comes (.laneRestart o n) o s fun d =>
      (∀ m ∈ solderLanes, 2 ≤ s.dev.get (LANE_STAT_STATE m) → d.LaneIs m 2 ∧ d.get (LANE_STAT_LOS m) = 1) ∧
      ((∃ m ∈ solderLanes, s.dev.get (LANE_STAT_STATE m) = 6) → d.get DPX_STAT_SDLUP = 0) ∧
      s.dev.Changes [.lane, .saf, .out] (InAny [bLANE, bDPX, bSAF]) d) ∧
    (s.dev.role = .active ∨ s.dev.role = .standby ∨ s.dev.role = .faulted → Comes (.laneRestart o n) o s fun d => s.dev.Posts d 5 o ∧
      s.dev.Changes [.hif, .out] (At (LANE_CTRL n :: evtRegs)) d))

/-! ### The control cycle (R33 to R63, R73 to R83, R181 to R250) -/

/-- R34, R35, R36, R59, R445, R489: with a timing that closes, no boundary scan and the dividers at their reset values,
CYCLE_TIMER_START sets RUNNING and fixes t₀(0): at the first whole microsecond of TB0 at least 2 µs later, at the boundary that
the partner's timer gives in a unit that takes its cycle from it, or by the first SYNC_IN edge in follow mode. A timing that
does not close sets PERERR. A timer that runs keeps EN. A stop request clears EN while every arm is BLOCKED, and otherwise is
discarded with the event CYCSTOP. R35, R158: the instant of t₀(0) is a whole microsecond of TB0, at least 2 µs and less than 3
µs away, or, within 3 µs of TB0's last value, 0. -/
def Obligations.CycleTimerStartStop : Prop :=
  (∀ (s : State) (o : Origin) (follow : Bool), s.Reaches o CYC_CTRL →
    (s.dev.running = false → s.dev.timing.closes = true → s.dev.divsAtReset = true → s.dev.boundaryScan = false →
      Comes (.cycleTimerStart o follow) o s fun d =>
        d.get CYC_STAT_RUNNING = 1 ∧ d.get CYC_CTRL_EN = 1 ∧ d.get CYC_CTRL_FOLLOW = (if follow then 1 else 0) ∧
        (s.dev.timedByPartner = false → follow = false → d.cyc.start = some (startInstant s.dev.time.tb0) ∧ d.cyc.waitEdge = false) ∧
        (s.dev.timedByPartner = false → follow = true → d.cyc.start = none ∧ d.cyc.waitEdge = true) ∧
        (s.dev.timedByPartner = true → d.cyc.start = s.dev.partnerStart.map (·.1) ∧ d.cyc.waitEdge = false) ∧
        d.cyc.inCycle = false ∧ d.loop.counts = List.replicate 16 0 ∧
        s.dev.Changes [.cyc, .loop, .arms, .ports, .sch, .out] (At [CYC_CTRL, CYC_STAT]) d) ∧
    (s.dev.running = false → s.dev.timing.closes = true → s.dev.divsAtReset = false ∨ s.dev.boundaryScan = true →
      Comes (.cycleTimerStart o follow) o s fun d => s.dev.Changes [.cyc, .out] (At []) d) ∧
    (s.dev.running = false → s.dev.timing.closes = false → Comes (.cycleTimerStart o follow) o s fun d =>
        d.get CYC_STAT_PERERR = 1 ∧ d.get CYC_STAT_RUNNING = 0 ∧ s.dev.Changes [.cyc, .out] (At [CYC_STAT]) d) ∧
    (s.dev.running = true → Comes (.cycleTimerStart o follow) o s fun d =>
        d.get CYC_CTRL_EN = 1 ∧ d.get CYC_CTRL_FOLLOW = (if follow then 1 else 0) ∧ s.dev.Changes [.cyc, .out] (At [CYC_CTRL]) d) ∧
    (s.dev.get CYC_CTRL_EN = 0 ∨ s.dev.allBlocked = true → Comes (.cycleTimerStopRequest o follow) o s fun d =>
        d.get CYC_CTRL_EN = 0 ∧ d.get CYC_CTRL_FOLLOW = (if follow then 1 else 0) ∧
        s.dev.Changes [.cyc, .out] (At [CYC_CTRL]) d) ∧
    (s.dev.get CYC_CTRL_EN = 1 → s.dev.allBlocked = false → Comes (.cycleTimerStopRequest o follow) o s fun d =>
        d.get CYC_CTRL_EN = 1 ∧ s.dev.Posts d 3 o ∧ s.dev.Changes [.hif, .out] (At evtRegs) d)) ∧
  (∀ t : BitVec 48,
    (t.toNat + 3000 * 2 ^ 16 ≤ 2 ^ 48 → (startInstant t).toNat % (1000 * 2 ^ 16) = 0 ∧ t.toNat + 2000 * 2 ^ 16 ≤ (startInstant t).toNat ∧
      (startInstant t).toNat < t.toNat + 3000 * 2 ^ 16) ∧
    (2 ^ 48 - 2000 * 2 ^ 16 - 296 * 2 ^ 16 < t.toNat → t.toNat ≤ 2 ^ 48 - 2000 * 2 ^ 16 → startInstant t = 0))

/-- R33, R35, R36, R37, R56: at CYCLE_BOUNDARY a running timer with EN = 1 begins the next cycle: its number is one more, its
t₀ lies one cycle length later, timing and lengths move up by one. The first cycle begins at its instant with the configured
number, or the partner's. With EN = 0 the timer stops there. -/
def Obligations.CycleBoundaryAdvances : Prop := ∀ (s : State) (t : BitVec 48), s.dev.held = false → s.dev.sch.aclkStopped = false →
  s.dev.running = true →
  (s.dev.cyc.inCycle = true → s.dev.get CYC_CTRL_EN = 1 → Runs .cycleBoundary .device s fun d =>
      d.word CYC_NUM = s.dev.word CYC_NUM + 1 ∧ d.word CYC_T0 = nsOf (plusNs s.dev.cyc.t0 s.dev.cyc.len0) ∧
      d.cyc.t0 = plusNs s.dev.cyc.t0 s.dev.cyc.len0 ∧ d.cyc.tm0 = s.dev.cyc.tm1 ∧ d.cyc.tm1 = s.dev.cyc.tm2 ∧
      d.cyc.len0 = s.dev.cyc.len1 ∧ d.cyc.len1 = s.dev.cyc.len2 ∧ d.cyc.tm2 = s.dev.timing ∧ d.cyc.inCycle = true ∧
      d.cyc.departed = false ∧ d.cyc.closed = false ∧ d.cyc.looped = false ∧ d.cyc.reloaded = false ∧ d.cyc.copied = false ∧
      s.dev.Changes [.time, .cyc, .arms, .aud, .saf, .sch, .ports, .rcd, .svc, .dpx, .diag, .hif, .loop, .out, .free]
        (InAny [bCYC, bTIM, bSCH, bREC, bDPX, bSAF, bHIF, bSVC, bDIAG, bAUD, bRST, bRING]) d) ∧
  (s.dev.cyc.inCycle = false → s.dev.get CYC_CTRL_EN = 1 → s.dev.cyc.start = some t → Runs .cycleBoundary .device s fun d =>
      (s.dev.timedByPartner = false → d.word CYC_NUM = s.dev.word CYC_NUMINIT) ∧
      (s.dev.timedByPartner = true → d.word CYC_NUM = s.dev.firstNumber t) ∧ d.cyc.t0 = t ∧ d.word CYC_T0 = nsOf t ∧ d.cyc.inCycle = true ∧
      d.cyc.tm0 = s.dev.timing ∧ d.cyc.tm1 = s.dev.timing ∧ d.cyc.len0 = s.dev.timing.tcyc ∧ d.cyc.len1 = s.dev.timing.tcyc ∧
      d.cyc.departed = false ∧ d.cyc.closed = false ∧
      s.dev.Changes [.time, .cyc, .arms, .aud, .saf, .sch, .ports, .rcd, .svc, .dpx, .diag, .hif, .loop, .out, .free]
        (InAny [bCYC, bTIM, bSCH, bREC, bDPX, bSAF, bHIF, bSVC, bDIAG, bAUD, bRST, bRING]) d) ∧
  (s.dev.cyc.inCycle = true ∨ s.dev.cyc.start = none → s.dev.get CYC_CTRL_EN = 0 → Runs .cycleBoundary .device s fun d =>
      d.get CYC_STAT_RUNNING = 0 ∧ d.cyc.inCycle = false ∧ d.word CYC_NUM = s.dev.word CYC_NUM ∧ d.cyc.start = none ∧
      s.dev.Changes [.time, .cyc, .ports, .aud, .out] (InAny [bCYC, bTIM, bRING, bRST, bAUD]) d)

/-- R36, R53, R64, R73, R74, R213: FRAME_DEPART sends F(k) from every port that sends cycle frames, on each end it drives whose
transmitter runs, once a cycle, and after an ACLK stop goes on. IDLE_FRAME_SEND sends one frame from each such end of a port in
use while the timer is stopped, and none while it runs. R51, R75, R77, R79, R108: of a line that brings one frame to a port
that evaluates cycle frames, the frame that passes the checks is accepted at its end, whose return time it gives; one that
fails is not, and its check counts. A line without a frame leaves every port as it is. R48, R52, R81, R83, R86, R88:
RETURN_DEADLINE closes reception for the cycle: a port that sent and misses a frame sets OVR, a cell in use that is not fresh
is stale. A qualified port sends UNWRAP in its next frame. -/
def Obligations.Frames : Prop :=
  (∀ (s : State) (p : Fin 48) (e : Nat), s.dev.held = false →
    (s.dev.sch.aclkStopped = false → s.dev.inCycle = true → s.dev.cyc.departed = false → Runs .frameDepart .device s fun d =>
        d.cyc.departed = true ∧
        (s.dev.portActive p = true → (d.port p).sent = true ∧ (e ∈ s.dev.ends p → 2 ≤ s.dev.get (LANE_STAT_STATE (2 * p + e)) →
          (p.val, e) ∈ d.out.filterMap Emission.frameAt)) ∧
        (s.dev.portActive p = false → (d.port p).sent = (s.dev.port p).sent) ∧
        s.dev.Changes [.time, .cyc, .ports, .arms, .lane, .dpx, .rcd, .free, .out] (InAny [bCYC, bTIM, bRING, bCELL, bDPX, bSCH, bREC]) d) ∧
    (s.dev.sch.aclkStopped = true → Runs .frameDepart .device s fun d => d.sch.stopFrames = s.dev.sch.stopFrames + 1 ∧
        (s.dev.portActive p = true → (d.port p).sent = true) ∧
        s.dev.Changes [.sch, .ports, .arms, .lane, .aud, .rcd, .free, .out] (InAny [bRING, bCELL, bSCH, bAUD]) d) ∧
    (s.dev.inUse p = true → s.dev.running = false → s.dev.time.on = true → s.dev.role ≠ .witness → s.dev.role ≠ .faulted →
      Runs (.idleFrameSend p) .device s fun d =>
        d.out.filterMap Emission.frameAt = ((s.dev.ends p).reverse.filter (fun e => decide (2 ≤ s.dev.get (LANE_STAT_STATE (2 * p + e))))).map
          (fun e => (p.val, e)) ++ s.dev.out.filterMap Emission.frameAt ∧ (d.port p).idleAt = some d.time.up ∧
        (∀ q ∈ ringPorts, q ≠ p.val → d.port q = s.dev.port q) ∧ s.dev.Changes [.ports, .lane, .time, .free, .out] (At [TIM_WRAP]) d) ∧
    (s.dev.inUse p = false ∨ s.dev.running = true ∨ s.dev.role = .witness ∨ s.dev.role = .faulted → Runs (.idleFrameSend p) .device s fun d =>
      d = s.dev)) ∧
  (∀ (s : State) (p : Fin 48) (e : Fin 2) (line : List Int) (f : Frame) (x : Dev) (ret : Nat),
    s.dev.held = false → s.dev.sch.aclkStopped = false →
    (s.dev.framesIn (2 * p + e) line = ([f], x) → s.dev.receives p e = true → s.dev.checkFrame p e f ret = none →
      Runs (.frameReceive p e line ret) .device s fun d => (d.port p).acc e = true ∧
        (if e.val = 0 then (d.port p).ret0 else (d.port p).ret1) = ret ∧ (∀ q ∈ ringPorts, q ≠ p.val → d.port q = s.dev.port q) ∧
        (s.dev.duplex = false → d.dpx = s.dev.dpx) ∧
        s.dev.Changes [.lane, .ports, .rcd, .dpx] (Either (At (laneRegs (2 * p + e))) (InAny [bCYC, bRING, bCELL, bDPX])) d) ∧
    (s.dev.framesIn (2 * p + e) line = ([f], x) → s.dev.receives p e = true → f.headerOk = false → Runs (.frameReceive p e line ret) .device s fun d =>
      d.get (RING_EVT_CRC p) = 1 ∧ s.dev.Counted d (RING_CRC_HCRC p e) ∧ d.ports = s.dev.ports ∧
      s.dev.Changes [.lane] (At ([RING_EVT p, RING_CRC p e] ++ laneRegs (2 * p + e))) d) ∧
    (s.dev.framesIn (2 * p + e) line = ([f], x) → s.dev.receives p e = true → (s.dev.checkFrame p e f ret).isSome = true →
      Runs (.frameReceive p e line ret) .device s fun d => d.ports = s.dev.ports ∧
        s.dev.Changes [.lane] (Either (At (laneRegs (2 * p + e))) (InAny [bRING])) d) ∧
    (s.dev.framesIn (2 * p + e) line = ([], x) → Runs (.frameReceive p e line ret) .device s fun d => d.ports = s.dev.ports ∧
      s.dev.Changes [.lane] (At (laneRegs (2 * p + e))) d)) ∧
  (∀ (s : State) (p : Fin 48) (i : Fin 128), s.dev.held = false →
    (s.dev.inCycle = true → s.dev.cyc.closed = false → Runs .returnDeadline .device s fun d =>
      d.cyc.closed = true ∧ d.word CYC_NUM = s.dev.word CYC_NUM ∧ (s.dev.missed p ≠ [] → d.get CYC_STAT_OVR = 1 ∧ d.get (RING_EVT_MISS p) = 1) ∧
      (s.dev.inUse p = true → i.val < (s.dev.port p).discovered → s.dev.isFresh p i = false → d.get (CELL_W0C_STALE (128 * p + i)) = 1 ∧
        s.dev.Counted d (CELL_W0C_STALERUN (128 * p + i))) ∧
      s.dev.Changes [.time, .cyc, .ports, .saf, .dpx, .rcd, .out] (InAny [bCYC, bTIM, bRING, bCELL, bSAF, bDPX, bARM]) d) ∧
    (s.dev.get (RING_CTRL_UNWRAPDLY p) ≠ 0 → 16 * s.dev.get (RING_CTRL_UNWRAPDLY p) ≤ (s.dev.port p).qual →
      (s.dev.port p).unwrap = 0 → Runs (.unwrapQualified p) .device s fun d =>
        (d.port p).unwrap = 1 ∧ (∀ q ∈ ringPorts, q ≠ p.val → d.port q = s.dev.port q) ∧ s.dev.Changes [.ports] (At []) d) ∧
    (s.dev.get (RING_CTRL_UNWRAPDLY p) = 0 ∨ (s.dev.port p).qual < 16 * s.dev.get (RING_CTRL_UNWRAPDLY p) → Runs (.unwrapQualified p) .device s fun d =>
        d = s.dev))

/-- R38, R54, R181, R183, R205, R208, R216, R218, R232, R311: the compute phases of a cycle run once each, in their order.
ARM_SORT of an arm with cells records its time, or is late beyond its reservation; LOOP_PHASE, RELOAD and SCHEDULE_COPY mark
the cycle; RELOAD makes consistent references active; late phases set PHLATE and count. R249: a write of LOOP_GCLR keeps the
group bits for the next loop phase. -/
def Obligations.CyclePhases : Prop :=
  (∀ (s : State) (a : Fin 12) (p : Fin 48) (ns stall : Nat) (drained : List Nat), s.dev.held = false →
    s.dev.inCycle = true →
    (s.dev.sortDue a = true → s.dev.armCells a ≠ [] →
      (ns ≤ s.dev.cyc.tm0.sort → Runs (.armSort a ns) .device s fun d =>
        d.cyc.sorted.getLsbD a = true ∧ d.get (ARM_SORTT_LAST a) = min ns 0xFFFF ∧ (d.armCtl a).iprev = some (s.dev.armCurrent a) ∧
        s.dev.Changes [.time, .cyc, .arms, .free, .saf, .rcd] (InAny [bTIM, bARM, bCELL, bLOOP, bSAF]) d) ∧
      (s.dev.cyc.tm0.sort < ns → Runs (.armSort a ns) .device s fun d =>
        d.cyc.sorted.getLsbD a = true ∧ d.get CYC_STAT_PHLATE = 1 ∧ s.dev.Counted d CYC_LATEPH_SORT ∧ (d.armCtl a).sortLate = true ∧
        s.dev.Changes [.time, .cyc, .arms, .rcd] (At [TIM_WRAP, CYC_STAT, CYC_LATEPH]) d) ∧
      (Runs (.sortLate a) .device s fun d =>
        d.cyc.sorted.getLsbD a = true ∧ d.get CYC_STAT_PHLATE = 1 ∧ s.dev.Counted d CYC_LATEPH_SORT ∧ (d.armCtl a).sortLate = true ∧
        s.dev.Changes [.time, .cyc, .arms, .rcd] (At [TIM_WRAP, CYC_STAT, CYC_LATEPH]) d)) ∧
    (s.dev.cyc.closed = true → s.dev.cyc.looped = false → s.dev.cyc.reloaded = false → Runs (.loopPhase stall) .device s fun d =>
        d.cyc.looped = true ∧ (s.dev.shadowing = false → d.loop.gclr = 0) ∧
        s.dev.Changes [.time, .cyc, .loop, .rcd, .free, .sch, .hif, .out, .adc, .dpx, .arms, .saf]
          (InAny [bCYC, bTIM, bLOOP, bSCH, bHIF, bDPX, bARM, bCELL, bSAF]) d) ∧
    (s.dev.cyc.reloaded = false → Runs (.reload drained) .device s fun d =>
      d.cyc.reloaded = true ∧ (s.dev.get (SCH_TAGS_TVREF a) = s.dev.get (SCH_TAGS_TVOFS a) →
        (d.armCtl a).vref = s.dev.word (SCH_VREF a) ∧ (d.armCtl a).vofs = s.dev.word (SCH_VOFS a)) ∧
      d.sch.epoch = (s.dev.word HIF_EPOCH).setWidth 16 ∧
      s.dev.Changes [.time, .cyc, .arms, .sch, .rcd, .hif, .mem, .dpx, .free, .out]
        (InAny [bCYC, bTIM, bSCH, bREC, bHIF, bCELL, bDPX, bARM, bLOOP]) d) ∧
    (s.dev.cyc.reloaded = true → s.dev.cyc.copied = false →
      (Runs .scheduleCopy .device s fun d => d.cyc.copied = true ∧
        (s.dev.follower = false → s.dev.inUse p = true → (d.port p).buf = (s.dev.portCells p).map (cmdOf s.dev.sch.cmds) ∧
          (d.port p).bufEpoch = s.dev.sch.epoch) ∧
        s.dev.Changes [.time, .cyc, .ports, .dpx] (InAny [bTIM, bCELL, bDPX]) d) ∧
      (s.dev.armCells a ≠ [] → (s.dev.armCtl a).schedLate = false → Runs (.scheduleLate a) .device s fun d =>
          (d.armCtl a).schedLate = true ∧ d.get CYC_STAT_PHLATE = 1 ∧
          s.dev.Counted d CYC_LATEPH_SCH ∧ s.dev.Changes [.time, .sch, .arms, .rcd] (At [TIM_WRAP, CYC_STAT, CYC_LATEPH]) d))) ∧
  (∀ (s : State) (o : Origin) (v : Word), s.Reaches o LOOP_GCLR →
    Comes (.loopGclrWrite o v) o s fun d => d.loop.gclr = s.dev.loop.gclr ||| v.setWidth 16 ∧ s.dev.Changes [.loop, .out] (At []) d)

/-- R58 to R62: a rising edge of SYNC_IN within the window is accepted: its error is recorded and MISSRUN is 0; an edge for
which the timer waits fixes its first boundary, T_cyc after its corrected time. SYNCLOSS sets its flag after 8 cycles without
an accepted edge. -/
def Obligations.SyncInFollowing : Prop := ∀ (s : State) (t : BitVec 48), s.dev.held = false → s.dev.following = true →
  (s.dev.cyc.waitEdge = true → Runs (.syncInEdge t) .device s fun d =>
    d.cyc.waitEdge = false ∧
    d.cyc.start = some (plusNs (((t >>> 16) <<< 16) - BitVec.ofNat 48 (s.dev.get CYC_SYNCIN_INDLY * 2 ^ 16)) s.dev.timing.tcyc) ∧
    s.dev.Changes [.time, .cyc] (At [TIM_WRAP]) d) ∧
  (s.dev.cyc.waitEdge = false → s.dev.cyc.inCycle = true → s.dev.cyc.edge = false →
    (nsBetween (((t >>> 16) <<< 16) - BitVec.ofNat 48 (s.dev.get CYC_SYNCIN_INDLY * 2 ^ 16)) s.dev.cyc.t0).natAbs ≤ s.dev.get CYC_SYNCCFG_WIN →
    Runs (.syncInEdge t) .device s fun d => d.cyc.edge = true ∧ d.get CYC_SYNCERR_MISSRUN = 0 ∧
      d.getS CYC_SYNCERR_ERR = nsBetween (((t >>> 16) <<< 16) - BitVec.ofNat 48 (s.dev.get CYC_SYNCIN_INDLY * 2 ^ 16)) s.dev.cyc.t0 ∧
      s.dev.Changes [.time, .cyc] (At [TIM_WRAP, CYC_SYNCERR, CYC_STAT]) d) ∧
  (8 ≤ s.dev.get CYC_SYNCERR_MISSRUN → Runs .syncloss .device s fun d =>
    d.get CYC_STAT_SYNCLOSS = 1 ∧ s.dev.Changes [] (At [CYC_STAT]) d) ∧
  (s.dev.get CYC_SYNCERR_MISSRUN < 8 → Runs .syncloss .device s fun d => d = s.dev)

/-! ### What the operations of a cycle compute -/

/-- Cell i of port p holds the sample u (VCAP, AUX, STAT, TERR), fresh, of a cycle and from a source of R80. -/
abbrev Sys2Proof.Machine.Dev.Sampled (d : Dev) (p i : Nat) (cyc : Word) (src : Nat) (u : Nat × Nat × Nat × Nat) : Prop :=
  d.isFresh p i = true ∧ d.word (CELL_W00 (128 * p + i)) = dw (u.2.1 * 2 ^ 16 + u.1) ∧
  d.word (CELL_W04 (128 * p + i)) = dw (u.2.2.2 * 2 ^ 16 + u.2.2.1) ∧ d.word (CELL_W08 (128 * p + i)) = cyc ∧
  d.get (CELL_W0C_STALE (128 * p + i)) = 0 ∧ d.get (CELL_W0C_STALERUN (128 * p + i)) = 0 ∧ d.get (CELL_W0C_SRC (128 * p + i)) = src

/-- R80, R82: committing a slot makes the cell fresh: its entry takes VCAP, AUX, STAT and TERR, the cycle, STALE and STALERUN 0
and the source: the end at which an accepted unwrapped frame came plus 1, or 3 for a slot that the partner relayed in time. -/
def Obligations.SampleCommits : Prop := ∀ (s : State) (p : Fin 48) (e : Fin 2) (line : List Int) (f : Frame) (y : Dev) (ret : Nat) (i : Fin 128)
  (x : BitVec 128) (lines : List (List Int)) (m : SolderIn) (u : Nat × Nat × Nat × Nat), s.dev.held = false → s.dev.isFresh p i = false →
  (s.dev.sch.aclkStopped = false → s.dev.framesIn (2 * p + e) line = ([f], y) → s.dev.receives p e = true →
    s.dev.checkFrame p e f ret = none → s.dev.perturbed .slot = false →
    f.wrap = 0 → f.slots[i.val]? = some x → bitsOf x.toNat 15 0 = slotCrc x.toNat → bitsOf x.toNat 47 47 = 1 →
    Runs (.frameReceive p e line ret) .device s fun d =>
      d.Sampled p i s.dev.cycle (e + 1) (bitsOf x.toNat 79 64, bitsOf x.toNat 63 48, bitsOf x.toNat 47 32, bitsOf x.toNat 31 16)) ∧
  (s.dev.solderTake 3 lines 0 = ([m], y) → leAt m.bytes 0 1 = p.val → dw (leAt m.bytes 8 4) = s.dev.cycle → (i.val, u) ∈ relaySlots m.bytes →
    s.dev.portActive p = true → s.dev.running = true → s.dev.cyc.inCycle = true → s.dev.cyc.closed = false →
    s.dev.phaseNs ≤ s.dev.closesAt p → i.val < (s.dev.port p).discovered → Runs (.relayReceive lines) .partner s fun d =>
      d.Sampled p i s.dev.cycle 3 u ∧ (∀ q ∈ ringPorts, q ≠ p.val → d.port q = s.dev.port q) ∧
      s.dev.Changes [.ports, .lane, .dpx] (Either (At solderRegs) (Each (List.range 128) fun i =>
        [CELL_W00 (128 * p + i), CELL_W04 (128 * p + i), CELL_W08 (128 * p + i), CELL_W0C (128 * p + i)])) d)

/-- R199: of two ranked cells of an arm with equal class and key, the one with the lower arm-local index comes first. Of two
cells of different classes the one of class A, then B, then C comes first; of two of one class the one with the lower key
(R197): the lower predicted voltage while the arm charges, the higher one while it discharges. -/
def Obligations.RankingOrder : Prop := ∀ (d : Dev) (a : Fin 12) (ik ip : Int) (x y : Nat), x ∈ d.rankedCells a → y ∈ d.rankedCells a →
  (d.armCells a).Nodup → (d.armCells a).length ≤ 1024 →
  ((d.rankArm a ik ip).get (CELL_W3C_CLS x) = (d.rankArm a ik ip).get (CELL_W3C_CLS y) →
    d.getS (CELL_W20_VPRED x) = d.getS (CELL_W20_VPRED y) → d.get (CELL_W1C_LIDX x) < d.get (CELL_W1C_LIDX y) →
    (d.rankArm a ik ip).get (CELL_W3C_RANK x) < (d.rankArm a ik ip).get (CELL_W3C_RANK y)) ∧
  ((d.rankArm a ik ip).get (CELL_W3C_CLS x) < (d.rankArm a ik ip).get (CELL_W3C_CLS y) →
    (d.rankArm a ik ip).get (CELL_W3C_RANK x) < (d.rankArm a ik ip).get (CELL_W3C_RANK y)) ∧
  ((d.rankArm a ik ip).get (CELL_W3C_CLS x) = (d.rankArm a ik ip).get (CELL_W3C_CLS y) →
    (if (d.rankArm a ik ip).get (ARM_STAT_DIR a) = 1 then d.getS (CELL_W20_VPRED x) < d.getS (CELL_W20_VPRED y)
      else d.getS (CELL_W20_VPRED y) < d.getS (CELL_W20_VPRED x)) →
    (d.rankArm a ik ip).get (CELL_W3C_RANK x) < (d.rankArm a ik ip).get (CELL_W3C_RANK y))

/-- The state that a command holds in unit u of its window (R69), for the commands with two states. -/
def Sys2Proof.Machine.CellCmd.stateAt (c : CellCmd) (u : Nat) : Nat :=
  if c.edge1 ≤ u ∧ u < c.edge2 then c.mode % 4 else c.mode / 4

/-- R223, R224, R226, R227, R69: the placement of pulses. In carrier mode a width w of a window W is inserted in the W-cyclic
interval of w units that begins w/2 before the trough. In nearest-level mode the split of the reference into whole cells and a
fine width leaves no pulse and no gap below the minimum, takes no more cells than there are, and misses the reference by less
than a minimum pulse. -/
def Obligations.PulsePlacement : Prop :=
  (∀ (win w phi ins u : Nat), 0 < w → w < win → win ≤ noEdge → phi < win → ins = 1 ∨ ins = 2 → u < win →
    (carrierCmd win ins phi w).stateAt u = (if (u + win - (phi + win - w / 2) % win) % win < w then ins else 0)) ∧
  (∀ (nq win m nrank : Nat), 16 ≤ win → nq ≤ nrank * 2 ^ 16 →
    (nearestSplit nq win (minPulse m win)).1 ≤ nrank ∧
    ((nearestSplit nq win (minPulse m win)).2 = 0 ∨ (minPulse m win ≤ (nearestSplit nq win (minPulse m win)).2 ∧
      (nearestSplit nq win (minPulse m win)).2 + minPulse m win ≤ win ∧ (nearestSplit nq win (minPulse m win)).1 < nrank)) ∧
    2 ^ 16 * ((nearestSplit nq win (minPulse m win)).1 * win + (nearestSplit nq win (minPulse m win)).2) < nq * win + 2 ^ 16 * minPulse m win ∧
    nq * win < 2 ^ 16 * ((nearestSplit nq win (minPulse m win)).1 * win + (nearestSplit nq win (minPulse m win)).2) + 2 ^ 16 * minPulse m win)

/-- R235, R236, R237, R238: the engine's arithmetic. A sum of products comes back as a Q7.24 value; with no saturation it is
the exact sum rounded to the nearest, halves up, and none is reported while every partial sum fits. A compensator with limits
leaves its output within them, keeps it as y1, and shifts its inputs. -/
def Obligations.EngineArithmetic : Prop :=
  (∀ (l : List (Int × Int)), -2 ^ 31 ≤ (dot l).1 ∧ (dot l).1 < 2 ^ 31 ∧
    ((dot l).2 = false → 2 ^ 28 * (dot l).1 ≤ (l.map fun c => c.1 * c.2).sum + 2 ^ 27 ∧
      (l.map fun c => c.1 * c.2).sum + 2 ^ 27 < 2 ^ 28 * ((dot l).1 + 1)) ∧
    ((∀ n ≤ l.length, -2 ^ 63 ≤ ((l.take n).map fun c => c.1 * c.2).sum ∧ ((l.take n).map fun c => c.1 * c.2).sum < 2 ^ 63) →
      -2 ^ 59 ≤ (l.map fun c => c.1 * c.2).sum → (l.map fun c => c.1 * c.2).sum < 2 ^ 59 - 2 ^ 27 → (dot l).2 = false)) ∧
  (∀ (d : Dev) (i : Fin 128), d.get (LOOP_CCFG_AW i) = 1 ∨ d.get (LOOP_CCFG_AW i) = 2 → d.is (LOOP_CCFG_WRAP i) = false →
    d.is (LOOP_CCFG_LOSLOT i) = false → d.is (LOOP_CCFG_HISLOT i) = false → (d.word (LOOP_CLO i)).toInt ≤ (d.word (LOOP_CHI i)).toInt →
    (d.word (LOOP_CLO i)).toInt ≤ (d.compRun i).slot (256 + i) ∧ (d.compRun i).slot (256 + i) ≤ (d.word (LOOP_CHI i)).toInt ∧
    (d.compRun i).cy i 0 = (d.compRun i).slot (256 + i) ∧ (d.compRun i).cy i 1 = d.cy i 0 ∧ (d.compRun i).cy i 2 = d.cy i 1 ∧
    (d.compRun i).cx i 1 = d.cx i 0 ∧ (d.compRun i).cx i 2 = d.cx i 1 ∧
    d.Changes [] (At ([LOOP_EVT, LOOP_SLOT (256 + i), LOOP_CSAT (i / 32)] ++ [LOOP_CX i 0, LOOP_CX i 1, LOOP_CX i 2] ++
      [LOOP_CY i 0, LOOP_CY i 1, LOOP_CY i 2])) (d.compRun i))

/-! ### Discovery (R90 to R98, R383) -/

/-- R90, R377, R383: a discovery request starts ENUM on a port where none runs, from the lowest end that the port drives, while
the port's arm is BLOCKED and the unit may lead discovery; otherwise it is refused with DISCREF. While an epoch is applied it
waits, and starts, or is refused, after the last group. Where discovery runs already, it goes on. R91, R92, R93, R327: once its
lanes have locked, a pass sends its frame from its end and counts the attempt. 1 ms without an accepted frame ends an attempt:
the pass is tried up to three times and then ends the discovery, with BREAK where an end has been enumerated already in ENUM
and TIMEOUT otherwise; a lane without lock for 100 ms ends it with NOLOCK. Then DISCFAIL is set and the port has no discovered
cells. A unit that does not lead sends what its partner asks for. A discovery frame that another device end sent is turned.
R91, R92, R93, R97, R98, R166: a frame that the pass waits for takes the discovery on. The first ENUM frame, turned by a cell
before it passed every cell configured, gives its end's count, and ENUM goes on from the other end; one that passed all of
them, whose declarations hold, begins DELAY. A DELAY frame after which no end is left begins LOAD. A LOAD frame that ends it,
every cell having echoed its bits, ends the discovery: OK, DISCDONE, and the cells found are discovered. A frame that fails the
checks changes nothing but the port's error counters. -/
def Obligations.Discovery : Prop :=
  (∀ (s : State) (o : Origin) (p : Fin 48),
    (s.Lets o (RING_CTRL p) → (s.dev.port p).disc = none → s.dev.arm (s.dev.portArm p) = .blocked → s.dev.discBarred = false →
      s.dev.epState ≠ .applying → Comes (.ringDiscover o p) o s fun d =>
        (d.port p).disc.map (fun x => (x.pass, x.end_, x.attempt, x.sent, x.lock, x.origin)) =
          some (0, (s.dev.ends p).headD 0, 0, none, s.dev.ends p, o) ∧
        d.get (RING_STAT_DISCBUSY p) = 1 ∧ d.get (RING_DISC_PASS p) = 0 ∧ (∀ q ∈ ringPorts, q ≠ p.val → d.port q = s.dev.port q) ∧
        s.dev.Changes [.ports, .arms, .lane, .saf, .ep, .hif, .out] (InAny [bRING, bLANE, bCELL, bSAF, bHIF]) d) ∧
    (s.Lets o (RING_CTRL p) → s.dev.discRefused p = true → Comes (.ringDiscover o p) o s fun d => s.dev.Posts d 4 o ∧
        s.dev.Changes [.hif, .out] (At evtRegs) d) ∧
    (s.Lets o (RING_CTRL p) → (s.dev.port p).disc = none → s.dev.discRefused p = false → s.dev.epState = .applying →
      Comes (.ringDiscover o p) o s fun d => (d.port p).disc = none ∧ (d.port p).discWait = some o ∧
        (∀ q ∈ ringPorts, q ≠ p.val → d.port q = s.dev.port q) ∧ s.dev.Changes [.ports, .arms, .lane, .saf, .ep, .hif, .out] (InAny [bRING, bLANE, bCELL, bSAF, bHIF]) d) ∧
    (s.Lets o (RING_CTRL p) → (s.dev.port p).disc.isSome = true → Comes (.ringDiscover o p) o s fun d =>
        (d.port p).disc = (s.dev.port p).disc ∧ s.dev.Changes [.ports, .arms, .lane, .saf, .ep, .hif, .out] (InAny [bRING, bLANE, bCELL, bSAF, bHIF]) d) ∧
    (s.dev.held = false → s.dev.epState ≠ .applying → (s.dev.port p).discWait = some o → (s.dev.port p).disc = none →
      Runs .discoveryDeferredStart .device s fun d => (d.port p).discWait = none ∧
        (s.dev.discRefused p = true → (d.port p).disc = none ∧ d.get (RING_STAT_DISCBUSY p) = s.dev.get (RING_STAT_DISCBUSY p)) ∧
        (s.dev.discRefused p = false → (d.port p).disc.map (fun x => (x.pass, x.end_, x.attempt, x.sent, x.lock, x.origin)) =
          some (0, (s.dev.ends p).headD 0, 0, none, s.dev.ends p, o) ∧ d.get (RING_STAT_DISCBUSY p) = 1) ∧
        (∀ q ∈ ringPorts, (s.dev.port q).discWait = none → d.port q = s.dev.port q) ∧
        s.dev.Changes [.ports, .ep, .hif, .out] (InAny [bRING, bHIF]) d) ∧
    (s.dev.held = false → s.dev.epState = .applying → Runs .discoveryDeferredStart .device s fun d => d = s.dev)) ∧
  (∀ (s : State) (p : Fin 48) (e : Fin 2) (x : Disc) (line : List Int) (f : Frame) (y : Dev) (r t : Nat)
    (k : Fin 3) (n : Nat) (loads : List (BitVec 48)), s.dev.held = false →
    ((s.dev.port p).disc = some x → x.lock = [] → x.end_ = e.val → x.sent = none → x.attempt < 3 → s.dev.framesOn = true →
      Runs (.discoveryPass p e none) .device s fun d =>
        (d.port p).disc = some { x with sent := some s.dev.time.cio, attempt := x.attempt + 1 } ∧ d.get (RING_DISC_PASS p) = x.pass % 16 ∧
        (2 ≤ s.dev.get (LANE_STAT_STATE (2 * p + e)) → d.out.filterMap Emission.frameAt = (p.val, e.val) :: s.dev.out.filterMap Emission.frameAt) ∧
        (∀ q ∈ ringPorts, q ≠ p.val → d.port q = s.dev.port q) ∧ s.dev.Changes [.ports, .lane, .free, .out] (At [RING_DISC p]) d) ∧
    ((s.dev.port p).disc = none → Runs (.discoveryPass p e none) .device s fun d => d = s.dev) ∧
    (s.dev.paired = true → s.dev.timeRef = false → s.dev.inUse p = true → s.dev.get (RING_CTRL_DPX p) = 1 →
      s.dev.get (RING_CTRL_OWNEND p) = e.val → s.dev.framesOn = true → Runs (.discoveryPass p e (some (k, n, loads))) .device s fun d =>
        (d.port p).asked = some (k.val, n) ∧
        (2 ≤ s.dev.get (LANE_STAT_STATE (2 * p + e)) → d.out.filterMap Emission.frameAt = (p.val, e.val) :: s.dev.out.filterMap Emission.frameAt) ∧
        (∀ q ∈ ringPorts, q ≠ p.val → d.port q = s.dev.port q) ∧ s.dev.Changes [.ports, .lane, .free, .out] (At []) d) ∧
    ((s.dev.port p).disc = some x → x.sent = some t → x.attempt < 3 → Runs (.discoveryPassTimeout p) .device s fun d =>
        (d.port p).disc = some { x with sent := none } ∧ t + passNs ≤ d.time.cio ∧
        (∀ q ∈ ringPorts, q ≠ p.val → d.port q = s.dev.port q) ∧ s.dev.Changes [.ports, .time] (At [TIM_WRAP]) d) ∧
    ((s.dev.port p).disc = some x → x.sent = some t → 3 ≤ x.attempt → Runs (.discoveryPassTimeout p) .device s fun d =>
        (d.port p).disc = none ∧ d.get (RING_DISC_RES p) = (if x.pass = 0 ∧ (x.leg0.isSome ∨ x.leg1.isSome) then 5 else 3) ∧
        d.get (RING_STAT_DISCBUSY p) = 0 ∧ d.get (RING_EVT_DISCFAIL p) = 1 ∧ (d.port p).discovered = 0 ∧ t + passNs ≤ d.time.cio ∧
        (∀ q ∈ ringPorts, q ≠ p.val → d.port q = s.dev.port q) ∧ s.dev.Changes [.ports, .arms, .time] (InAny [bRING, bCELL, bTIM]) d) ∧
    ((s.dev.port p).disc.bind (·.sent) = none → Runs (.discoveryPassTimeout p) .device s fun d => d = s.dev) ∧
    ((s.dev.port p).disc = some x → x.lock ≠ [] → Runs (.discoveryNolock p) .device s fun d => (d.port p).disc = none ∧
        d.get (RING_DISC_RES p) = 2 ∧ d.get (RING_STAT_DISCBUSY p) = 0 ∧ d.get (RING_EVT_DISCFAIL p) = 1 ∧ (d.port p).discovered = 0 ∧
        x.since + lockNs ≤ d.time.cio ∧ (∀ q ∈ ringPorts, q ≠ p.val → d.port q = s.dev.port q) ∧
        s.dev.Changes [.ports, .arms, .time] (InAny [bRING, bCELL, bTIM]) d) ∧
    ((∀ x, (s.dev.port p).disc = some x → x.lock = []) → Runs (.discoveryNolock p) .device s fun d => d = s.dev) ∧
    (s.dev.framesIn (2 * p + e) line = ([f], y) → s.dev.get (RING_CTRL_EN p) = 1 → f.type = 1 → f.dir ≠ e.val → f.headerOk = true →
      s.dev.framesOn = true → 2 ≤ s.dev.get (LANE_STAT_STATE (2 * p + e)) → Runs (.discoveryFrameTurn p e line r) .device s fun d =>
        Emission.frame p e s.dev.time.tb0 (turned f r) ∈ d.out ∧
        d.out.filterMap Emission.frameAt = (p.val, e.val) :: s.dev.out.filterMap Emission.frameAt ∧
        s.dev.Changes [.lane, .free, .out] (At (laneRegs (2 * p + e))) d) ∧
    (s.dev.framesIn (2 * p + e) line = ([f], y) → s.dev.get (RING_CTRL_EN p) = 0 ∨ f.type ≠ 1 ∨ f.dir = e.val ∨ f.headerOk = false →
      Runs (.discoveryFrameTurn p e line r) .device s fun d => s.dev.Changes [.lane] (At (laneRegs (2 * p + e))) d)) ∧
  (∀ (s : State) (p : Fin 48) (e : Fin 2) (line : List Int) (f : Frame) (y : Dev) (x : Disc) (l : DiscLeg)
    (rtt : Nat), s.dev.held = false →
    (s.dev.framesIn (2 * p + e) line = ([f], y) → (s.dev.port p).disc = some x →
      (discCheck p e x.pass (passSlots e x.ncfg) (x.done.contains e.val) f = none → x.end_ = e.val → x.sent.isSome = true →
        (x.pass = 0 → x.leg0 = none → x.leg1 = none → f.wrap = 1 → (DiscLeg.mk (some f.wpos) f.hops [] [] [] 0 0).count e x.ncfg ≠ x.ncfg →
          Runs (.discoveryFrameReceive p e line rtt) .device s fun d =>
            (d.port p).disc.map (fun x => (x.pass, x.end_, x.attempt, x.sent)) = some (0, 1 - e.val, 0, none) ∧
            s.dev.Changes [.ports, .lane] (At (laneRegs (2 * p + e))) d) ∧
        (x.pass = 0 → x.leg0 = none → x.leg1 = none → f.wrap = 1 → (DiscLeg.mk (some f.wpos) f.hops [] [] [] 0 0).count e x.ncfg = x.ncfg →
          s.dev.declared p ({ x with cells := x.ncfg }.setLeg e ⟨some f.wpos, f.hops, discRecs f, [], [], 0, 0⟩) = none →
          Runs (.discoveryFrameReceive p e line rtt) .device s fun d =>
            (d.port p).disc.map (fun x => (x.pass, x.end_, x.attempt, x.sent, x.cells)) = some (1, e.val, 0, none, x.ncfg) ∧
            s.dev.Changes [.ports, .lane] (At (laneRegs (2 * p + e))) d) ∧
        (x.pass = 1 → x.leg e = some l → (e.val = 1 ∨ x.leg1 = none) → Runs (.discoveryFrameReceive p e line rtt) .device s fun d =>
            (d.port p).disc.map (fun x => (x.pass, x.attempt, x.sent, x.links)) =
              some (2, 0, none, (x.setLeg e { l with delays := discRecs f, rtt := rtt, turn := f.turn }).linkDelays.1) ∧
            s.dev.Changes [.ports, .lane] (At ([TIM_EVT, TIM_DLYSAT_LO, TIM_DLYSAT_HI] ++ laneRegs (2 * p + e))) d) ∧
        (x.pass = 2 → x.leg e = some l → (e.val = 1 ∨ x.leg1 = none) →
          (∀ i < x.cells, (x.setLeg e { l with echo := discRecs f }).badEcho 0 i = false ∧
            (x.setLeg e { l with echo := discRecs f }).badEcho 1 i = false) →
          Runs (.discoveryFrameReceive p e line rtt) .device s fun d =>
            (d.port p).disc = none ∧ (d.port p).discovered = x.cells ∧ d.get (RING_DISC_RES p) = 1 ∧ d.get (RING_EVT_DISCDONE p) = 1 ∧
            d.get (RING_STAT_DISCBUSY p) = 0 ∧ (∀ q ∈ ringPorts, q ≠ p.val → d.port q = s.dev.port q) ∧
            s.dev.Changes [.ports, .arms, .lane] (Either (At (laneRegs (2 * p + e))) (InAny [bRING, bCELL])) d)) ∧
      ((discCheck p e x.pass (passSlots e x.ncfg) (x.done.contains e.val) f).isSome = true →
        Runs (.discoveryFrameReceive p e line rtt) .device s fun d => d.ports = s.dev.ports ∧
          s.dev.Changes [.lane] (At ([RING_EVT p, RING_CRC p e, RING_SEQDUP p e, RING_HOPWRAP p e, RING_MISSLATE p e] ++ laneRegs (2 * p + e))) d)) ∧
    (s.dev.framesIn (2 * p + e) line = ([], y) → Runs (.discoveryFrameReceive p e line rtt) .device s fun d => d.ports = s.dev.ports ∧
      s.dev.Changes [.lane] (At (laneRegs (2 * p + e))) d))

/-! ### Resets and bring-up (R456 to R473) -/

/-- R456, R457, R499: PORST_N brings every register to its reset value and stop the time bases, and so does the brown-out
monitor once VDD_CORE has lain below its trip level for more than 2 µs; the line or the monitor holds the device. R436, R460,
R499: once PORST_N and the monitor have both released, no reset holds the device, the entry into BOOT is in the audit queue and
the trim word of MRAM is loaded, mid-scale if it holds none; the monitor, which releases above its trip level and hysteresis,
shows in RST_CAUSE. -/
def Obligations.PowerReset : Prop :=
  (∀ (s : State) (uv ns : Nat),
    (Comes .porstNAssert .device s fun d => d.regs = [] ∧ d.rst.porstLow = true ∧ d.held = true ∧ d.time.on = false ∧ d.time.tb2 = 0 ∧
      d.aud.queue = [] ∧ d.svc.ready = [] ∧ d.free = s.dev.free) ∧
    (uv < tripLevel → 2000 < ns → Comes (.brownout uv ns) .device s fun d => d.regs = [] ∧ d.rst.brownLow = true ∧ d.rst.tripped = true ∧
      d.held = true ∧ d.time.on = false ∧ d.time.tb2 = 0 ∧ d.aud.queue = [] ∧ d.svc.ready = [] ∧ d.free = s.dev.free) ∧
    (tripLevel ≤ uv ∨ ns ≤ 2000 → Comes (.brownout uv ns) .device s fun d => d = s.dev)) ∧
  (∀ (s : State) (uv ns : Nat),
    (s.dev.rst.porstLow = true → s.dev.rst.brownLow = false → Comes .porstNRelease .device s fun d => d.held = false ∧ d.rst.deep = false ∧
      (d.aud.queue.drop s.dev.aud.queue.length).map (fun e => (e.kind, e.code)) = [(0x60, 1)] ∧
      (s.dev.rst.tripped = true → d.get RST_CAUSE_CAUSE = 2) ∧ d.get CLK_TRIM_TRIM = (s.nv.mram.trim.map (·.toNat)).getD 0x800000 ∧
      s.dev.Changes [.rst, .sec, .aud, .out] (At ([RST_CAUSE, CLK_TRIM] ++ audRegs)) d) ∧
    (s.dev.rst.brownLow = true → s.dev.rst.porstLow = false → tripLevel + 20000 < uv → 1000000 ≤ ns →
      Comes (.brownoutRelease uv ns) .device s fun d => d.held = false ∧ d.rst.deep = false ∧
        (d.aud.queue.drop s.dev.aud.queue.length).map (fun e => (e.kind, e.code)) = [(0x60, 1)] ∧
        (s.dev.rst.tripped = true → d.get RST_CAUSE_CAUSE = 2) ∧ d.get CLK_TRIM_TRIM = (s.nv.mram.trim.map (·.toNat)).getD 0x800000 ∧
        s.dev.Changes [.rst, .sec, .aud, .out] (At ([RST_CAUSE, CLK_TRIM] ++ audRegs)) d) ∧
    (s.dev.rst.porstLow = true → s.dev.rst.brownLow = true → Comes .porstNRelease .device s fun d => d.rst.porstLow = false ∧
      d.held = true ∧ s.dev.Changes [.rst] (At []) d))

/-- R457, R458: SRST_N and an accepted SWRST keep what the table of R457 keeps: the CLK block, TIM_TB1RATE, RST_DBREF,
TOP_SCRATCH, the link's HIF_STAT, the time bases, the guard test's result and DDR4; of the other registers named here, every
one returns to its reset value. RST_CAUSE says why. -/
def Obligations.SoftResetTable : Prop := ∀ (s : State) (o : Origin) (off : Nat),
  (s.dev.rst.porstLow = false → s.dev.rst.brownLow = false → Comes .srstNAssert .device s fun d => d.rst.srstLow = true ∧
    d.rst.internal = true ∧ d.held = true ∧ d.get RST_CAUSE_CAUSE = 3 ∧ d.get SAF_STAT_GTDONE = s.dev.get SAF_STAT_GTDONE ∧
    (InAny [bCLK] off ∨ At [TIM_TB1RATE, RST_DBREF, TOP_SCRATCH, HIF_STAT] off → d.word off = s.dev.word off) ∧
    (InAny [bCYC, bRING, bLANE, bARM, bSCH, bLOOP, bADC, bREC, bDPX, bSVC, bARB, bMEM, bSEC, bDIAG, bCELL] off →
      d.word off = resetWord off) ∧
    d.time.tb0 = s.dev.time.tb0 ∧ d.time.tb1 = s.dev.time.tb1 ∧ d.time.tb2 = s.dev.time.tb2 ∧ d.time.tb3 = s.dev.time.tb3 ∧
    d.mem.ddr = s.dev.mem.ddr ∧ d.clk = s.dev.clk) ∧
  (s.Reaches o RST_CTRL → swrstOrigin o = true → Comes (.swrst o) o s fun d => d.rst.internal = true ∧ d.held = true ∧
    d.get RST_CAUSE_CAUSE = 4 ∧ d.get RST_CAUSE_ORIGIN = o.code ∧
    (InAny [bCLK] off ∨ At [TIM_TB1RATE, RST_DBREF, TOP_SCRATCH, HIF_STAT] off → d.word off = s.dev.word off) ∧
    (InAny [bCYC, bRING, bLANE, bARM, bSCH, bLOOP, bADC, bREC, bDPX, bSVC, bARB, bMEM, bSEC, bDIAG, bCELL] off →
      d.word off = resetWord off) ∧ d.time.tb2 = s.dev.time.tb2 ∧ d.mem.ddr = s.dev.mem.ddr ∧ d.clk = s.dev.clk) ∧
  (s.dev.rst.internal = true → Comes .internalResetEnd .device s fun d => d.held = false ∧
    (s.dev.time.on = true → d.time.tb2 = plusNs s.dev.time.tb2 4000) ∧ s.dev.Changes [.time, .rst, .sec, .out] (At [TIM_WRAP]) d)

/-- R469, R470, R471, R460, R462: BOOT runs to a result, with the named codes for fuses, MRAM and flash that fail; BOOT_END
takes a result of 1 to CONFIG and any other to HALT with cause 7 and the FAIL demand. -/
def Obligations.BootEnds : Prop := ∀ (s : State) (x : BootInput) (res : Nat) (svns : List Nat), s.dev.held = false → s.dev.dstate = .boot →
  (s.dev.rst.boot = none → Runs (.boot x) .device s fun d => d.rst.boot.isSome = true ∧ d.get CLK_LSEN_UARTEN = 1 ∧
    d.get CLK_LSEN_SPIEN = 1 ∧ d.dstate = .boot ∧
    (x.fuses = false → d.rst.boot = some (0x10, []) ∧ d.get RST_BOOT_STEP = 1 ∧
      s.dev.Changes [.rst] (At [CLK_LSEN, MEM_STAT, RST_BOOT]) d) ∧
    (x.fuses = true → x.mram = false → d.rst.boot = some (0x16, []) ∧ d.get RST_BOOT_STEP = 2) ∧
    (x.fuses = true → x.mram = true → x.flash = none → d.rst.boot = some (0x11, []) ∧ d.get RST_BOOT_STEP = 2)) ∧
  (s.dev.rst.boot = some (res, svns) → res < 256 → Stores .bootEnd .device s fun nv d => d.get RST_BOOT_RESULT = res ∧ d.rst.boot = none ∧
    (res = 1 → d.dstate = .config ∧ d.get RST_BOOT_STEP = 0xFF ∧ nv = s.nv.raiseFloors svns) ∧
    (res ≠ 1 → d.dstate = .halt ∧ d.get RST_STAT_HCAUSE = 7 ∧ d.get SAF_STAT_FAIL = 1 ∧ nv = s.nv ∧
      s.dev.Changes [.rst, .arms, .aud, .saf, .rcd, .dpx] (InAny [bRST, bSCH, bSAF, bAUD]) d))

/-- R293, R460, R462: a fatal fault halts the device with its cause, blocks every arm and raises FAIL; a unit of a pair becomes
FAULTED. In BOOT and HALT it changes nothing. -/
def Obligations.FatalFaultHalts : Prop := ∀ (s : State) (c : Fin 5) (a : Fin 12), s.dev.held = false →
  (s.dev.dstate ≠ .boot → s.dev.dstate ≠ .halt → c.val ≠ 3 ∨ s.dev.role = .active → Runs (.fatalFault c) .device s fun d =>
    d.dstate = .halt ∧ d.get RST_STAT_HCAUSE = c.val + 1 ∧ d.get SAF_STAT_FAIL = 1 ∧ d.arm a ≠ .running ∧ d.arm a ≠ .deblocking ∧
    (s.dev.role = .active ∨ s.dev.role = .standby ∨ s.dev.role = .syncing → d.role = .faulted) ∧
    (s.dev.role = .solo → s.dev.Changes [.arms, .aud, .saf, .rcd, .dpx] (InAny [bRST, bSCH, bSAF, bAUD]) d)) ∧
  (s.dev.dstate = .boot ∨ s.dev.dstate = .halt → Runs (.fatalFault c) .device s fun d => d = s.dev)

/-- R90, R327, R383, R460: DEVICE_DISCOVER in CONFIG, with ports in use and every arm BLOCKED, starts discovery of every port
in use and enters DISCOVER; while an epoch applies, the port's discovery waits for its end. Under other conditions, or in a
unit that may not lead discovery, no discovery starts. When it has ended on every port, the device returns to CONFIG. R464,
R465: DEEP is entered from RING-IDLE in a SOLO unit that is in CONFIG or SYNC with no open epoch, DEEPEN = 1 and pair 0's next
known event at least DEEPMIN ms away. It stops the lanes and their PLLs and pairs 1 to 3. It is left 2 ms before pair 0's next
known event, with WAKE. -/
def Obligations.DiscoverAndDeep : Prop :=
  (∀ (s : State) (o : Origin) (p : Fin 48),
    (s.Reaches o RST_CTRL → s.dev.get RST_CTRL_SWRST = 0 → s.dev.dstate = .config → s.dev.portsUsed ≠ [] → s.dev.allBlocked = true →
      s.dev.discBarred = false → Comes (.deviceDiscover o) o s fun d => d.dstate = .discover ∧
        (s.dev.inUse p = true → s.dev.epState ≠ .applying → (d.port p).disc.isSome = true ∧
          ((s.dev.port p).disc = none → d.get (RING_STAT_DISCBUSY p) = 1)) ∧
        (s.dev.inUse p = true → s.dev.epState = .applying → (s.dev.port p).disc = none → (d.port p).discWait = some o) ∧
        (s.dev.inUse p = false → d.port p = s.dev.port p) ∧
        s.dev.Changes [.rst, .ports, .aud, .ep, .hif, .dpx, .out] (InAny [bRST, bRING, bAUD, bHIF]) d) ∧
    (s.Reaches o RST_CTRL → s.dev.get RST_CTRL_SWRST = 0 → s.dev.dstate ≠ .config ∨ s.dev.portsUsed = [] ∨ s.dev.allBlocked = false ∨ s.dev.discBarred = true →
      Comes (.deviceDiscover o) o s fun d => d.dstate = s.dev.dstate ∧ d.port p = s.dev.port p ∧ s.dev.Changes [.hif, .out] (At evtRegs) d) ∧
    (s.dev.held = false → s.dev.dstate = .discover → s.dev.discovering = false → Runs .discoveryComplete .device s fun d =>
        d.dstate = .config ∧ s.dev.Changes [.aud] (At ([RST_STAT, RST_EVT] ++ audRegs)) d) ∧
    (s.dev.held = false → s.dev.dstate ≠ .discover ∨ s.dev.discovering = true → Runs .discoveryComplete .device s fun d => d = s.dev)) ∧
  (∀ (s : State) (n : Fin 100) (k : Fin 4) (t : Nat), s.dev.held = false →
    (s.dev.running = false → s.dev.discovering = false → s.dev.rst.deep = false → s.dev.get RST_PCFG_DEEPEN = 1 →
      s.dev.dstate = .config ∨ s.dev.dstate = .sync → s.dev.role = .solo → s.dev.epState = .idle →
      (∀ u, s.dev.tNext 0 = some u → 1000000 * max (s.dev.get RST_PCFG_DEEPMIN) 1 ≤ u) → Runs .deepEntry .device s fun d => d.rst.deep = true ∧
        d.get (LANE_CTRL_EN n) = 0 ∧ d.get (LANE_STAT_PLLLOCK n) = 0 ∧ (k.val ≠ 0 → d.pairRuns k = false) ∧
        (k.val = 0 → d.word (SVC_PSTAT k) = s.dev.word (SVC_PSTAT k)) ∧
        s.dev.Changes [.rst, .lane, .saf, .dpx, .out] (InAny [bLANE, bSVC, bDPX, bSAF]) d) ∧
    (s.dev.running = true ∨ s.dev.discovering = true ∨ s.dev.get RST_PCFG_DEEPEN = 0 ∨ s.dev.role ≠ .solo ∨ s.dev.epState ≠ .idle →
      Runs .deepEntry .device s fun d => d = s.dev) ∧
    (s.dev.rst.deep = true → s.dev.tNext 0 = some t → Runs .deepExit .device s fun d => d.rst.deep = false ∧ d.bit RST_EVT_EVT 3 = true ∧
      (s.dev.time.on = true → 2000000 ≤ t → d.time.up = s.dev.time.up + (t - 2000000)) ∧
      s.dev.Changes [.rst, .time, .lane, .saf, .dpx, .svc, .free, .out] (InAny [bRST, bTIM, bLANE, bSVC, bDPX, bSAF]) d))

/-! ### Register accesses (R2 to R32, R451, R452) -/

/-- R2, R6, R7, R27, R28, R393, R465: a register write. A register without an effect of its own takes the written value in its
RW and RWL fields and keeps the others; a W1C flag written 1 clears, but one that hardware sets in the same clock stays set and
its event counter counts. A write that does not enable every byte, one to an offset without a register and one to the cell
table change nothing. Pair 2 or 3 may not write the offsets of R393: its PEVT flag rises. An access in DEEP wakes the device
first. R3, R373: after the locking commit a write keeps every locked field at the value in force, and posts the event LOCKWR if
it would have changed one. Shown on the registers of LOOP. -/
def Obligations.RegisterAccess : Prop :=
  (∀ (s : State) (o : Origin) (off be w : Nat) (v hw : Word) (n : Fin 4) (b : Fin 32)
    (c : Fld),
    (s.Reaches o off → off % 4 = 0 → off < 0x400000 → (regAt off).isSome = true → s.dev.special s.nv o off v = none →
      Comes (.registerWrite o off 0xF v hw w) o s fun d => d.out = .answer o off .written :: s.dev.out ∧
        (d.word off).getLsbD b =
          (if (typeMask (fun t => t == .rw || t == .rwl) off).getLsbD b then v.getLsbD b
           else if (typeMask (· == .w1c) off).getLsbD b then
             hw.getLsbD b || ((s.dev.word off).getLsbD b && !v.getLsbD b)
           else (s.dev.word off).getLsbD b) ∧
        (hw &&& typeMask (· == .w1c) off = BitVec.ofNat 32 (2 ^ b.val) → flagCounters off b = [c] → s.dev.Counted d c) ∧
        s.dev.Changes [.out] (Either (At [off]) (Each (List.range 32) fun b => (flagCounters off b).map (·.off))) d) ∧
    (s.dev.Answers off → off % 4 = 0 → off < 0x460000 → be ≠ 0xF ∨ 0x400000 ≤ off → Comes (.registerWrite o off be v 0 w) o s fun d =>
      d.out = .answer o off .written :: s.dev.out ∧ s.dev.Changes [.out] (At []) d) ∧
    (s.dev.Answers off → off % 4 = 0 → off < 0x460000 → regAt off = none → o.mayWrite off = true →
      Comes (.registerWrite o off be v 0 w) o s fun d =>
        d.out = .answer o off .written :: s.dev.out ∧ s.dev.Changes [.out] (At []) d) ∧
    (s.dev.Answers off → off % 4 = 0 → off < 0x400000 → 2 ≤ n.val → pairBarred off = true →
      Comes (.registerWrite (.svc n) off 0xF v 0 w) (.svc n) s fun d =>
        d.bit (SVC_PEVT_PEVT n) 3 = true ∧ s.dev.Changes [.out] (At [SVC_PEVT n]) d) ∧
    (s.dev.held = false → s.dev.rst.deep = true → Comes (.registerWrite .pcie TOP_SCRATCH 0xF v hw w) .pcie s fun d =>
      d.rst.deep = false ∧ d.bit RST_EVT_EVT 3 = true ∧ (s.dev.get AUD_STAT_FULL = 0 → d.word TOP_SCRATCH = v))) ∧
  (∀ (s : State) (o : Origin) (off : Nat) (v hw : Word) (w : Nat) (b : Fin 32), s.dev.Answers off →
    o.mayWrite off = true → s.dev.get AUD_STAT_FULL = 0 → s.dev.locked = true → InAny [bLOOP] off → off ≠ LOOP_GCLR → off % 4 = 0 →
    (regAt off).isSome = true → Comes (.registerWrite o off 0xF v hw w) o s fun d =>
      d.word off &&& rwlMask off = s.dev.word off &&& rwlMask off ∧
      ((typeMask (· == .rw) off).getLsbD b → (d.word off).getLsbD b = v.getLsbD b) ∧
      ((v ^^^ s.dev.word off) &&& rwlMask off ≠ 0 → s.dev.Posts d 1 o) ∧ s.dev.Changes [.hif, .out] (At (off :: evtRegs)) d)

/-- R27, R357, R451, R452: accesses that reach no register. One beyond the cell table window posts UNMAPPED, and a read there
answers 0; an unaligned or too large request gets Unsupported Request; one to a gated block ends in the error of its origin,
sets GATEACC and, if it is the first, CLK_GATEERR. -/
def Obligations.AccessesWithoutRegister : Prop := ∀ (s : State) (o : Origin) (off : Nat) (wr : Bool) (v : Word),
  (s.dev.Answers off → off % 4 = 0 → 0x460000 ≤ off → off < 0x1000000 → Comes (.unmapped o off wr) o s fun d => s.dev.Posts d 2 o ∧
    d.out.head? = some (.answer o off (if wr then .written else .data 0)) ∧ s.dev.Changes [.hif, .out] (At evtRegs) d) ∧
  (s.dev.awake → Runs (.unsupportedRequest off) .pcie s fun d =>
    d.out = .answer .pcie off .unsupportedRequest :: s.dev.out ∧ s.dev.Changes [.out] (At []) d) ∧
  (s.dev.awake → s.dev.gated off = true →
    (Runs (.gatedAccess o off wr) o s fun d => d.out = .answer o off (o.gatedAnswer wr) :: s.dev.out ∧ d.get CLK_EVT_GATEACC = 1 ∧
      d.get CLK_GATEERR_VALID = 1 ∧ (s.dev.get CLK_GATEERR_VALID = 0 → off < 2 ^ 24 → d.get CLK_GATEERR_ORIGIN = o.code ∧
        d.get CLK_GATEERR_OFFSET = off) ∧
      (s.dev.get CLK_GATEERR_VALID = 1 → d.word CLK_GATEERR = s.dev.word CLK_GATEERR) ∧
      s.dev.Changes [.out] (At [CLK_EVT, CLK_GATEERR]) d) ∧
    (off % 4 = 0 → off < 0x1000000 → Comes (.registerWrite o off 0xF v 0 0) o s fun d =>
      d.out = .answer o off (o.gatedAnswer true) :: s.dev.out ∧ d.word off = s.dev.word off ∧ d.get CLK_EVT_GATEACC = 1 ∧
      s.dev.Changes [.out] (At [CLK_EVT, CLK_GATEERR]) d))

/-- R10, R11, R12: wide values. A read of the low word latches the upper word for its own origin, a read of the upper word
returns and consumes the latch, whole whatever bytes are enabled (R6); a write of the low word waits for the write of the high
word of the same origin, which applies both. No latch of another origin moves. R6, R8, R10, R32, R162, R164, R269: reads with
an effect, answered with the enabled bytes. A read of an RC field answers the value before the clock and leaves only what
hardware adds in it; CYC_NUM latches CYC_T0 and CYC_PHASE, the ns word of a time base its fraction, of the instant before in
the cycle of a set or step; a read of an ADC result clears NEW and OVR. A write of TOP_ATTN_EN takes the enables. -/
def Obligations.WideValuesAndReads : Prop :=
  (∀ (s : State) (o o' : Origin) (w : Fin 6161) (r : Fin 6) (v x : Word) (off be : Nat), s.dev.awake → o' ≠ o →
    (s.dev.latchOf o (wideAt w).1 = none → Comes (.wideLowRead o w be) o s fun d =>
      d.out = .answer o (wideAt w).1 (.data (s.dev.peek s.nv o (wideAt w).1 &&& beMask be)) :: s.dev.out ∧
      d.latchOf o (wideAt w).2 = some (s.dev.peek s.nv o (wideAt w).2) ∧ d.latchOf o' off = s.dev.latchOf o' off ∧
      s.dev.Changes [.rlatch, .out] (At []) d) ∧
    (Comes (.wideUpperRead o w be) o s fun d =>
      d.out = .answer o (wideAt w).2 (.data ((s.dev.latchOf o (wideAt w).2).getD (s.dev.peek s.nv o (wideAt w).2) &&& beMask be)) :: s.dev.out ∧
      d.latchOf o (wideAt w).2 = none ∧ d.latchOf o' off = s.dev.latchOf o' off ∧ s.dev.Changes [.rlatch, .out] (At []) d) ∧
    (s.Reaches o (HIF_RING_BASELO r) → Comes (.wideLowWrite o r v) o s fun d =>
      (d.wlatch.find? fun e => e.1 == (o, HIF_RING_BASELO r)) = some ((o, HIF_RING_BASELO r), v) ∧
      (d.wlatch.find? fun e => e.1 == (o', off)) = (s.dev.wlatch.find? fun e => e.1 == (o', off)) ∧
      s.dev.Changes [.wlatch, .out] (At []) d) ∧
    (s.Reaches o (HIF_RING_BASEHI r) → (s.dev.wlatch.find? fun e => e.1 == (o, HIF_RING_BASELO r)) = some ((o, HIF_RING_BASELO r), x) →
      Comes (.wideUpperWrite o r v) o s fun d => d.get (HIF_RING_BASELO_BASE_LO r) = x.toNat / 2 ^ 12 ∧
        d.word (HIF_RING_BASEHI r) = v ∧ (d.wlatch.find? fun e => e.1 == (o, HIF_RING_BASELO r)) = none ∧
        s.dev.Changes [.wlatch, .out] (At [HIF_RING_BASELO r, HIF_RING_BASEHI r]) d)) ∧
  (∀ (s : State) (o : Origin) (off be : Nat) (v hw : Word) (n : Fin 4) (x : Fin 2) (i : Fin 32),
    (s.dev.Answers off → off % 4 = 0 → off < 0x400000 → typeMask (· == .rc) off ≠ 0 → s.dev.latchOf o off = none →
      Comes (.rcFieldRead o off be hw) o s fun d => d.out = .answer o off (.data (s.dev.peek s.nv o off &&& beMask be)) :: s.dev.out ∧
        d.word off &&& typeMask (· == .rc) off = hw &&& typeMask (· == .rc) off ∧
        d.word off &&& ~~~ typeMask (· == .rc) off = s.dev.word off &&& ~~~ typeMask (· == .rc) off ∧
        s.dev.Changes [.rlatch, .out] (At [off]) d) ∧
    (s.dev.awake → s.dev.latchOf o CYC_NUM = none → Comes (.cycNumRead o be) o s fun d =>
      d.out = .answer o CYC_NUM (.data (s.dev.word CYC_NUM &&& beMask be)) :: s.dev.out ∧ d.latchOf o CYC_T0 = some (s.dev.word CYC_T0) ∧
      d.latchOf o CYC_PHASE = some (dw s.dev.phaseWord) ∧ s.dev.Changes [.rlatch, .out] (At []) d) ∧
    (s.dev.awake → s.dev.latchOf o (TIM_TB_NS n) = none → Comes (.tbNsRead o n be false) o s fun d =>
      d.out = .answer o (TIM_TB_NS n) (.data (nsOf (s.dev.tb n) &&& beMask be)) :: s.dev.out ∧
      d.latchOf o (TIM_TB_FRAC n) = some (fracOf (s.dev.tb n)) ∧ s.dev.Changes [.rlatch, .out] (At []) d) ∧
    (s.dev.awake → n.val ≠ 2 → s.dev.latchOf o (TIM_TB_NS n) = none → Comes (.tbNsRead o n be true) o s fun d =>
      d.out = .answer o (TIM_TB_NS n) (.data (nsOf (s.dev.tbBefore n) &&& beMask be)) :: s.dev.out ∧
      d.latchOf o (TIM_TB_FRAC n) = some (fracOf (s.dev.tbBefore n)) ∧ s.dev.Changes [.rlatch, .out] (At []) d) ∧
    (s.dev.Answers (ADC_RES x i) → s.dev.latchOf o (ADC_RES x i) = none → Comes (.adcResRead o x i be) o s fun d =>
      d.out = .answer o (ADC_RES x i) (.data (s.dev.word (ADC_RES x i) &&& beMask be)) :: s.dev.out ∧ d.get (ADC_RES_NEW x i) = 0 ∧
      d.get (ADC_RES_OVR x i) = 0 ∧ d.get (ADC_RES_RES x i) = s.dev.get (ADC_RES_RES x i) ∧
      s.dev.Changes [.rlatch, .out] (At [ADC_RES x i]) d) ∧
    (s.Reaches o TOP_ATTN_EN → Comes (.attnEnWrite o v) o s fun d =>
      d.get TOP_ATTN_EN_EN = v.toNat % 256 ∧ s.dev.Changes [.out] (At [TOP_ATTN_EN]) d))

/-! ### Time bases and PTP (R158 to R179) -/

/-- R161, R163, R384, R387: TIM_TB0SET sets TB0 while the cycle timer is stopped in a unit that keeps its own time, sets
TIM_WRAP.STEP0 and logs the change; otherwise it is refused with TSETREF. While the audit queue is full, what would log is
discarded. R158, R159, R162, R163, R164, R176, R178, R179: SNAP copies all four bases, each as it was before a set or step of
the same ACLK cycle; TB1 is stepped by anyone, and slewed and rated by pair 0 alone, with rates held within ±100 ppm and no
slew in HOLDOVER; TB3 is set, stepped and rated by anyone. -/
def Obligations.TimeBaseWrites : Prop :=
  (∀ (s : State) (o : Origin) (v : Word), s.dev.awake → s.dev.gated TIM_TB0SET = false → o.mayWrite TIM_TB0SET = true →
    (s.dev.running = false ∧ (s.dev.role = .solo ∨ s.dev.role = .witness) →
      (s.dev.withheld o = false → Comes (.tb0Set o v) o s fun d =>
        d.time = { s.dev.time with tb0 := (v.setWidth 48) <<< 16, pre := d.time.pre } ∧ d.tbBefore 0 = s.dev.tbBefore 0 ∧
        d.bit TIM_WRAP_STEP 0 = true ∧ s.dev.Logs d 0x40 0xF o ∧ s.dev.Changes [.time, .aud, .out] (At (TIM_WRAP :: audRegs)) d) ∧
      (s.dev.withheld o = true → Comes (.tb0Set o v) o s fun d => d.bit HIF_EVT_EVT 3 = true ∧ s.dev.Changes [.out] (At [HIF_EVT]) d)) ∧
    (s.dev.running = true ∨ s.dev.role = .active ∨ s.dev.role = .standby ∨ s.dev.role = .syncing ∨ s.dev.role = .faulted →
      Comes (.tb0Set o v) o s fun d => d.bit TIM_EVT_TSETREF 0 = true ∧ s.dev.Posts d 6 o ∧
        s.dev.Changes [.hif, .out] (At (TIM_EVT :: evtRegs)) d) ∧
    (s.dev.withheld o = true → Comes (.tb1Step o v) o s fun d => d.bit HIF_EVT_EVT 3 = true ∧ s.dev.Changes [.out] (At [HIF_EVT]) d)) ∧
  (∀ (s : State) (o : Origin) (v : Word) (n : Fin 4) (tie : Bool),
    (s.Lets o TIM_CTRL → Comes (.snap o tie) o s fun d =>
      d.word (TIM_SNAP_NS n) = nsOf (if tie = true ∧ n.val ≠ 2 then s.dev.tbBefore n else s.dev.tb n) ∧
      d.word (TIM_SNAP_FRAC n) = fracOf (if tie = true ∧ n.val ≠ 2 then s.dev.tbBefore n else s.dev.tb n) ∧
      s.dev.Changes [.out] (Each (List.range 4) fun i => [TIM_SNAP_NS i, TIM_SNAP_FRAC i]) d) ∧
    (s.Lets o TIM_TB1STEP → Comes (.tb1Step o v) o s fun d =>
      d.time = { s.dev.time with tb1 := s.dev.time.tb1 + ((v.setWidth 48) <<< 16), slew := 0, pre := d.time.pre } ∧
      d.tbBefore 1 = s.dev.tbBefore 1 ∧ d.bit TIM_WRAP_STEP 1 = true ∧ s.dev.Logs d 0x40 0xF o ∧
      s.dev.Changes [.time, .aud, .out] (At (TIM_WRAP :: audRegs)) d) ∧
    (s.Lets o TIM_TB1SLEW → o = .svc 0 → s.dev.get TIM_STAT_TB1ST ≠ 3 → Comes (.tb1Slew o v) o s fun d =>
      d.time = { s.dev.time with slew := v.toInt * 1024 } ∧ s.dev.Changes [.time, .out] (At []) d) ∧
    (s.Lets o TIM_TB1SLEW → o ≠ .svc 0 ∨ s.dev.get TIM_STAT_TB1ST = 3 →
      Comes (.tb1Slew o v) o s fun d => s.dev.Changes [.out] (At []) d) ∧
    (s.Lets o TIM_TB1RATE → o = .svc 0 → Comes (.tb1RateWrite o v) o s fun d =>
      d.getS TIM_TB1RATE_TB1RATE = clampInt (-0x00068DB9) 0x00068DB9 v.toInt ∧ s.dev.Changes [.out] (At [TIM_TB1RATE]) d) ∧
    (s.Lets o TIM_TB1RATE → o ≠ .svc 0 → Comes (.tb1RateWrite o v) o s fun d => s.dev.Changes [.out] (At []) d) ∧
    (s.Lets o TIM_TB3SET → Comes (.tb3Set o v) o s fun d =>
      d.time = { s.dev.time with tb3 := (v.setWidth 48) <<< 16, sub3 := 0, pre := d.time.pre } ∧ d.tbBefore 3 = s.dev.tbBefore 3 ∧
      d.bit TIM_WRAP_STEP 3 = true ∧ s.dev.Changes [.time, .out] (At [TIM_WRAP]) d) ∧
    (s.Lets o TIM_TB3STEP → Comes (.tb3Step o v) o s fun d =>
      d.time = { s.dev.time with tb3 := s.dev.time.tb3 + ((v.setWidth 48) <<< 16), pre := d.time.pre } ∧ d.tbBefore 3 = s.dev.tbBefore 3 ∧
      d.bit TIM_WRAP_STEP 3 = true ∧ s.dev.Changes [.time, .out] (At [TIM_WRAP]) d) ∧
    (s.Lets o TIM_TB3RATE → Comes (.tb3RateWrite o v) o s fun d =>
      d.getS TIM_TB3RATE_TB3RATE = clampInt (-0x00068DB9) 0x00068DB9 v.toInt ∧ s.dev.Changes [.out] (At [TIM_TB3RATE]) d))

/-- R163, R176: TB0 and TB2 carry past their last value and set their WR flags; TB1 and TB3 do at their nominal rate. A slew of
TB1 is absorbed by 2⁻¹⁰ ns in every ns. Nothing but the time bases and TIM_WRAP changes; the bases stand still before the first
lock. -/
def Obligations.TimeBasesRun : Prop := ∀ (s : State) (n : Fin 4), s.dev.held = false →
  (Runs (.tbCarry n) .device s fun d => s.dev.Changes [.time] (At [TIM_WRAP]) d ∧
    (s.dev.time.on = true → n.val = 0 ∨ n.val = 2 → (d.tb n).toNat < 2 ^ 16 ∧ d.bit TIM_WRAP_WR n = true) ∧
    (s.dev.time.on = true → s.dev.get TIM_TB1RATE_TB1RATE = 0 → s.dev.get TIM_TB3RATE_TB3RATE = 0 → s.dev.time.slew = 0 →
      s.dev.time.sub1 = 0 → s.dev.time.sub3 = 0 → (d.tb n).toNat < 2 ^ 16 ∧ d.bit TIM_WRAP_WR n = true) ∧
    (s.dev.time.on = false → s.dev.Changes [.time] (At []) d ∧ d.time = { s.dev.time with cio := d.time.cio })) ∧
  (Runs .tb1SlewAbsorbed .device s fun d => s.dev.Changes [.time] (At [TIM_WRAP]) d ∧
    (s.dev.time.on = true → d.time.slew = 0 ∧ d.time.up = s.dev.time.up + s.dev.time.slew.natAbs ∧
      d.time.tb0 = s.dev.time.tb0 + BitVec.ofNat 48 (s.dev.time.slew.natAbs * 2 ^ 16)) ∧
    (s.dev.time.on = false → s.dev.Changes [.time] (At []) d ∧ d.time = { s.dev.time with cio := d.time.cio }))

/-- R172, R174, R175, R176, R387: a Sync of the master followed, or the Follow_Up of a two-step one, gives the offset to
TIM_PTPOFS. Beyond STEPTH TB1 is stepped and the lock run ends; within it the rate and the slew of TB1 are corrected. A message
of another domain or port changes nothing. R172, R173, R174: on an enabled port and in the configured domain, a Pdelay_Req is
answered with its two messages; a Pdelay_Resp gives the port's mean link delay, but for an exchange that spans a change of
timestamping, which is discarded. R172, R177, R178: the states of TB1. The first Announce on any port takes TB1 from FREERUN to
ACQUIRING with its grandmaster; in LOCKED another grandmaster takes it to HOLDOVER, in ACQUIRING it becomes the grandmaster; in
HOLDOVER the first Announce of a master is not enough. A lost master takes TB1 from LOCKED to HOLDOVER, and from ACQUIRING to
HOLDOVER or, if TB1 was never LOCKED, to FREERUN. HOLDOVER counts the whole seconds since its entry. -/
def Obligations.PtpServoAndStates : Prop :=
  (∀ (s : State) (port : Fin 2) (dom seq : Nat) (two : Bool) (t1 : Word) (corr l k : Int) (w : SyncWait)
      (c : Instr) (theta : Int), s.dev.held = false →
    (s.dev.ptpOn port = false ∨ dom ≠ s.dev.get TIM_PTPCFG_DOMAIN ∨ s.dev.follows port = false →
      (Runs (.ptpSyncReceive port dom seq two t1 corr l) .device s fun d => d = s.dev) ∧
      (Runs (.followUpReceive port dom seq t1 corr) .device s fun d => d = s.dev)) ∧
    (l < -4 ∨ 1 < l → Runs (.ptpSyncReceive port dom seq two t1 corr l) .device s fun d => d = s.dev) ∧
    (s.dev.ptp.sync = none ∨ s.dev.ptp.sync = some w ∧ (w.port ≠ port.val ∨ w.seq ≠ seq) →
      Runs (.followUpReceive port dom seq t1 corr) .device s fun d => d = s.dev) ∧
    (s.dev.ptpOn port = true → dom = s.dev.get TIM_PTPCFG_DOMAIN → s.dev.follows port = true →
      (-4 ≤ l → l ≤ 1 → Runs (.ptpSyncReceive port dom seq true t1 corr l) .device s fun d =>
        d.ptp = { s.dev.ptp with sync := some ⟨port, seq, s.dev.ingress port, corr, l⟩ } ∧ s.dev.Changes [.ptp] (At []) d) ∧
      (c = .ptpSyncReceive port dom seq false t1 corr l ∧ -4 ≤ l ∧ l ≤ 1 ∧ k = l ∧
          theta = s.dev.offset port (s.dev.ingress port) t1 corr ∨
        c = .followUpReceive port dom seq t1 corr ∧ s.dev.ptp.sync = some w ∧ w.port = port.val ∧ w.seq = seq ∧ k = w.logInt ∧
          theta = s.dev.offset port w.t2 t1 (w.corr + corr) →
        (s.dev.get TIM_PTPTH_STEPTH * 1000 < theta.natAbs → s.dev.get AUD_STAT_FULL = 0 → Runs c .device s fun d =>
          d.getS TIM_PTPOFS_OFS = theta ∧ d.time.tb1 = s.dev.time.tb1 - BitVec.ofInt 48 (theta * 2 ^ 16) ∧ d.time.slew = 0 ∧
          d.ptp.lockrun = 0 ∧ s.dev.Changes [.time, .ptp, .aud] (At ([TIM_PTPOFS, TIM_WRAP] ++ audRegs)) d) ∧
        (s.dev.get TIM_PTPTH_STEPTH * 1000 < theta.natAbs → s.dev.get AUD_STAT_FULL = 1 → Runs c .device s fun d =>
          d.getS TIM_PTPOFS_OFS = theta ∧ d.ptp.lockrun = 0 ∧ d.bit HIF_EVT_EVT 3 = true ∧
          s.dev.Changes [.ptp] (At [TIM_PTPOFS, HIF_EVT]) d) ∧
        (theta.natAbs ≤ s.dev.get TIM_PTPTH_STEPTH * 1000 → Runs c .device s fun d => d.getS TIM_PTPOFS_OFS = theta ∧
          d.time = { s.dev.time with slew := -(theta.fdiv (2 ^ s.dev.get TIM_PTPCFG_KPS)) * 1024 } ∧
          d.getS TIM_TB1RATE_TB1RATE = clampInt (-0x00068DB9) 0x00068DB9
            (s.dev.getS TIM_TB1RATE_TB1RATE - ((theta * 2 ^ 32).fdiv (logInterval k)).fdiv (2 ^ s.dev.get TIM_PTPCFG_KIS)) ∧
          d.ptp.lockrun = (if theta.natAbs ≤ s.dev.get TIM_PTPTH_LOCKTH then s.dev.ptp.lockrun + 1 else 0) ∧
          (s.dev.get TIM_STAT_TB1ST = 1 → d.get TIM_STAT_TB1ST = if 16 ≤ d.ptp.lockrun then 2 else 1) ∧
          s.dev.Changes [.time, .ptp, .aud] (At ([TIM_PTPOFS, TIM_TB1RATE, TIM_STAT, TIM_HOLD, TIM_EVT] ++ audRegs)) d)))) ∧
  (∀ (s : State) (port : Fin 2) (dom seq ago k : Nat) (t1 : BitVec 48) (t2 t3 : Word) (corr : Int),
    s.dev.held = false →
    (s.dev.ptpOn port = false ∨ dom ≠ s.dev.get TIM_PTPCFG_DOMAIN →
      (Runs (.pdelayReqReceive port dom seq) .device s fun d => d = s.dev) ∧
      (Runs (.pdelayRespReceive port dom t1 ago t2 t3 corr) .device s fun d => d = s.dev)) ∧
    (s.dev.ptpOn port = true → dom = s.dev.get TIM_PTPCFG_DOMAIN →
      (Runs (.pdelayReqReceive port dom seq) .device s fun d =>
        d.out = .ptp port 0xA seq (s.dev.egress port s.dev.time.tb1) :: .ptp port 0x3 seq (s.dev.ingress port) :: s.dev.out ∧
        s.dev.Changes [.out] (At []) d) ∧
      ((if port.val = 0 then s.dev.ptp.changed0 else s.dev.ptp.changed1) = none ∨
        (if port.val = 0 then s.dev.ptp.changed0 else s.dev.ptp.changed1) = some k ∧ k + ago < s.dev.time.up →
        Runs (.pdelayRespReceive port dom t1 ago t2 t3 corr) .device s fun d =>
          (if port.val = 0 then d.ptp.mpd0 else d.ptp.mpd1) =
            ((nsOf (s.dev.ingress port) - nsOf (s.dev.egress port t1)).toInt - (t3 - t2).toInt - corr).fdiv 2 ∧
          (s.dev.get TIM_STAT_RXPORT ≠ port.val → s.dev.Changes [.ptp] (At []) d) ∧ s.dev.Changes [.ptp] (At [TIM_PTPMPD]) d) ∧
      ((if port.val = 0 then s.dev.ptp.changed0 else s.dev.ptp.changed1) = some k → s.dev.time.up ≤ k + ago →
        Runs (.pdelayRespReceive port dom t1 ago t2 t3 corr) .device s fun d => d = s.dev))) ∧
  (∀ (s : State) (port : Fin 2) (m : Announce) (t : Nat), s.dev.held = false →
    (Runs (.announceReceive port m) .device s fun d => d.get TIM_STAT_TB1ST ≤ 3 ∧
      (s.dev.get TIM_STAT_TB1ST = 0 → d.get TIM_STAT_TB1ST ≤ 1) ∧ (s.dev.get TIM_STAT_TB1ST ≠ 2 → d.get TIM_STAT_TB1ST ≠ 2) ∧
      s.dev.Changes [.time, .ptp, .aud, .rcd] (At ([TIM_STAT, TIM_EVT, TIM_GMID_LO, TIM_GMID_HI, TIM_PTPMPD] ++ audRegs)) d) ∧
    (s.dev.ptpOn port = false ∨ m.domain ≠ s.dev.get TIM_PTPCFG_DOMAIN ∨ m.logInt < -3 ∨ 2 < m.logInt →
      Runs (.announceReceive port m) .device s fun d => d = s.dev) ∧
    (s.dev.ptpOn port = true → m.domain = s.dev.get TIM_PTPCFG_DOMAIN → -3 ≤ m.logInt → m.logInt ≤ 2 → s.dev.ptp.heard0 = none →
      s.dev.ptp.heard1 = none →
      (s.dev.get TIM_STAT_TB1ST = 0 → Runs (.announceReceive port m) .device s fun d => d.get TIM_STAT_TB1ST = 1 ∧
        d.get TIM_STAT_RXPORT = port.val ∧ d.gmid = m.gmid ∧ d.ptp.lockrun = 0 ∧
        s.dev.Changes [.ptp, .aud] (At ([TIM_STAT, TIM_GMID_LO, TIM_GMID_HI, TIM_PTPMPD] ++ audRegs)) d) ∧
      (s.dev.get TIM_STAT_TB1ST = 2 → s.dev.gmid ≠ m.gmid → Runs (.announceReceive port m) .device s fun d =>
        d.get TIM_STAT_TB1ST = 3 ∧ d.gmid = m.gmid ∧ d.bit TIM_EVT_GMCHG 0 = true ∧ d.bit TIM_EVT_HOLDOVER 0 = true ∧ d.time.slew = 0 ∧
        d.word TIM_TB1RATE = s.dev.word TIM_TB1RATE) ∧
      (s.dev.get TIM_STAT_TB1ST = 1 → s.dev.gmid ≠ m.gmid → Runs (.announceReceive port m) .device s fun d =>
        d.get TIM_STAT_TB1ST = 1 ∧ d.gmid = m.gmid ∧ d.bit TIM_EVT_GMCHG 0 = true) ∧
      (s.dev.get TIM_STAT_TB1ST = 3 → Runs (.announceReceive port m) .device s fun d => s.dev.Changes [.ptp] (At []) d)) ∧
    (∀ c ∈ [Instr.announceTimeout port, .receivingPortDown, .syncTimeout], s.dev.get TIM_STAT_RXPORT = port.val →
      (s.dev.get TIM_STAT_TB1ST = 2 ∨ s.dev.get TIM_STAT_TB1ST = 1 ∧ s.dev.ptp.everLocked = true → Runs c .device s fun d =>
        d.get TIM_STAT_TB1ST = 3 ∧ d.bit TIM_EVT_HOLDOVER 0 = true ∧ d.time = { s.dev.time with slew := 0 } ∧
        d.ptp.holdFrom = some (s.dev.ptp.holdFrom.getD s.dev.time.up) ∧
        s.dev.Changes [.time, .ptp, .aud, .rcd] (At ([TIM_STAT, TIM_EVT] ++ audRegs)) d) ∧
      (s.dev.get TIM_STAT_TB1ST = 1 → s.dev.ptp.everLocked = false → Runs c .device s fun d => d.get TIM_STAT_TB1ST = 0 ∧
        s.dev.Changes [.ptp] (At [TIM_STAT]) d) ∧
      (s.dev.get TIM_STAT_TB1ST = 0 ∨ s.dev.get TIM_STAT_TB1ST = 3 → Runs c .device s fun d => s.dev.Changes [.ptp] (At []) d)) ∧
    (s.dev.get TIM_STAT_RXPORT ≠ port.val → Runs (.announceTimeout port) .device s fun d => s.dev.Changes [.ptp] (At []) d) ∧
    (s.dev.ptp.holdFrom = some t → Runs .holdoverSecond .device s fun d =>
      d.get TIM_HOLD_HOLDSEC = min ((d.time.up - t) / 10 ^ 9) 0xFFFF ∧
      (s.dev.time.on = true → t ≤ s.dev.time.up → (d.time.up - t) % 10 ^ 9 = 0 ∧ s.dev.time.up < d.time.up) ∧
      (s.dev.get TIM_HOLD_HOLDLIM ≤ d.get TIM_HOLD_HOLDSEC → d.get TIM_STAT_HOLDEXP = 1 ∧
        (s.dev.get TIM_STAT_HOLDEXP = 0 → d.bit TIM_EVT_HOLDEXP 0 = true)) ∧
      s.dev.Changes [.time] (At [TIM_WRAP, TIM_HOLD, TIM_STAT, TIM_EVT]) d) ∧
    (s.dev.ptp.holdFrom = none → Runs .holdoverSecond .device s fun d => d = s.dev))

/-! ### Arms and schedules (R207 to R233, R364) -/

/-- The registers of arm states and of a deblock's refusal. -/
def Sys2Proof.Machine.armRegs : List Nat := allArms.flatMap (fun a => [SCH_ASTAT a, SCH_AEVT a])

/-- R210, R372, R384, R463: a deblock request makes every arm of its mask that meets every row of R463 DEBLOCKING and logs it;
an arm that fails a row keeps its state, and the row's number goes to RST_DBREF with RST_EVT.DBREF and an audit entry. Arms
outside the mask keep their state. R210, R211, R212, R303: a block cause makes every DEBLOCKING or RUNNING arm that it names
BLOCKING at once, and the ring ports substitute its slots from then on; an arm in another state stays as it is. SCH_ARMCMD.BLK
and the clearing of SCH_ACTL.EN are such causes. -/
def Obligations.ArmStates : Prop :=
  (∀ (s : State) (o : Origin) (mask : BitVec 12) (a b : Fin 12) (r : Nat), s.Lets o SCH_ARMCMD →
    (s.dev.deblockRefusal a = none ↔ s.dev.epState = .idle ∧ (s.dev.dstate = .armed ∨ s.dev.dstate = .run ∨ s.dev.dstate = .degraded) ∧
      (s.dev.role = .solo ∨ s.dev.role = .active) ∧ s.dev.arm a = .blocked ∧ s.dev.get SCH_STAT_HALTBLK = 0 ∧ s.dev.boundaryScan = false ∧
      s.dev.get (SCH_ACTL_EN a) = 1 ∧ s.dev.get (ARM_COUNT0_NRANK a) ≠ 0 ∧ s.dev.armTlock a = true ∧ s.dev.get SAF_STAT_GTDONE = 1 ∧
      s.dev.get SAF_STAT_CONFIRMED = 1 ∧ s.dev.bit SAF_REQ_ARMS a = false ∧ s.dev.degraded = false ∧
      (s.dev.armPorts a).any s.dev.ringDeg = false ∧ s.dev.get SAF_STAT_FAIL = 0) ∧
    (Comes (.armDeblockWrite o mask) o s fun d =>
      (mask.getLsbD a = true → s.dev.deblockRefusal a = none → d.arm a = .deblocking ∧ (d.armCtl a).toRun = none ∧ (d.armCtl a).origin = o) ∧
      (mask.getLsbD a = false ∨ s.dev.deblockRefusal a ≠ none → d.arm a = s.dev.arm a) ∧
      s.dev.Changes [.arms, .aud, .out] (At (armRegs ++ [RST_DBREF, RST_EVT] ++ audRegs)) d) ∧
    (mask = BitVec.ofNat 12 (2 ^ a.val) → s.dev.deblockRefusal a = some r →
      Comes (.armDeblockWrite o mask) o s fun d => d.get RST_DBREF_REASON = r ∧ d.get RST_DBREF_ARM = a.val ∧ d.bit RST_EVT_EVT 1 = true ∧
        s.dev.Logs d 0x11 a.val o ∧ d.arm b = s.dev.arm b ∧ s.dev.Changes [.aud, .out] (At ([RST_DBREF, RST_EVT] ++ audRegs)) d)) ∧
  (∀ (s : State) (o : Origin) (mask : BitVec 12) (a b : Fin 12),
    (s.Lets o SCH_ARMCMD → Comes (.armBlockWrite o mask) o s fun d =>
      (mask.getLsbD a = true → s.dev.arm a = .running ∨ s.dev.arm a = .deblocking → d.arm a = .blocking ∧
        (d.armCtl a).subst = some s.dev.time.tb0 ∧ (d.armCtl a).cause = 2 ∧ (d.armCtl a).origin = o) ∧
      (mask.getLsbD a = false ∨ s.dev.arm a = .blocked ∨ s.dev.arm a = .blocking → d.arm a = s.dev.arm a) ∧
      s.dev.Changes [.arms, .aud, .rcd, .dpx, .out] (At (armRegs ++ audRegs)) d) ∧
    (s.Lets o (SCH_ACTL a) → s.dev.get (SCH_ACTL_EN a) = 1 →
      (s.dev.arm a = .running ∨ s.dev.arm a = .deblocking → Comes (.schEnableClear o a) o s fun d => d.get (SCH_ACTL_EN a) = 0 ∧
        d.arm a = .blocking ∧ (d.armCtl a).subst = some s.dev.time.tb0 ∧ (d.armCtl a).cause = 1 ∧ (b ≠ a → d.arm b = s.dev.arm b) ∧
        s.dev.Changes [.arms, .aud, .rcd, .dpx, .out] (At ([SCH_ACTL a, SCH_ASTAT a] ++ audRegs)) d) ∧
      (s.dev.arm a = .blocked ∨ s.dev.arm a = .blocking → Comes (.schEnableClear o a) o s fun d => d.get (SCH_ACTL_EN a) = 0 ∧
        d.arm a = s.dev.arm a ∧ s.dev.Changes [.arms, .dpx, .out] (At [SCH_ACTL a]) d)) ∧
    (s.Lets o (SCH_ACTL a) → s.dev.get (SCH_ACTL_EN a) = 0 → Comes (.schEnableClear o a) o s fun d => s.dev.Changes [.out] (At []) d))

/-- R159, R213: when ACLK stops, every arm is BLOCKING, the time bases stand still, and SCH_EVT.ACLKSTOP and SCH_STAT.HALTBLK
are set. -/
def Obligations.AclkStops : Prop := ∀ (s : State) (a : Fin 12), s.dev.held = false →
  (s.dev.sch.aclkStopped = false → Runs .aclkStop .device s fun d => d.sch.aclkStopped = true ∧ d.arm a = .blocking ∧
    (d.armCtl a).subst = some s.dev.time.tb0 ∧ d.get SCH_EVT_ACLKSTOP = 1 ∧ d.get SCH_STAT_HALTBLK = 1 ∧
    d.time = { s.dev.time with on := false } ∧
    s.dev.Changes [.time, .arms, .sch, .aud, .rcd, .dpx] (At ([SCH_EVT, SCH_STAT] ++ armRegs ++ audRegs)) d) ∧
  (s.dev.sch.aclkStopped = true → Runs .aclkStop .device s fun d => d = s.dev)

/-- R218, R219: a shadow register takes the write and the arm's WGEN as its tag; a write of SCH_VREF or SCH_VOFS while the
engine is the source is discarded with REFDISC. The active sets do not change. R229, R230, R233, R364: a calibration takes the
median of its measurements, INTERVAL after the last at the earliest; a median of 32 to 120 taps acts from the next boundary,
another is rejected with ICALERR. A SET entry that was read for the next cycle, or for the current one before its loop phase,
and that carries its number, is held with its valid bits and values; another is not. -/
def Obligations.SetsAndCalibration : Prop :=
  (∀ (s : State) (o : Origin) (a : Fin 12) (v : Word),
    (s.Lets o (SCH_VREF a) → s.dev.get (SCH_ACTL_VSRC a) = 1 →
      (Comes (.shadowWrite o a 0 v) o s fun d => d.word (SCH_VREF a) = v ∧ d.get (SCH_TAGS_TVREF a) = s.dev.get (SCH_WGEN_WGEN a) ∧
        s.dev.Changes [.out] (At [SCH_VREF a, SCH_TAGS a]) d) ∧
      (Comes (.shadowWrite o a 1 v) o s fun d => d.word (SCH_VOFS a) = v ∧ d.get (SCH_TAGS_TVOFS a) = s.dev.get (SCH_WGEN_WGEN a) ∧
        s.dev.Changes [.out] (At [SCH_VOFS a, SCH_TAGS a]) d)) ∧
    (s.Lets o (SCH_VREF a) → s.dev.get (SCH_ACTL_VSRC a) = 0 →
      (Comes (.shadowWrite o a 0 v) o s fun d => d.get (SCH_AEVT_REFDISC a) = 1 ∧ s.dev.Changes [.out] (At [SCH_AEVT a]) d) ∧
      (Comes (.shadowWrite o a 1 v) o s fun d => d.get (SCH_AEVT_REFDISC a) = 1 ∧ s.dev.Changes [.out] (At [SCH_AEVT a]) d)) ∧
    (s.Lets o (SCH_PCFG a) →
      (Comes (.shadowWrite o a 2 v) o s fun d => d.get (SCH_PCFG_MINPW a) = v.toNat / 2 ^ 16 ∧ d.get (SCH_PCFG_KBAL a) = v.toNat % 256 ∧
        d.get (SCH_TAGS_TPCFG a) = s.dev.get (SCH_WGEN_WGEN a) ∧ s.dev.Changes [.out] (At [SCH_PCFG a, SCH_TAGS a]) d) ∧
      (Comes (.shadowWrite o a 3 v) o s fun d => d.get (SCH_PSC_CBASE a) = v.toNat % 64 ∧
        d.get (SCH_TAGS_TPSC a) = s.dev.get (SCH_WGEN_WGEN a) ∧ s.dev.Changes [.out] (At [SCH_PSC a, SCH_TAGS a]) d))) ∧
  (∀ (s : State) (g : Fin 25) (meas : List Nat) (t : Nat) (cyc : Word) (b : List Byte),
    s.dev.held = false →
    (32 ≤ medianOf s.dev.free meas → medianOf s.dev.free meas ≤ 120 → Runs (.interpCalibration g meas) .device s fun d =>
      nth d.sch.interps g Interp.init = { nth s.dev.sch.interps g Interp.init with
        next := some (medianOf s.dev.free meas), at_ := d.time.up, rejected := false, last := some d.time.up } ∧
      s.dev.Changes [.time, .sch, .free] (At [TIM_WRAP]) d) ∧
    (medianOf s.dev.free meas < 32 ∨ 120 < medianOf s.dev.free meas → Runs (.interpCalibration g meas) .device s fun d =>
      d.get SCH_EVT_ICALERR = 1 ∧ nth d.sch.interps g Interp.init = { nth s.dev.sch.interps g Interp.init with
        rejected := true, last := some d.time.up } ∧ s.dev.Changes [.time, .sch, .free] (At [TIM_WRAP, SCH_EVT]) d) ∧
    (s.dev.time.on = true → (nth s.dev.sch.interps g Interp.init).last = some t → Runs (.interpCalibration g meas) .device s fun d =>
      d.time.up = max s.dev.time.up (t + 1000 * max (s.dev.get SCH_ICALCFG_INTERVAL) 1)) ∧
    (s.dev.get (HIF_RING_CTL_EN 3) = 1 → s.dev.get HIF_STAT_BME = 1 → s.dev.running = true → BitVec.ofNat 32 (leAt b 0 4) = cyc →
      cyc = s.dev.word CYC_NUM + 1 ∨ cyc = s.dev.word CYC_NUM ∧ s.dev.cyc.looped = false ∧
        s.dev.phaseNs < s.dev.cyc.tm0.tret + s.dev.cyc.tm0.sort →
      Runs (.setEntryReadComplete cyc b) .device s fun d =>
        d.loop.set.head? = some ⟨cyc, BitVec.ofNat 64 (leAt b 8 8), (List.range 64).map (fun i => dw (leAt b (32 + 4 * i) 4))⟩ ∧
        s.dev.Changes [.loop] (At []) d) ∧
    (s.dev.get (HIF_RING_CTL_EN 3) = 0 ∨ s.dev.get HIF_STAT_BME = 0 ∨ s.dev.running = false ∨ BitVec.ofNat 32 (leAt b 0 4) ≠ cyc ∨
      (cyc ≠ s.dev.word CYC_NUM + 1 ∧ (cyc ≠ s.dev.word CYC_NUM ∨ s.dev.cyc.looped = true ∨
        s.dev.cyc.tm0.tret + s.dev.cyc.tm0.sort ≤ s.dev.phaseNs)) →
      Runs (.setEntryReadComplete cyc b) .device s fun d => d = s.dev))

/-! ### Analog inputs (R257 to R271) -/

/-- R259, R261, R262, R263: a hold keeps the voltages of the masked inputs that no earlier hold still keeps, for its cycle. A
cycle-mode run starts at its offset and a software run at once, each with the configuration as it stands; a start that finds a
run in progress is skipped and counted, and a software start of a converter that is off or in cycle mode is refused with SWREF.
A converter that is off or in software mode makes no cycle-mode run. R260, R265, R268, R270, R271: the conversion of an entry
ends 1 µs after it started, which time passes until. One that completes its window publishes the mean, with NEW and VALID, OPEN
if a conversion of it tripped and SETTLE if one settled, and OVR if the last was not read; one that does not only counts. The
next entry converts, or the run ends and the converter is no longer busy. Without a run nothing is published. A write of
ADC_OW0 or ADC_OW1 makes the next conversion of every changed input settle. -/
def Obligations.AnalogInputs : Prop :=
  (∀ (s : State) (o : Origin) (x : Fin 2) (n : Fin 24) (mask : BitVec 2) (volts : List Nat),
    (s.dev.held = false →
      (s.dev.running = true → s.dev.cyc.inCycle = true → s.dev.get ADC_HOLD_MASK ≠ 0 → Runs (.adcHold volts) .device s fun d =>
        d.adc.ain = volts ∧ d.adc.conv = s.dev.adc.conv ∧
        ((s.dev.get ADC_HOLD_MASK).testBit n = true → (∀ h ∈ s.dev.adc.held, h.2.1.testBit n = false) →
          d.adcVolts n = nth volts n 0 ∧ ∃ h ∈ d.adc.held, h.1 = s.dev.cycle ∧ h.2.1.testBit n = true ∧ h.2.2 = volts) ∧
        s.dev.Changes [.time, .adc] (At [TIM_WRAP]) d) ∧
      (s.dev.running = false ∨ s.dev.cyc.inCycle = false ∨ s.dev.get ADC_HOLD_MASK = 0 → Runs (.adcHold volts) .device s fun d =>
        d.adc = { s.dev.adc with ain := volts } ∧ s.dev.Changes [.adc] (At []) d) ∧
      (s.dev.get (ADC_SCTL_EN x) = 1 → s.dev.get (ADC_SCTL_MODE x) = 0 → s.dev.running = true → s.dev.cyc.inCycle = true →
        ((s.dev.conv x).run = none → Runs (.adcRunStart x volts) .device s fun d =>
          (d.conv x).run.map (fun r => (r.start, r.i, r.len, r.cfg, r.cycle)) =
            some (d.time.up, 0, adcLen s.dev.adcConfig x, s.dev.adcConfig, some s.dev.cycle) ∧
          (s.dev.adc.held = [] → (d.conv x).run.map (·.code) =
            some (adcCode (nth volts (adcCh s.dev.adcConfig x 0) 0) (s.dev.adcConfig.getF (ADC_ECFG_RANGE x 0)))) ∧
          d.get (busyFld x) = 1 ∧ d.adc.ain = volts ∧ (d.conv x).last = some s.dev.cycle ∧
          s.dev.Changes [.time, .adc] (Either (At [TIM_WRAP, ADC_STAT]) (Each (List.range 32) fun i => [ADC_RES x i])) d) ∧
        ((s.dev.conv x).run.isSome = true → Runs (.adcRunStart x volts) .device s fun d => (d.conv x).run = (s.dev.conv x).run ∧
          (d.conv x).last = some s.dev.cycle ∧
          d.get ADC_EVT_SKIP = 1 ∧ s.dev.Counted d (if x.val = 0 then ADC_SKIPCNT_SKIPA else ADC_SKIPCNT_SKIPB) ∧
          s.dev.Changes [.time, .adc] (At [TIM_WRAP, ADC_EVT, ADC_SKIPCNT]) d)) ∧
      (s.dev.get (ADC_SCTL_EN x) = 0 ∨ s.dev.get (ADC_SCTL_MODE x) ≠ 0 ∨ s.dev.running = false ∨ s.dev.cyc.inCycle = false →
        Runs (.adcRunStart x volts) .device s fun d => d.adc = { s.dev.adc with ain := volts } ∧ s.dev.Changes [.adc] (At []) d)) ∧
    (s.Lets o ADC_SWSTART →
      (mask.getLsbD x = true → s.dev.get (ADC_SCTL_EN x) = 1 → s.dev.get (ADC_SCTL_MODE x) = 1 → (s.dev.conv x).run = none →
        Comes (.adcSwstart o mask volts) o s fun d =>
          (d.conv x).run.map (fun r => (r.start, r.i, r.len, r.cfg, r.cycle)) =
            some (s.dev.time.up, 0, adcLen s.dev.adcConfig x, s.dev.adcConfig, none) ∧
          d.get (busyFld x) = 1 ∧ s.dev.Changes [.adc, .out] (InAny [bADC]) d) ∧
      (mask.getLsbD x = true → s.dev.get (ADC_SCTL_EN x) = 1 → s.dev.get (ADC_SCTL_MODE x) = 1 → (s.dev.conv x).run.isSome = true →
        Comes (.adcSwstart o mask volts) o s fun d => (d.conv x).run = (s.dev.conv x).run ∧ d.get ADC_EVT_SKIP = 1 ∧
          s.dev.Counted d (if x.val = 0 then ADC_SKIPCNT_SKIPA else ADC_SKIPCNT_SKIPB) ∧ s.dev.Changes [.adc, .out] (InAny [bADC]) d) ∧
      (mask.getLsbD x = true → s.dev.get (ADC_SCTL_EN x) = 0 ∨ s.dev.get (ADC_SCTL_MODE x) = 0 →
        Comes (.adcSwstart o mask volts) o s fun d => d.get ADC_EVT_SWREF = 1 ∧ (d.conv x).run = (s.dev.conv x).run ∧
          s.dev.Changes [.adc, .out] (InAny [bADC]) d) ∧
      (mask.getLsbD x = false → Comes (.adcSwstart o mask volts) o s fun d => (d.conv x).run = (s.dev.conv x).run ∧
          d.get (busyFld x) = s.dev.get (busyFld x) ∧ s.dev.Changes [.adc, .out] (InAny [bADC]) d))) ∧
  (∀ (s : State) (o : Origin) (x : Fin 2) (volts : List Nat) (r : AdcRun) (e : AdcEntry) (v : Word) (n : Fin 24),
    (s.dev.held = false → (s.dev.conv x).run = some r → r.i < 32 → e = (s.dev.conv x).entry r.i →
      (r.i + 1 < r.len → Runs (.adcPublish x volts) .device s fun d => (d.conv x).run.map (fun y => (y.start, y.i, y.len, y.cfg)) =
        some (r.start, r.i + 1, r.len, r.cfg) ∧
        (s.dev.time.on = true → r.start + 1000 * (r.i + 1) ≤ d.time.up)) ∧
      (r.len ≤ r.i + 1 → Runs (.adcPublish x volts) .device s fun d => (d.conv x).run = none ∧ d.get (busyFld x) = 0) ∧
      (2 ^ adcAvg r.cfg x r.i ≤ e.n + 1 → Runs (.adcPublish x volts) .device s fun d => d.get (ADC_RES_NEW x r.i) = 1 ∧
        d.get (ADC_RES_VALID x r.i) = 1 ∧ d.get (ADC_RES_RES x r.i) = (e.sum + r.code) / 2 ^ adcShift r.cfg x r.i % 2 ^ 20 ∧
        d.get (ADC_RES_OPEN x r.i) = (if e.trip || tripped r.pull r.code then 1 else 0) ∧
        d.get (ADC_RES_SETTLE x r.i) = (if e.settle || r.settle || e.changed then 1 else 0) ∧
        (s.dev.get (ADC_RES_NEW x r.i) = 1 → d.get (ADC_RES_OVR x r.i) = 1 ∧ d.get ADC_EVT_OVR = 1) ∧
        s.dev.Changes [.time, .adc, .saf] (InAny [bTIM, bADC, bLOOP, bSAF]) d) ∧
      (e.n + 1 < 2 ^ adcAvg r.cfg x r.i → Runs (.adcPublish x volts) .device s fun d =>
        d.word (ADC_RES x r.i) = s.dev.word (ADC_RES x r.i) ∧
        (tripped r.pull r.code = true → d.get ADC_EVT_OPEN = 1) ∧
        s.dev.Changes [.time, .adc] (At [TIM_WRAP, ADC_EVT, ADC_STAT]) d)) ∧
    (s.dev.held = false → (s.dev.conv x).run = none → Runs (.adcPublish x volts) .device s fun d =>
      d.adc = { s.dev.adc with ain := volts } ∧ s.dev.Changes [.adc] (At []) d) ∧
    (s.Lets o ADC_OW0 → Comes (.adcOwWrite o 0 v) o s fun d => d.word ADC_OW0 = v ∧
      (n.val < 16 → v.toNat / 4 ^ n.val % 4 ≠ s.dev.get ADC_OW0_OW0 / 4 ^ n.val % 4 → d.adc.owFirst.testBit n = true) ∧
      s.dev.Changes [.adc, .out] (At [ADC_OW0]) d) ∧
    (s.Lets o ADC_OW1 → Comes (.adcOwWrite o 1 v) o s fun d => d.get ADC_OW1_OW1 = v.toNat % 2 ^ 16 ∧
      (16 ≤ n.val → v.toNat / 4 ^ (n.val - 16) % 4 ≠ s.dev.get ADC_OW1_OW1 / 4 ^ (n.val - 16) % 4 → d.adc.owFirst.testBit n = true) ∧
      s.dev.Changes [.adc, .out] (At [ADC_OW1]) d))

/-! ### Recorders and TRIG_IO (R272 to R289) -/

/-- R275, R276, R287: ARM starts an instance that is IDLE or DONE and meets the checks of R276, which takes its configuration,
and is refused with its code otherwise; DISARM discards a record in progress, and ends a readout at the end of the header or
row in transfer; READ starts the readout of a record that is DONE. No other instance changes. R275, R277, R279, R280: FORCE and
the automatic trigger take an instance in PREFILL or ARMED to POST with the trigger at t₀ of the present cycle, and on to DONE
if its POST rows are stored already: its source code is in TTRIGF, and SHORTPRE set if it was still filling. In IDLE and DONE
they change nothing, nor does the automatic trigger before its time. R287, R358, R361, R366, R419: a block of a record being
read out goes into the REC ring, with the record's instance, when the ring takes it; the last one ends the readout. Errors of
the DDR4 beats read count. Where no record is read out or the ring does not take a block, none goes. R288, R289: TRIG_IO. With
LINEEN = 1 a falling edge is timed; a low period of 100 ns to 2 µs is a fire, which triggers every instance with IOTRIG that
captures; one of 4 µs to 16 µs is an ARM, which arms every instance with IOARM or is refused; any shorter one sets GEVT, and
one that passes 16 µs is stuck. ARMOUT pulls the line for 8 µs, at once on a line that is high, or when it has been so; what is
due is driven after 1 µs of high, a fire before an ARM; the device releases the line at the end of its pulse. With LINEEN = 0
the line is neither timed nor driven. -/
def Obligations.Recorder : Prop :=
  (∀ (s : State) (o : Origin) (n m : Fin 4) (c : Nat), s.Lets o (REC_CTRL n) →
    (s.dev.get (REC_STAT_STATE n) = 0 ∨ s.dev.get (REC_STAT_STATE n) = 4 →
      (s.dev.recRefusal n (s.dev.recConfig n) = none → Comes (.recArm o n) o s fun d =>
        d.get (REC_STAT_STATE n) = (if s.dev.get (REC_PRE_PRE n) = 0 then 2 else 1) ∧ d.get (REC_ROWS_ROWS n) = 0 ∧
        (d.recInst n).cfg = s.dev.recConfig n ∧ (d.recInst n).trig = none ∧ (m ≠ n → d.recInst m = s.dev.recInst m) ∧
        s.dev.Changes [.rcd, .out] (At [REC_STAT n, REC_ROWS n, REC_ROWB n, REC_EVT n]) d) ∧
      (s.dev.recRefusal n (s.dev.recConfig n) = some c → Comes (.recArm o n) o s fun d => d.get (REC_STAT_REFCODE n) = c ∧
        d.bit (REC_EVT_EVT n) 4 = true ∧ d.get (REC_STAT_STATE n) = s.dev.get (REC_STAT_STATE n) ∧
        s.dev.Changes [.out] (At [REC_STAT n, REC_EVT n]) d)) ∧
    (s.dev.get (REC_STAT_STATE n) = 1 ∨ s.dev.get (REC_STAT_STATE n) = 2 ∨ s.dev.get (REC_STAT_STATE n) = 3 →
      (Comes (.recArm o n) o s fun d => d.get (REC_STAT_REFCODE n) = 7 ∧ d.bit (REC_EVT_EVT n) 4 = true ∧
        s.dev.Changes [.out] (At [REC_STAT n, REC_EVT n]) d) ∧
      (Comes (.recDisarm o n) o s fun d => d.get (REC_STAT_STATE n) = 0 ∧
        (s.dev.get (REC_STAT_RDBUSY n) = 0 → d.get (REC_STAT_RDBUSY n) = 0) ∧ n.val ∉ d.rcd.dueFire ∧
        (m ≠ n → d.recInst m = s.dev.recInst m) ∧ s.dev.Changes [.rcd, .out] (At [REC_STAT n]) d)) ∧
    (s.dev.get (REC_STAT_STATE n) = 4 → s.dev.get (REC_STAT_RDBUSY n) = 1 → Comes (.recDisarm o n) o s fun d =>
      d.get (REC_STAT_STATE n) = 0 ∧
      (rowEnd (s.dev.recInst n).rdPos (s.dev.get (REC_ROWB_ROWB n)) ≤ (s.dev.recInst n).rdPos → d.get (REC_STAT_RDBUSY n) = 0) ∧
      ((s.dev.recInst n).rdPos < rowEnd (s.dev.recInst n).rdPos (s.dev.get (REC_ROWB_ROWB n)) → d.get (REC_STAT_RDBUSY n) = 1 ∧
        d.recordSize n = rowEnd (s.dev.recInst n).rdPos (s.dev.get (REC_ROWB_ROWB n))) ∧
      s.dev.Changes [.rcd, .out] (At [REC_STAT n]) d) ∧
    (s.dev.get (REC_STAT_STATE n) = 0 → Comes (.recDisarm o n) o s fun d => s.dev.Changes [.out] (At []) d) ∧
    (s.dev.get (REC_STAT_STATE n) = 4 → s.dev.get (REC_STAT_RDBUSY n) = 0 → Comes (.recRead o n) o s fun d =>
      d.get (REC_STAT_RDBUSY n) = 1 ∧ (d.recInst n).rdPos = 0 ∧ (m ≠ n → d.recInst m = s.dev.recInst m) ∧
      s.dev.Changes [.rcd, .out] (At [REC_STAT n]) d) ∧
    (s.dev.get (REC_STAT_STATE n) ≠ 4 ∨ s.dev.get (REC_STAT_RDBUSY n) = 1 → Comes (.recRead o n) o s fun d => s.dev.Changes [.out] (At []) d)) ∧
  (∀ (s : State) (o : Origin) (n m : Fin 4),
    (s.Lets o (REC_CTRL n) →
      (s.dev.get (REC_STAT_STATE n) = 1 ∨ s.dev.get (REC_STAT_STATE n) = 2 → Comes (.recForce o n) o s fun d =>
        (d.get (REC_STAT_STATE n) = 3 ∨ d.get (REC_STAT_STATE n) = 4) ∧
        d.get (REC_STAT_SHORTPRE n) = (if s.dev.get (REC_STAT_STATE n) = 1 then 1 else 0) ∧
        d.bit (REC_EVT_EVT n) 1 = true ∧ d.word (REC_TTRIG n) = nsOf s.dev.cyc.t0 ∧ d.get (REC_TTRIGF_TTRIGF n) / 256 = 5 ∧
        (d.recInst n).trig.map (fun t => (t.inst, t.source, t.cyc)) = some (s.dev.cyc.t0, 5, s.dev.cycle) ∧
        (m ≠ n → d.word (REC_STAT m) = s.dev.word (REC_STAT m)) ∧
        s.dev.Changes [.rcd, .mem, .out] (At [REC_STAT n, REC_EVT n, REC_TTRIG n, REC_TTRIGF n, REC_IOTIME, REC_IOINFO]) d) ∧
      (s.dev.get (REC_STAT_STATE n) = 0 ∨ s.dev.get (REC_STAT_STATE n) = 4 → Comes (.recForce o n) o s fun d => s.dev.Changes [.out] (At []) d)) ∧
    (s.dev.held = false →
      (s.dev.get (REC_STAT_STATE n) = 1 ∨ s.dev.get (REC_STAT_STATE n) = 2 → (s.dev.recInst n).get (REC_CTRL_AUTO n) = 1 →
        (s.dev.recInst n).get (REC_AUTOTO_AUTOTO n) ≤ (s.dev.recInst n).age → Runs (.recAutoTrigger n) .device s fun d =>
          (d.get (REC_STAT_STATE n) = 3 ∨ d.get (REC_STAT_STATE n) = 4) ∧
          d.get (REC_STAT_SHORTPRE n) = (if s.dev.get (REC_STAT_STATE n) = 1 then 1 else 0) ∧ d.bit (REC_EVT_EVT n) 1 = true ∧
          d.word (REC_TTRIG n) = nsOf s.dev.cyc.t0 ∧ d.get (REC_TTRIGF_TTRIGF n) / 256 = 6 ∧
          s.dev.Changes [.rcd, .mem] (At [REC_STAT n, REC_EVT n, REC_TTRIG n, REC_TTRIGF n]) d) ∧
      (s.dev.get (REC_STAT_STATE n) = 0 ∨ s.dev.get (REC_STAT_STATE n) = 4 ∨ (s.dev.recInst n).get (REC_CTRL_AUTO n) = 0 ∨
        (s.dev.recInst n).age < (s.dev.recInst n).get (REC_AUTOTO_AUTOTO n) → Runs (.recAutoTrigger n) .device s fun d => d = s.dev))) ∧
  (∀ (s : State) (n : Fin 4) (errs : List (Nat × DdrFault)), s.dev.held = false →
    (s.dev.recNext = some n.val → s.dev.get (HIF_RING_CTL_EN 5) = 1 → s.dev.get HIF_STAT_BME = 1 → s.dev.ringFill 5 < s.dev.ringSize 5 →
      Runs (.recReadoutBlock errs) .device s fun d =>
        (d.recInst n).rdPos = (s.dev.recInst n).rdPos + min 4064 (s.dev.recordSize n - (s.dev.recInst n).rdPos) ∧
        (s.dev.recordSize n ≤ (s.dev.recInst n).rdPos + 4064 → d.get (REC_STAT_RDBUSY n) = 0) ∧
        (s.dev.recordSize n > (s.dev.recInst n).rdPos + 4064 → d.get (REC_STAT_RDBUSY n) = 1) ∧
        d.get (HIF_RING_DIDX_DIDX 5) = (s.dev.get (HIF_RING_DIDX_DIDX 5) + 1) % (2 * s.dev.ringSize 5) ∧
        (errs = [] → s.dev.Changes [.rcd, .hif, .out] (At [REC_STAT n, HIF_RING_DIDX 5]) d) ∧
        s.dev.Changes [.rcd, .hif, .out] (Either (At [REC_STAT n, HIF_RING_DIDX 5]) (InAny [bMEM])) d) ∧
    (s.dev.recNext = none ∨ s.dev.get (HIF_RING_CTL_EN 5) = 0 ∨ s.dev.get HIF_STAT_BME = 0 ∨ s.dev.ringSize 5 ≤ s.dev.ringFill 5 →
      Runs (.recReadoutBlock errs) .device s fun d => d = s.dev)) ∧
  (∀ (s : State) (o : Origin) (n : Fin 4) (t f : BitVec 48) (u q : Nat),
    (s.dev.held = false →
      (s.dev.rcd.low = none → Runs (.trigIoFall t) .device s fun d => d.rcd.low = some ((t >>> 14) <<< 14) ∧
        d.rcd.heard = s.dev.is REC_IOCFG_LINEEN ∧ (s.dev.get REC_IOCFG_LINEEN = 1 → d.word REC_IOTIME = nsOf t) ∧
        s.dev.Changes [.time, .rcd] (At (TIM_WRAP :: (if s.dev.is REC_IOCFG_LINEEN then [REC_IOTIME, REC_IOINFO] else []))) d) ∧
      (s.dev.rcd.low.isSome = true → Runs (.trigIoFall t) .device s fun d => s.dev.Changes [.time] (At [TIM_WRAP]) d) ∧
      (s.dev.rcd.low = none ∨ s.dev.rcd.drive.isSome = true → Runs (.trigIoRise t) .device s fun d =>
        s.dev.Changes [.time] (At [TIM_WRAP]) d) ∧
      (s.dev.rcd.low = some f → s.dev.rcd.drive = none → s.dev.rcd.heard = false → Runs (.trigIoRise t) .device s fun d =>
        d.rcd.low = none ∧ d.rcd.highSince = d.time.up ∧ s.dev.Changes [.time, .rcd] (At [TIM_WRAP]) d) ∧
      (s.dev.get REC_IOCFG_LINEEN = 1 → s.dev.rcd.low = some f → s.dev.rcd.drive = none → s.dev.rcd.heard = true →
        q = (((t >>> 14) <<< 14) - f).toNat / 16384 →
        (q < 400 ∨ (8000 < q ∧ q < 16000) → Runs (.trigIoRise t) .device s fun d => d.rcd.low = none ∧ d.bit REC_GEVT_GEVT 0 = true ∧
          s.dev.Changes [.time, .rcd] (At [TIM_WRAP, REC_IOINFO, REC_GEVT]) d) ∧
        (400 ≤ q → q ≤ 8000 → Runs (.trigIoRise t) .device s fun d => d.rcd.low = none ∧
          ((s.dev.recInst n).get (REC_CTRL_IOTRIG n) = 1 → s.dev.get (REC_STAT_STATE n) = 1 ∨ s.dev.get (REC_STAT_STATE n) = 2 →
            (d.get (REC_STAT_STATE n) = 3 ∨ d.get (REC_STAT_STATE n) = 4) ∧ d.get (REC_TTRIGF_TTRIGF n) / 256 = 4 ∧
            d.word (REC_TTRIG n) = nsOf (f - BitVec.ofNat 48 (s.dev.get REC_IOCFG_IODLY * 65536))) ∧
          ((s.dev.recInst n).get (REC_CTRL_IOTRIG n) = 0 → d.word (REC_STAT n) = s.dev.word (REC_STAT n)) ∧
          s.dev.Changes [.time, .rcd, .mem] (InAny [bTIM, bREC]) d) ∧
        (16000 ≤ q → q ≤ 64000 → Runs (.trigIoRise t) .device s fun d => d.rcd.low = none ∧
          (s.dev.armsOnIo n = true → s.dev.get (REC_STAT_STATE n) = 0 ∨ s.dev.get (REC_STAT_STATE n) = 4 →
            d.get (REC_STAT_STATE n) = 1 ∨ d.get (REC_STAT_STATE n) = 2 ∨ d.bit (REC_EVT_EVT n) 5 = true) ∧
          (s.dev.armsOnIo n = false → d.word (REC_STAT n) = s.dev.word (REC_STAT n)) ∧
          s.dev.Changes [.time, .rcd] (InAny [bTIM, bREC]) d)) ∧
      (s.dev.get REC_IOCFG_LINEEN = 1 → s.dev.rcd.low = some f → s.dev.rcd.heard = true → s.dev.rcd.stuck = false →
        Runs .linestuck .device s fun d =>
          d.bit REC_GEVT_GEVT 1 = true ∧ d.rcd.stuck = true ∧ s.dev.Changes [.time, .rcd] (At [TIM_WRAP, REC_GEVT]) d) ∧
      (s.dev.rcd.low = none ∨ s.dev.rcd.heard = false ∨ s.dev.rcd.stuck = true ∨ s.dev.get REC_IOCFG_LINEEN = 0 →
        Runs .linestuck .device s fun d => d = s.dev) ∧
      (s.dev.get REC_IOCFG_LINEEN = 1 → s.dev.rcd.low = none → s.dev.rcd.dueFire ≠ [] → Runs .trigIoDeferredDrive .device s fun d =>
        d.rcd.dueFire = [] ∧ d.rcd.fires = s.dev.rcd.dueFire ∧ d.rcd.drive = some (d.time.up + 500) ∧ d.out = .pin .trigIo .low :: s.dev.out ∧
        s.dev.Changes [.time, .rcd, .out] (At [TIM_WRAP, REC_IOTIME, REC_IOINFO]) d) ∧
      (s.dev.get REC_IOCFG_LINEEN = 1 → s.dev.rcd.low = none → s.dev.rcd.dueFire = [] → s.dev.rcd.dueArm = true →
        Runs .trigIoDeferredDrive .device s fun d =>
          d.rcd.dueArm = false ∧ d.rcd.drive = some (d.time.up + 8000) ∧ d.out = .pin .trigIo .low :: s.dev.out ∧
          s.dev.Changes [.time, .rcd, .out] (At [TIM_WRAP, REC_IOTIME, REC_IOINFO]) d) ∧
      (s.dev.get REC_IOCFG_LINEEN = 0 ∨ s.dev.rcd.low.isSome = true ∨ (s.dev.rcd.dueFire = [] ∧ s.dev.rcd.dueArm = false) →
        Runs .trigIoDeferredDrive .device s fun d => d = s.dev) ∧
      (s.dev.rcd.drive = some u → Runs .trigIoPulseEnd .device s fun d => d.rcd.drive = none ∧
        d.out = .pin .trigIo .released :: s.dev.out ∧ s.dev.Changes [.time, .rcd, .out] (At [TIM_WRAP]) d) ∧
      (s.dev.rcd.drive = none → Runs .trigIoPulseEnd .device s fun d => d = s.dev)) ∧
    (s.Lets o REC_IOCMD →
      (s.dev.get REC_IOCFG_LINEEN = 1 → s.dev.rcd.low = none → Comes (.armout o) o s fun d => d.rcd.low = some s.dev.time.tb0 ∧
        d.rcd.drive = some (s.dev.time.up + 8000) ∧ Emission.pin .trigIo .low ∈ d.out ∧
        s.dev.Changes [.rcd, .out] (At [REC_IOTIME, REC_IOINFO]) d) ∧
      (s.dev.get REC_IOCFG_LINEEN = 1 → s.dev.rcd.low.isSome = true → Comes (.armout o) o s fun d =>
        d.rcd = { s.dev.rcd with dueArm := true } ∧ s.dev.Changes [.rcd, .out] (At []) d) ∧
      (s.dev.get REC_IOCFG_LINEEN = 0 → Comes (.armout o) o s fun d => s.dev.Changes [.out] (At []) d)))

/-! ### Safety functions (R329 to R355) -/

/-- Registers of SAF that inputs and demands write. -/
def Sys2Proof.Machine.safRegs : List Nat := [SAF_PIN, SAF_SCCAUSE, SAF_EVT, SAF_STAT, SAF_DEMAND]

/-- R330, R331, R332, R334, R339: safety inputs. A level that its ball has held for FILT shows in SAF_PIN; an open GUARD
channel raises the GUARD demand and an active BLOCK_REQ channel the BREQ demand, latched at once, which cease with their
channels. Closing both GUARD channels after both were open without a discrepancy sets GTDONE. Two channels that differ for more
than TDISC are an SC cause, which on GUARD clears GTDONE; so is a SAFE_OK ball that differs from its command for 100 µs. -/
def Obligations.SafetyInputs : Prop := ∀ (s : State) (ch : Fin 4) (pair : Fin 2) (lvl b : Bool) (held : Nat) (x : Option Bool),
  s.dev.held = false →
  (held < 1000 * s.dev.get SAF_TIM_FILT → Runs (.safInputFiltered ch lvl held) .device s fun d => d = s.dev) ∧
  (1000 * s.dev.get SAF_TIM_FILT ≤ held →
    (Runs (.safInputFiltered ch lvl held) .device s fun d => d.bit SAF_PIN_PINS ch = lvl ∧ d.saf.settled[ch.val]? = some true ∧
      (ch.val < 2 → lvl = false → d.saf.present kGUARD = true) ∧ (2 ≤ ch.val → lvl = false → d.saf.present kBREQ = true) ∧
      (ch.val < 2 → lvl = true → s.dev.inputIs (1 - ch.val) true = true → d.saf.src.any (fun x => x.kind == kGUARD && x.key == 0) = false) ∧
      (2 ≤ ch.val → lvl = true → s.dev.inputIs (5 - ch.val) true = true → d.saf.src.any (fun x => x.kind == kBREQ && x.key == 0) = false) ∧
      (ch.val < 2 → lvl = false → s.dev.saf.present kGUARD = false → d.bit SAF_DEMAND_LATCH kGUARD = true) ∧
      (2 ≤ ch.val → lvl = false → s.dev.saf.present kBREQ = false → d.bit SAF_DEMAND_LATCH kBREQ = true) ∧
      s.dev.Changes [.saf] (At safRegs) d) ∧
    (ch.val < 2 → lvl = true → s.dev.inputIs (1 - ch.val) true = true → s.dev.saf.gtOpen = true → s.dev.saf.gtBad = false →
      lasted (nth s.dev.saf.differ 0 none) s.dev.time.cio (s.dev.tdisc + 1) = false →
      Runs (.safInputFiltered ch lvl held) .device s fun d => d.get SAF_STAT_GTDONE = 1)) ∧
  ((nth s.dev.saf.differ pair none).isSome = true → Runs (.channelDiscrepancy pair) .device s fun d =>
    d.bit SAF_SCCAUSE_SC pair = true ∧ (s.dev.bit SAF_SCCAUSE_SC pair = false → d.bit SAF_EVT_EVT 1 = true ∧
      (pair.val = 0 → d.get SAF_STAT_GTDONE = 0)) ∧ lasted (nth s.dev.saf.differ pair none) d.time.cio (s.dev.tdisc + 1) = true ∧
    s.dev.Changes [.time, .saf] (At [TIM_WRAP, SAF_SCCAUSE, SAF_EVT, SAF_STAT]) d) ∧
  (nth s.dev.saf.differ pair none = none → Runs (.channelDiscrepancy pair) .device s fun d => d = s.dev) ∧
  (x = some (!s.dev.is SAF_STAT_SAFEOK) → Runs (.safeOkReadbackFault b x) .device s fun d => d.bit SAF_SCCAUSE_SC 2 = true ∧
    (s.dev.bit SAF_SCCAUSE_SC 2 = false → d.bit SAF_EVT_EVT 1 = true) ∧ (if b then d.saf.stuckB else d.saf.stuckA) = x ∧
    s.dev.Changes [.time, .saf] (At [TIM_WRAP, SAF_SCCAUSE, SAF_EVT]) d) ∧
  (x ≠ some (!s.dev.is SAF_STAT_SAFEOK) → Runs (.safeOkReadbackFault b x) .device s fun d =>
    (if b then d.saf.stuckB else d.saf.stuckA) = x ∧ (if b then d.saf.rbB else d.saf.rbA) = none ∧ s.dev.Changes [.saf] (At []) d)

/-- R333, R334: a class F fault, of the two channels or of their oscillators, sets SAF_STAT.FAIL and raises the FAIL demand for
every arm. The oscillators are one when they differ by more than 5 % for 1 ms while the root clock is locked. R334, R340, R341:
an arm overvoltage channel that has published nothing in 4 cycles while the cycle timer runs, or differs from the other for
TDISC, is SC cause 3; the other channel then acts alone. In another state, or with SOV off, nothing changes. -/
def Obligations.SafetyFaults : Prop :=
  (∀ (s : State) (ppm ns : Nat), s.dev.held = false →
    (Runs .safChannelMismatch .device s fun d => d.saf.classF = true ∧ d.get SAF_STAT_FAIL = 1 ∧ d.saf.present kFAIL = true ∧
      (s.dev.saf.present kFAIL = false → d.bit SAF_DEMAND_LATCH 7 = true ∧ d.saf.wanted = 4095) ∧
      s.dev.Changes [.saf] (At [SAF_STAT, SAF_DEMAND, SAF_EVT]) d) ∧
    (s.dev.get CLK_STAT_SRC = 1 → s.dev.get CLK_STAT_MDLLRDY = 1 → 50000 < ppm → 1000000 ≤ ns →
      Runs (.safOscillatorDifference ppm ns) .device s fun d => d.saf.classF = true ∧ d.get SAF_STAT_FAIL = 1 ∧ d.saf.present kFAIL = true ∧
        (s.dev.saf.present kFAIL = false → d.bit SAF_DEMAND_LATCH 7 = true ∧ d.saf.wanted = 4095) ∧
        s.dev.Changes [.saf] (At [SAF_STAT, SAF_DEMAND, SAF_EVT]) d) ∧
    (s.dev.get CLK_STAT_SRC = 0 ∨ s.dev.get CLK_STAT_MDLLRDY = 0 ∨ ppm ≤ 50000 ∨ ns < 1000000 →
      Runs (.safOscillatorDifference ppm ns) .device s fun d => d = s.dev)) ∧
  (∀ (s : State) (a : Fin 12) (b : Bool), s.dev.held = false →
    (s.dev.get (SAF_SOVCFG_EN a) = 1 → s.dev.running = true → 4 < (if b then (s.dev.sov a).b else (s.dev.sov a).a).quiet →
      Runs (.sovChannelSilent a b) .device s fun d => d.bit SAF_SCCAUSE_SC 3 = true ∧
        (if b then (d.sov a).b.silent else (d.sov a).a.silent) = true ∧
        ((d.sov a).dem = true → (s.dev.sov a).dem = true) ∧ s.dev.Changes [.saf] (At [SAF_SCCAUSE, SAF_EVT, SAF_DEMAND]) d) ∧
    (s.dev.get (SAF_SOVCFG_EN a) = 0 ∨ s.dev.running = false ∨ (if b then (s.dev.sov a).b else (s.dev.sov a).a).quiet ≤ 4 →
      Runs (.sovChannelSilent a b) .device s fun d => d = s.dev) ∧
    (s.dev.get (SAF_SOVCFG_EN a) = 1 → (s.dev.sov a).since.isSome = true → Runs (.sovDiscrepancy a) .device s fun d =>
      d.bit SAF_SCCAUSE_SC 3 = true ∧ (d.sov a).disc = true ∧ lasted (s.dev.sov a).since d.time.cio s.dev.tdisc = true ∧
      s.dev.Changes [.time, .saf] (At [TIM_WRAP, SAF_SCCAUSE, SAF_EVT, SAF_DEMAND]) d) ∧
    (s.dev.get (SAF_SOVCFG_EN a) = 0 ∨ (s.dev.sov a).since = none → Runs (.sovDiscrepancy a) .device s fun d => d = s.dev))

/-- R333, R336: the acknowledge clears every latched kind whose source has ceased, and only those, with the arms it named; FAIL
stays. One that stays sets SAF_EVT.ACKREF. R347, R348, R349: the timer of a degraded mode that runs out raises the EXP demand,
latched; one that is held or has expired does nothing. The mode ends when no cause has been present for RECOV. -/
def Obligations.DemandsAndDegradedModes : Prop :=
  (∀ (s : State) (o : Origin) (k : Fin 8), s.Lets o SAF_CTRL →
    Comes (.safAckWrite o) o s fun d =>
      (d.bit SAF_DEMAND_LATCH k = (s.dev.bit SAF_DEMAND_LATCH k && (s.dev.saf.present k || k.val == 7))) ∧
      (d.bit SAF_DEMAND_LATCH k = false → s.dev.bit SAF_DEMAND_LATCH k = true → nth d.saf.latch k 0 = 0) ∧
      (d.get SAF_DEMAND_LATCH ≠ 0 → d.bit SAF_EVT_EVT 3 = true) ∧ d.saf.src = s.dev.saf.src ∧
      d.saf.toAudit = s.dev.saf.toAudit ++ [(8, o)] ∧ s.dev.Changes [.saf, .out] (At [SAF_DEMAND, SAF_EVT]) d) ∧
  (∀ (s : State) (k : Deg), s.dev.held = false →
    ((s.dev.degTimer k).on = true → (s.dev.degTimer k).since.isSome = true → (s.dev.degTimer k).expired = false →
      Runs (.degradedTimerExpiry k) .device s fun d => d.degTimer k = { s.dev.degTimer k with expired := true } ∧ d.saf.present kEXP = true ∧
        s.dev.degTime k * 95 / 100 ≤ (s.dev.degTimer k).count d.time.cio ∧
        (s.dev.saf.present kEXP = false → d.bit SAF_DEMAND_LATCH 6 = true ∧ d.bit SAF_EVT_EVT 2 = true) ∧
        s.dev.Changes [.time, .saf] (At [TIM_WRAP, SAF_DEMAND, SAF_EVT]) d) ∧
    ((s.dev.degTimer k).on = false ∨ (s.dev.degTimer k).expired = true ∨
      ((s.dev.degTimer k).since = none ∧ (s.dev.degTimer k).clear ≠ some s.dev.time.cio) →
      Runs (.degradedTimerExpiry k) .device s fun d => d = s.dev) ∧
    ((s.dev.degTimer k).on = true → (s.dev.degTimer k).clear.isSome = true →
      (k = .saf ∨ k = .clk → Runs (.degradedModeEnd k) .device s fun d => d.degTimer k = DegTimer.init ∧
        d.saf.src.any (fun x => x.kind == kEXP && x.key == k.key) = false ∧
        lasted (s.dev.degTimer k).clear d.time.cio s.dev.recov = true ∧ s.dev.Changes [.time, .saf] (At [TIM_WRAP]) d) ∧
      (k ≠ .saf → k ≠ .clk → Runs (.degradedModeEnd k) .device s fun d => (d.degTimer k).expired = false ∧
        d.saf.src.any (fun x => x.kind == kEXP && x.key == k.key) = false ∧
        lasted (s.dev.degTimer k).clear d.time.cio s.dev.recov = true ∧
        s.dev.Changes [.time, .saf] (At [TIM_WRAP, SAF_RINGDEG_LO, SAF_RINGDEG_HI, SAF_RINGSOLE_LO, SAF_RINGSOLE_HI, SAF_STAT]) d)) ∧
    ((s.dev.degTimer k).on = false ∨ (s.dev.degTimer k).clear = none → Runs (.degradedModeEnd k) .device s fun d => d = s.dev))

/-- R345, R353, R354, R355: CONFLOCK ends with its count. An Ethernet frame that carries a valid telegram with a newer number
is taken, ends its port's PATH cause and sets or ends the STBLK demand as its BLOCK bit says; a frame without a valid one
changes nothing, an old one counts, and the other port's copy that differs is a mismatch, which ends STTO after the last. A
port silent for STTO is a PATH cause. The status telegram leaves on both ports with the next number, every STPER. -/
def Obligations.StationTelegrams : Prop := ∀ (s : State) (port : Fin 2) (src : BitVec 48) (f b : List Byte) (t : TelCopy) (u : Nat),
  s.dev.held = false →
  (s.dev.saf.lockUntil = some u → Runs .conflockEnd .device s fun d => d.get SAF_STAT_CONFLOCK = 0 ∧ d.get SAF_CONF_FAILS = 0 ∧
    d.saf.lockUntil = none ∧ u ≤ d.time.cio ∧ s.dev.Changes [.time, .saf] (At [TIM_WRAP, SAF_STAT, SAF_CONF]) d) ∧
  (s.dev.saf.lockUntil = none → Runs .conflockEnd .device s fun d => d = s.dev) ∧
  (ethTelegram f = some (src, b) → s.dev.telValid b = true →
    (s.dev.saf.tel = none ∨ (s.dev.saf.tel = some t ∧ newer32 (BitVec.ofNat 32 (leAt b 8 4)) t.seq = true) →
      Runs (.stationTelegramReceive port f) .device s fun d =>
        d.saf.tel = some ⟨BitVec.ofNat 32 (leAt b 8 4), b.take 28, port, src⟩ ∧ d.bit SAF_SCCAUSE_SC (4 + port) = false ∧
        (leAt b 16 2 % 2 = 1 → d.saf.present kSTBLK = true) ∧
        (leAt b 16 2 % 2 = 0 → d.saf.src.any (fun x => x.kind == kSTBLK && x.key == 0) = false) ∧
        d.saf.src.any (fun x => x.kind == kSTTO && x.key == 0) = false ∧
        s.dev.Changes [.saf] (At [SAF_SCCAUSE, SAF_STCNT0, SAF_DEMAND, SAF_EVT]) d) ∧
    (s.dev.saf.tel = some t → newer32 (BitVec.ofNat 32 (leAt b 8 4)) t.seq = false →
      (BitVec.ofNat 32 (leAt b 8 4) ≠ t.seq ∨ port.val = t.port → Runs (.stationTelegramReceive port f) .device s fun d =>
        d.saf.tel = some t ∧ s.dev.Counted d SAF_STCNT1_OLD ∧ d.bit SAF_SCCAUSE_SC (4 + port) = false ∧
        s.dev.Changes [.saf] (At [SAF_SCCAUSE, SAF_STCNT0, SAF_STCNT1, SAF_DEMAND, SAF_EVT]) d) ∧
      (BitVec.ofNat 32 (leAt b 8 4) = t.seq → port.val ≠ t.port → b.take 28 ≠ t.bytes →
        Runs (.stationTelegramReceive port f) .device s fun d => d.saf.tel = some t ∧ d.bit SAF_SCCAUSE_SC 6 = true ∧
          s.dev.Counted d SAF_STCNT1_MISM ∧ d.saf.mismAt = some d.time.cio ∧
          s.dev.Changes [.saf] (At [SAF_SCCAUSE, SAF_STCNT0, SAF_STCNT1, SAF_DEMAND, SAF_EVT]) d) ∧
      (BitVec.ofNat 32 (leAt b 8 4) = t.seq → port.val ≠ t.port → b.take 28 = t.bytes →
        Runs (.stationTelegramReceive port f) .device s fun d => d.saf.tel = some t ∧ d.bit SAF_SCCAUSE_SC (4 + port) = false ∧
          s.dev.Changes [.saf] (At [SAF_SCCAUSE, SAF_STCNT0, SAF_DEMAND, SAF_EVT]) d))) ∧
  (ethTelegram f = none ∨ (ethTelegram f = some (src, b) ∧ s.dev.telValid b = false) →
    Runs (.stationTelegramReceive port f) .device s fun d => d = s.dev) ∧
  (s.dev.get SAF_CFG_STEN = 1 → s.dev.bit SAF_SCCAUSE_SC (4 + port) = false → Runs (.stationTelegramTimeout port) .device s fun d =>
    d.bit SAF_SCCAUSE_SC (4 + port) = true ∧ s.dev.Counted d (if port.val = 0 then SAF_STCNT0_LOST0 else SAF_STCNT0_LOST1) ∧
    (s.dev.bit SAF_SCCAUSE_SC (5 - port) = true → d.saf.present kSTTO = true) ∧ s.dev.quietFrom port + s.dev.stto ≤ d.time.cio ∧
    s.dev.Changes [.time, .saf] (At [TIM_WRAP, SAF_SCCAUSE, SAF_STCNT0, SAF_DEMAND, SAF_EVT]) d) ∧
  (s.dev.get SAF_CFG_STEN = 0 ∨ s.dev.bit SAF_SCCAUSE_SC (4 + port) = true → Runs (.stationTelegramTimeout port) .device s fun d => d = s.dev) ∧
  (s.dev.saf.mismAt.isSome = true → Runs .mismClear .device s fun d => d.bit SAF_SCCAUSE_SC 6 = false ∧ d.saf.mismAt = none ∧
    lasted s.dev.saf.mismAt d.time.cio s.dev.stto = true ∧ s.dev.Changes [.time, .saf] (At [TIM_WRAP, SAF_SCCAUSE]) d) ∧
  (s.dev.saf.mismAt = none → Runs .mismClear .device s fun d => d = s.dev) ∧
  (s.dev.dstate ≠ .boot → s.dev.time.on = true → Runs .statusTelegramSend .device s fun d =>
    d.saf = { s.dev.saf with stSeq := s.dev.saf.stSeq + 1, stAt := some d.time.up } ∧
    (s.dev.saf.stAt = some u → u + ms (s.dev.get SAF_STCFG_STPER) ≤ d.time.up) ∧
    d.out = .telegram 1 (ethFrame 1 s.dev.telDest { s.dev with time := d.time }.statusTelegram) ::
      .telegram 0 (ethFrame 0 s.dev.telDest { s.dev with time := d.time }.statusTelegram) :: s.dev.out ∧
    s.dev.Changes [.time, .saf, .out] (At [TIM_WRAP]) d) ∧
  (s.dev.dstate = .boot ∨ s.dev.time.on = false → Runs .statusTelegramSend .device s fun d => d = s.dev)

/-! ### Host interface (R356 to R370, R389) -/

/-- R210, R211, R336, R345, R367, R368, R369, R463: immediate commands act as the register writes they stand for and complete.
BLOCK takes running and deblocking arms that it names to BLOCKING; DEBLOCK takes each arm that R463 lets pass to DEBLOCKING,
and answers REFUSED with the reason of the lowest arm that it does not. CCVCONF stores a CCV that is the one in force, with
every arm BLOCKED and no epoch open, in MRAM; a wrong one is refused with 0x28 and counts. RECREAD starts the readout of a
record that is DONE. -/
def Obligations.ImmediateCommands : Prop := ∀ (s : State) (tag : BitVec 16) (mask : BitVec 12) (n : Fin 4) (a : Fin 12) (v : BitVec 64) (r : Nat),
  s.dev.held = false →
  (Runs (.nop tag) .pcie s fun d => s.dev.Completes d tag 0 0 0 ∧ s.dev.Changes [.hif, .out] (At cplRegs) d) ∧
  (Runs (.block tag mask) .pcie s fun d => s.dev.Completes d tag 0 1 0 ∧
    (mask.getLsbD a = true → s.dev.arm a = .running ∨ s.dev.arm a = .deblocking → d.arm a = .blocking) ∧
    (mask.getLsbD a = false ∨ s.dev.arm a = .blocked ∨ s.dev.arm a = .blocking → d.arm a = s.dev.arm a) ∧
    s.dev.Changes [.arms, .aud, .rcd, .dpx, .hif, .out] (At (allArms.flatMap (fun a => [SCH_ASTAT a, SCH_AEVT a]) ++ audRegs ++ cplRegs)) d) ∧
  (Runs (.deblock tag mask) .pcie s fun d =>
    (mask.getLsbD a = true → s.dev.deblockRefusal a = none → d.arm a = .deblocking) ∧
    (mask.getLsbD a = false ∨ s.dev.deblockRefusal a ≠ none → d.arm a = s.dev.arm a) ∧
    ((∀ b : Fin 12, mask.getLsbD b = true → s.dev.deblockRefusal b = none) → s.dev.Completes d tag 0 2 0) ∧
    (mask.getLsbD a = true → s.dev.deblockRefusal a = some r → r < 2 ^ 16 →
      (∀ b : Fin 12, b.val < a.val → mask.getLsbD b = true → s.dev.deblockRefusal b = none) →
      s.dev.Completes d tag 1 2 r) ∧
    s.dev.Changes [.arms, .cyc, .aud, .hif, .out]
      (At (CYC_STAT :: RST_DBREF :: RST_EVT :: allArms.flatMap (fun a => [SCH_ASTAT a, SCH_AEVT a]) ++ audRegs ++ cplRegs)) d) ∧
  (Runs (.safack tag) .pcie s fun d => d.saf.toAudit = s.dev.saf.toAudit ++ [(8, .pcie)] ∧ d.bit SAF_DEMAND_LATCH a =
      (s.dev.bit SAF_DEMAND_LATCH a && (s.dev.saf.present a || a.val == 7)) ∧ s.dev.Completes d tag 0 3 0 ∧
    s.dev.Changes [.saf, .hif, .out] (At ([SAF_DEMAND, SAF_EVT] ++ cplRegs)) d) ∧
  (s.dev.epState = .idle → s.dev.allBlocked = true → s.dev.saf.lockUntil = none →
    (v = s.dev.ccv → Stores (.ccvconf tag v) .pcie s fun nv d => nv = { s.nv with mram := { s.nv.mram with ccvconf := v } } ∧
      (d.get SAF_STAT_CONFIRMED = if s.dev.locked then 1 else 0) ∧ d.get SAF_CONF_FAILS = 0 ∧ s.dev.Logs d 0x31 0 .pcie ∧
      s.dev.Completes d tag 0 4 0 ∧
      s.dev.Changes [.aud, .dpx, .hif, .out] (At ([SAF_CCVCONF_LO, SAF_CCVCONF_HI, SAF_CONF, SAF_EVT, SAF_STAT] ++ audRegs ++ cplRegs)) d) ∧
    (v ≠ s.dev.ccv → Stores (.ccvconf tag v) .pcie s fun nv d => nv = s.nv ∧ s.dev.Completes d tag 1 4 0x28 ∧
      s.dev.Counted d SAF_CONF_FAILS ∧ s.dev.Logs d 0x31 1 .pcie ∧ (2 ≤ s.dev.get SAF_CONF_FAILS → d.get SAF_STAT_CONFLOCK = 1 ∧
        d.saf.lockUntil = some (s.dev.time.cio + 60000000000)) ∧
      s.dev.Changes [.saf, .aud, .hif, .out] (At ([SAF_CONF, SAF_EVT, SAF_STAT] ++ audRegs ++ cplRegs)) d)) ∧
  (s.dev.epState ≠ .idle ∨ s.dev.allBlocked = false ∨ s.dev.saf.lockUntil.isSome = true → Stores (.ccvconf tag v) .pcie s fun nv d => nv = s.nv ∧
    s.dev.Completes d tag 1 4 (if s.dev.epState ≠ .idle then 0x23 else if s.dev.allBlocked = false then 0x26 else 0x27) ∧
    s.dev.Logs d 0x31 1 .pcie ∧ s.dev.Changes [.saf, .aud, .hif, .out] (At ([SAF_CONF, SAF_EVT, SAF_STAT] ++ audRegs ++ cplRegs)) d) ∧
  (s.dev.gated (REC_CTRL n) = false →
    (s.dev.get (REC_STAT_STATE n) = 4 → s.dev.get (REC_STAT_RDBUSY n) = 0 → Runs (.recread tag n) .pcie s fun d =>
      d.get (REC_STAT_RDBUSY n) = 1 ∧ (d.recInst n).rdPos = 0 ∧ s.dev.Completes d tag 0 5 0 ∧
      s.dev.Changes [.rcd, .hif, .out] (At (REC_STAT n :: cplRegs)) d) ∧
    (s.dev.get (REC_STAT_STATE n) ≠ 4 ∨ s.dev.get (REC_STAT_RDBUSY n) = 1 → Runs (.recread tag n) .pcie s fun d =>
      s.dev.Completes d tag 0 5 0 ∧ s.dev.Changes [.hif, .out] (At cplRegs) d))

/-- R358, R359, R362, R367, R368, R370: the indices of the rings. A doorbell within the ring is taken, another sets HIF_EVT; a
consumer index is taken by the rings that the device writes; a ring whose EN is 0 takes none. A fetched entry moves the CMD
ring's own index on: a NOP completes OK, a BLOCK blocks the arms that it names, and an entry that is no command completes
BADCMD; where the device may not fetch, nothing happens. A DMA read that ends with an error completes DMAERR, of a CMD entry or
of an EPGROUP's group, or drops the SET entry. R356, R358, R359, R363, R409: interrupts, ring control, bus mastering and the
link. An unsignalled entry raises its ring's vector after COALT. EN is set while both indices are 0 and clearing it returns
them to 0; COAL, COALT and SIZE are taken. A reset of the function releases the semaphores that the host owns POISONED. -/
def Obligations.HostRings : Prop :=
  (∀ (s : State) (idx : Nat) (r : Fin 6) (b : List Byte) (a : Fin 12) (x : Cmd),
    (s.dev.awake → s.dev.get (HIF_RING_CTL_EN 0) = 1 →
      ((idx % (2 * s.dev.ringSize 0) + 2 * s.dev.ringSize 0 - s.dev.get (HIF_RING_DIDX_DIDX 0)) % (2 * s.dev.ringSize 0) ≤ s.dev.ringSize 0 →
        Runs (.cmdDoorbell idx) .pcie s fun d => d.get (HIF_RING_HIDX_HIDX 0) = idx % (2 * s.dev.ringSize 0) ∧
          s.dev.Changes [] (At [HIF_RING_HIDX 0]) d) ∧
      (s.dev.ringSize 0 < (idx % (2 * s.dev.ringSize 0) + 2 * s.dev.ringSize 0 - s.dev.get (HIF_RING_DIDX_DIDX 0)) % (2 * s.dev.ringSize 0) →
        Runs (.cmdDoorbell idx) .pcie s fun d => d.bit HIF_EVT_EVT 1 = true ∧ s.dev.Changes [] (At [HIF_EVT]) d)) ∧
    (s.dev.awake → s.dev.get (HIF_RING_CTL_EN 0) = 0 → Runs (.cmdDoorbell idx) .pcie s fun d => d = s.dev) ∧
    (s.dev.awake → s.dev.get (HIF_RING_CTL_EN r) = 1 → r.val = 1 ∨ r.val = 2 ∨ r.val = 4 ∨ r.val = 5 →
      Runs (.consumerIndexWrite r idx) .pcie s fun d => d.get (HIF_RING_HIDX_HIDX r) = idx % (2 * s.dev.ringSize r) ∧
        s.dev.Changes [] (At [HIF_RING_HIDX r]) d) ∧
    (s.dev.awake → s.dev.get (HIF_RING_CTL_EN r) = 0 ∨ r.val = 0 ∨ r.val = 3 → Runs (.consumerIndexWrite r idx) .pcie s fun d => d = s.dev) ∧
    (s.dev.held = false → s.dev.mayFetch = true →
      (entryOk b = true → leAt b 0 1 = 0 → Stores (.cmdFetch b) .pcie s fun nv d => nv = s.nv ∧
        s.dev.Completes d (BitVec.ofNat 16 (leAt b 2 2)) 0 0 0 ∧
        d.get (HIF_RING_DIDX_DIDX 0) = (s.dev.get (HIF_RING_DIDX_DIDX 0) + 1) % (2 * s.dev.ringSize 0) ∧
        s.dev.Changes [.hif, .out] (At (HIF_RING_DIDX 0 :: cplRegs)) d) ∧
      (entryOk b = true → leAt b 0 1 = 1 → (leAt b 8 8).testBit a = true → Stores (.cmdFetch b) .pcie s fun nv d => nv = s.nv ∧
        s.dev.Completes d (BitVec.ofNat 16 (leAt b 2 2)) 0 1 0 ∧ (s.dev.arm a = .running → d.arm a = .blocking) ∧
        d.get (HIF_RING_DIDX_DIDX 0) = (s.dev.get (HIF_RING_DIDX_DIDX 0) + 1) % (2 * s.dev.ringSize 0) ∧
        s.dev.Changes [.arms, .aud, .rcd, .dpx, .hif, .out]
          (At (HIF_RING_DIDX 0 :: allArms.flatMap (fun a => [SCH_ASTAT a, SCH_AEVT a]) ++ audRegs ++ cplRegs)) d) ∧
      (entryOk b = false → Stores (.cmdFetch b) .pcie s fun nv d => nv = s.nv ∧
        s.dev.Completes d (BitVec.ofNat 16 (leAt b 2 2)) 2 (leAt b 0 1) 0 ∧
        d.get (HIF_RING_DIDX_DIDX 0) = (s.dev.get (HIF_RING_DIDX_DIDX 0) + 1) % (2 * s.dev.ringSize 0) ∧
        s.dev.Changes [.hif, .out] (At (HIF_RING_DIDX 0 :: cplRegs)) d) ∧
      (Stores (.dmaReadTimeout 0) .device s fun nv d => nv = s.nv ∧ s.dev.Completes d 0 3 0 0 ∧ d.bit HIF_EVT_EVT 0 = true ∧
        d.get (HIF_RING_DIDX_DIDX 0) = (s.dev.get (HIF_RING_DIDX_DIDX 0) + 1) % (2 * s.dev.ringSize 0) ∧
        s.dev.Changes [.hif, .out] (At (HIF_RING_DIDX 0 :: cplRegs)) d)) ∧
    (s.dev.held = false → s.dev.mayFetch = false →
      (Stores (.cmdFetch b) .pcie s fun nv d => nv = s.nv ∧ d = s.dev) ∧ (Stores (.dmaReadTimeout 0) .device s fun nv d => nv = s.nv ∧ d = s.dev)) ∧
    (s.dev.held = false → s.dev.hif.serial = [x] → x.reads = true → s.dev.hif.serialBusy = false → Stores (.dmaReadTimeout 1) .device s fun nv d =>
      nv = s.nv ∧ s.dev.Completes d x.tag 3 0x11 0 ∧ d.hif.serial = [] ∧ d.bit HIF_EVT_EVT 0 = true ∧
      s.dev.Changes [.hif, .out] (At cplRegs) d) ∧
    (s.dev.held = false → s.dev.hif.serial = [] ∨ s.dev.hif.serialBusy = true → Stores (.dmaReadTimeout 1) .device s fun nv d =>
      nv = s.nv ∧ d = s.dev) ∧
    (s.dev.held = false → s.dev.get (HIF_RING_CTL_EN 3) = 1 → s.dev.get HIF_STAT_BME = 1 → Stores (.dmaReadTimeout 2) .device s fun nv d =>
      nv = s.nv ∧ d.bit HIF_EVT_EVT 0 = true ∧ s.dev.Changes [] (At [HIF_EVT]) d) ∧
    (s.dev.held = false → s.dev.get (HIF_RING_CTL_EN 3) = 0 ∨ s.dev.get HIF_STAT_BME = 0 → Stores (.dmaReadTimeout 2) .device s fun nv d =>
      nv = s.nv ∧ d = s.dev)) ∧
  (∀ (s : State) (o : Origin) (r : Fin 6) (i : Fin 64) (v : Word) (b : Bool) (gen width : Nat),
    (s.dev.held = false → s.dev.get (HIF_RING_CTL_COAL r) ≠ 0 → nth s.dev.hif.unsig r 0 ≠ 0 →
      Runs (.interruptCoalesceTimeout r) .device s fun d => d.out = .msix r :: s.dev.out ∧ nth d.hif.unsig r 1 = 0 ∧
        s.dev.Changes [.hif, .out] (At []) d) ∧
    (s.dev.held = false → s.dev.get (HIF_RING_CTL_COAL r) = 0 ∨ nth s.dev.hif.unsig r 0 = 0 →
      Runs (.interruptCoalesceTimeout r) .device s fun d => d = s.dev) ∧
    (s.Lets o (HIF_RING_CTL r) → Comes (.ringEnWrite o r v) o s fun d =>
      d.get (HIF_RING_CTL_SIZE r) = v.toNat % 32 ∧ d.get (HIF_RING_CTL_COAL r) = v.toNat / 2 ^ 25 % 16 ∧
      (v.getLsbD 31 = true → s.dev.get (HIF_RING_DIDX_DIDX r) = 0 → s.dev.get (HIF_RING_HIDX_HIDX r) = 0 →
        d.get (HIF_RING_CTL_EN r) = 1 ∧ s.dev.Changes [.out] (At [HIF_RING_CTL r]) d) ∧
      (v.getLsbD 31 = true → s.dev.get (HIF_RING_DIDX_DIDX r) ≠ 0 ∨ s.dev.get (HIF_RING_HIDX_HIDX r) ≠ 0 →
        d.get (HIF_RING_CTL_EN r) = s.dev.get (HIF_RING_CTL_EN r) ∧ s.dev.Changes [.out] (At [HIF_RING_CTL r]) d) ∧
      (v.getLsbD 31 = false → d.get (HIF_RING_CTL_EN r) = 0 ∧ d.get (HIF_RING_DIDX_DIDX r) = 0 ∧
        d.get (HIF_RING_HIDX_HIDX r) = 0 ∧ s.dev.Changes [.hif, .out] (At [HIF_RING_CTL r, HIF_RING_DIDX r, HIF_RING_HIDX r]) d)) ∧
    (s.dev.held = false → Runs (.busMasterEnableChange b) .pcie s fun d => d.get HIF_STAT_BME = (if b then 1 else 0) ∧
      s.dev.Changes [] (At [HIF_STAT]) d) ∧
    (s.dev.held = false → Runs (.pcieLinkUp gen width) .pcie s fun d =>
      d.get HIF_STAT_LINKUP = 1 ∧ (1 ≤ gen → gen ≤ 4 → d.get HIF_STAT_GEN = gen) ∧
      (width = 1 ∨ width = 2 ∨ width = 4 → d.get HIF_STAT_WIDTH = width) ∧ d.get HIF_STAT_BME = s.dev.get HIF_STAT_BME ∧
      s.dev.Changes [] (At [HIF_STAT]) d) ∧
    (s.dev.held = false → Runs (.pcieFunctionReset b) .pcie s fun d => d.get HIF_STAT_BME = 0 ∧ (b = true → d.get HIF_STAT_LINKUP = 0) ∧
      (b = false → d.get HIF_STAT_LINKUP = s.dev.get HIF_STAT_LINKUP) ∧
      (s.dev.get (SVC_SEMST_HELD i) = 1 → s.dev.get (SVC_SEMST_ORIGIN i) = Origin.pcie.code →
        d.get (SVC_SEMST_HELD i) = 0 ∧ d.get (SVC_SEMST_POISONED i) = 1) ∧
      (s.dev.get (SVC_SEMST_HELD i) = 0 ∨ s.dev.get (SVC_SEMST_ORIGIN i) ≠ Origin.pcie.code →
        d.word (SVC_SEMST i) = s.dev.word (SVC_SEMST i)) ∧
      s.dev.Changes [.svc] (Either (At [HIF_STAT]) (InAny [bSVC])) d))

/-- R389: the management UART. A read or a write frame with a right CRC makes the access and answers its status and value, a
wrong CRC is answered with status 1 and has no effect; bytes that are no request, and a frame that times out, have none. -/
def Obligations.ManagementUart : Prop := ∀ (s : State) (b : List Byte) (op n : Nat),
  (s.dev.awake → s.dev.get CLK_LSEN_UARTEN = 1 → leAt b 0 1 = 0x7E → leAt b 1 1 = op → (op = 1 ∧ n = 6) ∨ (op = 2 ∧ n = 10) → b.length = n + 2 →
    (leAt b n 2 = (crc16Bytes ((b.take n).drop 1)).toNat →
      (op = 1 → Comes (.uartFrame b) .uart s fun d => d = (s.dev.busRead s.nv .uart (leAt b 2 4) 15 0).uartReply 1) ∧
      (op = 2 → Comes (.uartFrame b) .uart s fun d => d = (s.dev.busWrite s.nv .uart (leAt b 2 4) 15 (dw (leAt b 6 4)) 0).uartReply 2) ∧
      (op = 1 → leAt b 2 4 = TOP_SCRATCH → s.dev.latchOf .uart TOP_SCRATCH = none → Comes (.uartFrame b) .uart s fun d =>
        d.out.head? = some (.uart (uartAnswer 1 0 (s.dev.word TOP_SCRATCH))) ∧ s.dev.Changes [.rlatch, .out] (At []) d) ∧
      (op = 2 → leAt b 2 4 = TOP_SCRATCH → s.dev.get AUD_STAT_FULL = 0 → Comes (.uartFrame b) .uart s fun d =>
        d.word TOP_SCRATCH = dw (leAt b 6 4) ∧ d.out.head? = some (.uart (uartAnswer 2 0 0)) ∧
        s.dev.Changes [.out] (At [TOP_SCRATCH]) d)) ∧
    (leAt b n 2 ≠ (crc16Bytes ((b.take n).drop 1)).toNat → Comes (.uartFrame b) .uart s fun d =>
      d.out = .uart (uartAnswer op 1 0) :: s.dev.out ∧ s.dev.Changes [.out] (At []) d)) ∧
  (s.dev.held = false → s.dev.get CLK_LSEN_UARTEN = 0 ∨ leAt b 0 1 ≠ 0x7E ∨ (leAt b 1 1 ≠ 1 ∧ leAt b 1 1 ≠ 2) ∨
    (leAt b 1 1 = 1 ∧ b.length ≠ 8) ∨ (leAt b 1 1 = 2 ∧ b.length ≠ 12) → Comes (.uartFrame b) .uart s fun d => d = s.dev) ∧
  exec .uartFrameTimeout s = .next s

/-! ### Configuration epochs, audit log, attestation (R371 to R388, R479 to R482) -/

/-- The device as the end of a validation judges it, with the minimum t_loop of the staged configuration (R247, R376). -/
abbrev Sys2Proof.Machine.Dev.judged (d : Dev) : Dev :=
  let e := (d.setEp (fun x => { x with validTag := none })).setHif (fun h => { h with serialBusy := false })
  e.reportLoopMin e.staged

/-- R367, R368, R374, R375, R377, R384: the serial commands of an epoch, one at a time; one that finds another before it waits.
EPOPEN starts STAGING on a locked unit that leads; EPGROUP adds a well-formed group whose records all name registers an epoch
may change, a malformed one discards the epoch with 0x20 and one with another register with 0x21; EPVALID starts the
validation; EPABORT discards the epoch, and the EPVALID in progress ends REFUSED. In another state each is refused with 0x23,
and EPOPEN in a unit that follows with 0x24, and changes nothing of the epoch. R368, R376, R377: the validation ends. Groups
that pass leave the epoch VALID and complete OK; the first check that fails refuses the whole epoch with its reason and
discards it. No configuration register changes. The serial commands behind it run on. -/
def Obligations.EpochPreparation : Prop :=
  (∀ (s : State) (tag t : BitVec 16) (addr : BitVec 64) (len : Word) (b : List Byte), s.dev.held = false →
    (s.dev.SerialFree →
      (s.dev.epState = .idle → s.dev.locked = true → s.dev.role = .solo ∨ s.dev.role = .active ∨ s.dev.role = .witness →
        Stores (.epopen tag) .pcie s fun nv d =>
        nv = s.nv ∧ d.epState = .staging ∧ d.ep.groups = [] ∧ d.ep.origin = .pcie ∧ s.dev.Posts d 0x10 .pcie ∧ s.dev.Completes d tag 0 0x10 0 ∧
        s.dev.Changes [.ep, .hif, .out] (At (HIF_EPRES :: evtRegs ++ cplRegs)) d) ∧
      (s.dev.epState ≠ .idle ∨ s.dev.role = .faulted ∨ (s.dev.locked = false ∧ s.dev.role ≠ .standby ∧ s.dev.role ≠ .syncing) →
        Stores (.epopen tag) .pcie s fun nv d => nv = s.nv ∧ s.dev.Completes d tag 1 0x10 0x23 ∧
          d.get HIF_EPRES_REASON = 0x23 ∧ s.dev.Changes [.hif, .out] (At (HIF_EPRES :: cplRegs)) d) ∧
      (s.dev.epState = .idle → s.dev.role = .standby ∨ s.dev.role = .syncing → Stores (.epopen tag) .pcie s fun nv d => nv = s.nv ∧
        s.dev.Completes d tag 1 0x10 0x24 ∧ d.get HIF_EPRES_REASON = 0x24 ∧ s.dev.Changes [.hif, .out] (At (HIF_EPRES :: cplRegs)) d) ∧
      (s.dev.epState = .staging → groupForm b s.dev.ep.groups.length len.toNat = true → s.dev.ep.groups.length < 128 →
        (groupRecs b).all (fun r => recNames r.off) = true → Stores (.epgroup tag addr len b) .pcie s fun nv d => nv = s.nv ∧
          d.ep = { s.dev.ep with groups := s.dev.ep.groups ++ [groupRecs b] } ∧ s.dev.Completes d tag 0 0x11 0 ∧
          s.dev.Changes [.ep, .hif, .out] (At cplRegs) d) ∧
      (s.dev.epState = .staging → groupForm b s.dev.ep.groups.length len.toNat = false ∨ 128 ≤ s.dev.ep.groups.length →
        Stores (.epgroup tag addr len b) .pcie s fun nv d =>
          nv = s.nv ∧ d.epState = .idle ∧ d.ep.groups = [] ∧ s.dev.Completes d tag 1 0x11 0x20 ∧ s.dev.Logs d 0x03 0x20 .pcie ∧
          s.dev.Changes [.ep, .hif, .aud, .dpx, .out] (At (HIF_EPRES :: evtRegs ++ cplRegs ++ audRegs)) d) ∧
      (s.dev.epState = .staging → groupForm b s.dev.ep.groups.length len.toNat = true → s.dev.ep.groups.length < 128 →
        (groupRecs b).all (fun r => recNames r.off) = false → Stores (.epgroup tag addr len b) .pcie s fun nv d =>
          nv = s.nv ∧ d.epState = .idle ∧ d.ep.groups = [] ∧ s.dev.Completes d tag 1 0x11 0x21 ∧ s.dev.Logs d 0x03 0x21 .pcie ∧
          s.dev.Changes [.ep, .hif, .aud, .dpx, .out] (At (HIF_EPRES :: evtRegs ++ cplRegs ++ audRegs)) d) ∧
      (s.dev.epState = .staging → Stores (.epvalid tag) .pcie s fun nv d => nv = s.nv ∧ d.epState = .validating ∧ d.ep.validTag = some tag ∧
        d.hif.serialBusy = true ∧ s.dev.Changes [.ep, .hif, .out] (At (HIF_EPRES :: evtRegs)) d) ∧
      (s.dev.epState ≠ .staging →
        (Stores (.epvalid tag) .pcie s fun nv d => nv = s.nv ∧ s.dev.Completes d tag 1 0x12 0x23 ∧
          s.dev.Changes [.hif, .out] (At (HIF_EPRES :: cplRegs)) d) ∧
        (Stores (.epgroup tag addr len b) .pcie s fun nv d => nv = s.nv ∧ s.dev.Completes d tag 1 0x11 0x23 ∧
          s.dev.Changes [.hif, .out] (At (HIF_EPRES :: cplRegs)) d))) ∧
    (s.dev.hif.serial ≠ [] ∨ s.dev.hif.serialBusy = true →
      (Stores (.epopen tag) .pcie s fun nv d => nv = s.nv ∧ d.hif.serial = s.dev.hif.serial ++ [⟨0x10, tag, []⟩] ∧
        s.dev.Changes [.hif] (At []) d) ∧
      (Stores (.epvalid tag) .pcie s fun nv d => nv = s.nv ∧ d.hif.serial = s.dev.hif.serial ++ [⟨0x12, tag, []⟩] ∧
        s.dev.Changes [.hif] (At []) d) ∧
      (s.dev.hif.serialBusy = true → Stores (.epgroup tag addr len b) .pcie s fun nv d => nv = s.nv ∧
        d.hif.serial = s.dev.hif.serial ++ [⟨0x11, tag, groupParams addr len⟩] ∧ s.dev.Changes [.hif] (At []) d)) ∧
    (s.dev.hif.serial = [] → s.dev.epState = .staging ∨ s.dev.epState = .valid ∨ s.dev.epState = .validating →
      (s.dev.ep.validTag = none → Stores (.epabort tag) .pcie s fun nv d => nv = s.nv ∧
        d.epState = .idle ∧ d.ep.groups = [] ∧ s.dev.Completes d tag 0 0x14 0 ∧
        s.dev.Changes [.ep, .hif, .dpx, .out] (At (HIF_EPRES :: evtRegs ++ cplRegs)) d) ∧
      (s.dev.ep.validTag = some t → Stores (.epabort tag) .pcie s fun nv d => nv = s.nv ∧
        d.epState = .idle ∧ d.ep.groups = [] ∧ d.ep.validTag = none ∧ d.hif.serialBusy = false ∧
        (s.dev.CplRoom → (t.toNat, 1, 0x12, 0x23) ∈ d.out.filterMap Emission.cpl) ∧
        s.dev.Changes [.ep, .hif, .dpx, .out] (At (HIF_EPRES :: evtRegs ++ cplRegs)) d)) ∧
    (s.dev.hif.serial = [] → s.dev.epState = .idle ∨ s.dev.epState = .applying → Stores (.epabort tag) .pcie s fun nv d => nv = s.nv ∧
      s.dev.Completes d tag 1 0x14 0x23 ∧ s.dev.Changes [.hif, .out] (At (HIF_EPRES :: cplRegs)) d) ∧
    (Stores (.epabort tag) .pcie s fun nv d => (nv, d) = pumpAll s.nv (s.dev.epAbort tag))) ∧
  (∀ (s : State) (tag : BitVec 16) (reason detail : Nat), s.dev.held = false →
    (s.dev.ep.validTag = some tag → s.dev.hif.serial = [] →
      (s.dev.judged.validateGroups s.dev.judged 0 false s.dev.ep.groups = none → Stores .validationEnd .pcie s fun nv d => nv = s.nv ∧ d.epState = .valid ∧
        d.ep.groups = s.dev.ep.groups ∧ d.ep.validTag = none ∧ d.hif.serialBusy = false ∧ s.dev.Completes d tag 0 0x12 0 ∧
        s.dev.Changes [.ep, .hif, .dpx, .out] (At (HIF_EPRES :: LOOP_TEXEC :: evtRegs ++ cplRegs)) d) ∧
      (s.dev.judged.validateGroups s.dev.judged 0 false s.dev.ep.groups = some (reason, detail) → Stores .validationEnd .pcie s fun nv d =>
        nv = s.nv ∧ d.epState = .idle ∧ d.ep.groups = [] ∧ d.ep.validTag = none ∧
        (reason < 256 → s.dev.Completes d tag 1 0x12 reason ∧ d.get HIF_EPRES_REASON = reason) ∧
        s.dev.Changes [.ep, .hif, .aud, .dpx, .out] (At (HIF_EPRES :: LOOP_TEXEC :: evtRegs ++ cplRegs ++ audRegs)) d)) ∧
    (s.dev.ep.validTag = some tag → Stores .validationEnd .pcie s fun nv d => (nv, d) = pumpAll s.nv s.dev.validationEnd) ∧
    (s.dev.ep.validTag = none → Stores .validationEnd .pcie s fun nv d => nv = s.nv ∧ d = s.dev))

/-- The registers that the apply of one group may change beside those of its records. -/
abbrev applyRegs : List Nat := [HIF_EPOCH, HIF_EPRES, SAF_CCV_LO, SAF_CCV_HI, SAF_STAT, CYC_RETDL] ++ evtRegs ++ audRegs

/-- The parts that the apply of a group of LOOP records may change beside the registers. -/
abbrev applyParts : List DevPart := [.ep, .hif, .aud, .loop, .cyc, .out]

/-- The register of a record holds the record's value in its RW and RWL fields and what it held in the others. -/
abbrev Sys2Proof.Machine.Dev.Took (a d : Dev) (r : EpRec) : Prop :=
  d.word r.off = (a.word r.off &&& ~~~ typeMask (fun t => t == .rw || t == .rwl) r.off) ||| (r.value &&& typeMask (fun t => t == .rw || t == .rwl) r.off)

/-- R368, R373, R377, R378, R379: EPCOMMIT. Before the lock it validates the registers as they stand, locks them and makes the
epoch number 1, or is refused with the reason; a VALID epoch commits for its cycle while the timer runs, or ahead by 2 µs, of
an ACTIVE unit 80 µs, while it is stopped, and is then APPLYING; a cycle that cannot be used is refused with 0x25. In another
state it is refused with 0x23. R251, R375, R379, R380, R384: a group applies at its boundary. Its records take effect, shown on
one record of a register of LOOP; the first group moves the epoch number on, the entry of kind 0x02 is logged, and the last
group ends the epoch. A compensator whose FORM changes loses the states of its third pole, and one that a programme entry names
newly starts with states and output 0. -/
def Obligations.EpochApplies : Prop :=
  (∀ (s : State) (tag : BitVec 16) (cyc : Word) (reason detail : Nat), s.dev.held = false →
    (s.dev.SerialFree →
      (s.dev.epState = .idle → s.dev.locked = false →
        ((s.dev.reportLoopMin s.dev).ruleFailure (s.dev.reportLoopMin s.dev) = none → Stores (.epcommit tag cyc) .pcie s fun nv d =>
          nv = s.nv ∧ d.locked = true ∧ d.word HIF_EPOCH = 1 ∧ d.epState = .idle ∧ s.dev.Completes d tag 0 0x13 0 ∧
          (s.dev.dstate = .config → d.dstate = .sync) ∧ (s.dev.dstate ≠ .config → d.dstate = s.dev.dstate)) ∧
        ((s.dev.reportLoopMin s.dev).ruleFailure (s.dev.reportLoopMin s.dev) = some (reason, detail) → Stores (.epcommit tag cyc) .pcie s fun nv d =>
          nv = s.nv ∧ (reason < 256 → s.dev.Completes d tag 1 0x13 reason ∧ d.get HIF_EPRES_REASON = reason) ∧ d.epState = .idle ∧ d.locked = false ∧
          s.dev.Changes [.hif, .aud, .out] (At (HIF_EPRES :: LOOP_TEXEC :: cplRegs ++ audRegs)) d)) ∧
      (s.dev.epState = .valid → s.dev.running = true →
        (cyc = 0 → Stores (.epcommit tag cyc) .pcie s fun nv d => nv = s.nv ∧ d.epState = .applying ∧
          d.ep = { s.dev.ep with applyAt := some s.dev.earliestApply, applyTime := none, next := 0 } ∧ s.dev.Completes d tag 0 0x13 0 ∧
          s.dev.Changes [.ep, .hif, .dpx, .out] (At (HIF_EPRES :: evtRegs ++ cplRegs)) d) ∧
        (cyc ≠ 0 → applyCycleOk cyc s.dev.earliestApply = true → Stores (.epcommit tag cyc) .pcie s fun nv d => nv = s.nv ∧ d.epState = .applying ∧
          d.ep = { s.dev.ep with applyAt := some cyc, applyTime := none, next := 0 } ∧ s.dev.Completes d tag 0 0x13 0 ∧
          s.dev.Changes [.ep, .hif, .dpx, .out] (At (HIF_EPRES :: evtRegs ++ cplRegs)) d)) ∧
      (s.dev.epState = .valid → s.dev.running = false → cyc = 0 → Stores (.epcommit tag cyc) .pcie s fun nv d =>
        nv = s.nv ∧ d.epState = .applying ∧
        d.ep = { s.dev.ep with applyAt := none, applyTime := some (plusNs s.dev.time.tb0 (if s.dev.role = .active then 80000 else 2000)), next := 0 } ∧
        s.dev.Changes [.ep, .hif, .dpx, .out] (At (HIF_EPRES :: evtRegs ++ cplRegs)) d) ∧
      (s.dev.epState = .valid → cyc ≠ 0 → s.dev.running = false ∨ applyCycleOk cyc s.dev.earliestApply = false →
        Stores (.epcommit tag cyc) .pcie s fun nv d => nv = s.nv ∧ s.dev.Completes d tag 1 0x13 0x25 ∧
          s.dev.Changes [.hif, .out] (At (HIF_EPRES :: cplRegs)) d) ∧
      (s.dev.epState = .idle ∧ s.dev.locked = true ∨ s.dev.epState = .staging ∨ s.dev.epState = .validating ∨ s.dev.epState = .applying →
        Stores (.epcommit tag cyc) .pcie s fun nv d => nv = s.nv ∧
          s.dev.Completes d tag 1 0x13 0x23 ∧ s.dev.Changes [.hif, .out] (At (HIF_EPRES :: cplRegs)) d)) ∧
    (s.dev.hif.serial ≠ [] ∨ s.dev.hif.serialBusy = true → Stores (.epcommit tag cyc) .pcie s fun nv d => nv = s.nv ∧
      d.hif.serial = s.dev.hif.serial ++ [⟨0x13, tag, leBytes 4 cyc.toNat⟩] ∧ s.dev.Changes [.hif] (At []) d)) ∧
  (∀ (s : State) (g : List EpRec) (r : EpRec) (j : Word) (a0 : BitVec 48) (e : Fin 256) (i : Fin 128),
    s.dev.held = false →
    (s.dev.epState = .applying → s.dev.ep.groups[s.dev.ep.next]? = some g →
      s.dev.ep.applyAt = some j ∧ s.dev.applyDue j = true ∨ s.dev.ep.applyAt = none ∧ s.dev.ep.applyTime = some a0 ∧ s.dev.running = false →
      Runs .groupApply s.dev.ep.origin s fun d =>
        (s.dev.ep.next = 0 → g.all (fun r => !epBarred r.off) = true → d.word HIF_EPOCH = s.dev.word HIF_EPOCH + 1) ∧
        (s.dev.ep.next + 1 < s.dev.ep.groups.length → d.ep.next = s.dev.ep.next + 1 ∧ d.ep.groups = s.dev.ep.groups) ∧
        (s.dev.ep.groups.length ≤ s.dev.ep.next + 1 → d.epState = .idle ∧ d.ep.groups = [])) ∧
    (s.dev.epState ≠ .applying ∨ s.dev.ep.groups[s.dev.ep.next]? = some g ∧ s.dev.ep.applyAt = some j ∧ s.dev.applyDue j = false →
      Runs .groupApply s.dev.ep.origin s fun d => d = s.dev) ∧
    (s.dev.epState = .applying → s.dev.ep.groups[s.dev.ep.next]? = none → Runs .groupApply s.dev.ep.origin s fun d => d.epState = .idle ∧
      d.ep.groups = [] ∧ s.dev.Changes [.ep, .hif, .out] (At (HIF_EPRES :: evtRegs)) d) ∧
    (s.dev.epState = .applying → s.dev.ep.groups[s.dev.ep.next]? = some g → s.dev.ep.applyAt = some j → s.dev.applyDue j = true →
    (g = [r] → InAny [bLOOP] r.off → r.off % 4 = 0 → r.off ≠ LOOP_GCLR → s.dev.special s.nv s.dev.ep.origin r.off (r.value &&&
        typeMask (fun t => t == .rw || t == .rwl) r.off) = none → typeMask (· == .w1c) r.off = 0 → (∀ n : Fin 256, r.off ≠ LOOP_PROG n) →
        (∀ n : Fin 128, r.off ≠ LOOP_CCFG n) → Runs .groupApply s.dev.ep.origin s fun d => s.dev.Took d r ∧
      (d.aud.queue.drop s.dev.aud.queue.length).map (fun e => (e.kind, e.code)) = [(0x02, s.dev.ep.next)] ∧
      s.dev.Changes applyParts (At (r.off :: applyRegs)) d) ∧
    (g = [r] → r.off = LOOP_CCFG i → r.value.toNat % 4 = s.dev.get (LOOP_CCFG_FORM i) → Runs .groupApply s.dev.ep.origin s fun d => s.dev.Took d r ∧
      s.dev.Changes applyParts (At (r.off :: applyRegs)) d) ∧
    (g = [r] → r.off = LOOP_CCFG i → r.value.toNat % 4 ≠ s.dev.get (LOOP_CCFG_FORM i) → Runs .groupApply s.dev.ep.origin s fun d => s.dev.Took d r ∧
      d.word (LOOP_CX i 2) = 0 ∧ d.word (LOOP_CY i 2) = 0 ∧
      s.dev.Changes applyParts (At (LOOP_CX i 2 :: LOOP_CY i 2 :: r.off :: applyRegs)) d) ∧
    (g = [r] → r.off = LOOP_PROG e → r.value = BitVec.ofNat 32 (256 + i) → s.dev.entry e = (1, i.val) → Runs .groupApply s.dev.ep.origin s fun d =>
      s.dev.Took d r ∧ s.dev.Changes applyParts (At (r.off :: applyRegs)) d) ∧
    (g = [r] → r.off = LOOP_PROG e → r.value = BitVec.ofNat 32 (256 + i) → (∀ n : Fin 256, s.dev.entry n ≠ (1, i.val)) →
      Runs .groupApply s.dev.ep.origin s fun d => s.dev.Took d r ∧ d.entry e = (1, i.val) ∧ d.slot (256 + i) = 0 ∧
      (∀ n : Fin 3, d.word (LOOP_CX i n) = 0 ∧ d.word (LOOP_CY i n) = 0) ∧
      s.dev.Changes applyParts (At ([LOOP_SLOT (256 + i), LOOP_CX i 0, LOOP_CX i 1, LOOP_CX i 2, LOOP_CY i 0, LOOP_CY i 1, LOOP_CY i 2, r.off] ++
        applyRegs)) d)))

/-- R385, R386, R387, R388: the audit log. The oldest queued entry joins the log in MRAM with its chain value, with WRAPPED's
flag when that rises; AUD_RDSEQ latches the entry of its number or sets MISS. -/
def Obligations.AuditLog : Prop := ∀ (s : State) (o : Origin) (e : AudItem) (rest : List AudItem) (seq : Word) (x : AudEntry) (i : Fin 8),
  (s.dev.held = false → s.dev.aud.queue = e :: rest → Stores .auditEntryWrite .device s fun nv d => d.aud.queue = rest ∧
    nv.mram.log.head? = some ⟨s.nv.mram.nextSeq, e, chainNext s.nv.lastChain s.nv.mram.nextSeq e⟩ ∧
    nv.mram.nextSeq = s.nv.mram.nextSeq + 1 ∧ nv.fuses = s.nv.fuses ∧
    (s.nv.mram.log.length < logCapacity → nv.mram.log.tail = s.nv.mram.log ∧ nv.mram.wrapped = s.nv.mram.wrapped) ∧
    (nv.mram.wrapped = true → s.nv.mram.wrapped = false → d.bit AUD_EVT_EVT 1 = true) ∧
    d.out = (if s.dev.get AUD_CTRL_IRQEN = 1 then .msix 7 :: s.dev.out else s.dev.out) ∧
    s.dev.Changes [.aud, .out] (At audRegs) d) ∧
  (s.dev.held = false → s.dev.aud.queue = [] → Stores .auditEntryWrite .device s fun nv d => nv = s.nv ∧ d = s.dev) ∧
  (s.Lets o AUD_RDSEQ →
    (s.nv.mram.log.find? (fun e => e.seq == seq) = some x → Comes (.auditReadLatch o seq) o s fun d => d.get AUD_RDSTAT_MISS = 0 ∧
      d.word (AUD_RDATA i) = dw (leAt x.bytes (4 * i) 4) ∧
      s.dev.Changes [.out] (Either (At [AUD_RDSEQ, AUD_RDSTAT]) (Each (List.range 8) fun i => [AUD_RDATA i])) d) ∧
    (s.nv.mram.log.find? (fun e => e.seq == seq) = none → Comes (.auditReadLatch o seq) o s fun d => d.get AUD_RDSTAT_MISS = 1 ∧
      d.word (AUD_RDATA i) = 0))

/-- R368, R474, R479, R480, R481, R482: ATTEST reserves the next index in MRAM before anything is signed, waits for a running
operation of SEC, or is refused with its reason; the report goes to host memory and completes with the index, or ends DMAERR
with the index consumed. -/
def Obligations.Attestation : Prop := ∀ (s : State) (tag : BitVec 16) (nonce : BitVec 256) (addr : BitVec 64) (len : Word) (ok : Bool) (c : Cmd) (i : Nat),
  s.dev.held = false →
  (s.dev.SerialFree →
    (5861 ≤ len.toNat → s.nv.mram.attIdx < 2 ^ 40 → s.nv.mram.attOk = true →
      (s.dev.sec.op = none →
        Stores (.attest tag nonce addr len) .pcie s fun nv d => nv = { s.nv with mram := { s.nv.mram with attIdx := s.nv.mram.attIdx + 1 } } ∧
          d.sec.attest = some (⟨0x20, tag, attestParams nonce addr len⟩, some s.nv.mram.attIdx) ∧ d.hif.serialBusy = true ∧
          s.dev.Changes [.sec, .hif] (At []) d) ∧
      (s.dev.sec.op.isSome = true → Stores (.attest tag nonce addr len) .pcie s fun nv d => nv = s.nv ∧
          d.sec.attest = some (⟨0x20, tag, attestParams nonce addr len⟩, none) ∧ d.hif.serialBusy = true ∧
          s.dev.Changes [.sec, .hif] (At []) d)) ∧
    (len.toNat < 5861 → Stores (.attest tag nonce addr len) .pcie s fun nv d => nv = s.nv ∧ s.dev.Completes d tag 1 0x20 0x40 ∧
      s.dev.Changes [.hif, .out] (At cplRegs) d) ∧
    (5861 ≤ len.toNat → 2 ^ 40 ≤ s.nv.mram.attIdx → Stores (.attest tag nonce addr len) .pcie s fun nv d => nv = s.nv ∧
      s.dev.Completes d tag 1 0x20 0x41 ∧ s.dev.Changes [.hif, .out] (At cplRegs) d) ∧
    (5861 ≤ len.toNat → s.nv.mram.attIdx < 2 ^ 40 → s.nv.mram.attOk = false → Stores (.attest tag nonce addr len) .pcie s fun nv d => nv = s.nv ∧
      s.dev.Completes d tag 1 0x20 0x42 ∧ d.bit MEM_EVT_EVT 3 = true ∧
      s.dev.Changes [.hif, .out] (At ([MEM_EVT, MEM_ERRCNT, MEM_ERRLOC, MEM_ERRADDR] ++ cplRegs)) d)) ∧
  (s.dev.hif.serial ≠ [] ∨ s.dev.hif.serialBusy = true → Stores (.attest tag nonce addr len) .pcie s fun nv d => nv = s.nv ∧
    d.hif.serial = s.dev.hif.serial ++ [⟨0x20, tag, attestParams nonce addr len⟩] ∧ s.dev.Changes [.hif] (At []) d) ∧
  (s.dev.hif.serial = [] → s.dev.sec.attest = some (c, some i) →
    (ok = true → s.dev.get HIF_STAT_BME = 1 → Stores (.attestCompletion ok) .pcie s fun nv d => nv = s.nv ∧ d.sec.attest = none ∧
      d.hif.serialBusy = false ∧ s.dev.Completes d c.tag 0 c.opcode.toNat 0 ∧ s.dev.Changes [.sec, .hif, .out] (At cplRegs) d) ∧
    (ok = false ∨ s.dev.get HIF_STAT_BME = 0 → Stores (.attestCompletion ok) .pcie s fun nv d => nv = s.nv ∧ d.sec.attest = none ∧
      d.hif.serialBusy = false ∧ d.bit HIF_EVT_EVT 0 = true ∧
      s.dev.Completes d c.tag 3 c.opcode.toNat 0 ∧ s.dev.Changes [.sec, .hif, .out] (At cplRegs) d)) ∧
  (s.dev.sec.attest = some (c, some i) → Stores (.attestCompletion ok) .pcie s fun nv d => (nv, d) = pumpAll s.nv (s.dev.attestDone s.nv ok)) ∧
  (s.dev.sec.attest = none ∨ s.dev.sec.attest = some (c, none) → Stores (.attestCompletion ok) .pcie s fun nv d => nv = s.nv ∧ d = s.dev)

/-! ### Duplex operation (R290 to R328) -/

namespace Sys2Proof.Machine

/-- From d to d' one message has been queued for the partner, in order of priority (R299). -/
abbrev Dev.Queues (d d' : Dev) (m : SolderMsg) : Prop := d'.dpx.queue = queueIn ⟨m.prio, m, 0, [], d'.time.tb0⟩ d.dpx.queue

/-- Link, unit named, order, term and cause of a verdict (R317). -/
def Emission.verdict : Emission → Option (Nat × Nat × Nat × Nat × Nat)
  | .witnessMsg l b => some (l, leAt b 1 1 / 16, leAt b 1 1 % 16, leAt b 2 2, leAt b 8 1)
  | _ => none

/-- A verdict orders a STANDBY that is not to take over to RESYNC (R292). -/
abbrev Dev.Resyncs (d : Dev) (v : Verdict) : Prop :=
  d.role = .standby ∧ v.order = d.get DPX_CFG_UNIT + 1 ∧ d.dpx.takeover = false ∧ v.named ≠ d.get DPX_CFG_UNIT

/-- A returned witness message whose CRC is bad has been counted (R315). -/
abbrev Dev.WitBad (d d' : Dev) : Prop :=
  d.Counted d' DPX_CNT3_WITERR ∧ (d.role = .witness → d'.bit DPX_WEVT_WEVT 3 = true) ∧ d.Changes [] (At [DPX_CNT3, DPX_WEVT]) d'

/-- From d to d' the Solder lanes have been listened to, and nothing else has changed (R298, R299). -/
abbrev Dev.Listened (d d' : Dev) : Prop := d.Changes [.lane, .dpx] (At solderRegs) d'

/-- The adoption's instant in the current cycle lies ahead for a STANDBY that has accepted a takeover (R321). -/
abbrev Dev.Adopts (d : Dev) : Prop :=
  d.inCycle = true ∧ d.role = .standby ∧ d.dpx.takeover = true ∧ d.cyc.closed = false ∧ d.phaseNs + 200 ≤ d.cyc.tm0.tret

/-- Stamps that make no realignment of TB0 (R296). -/
abbrev Dev.Steady (d : Dev) (t4 : BitVec 40) : Prop := d.dpx.t3 = 0 ∨ t4 = 0 ∨ d.allBlocked = false

/-- The bytes of an ingot with one more segment (R309). -/
abbrev Dev.filled (d : Dev) (k : Word) (b : List Byte) : List Byte :=
  (match d.dpx.fill with | some f => if f.k = k then f.bytes else [] | none => []) ++ b

/-- The unit takes a segment of ingot k: it shadows, in cycle k + 1 (R309). -/
abbrev Dev.TakesIngot (d : Dev) (k : Word) : Prop :=
  d.shadowing = true ∧ d.running = true ∧ d.cyc.inCycle = true ∧ d.cycle = k + 1

end Sys2Proof.Machine

/-- R292, R315, R317, R318: a verdict sets WITOK and VACT. A newer one is taken with its term: a named STANDBY adopts at its
instant, a named SYNCING unit with every arm BLOCKED and no ACTIVE partner becomes ACTIVE and another takes nothing, a named
ACTIVE unit stays so, and an ACTIVE unit whose partner is named becomes SYNCING with REASON 0x0B, its arms BLOCKED; a RESYNC
order for a STANDBY, newer or of the same term, makes it SYNCING with REASON 0x0C. An older one changes nothing else. A message
with a bad CRC is counted, another form or a unit without a partner does nothing. R292, R293, R310, R321, R322: roles. A named
STANDBY becomes ACTIVE at t_ret − 200 ns, with the arm states, the active sets R and the current samples of the ingot that had
committed before; a STANDBY for 8 cycles without the link or an ingot becomes SYNCING with the reason; DPX_CTRL.FAULT halts a
unit of a pair as FAULTED, and does nothing in BOOT and HALT. -/
def Obligations.VerdictsAndRoles : Prop :=
  (∀ (s : State) (gs : List (BitVec 10)) (b : List Byte) (v : Verdict) (a : Fin 12), s.dev.held = false →
    (witnessBytes gs = none → Runs (.verdictReceive gs) .witness s fun d => s.dev.WitBad d) ∧
    (witnessBytes gs = some b → verdictOf b = none ∨ s.dev.duplex = false → Runs (.verdictReceive gs) .witness s fun d => d = s.dev) ∧
    (witnessBytes gs = some b → verdictOf b = some v → s.dev.duplex = true →
      (Runs (.verdictReceive gs) .witness s fun d =>
        d.get DPX_HEALTH_WITOK = 1 ∧ d.get DPX_TERM_VACT = v.named ∧ d.dpx.unanswered = 0) ∧
      (newerTerm v.term s.dev.term = true → ¬ s.dev.Resyncs v →
        (v.named = s.dev.get DPX_CFG_UNIT → s.dev.role = .standby → Runs (.verdictReceive gs) .witness s fun d =>
          d.role = .standby ∧ d.dpx.takeover = true ∧ d.term = v.term ∧ s.dev.Changes [.dpx] (At [DPX_HEALTH, DPX_TERM]) d) ∧
        (v.named ≠ s.dev.get DPX_CFG_UNIT → s.dev.role = .standby ∨ s.dev.role = .syncing → Runs (.verdictReceive gs) .witness s fun d =>
          d.role = s.dev.role ∧ d.dpx.takeover = s.dev.dpx.takeover ∧ d.term = v.term ∧ s.dev.Changes [.dpx] (At [DPX_HEALTH, DPX_TERM]) d) ∧
        (v.named = s.dev.get DPX_CFG_UNIT → s.dev.role = .syncing → s.dev.allBlocked = true → s.dev.partnerRole ≠ some .active →
          Runs (.verdictReceive gs) .witness s fun d => d.role = .active ∧ d.term = v.term ∧ d.get DPX_EVT_ROLECHG = 1 ∧
            s.dev.Logs d 0x20 1 .witness ∧
            s.dev.Changes [.dpx, .aud, .rcd] (At ([DPX_HEALTH, DPX_TERM, DPX_STAT, DPX_EVT] ++ audRegs)) d) ∧
        (v.named = s.dev.get DPX_CFG_UNIT → s.dev.role = .syncing → s.dev.allBlocked = false ∨ s.dev.partnerRole = some .active →
          Runs (.verdictReceive gs) .witness s fun d => d.role = .syncing ∧ d.term = s.dev.term ∧
            s.dev.Changes [.dpx] (At [DPX_HEALTH, DPX_TERM]) d) ∧
        (v.named ≠ 1 - s.dev.get DPX_CFG_UNIT → s.dev.role = .active → Runs (.verdictReceive gs) .witness s fun d =>
          d.role = .active ∧ d.term = v.term ∧ s.dev.Changes [.dpx] (At [DPX_HEALTH, DPX_TERM]) d) ∧
        (v.named = 1 - s.dev.get DPX_CFG_UNIT → s.dev.role = .active → Runs (.verdictReceive gs) .witness s fun d =>
          d.role = .syncing ∧ d.term = v.term ∧ d.get DPX_STAT_REASON = 0xB ∧ d.arm a = .blocked ∧ d.dpx.demoted = some s.dev.time.cio ∧
          s.dev.Logs d 0x20 3 .witness ∧ s.dev.Changes [.dpx, .aud, .rcd, .arms]
            (Either (At ([DPX_HEALTH, DPX_TERM, DPX_STAT, DPX_EVT, DPX_CASTSTAT] ++ audRegs)) (Each allArms fun a => [SCH_ASTAT a])) d) ∧
        (s.dev.role = .solo ∨ s.dev.role = .witness ∨ s.dev.role = .faulted → Runs (.verdictReceive gs) .witness s fun d =>
          d.role = s.dev.role ∧ d.term = s.dev.term ∧ s.dev.Changes [.dpx] (At [DPX_HEALTH, DPX_TERM]) d)) ∧
      (newerTerm v.term s.dev.term = true ∨ v.term = s.dev.term → s.dev.Resyncs v → Runs (.verdictReceive gs) .witness s fun d =>
        d.role = .syncing ∧ d.term = v.term ∧ d.get DPX_STAT_REASON = 0xC ∧ d.arm a = .blocked ∧ s.dev.Logs d 0x20 3 .witness ∧
        s.dev.Changes [.dpx, .aud, .rcd, .arms]
          (Either (At ([DPX_HEALTH, DPX_TERM, DPX_STAT, DPX_EVT, DPX_CASTSTAT] ++ audRegs)) (Each allArms fun a => [SCH_ASTAT a])) d) ∧
      (newerTerm v.term s.dev.term = false → v.term ≠ s.dev.term ∨ ¬ s.dev.Resyncs v → Runs (.verdictReceive gs) .witness s fun d =>
        d.role = s.dev.role ∧ d.term = s.dev.term ∧ s.dev.Changes [.dpx] (At [DPX_HEALTH, DPX_TERM]) d))) ∧
  (∀ (s : State) (o : Origin) (a : Fin 12) (g : Ingot), s.dev.held = false →
    (s.dev.Adopts → Runs .adoption .device s fun d =>
      d.role = .active ∧ d.dpx.takeover = false ∧ d.get DPX_EVT_ROLECHG = 1 ∧ d.word CYC_NUM = s.dev.word CYC_NUM) ∧
    (s.dev.Adopts → (s.dev.toPhase (s.dev.cyc.tm0.tret - 200)).adoptedIngot = none → Runs .adoption .device s fun d => d.arm a = s.dev.arm a ∧
      s.dev.Changes [.time, .dpx, .aud, .rcd] (At ([TIM_WRAP, DPX_STAT, DPX_EVT] ++ audRegs)) d) ∧
    (s.dev.Adopts → (s.dev.toPhase (s.dev.cyc.tm0.tret - 200)).adoptedIngot = some g → 0x4C0 ≤ g.bytes.length → Runs .adoption .device s fun d =>
      d.arm a = ArmState.ofCode (leAt g.bytes (0x40 + 64 * a) 1) ∧ (d.armCtl a).vref = dw (leAt g.bytes (0x340 + 32 * a) 4) ∧
      (d.armCtl a).vofs = dw (leAt g.bytes (0x344 + 32 * a) 4) ∧
      (d.armCtl a).iprev = (if (leAt g.bytes (0x41 + 64 * a) 1).testBit 4 then some (toSigned 64 (leAt g.bytes (0x48 + 64 * a) 8)) else none)) ∧
    (¬ s.dev.Adopts → Runs .adoption .device s fun d => d = s.dev) ∧
    (s.dev.role = .standby → s.dev.dpx.takeover = false → 8 ≤ s.dev.dpx.linkRun → Runs .standbyLinkLoss .device s fun d =>
      d.role = .syncing ∧ d.arm a = .blocked ∧ d.get DPX_STAT_REASON = (if s.dev.get DPX_STAT_SDLUP = 1 then 9 else 1) ∧
      s.dev.Changes [.dpx, .aud, .rcd, .arms]
        (Either (At ([DPX_STAT, DPX_EVT, DPX_HEALTH, DPX_CASTSTAT] ++ audRegs)) (Each allArms fun a => [SCH_ASTAT a])) d) ∧
    (s.dev.role ≠ .standby ∨ s.dev.dpx.takeover = true ∨ s.dev.dpx.linkRun < 8 → Runs .standbyLinkLoss .device s fun d => d = s.dev) ∧
    (s.Lets o DPX_CTRL → s.dev.dstate ≠ .boot → s.dev.dstate ≠ .halt → Comes (.dpxFaultWrite o) o s fun d =>
      d.dstate = .halt ∧ d.get RST_STAT_HCAUSE = 5 ∧ d.get SAF_STAT_FAIL = 1 ∧ d.arm a ≠ .running ∧ d.arm a ≠ .deblocking ∧
      (s.dev.role = .active ∨ s.dev.role = .standby ∨ s.dev.role = .syncing → d.role = .faulted) ∧
      (s.dev.role = .solo → s.dev.Changes [.arms, .aud, .saf, .rcd, .dpx, .out] (InAny [bRST, bSCH, bSAF, bAUD]) d)) ∧
    (s.Lets o DPX_CTRL → s.dev.dstate = .boot ∨ s.dev.dstate = .halt → Comes (.dpxFaultWrite o) o s fun d =>
      s.dev.Changes [.out] (At []) d))

/-- R315, R316, R318, R483: a unit's witness link. A heartbeat leaves on WIT0, in its bytes and in its code groups, and counts
as unanswered; under DIAG_PHB it leaves later or not at all; a unit without a pair and a witness send none. WITLOSS clears
WITOK after 4; a message with a bad CRC is counted. R315, R317, R319, R320: the witness. It starts after 3 × WTO with the
newest term reported, naming the one unit that reports ACTIVE to both units at once, or the one with the newer term; it keeps
each heartbeat and answers it with its verdict; with no unit named it names a qualified one, the preferred one first, with the
next term and cause 1; with the named unit FAULTED it names the STANDBY that has its ingots with cause 2, and with the named
unit silent for WTO the STANDBY that lost it too with cause 3. A bad or malformed message sets HBERR. -/
def Obligations.Witness : Prop :=
  (∀ (s : State) (gs : List (BitVec 10)) (b : List Byte) (e : Dev), s.dev.held = false →
    (s.dev.duplex = true → s.dev.role ≠ .witness → s.dev.role ≠ .solo → s.dev.perturbed .hb = false → Runs .heartbeatSend .device s fun d =>
      d.out = .witnessLine 0 (witnessGroups (Config.idleDisparity s.dev.free) s.dev.heartbeat) :: .witnessMsg 0 s.dev.heartbeat :: s.dev.out ∧
      d.dpx.unanswered = s.dev.dpx.unanswered + 1 ∧
      leAt s.dev.heartbeat 0 1 = 0x11 ∧ leAt s.dev.heartbeat 1 1 = s.dev.get DPX_CFG_UNIT * 128 + s.dev.role.code * 16 ∧
      leAt s.dev.heartbeat 2 4 = s.dev.lastClosed.toNat ∧ leAt s.dev.heartbeat 6 2 = s.dev.get DPX_TERM_TERM ∧
      leAt s.dev.heartbeat 12 2 = s.dev.ccv.toNat % 2 ^ 16 ∧ s.dev.heartbeat.length = 16 ∧
      s.dev.Changes [.dpx, .out, .free] (At [DPX_HEALTH]) d) ∧
    (s.dev.duplex = true → s.dev.role ≠ .witness → s.dev.role ≠ .solo → s.dev.perturbed .hb = true → s.dev.get DIAG_PHB_DELAY ≠ 0xFFFF →
      e = (if s.dev.running ∧ s.dev.cyc.inCycle then s.dev.toPhase (s.dev.get DIAG_PHB_DELAY) else s.dev.elapse (s.dev.get DIAG_PHB_DELAY)) →
      Runs .heartbeatSend .device s fun d =>
        d.out = .witnessLine 0 (witnessGroups (Config.idleDisparity e.free) e.heartbeat) :: .witnessMsg 0 e.heartbeat :: s.dev.out ∧
        d.dpx.unanswered = s.dev.dpx.unanswered + 1 ∧ s.dev.Changes [.time, .dpx, .out, .free] (At [TIM_WRAP, DPX_HEALTH]) d) ∧
    (s.dev.duplex = false ∨ s.dev.role = .witness ∨ s.dev.role = .solo ∨ (s.dev.perturbed .hb = true ∧ s.dev.get DIAG_PHB_DELAY = 0xFFFF) →
      Runs .heartbeatSend .device s fun d => d = s.dev) ∧
    (s.dev.get DPX_HEALTH_WITOK = 1 → 4 ≤ s.dev.dpx.unanswered → Runs .witloss .device s fun d =>
      d.get DPX_HEALTH_WITOK = 0 ∧ d.get DPX_EVT_WITLOSS = 1 ∧ s.dev.Changes [] (At [DPX_HEALTH, DPX_EVT]) d) ∧
    (s.dev.get DPX_HEALTH_WITOK = 0 ∨ s.dev.dpx.unanswered < 4 → Runs .witloss .device s fun d => d = s.dev) ∧
    (witnessBytes gs = none → Runs (.witnessMessageCrcError gs) .device s fun d => s.dev.WitBad d) ∧
    (witnessBytes gs = some b → Runs (.witnessMessageCrcError gs) .device s fun d => d = s.dev)) ∧
  (∀ (s : State) (u : Fin 2) (gs : List (BitVec 10)) (b : List Byte) (e : Dev), s.dev.held = false →
    (s.dev.role = .witness → s.dev.dpx.wit.started = false →
      e = s.dev.elapse (s.dev.dpx.wit.since + 3 * s.dev.get DPX_WTO_WTO - s.dev.time.cio) →
      (Runs .witnessStart .device s fun d => d.dpx.wit.started = true ∧
        s.dev.Changes [.time, .dpx, .out, .free] (At [TIM_WRAP, DPX_WEVT, DPX_WSTAT]) d) ∧
      (e.reports u .active = true → e.reports (1 - u.val) .active = false → Runs .witnessStart .device s fun d =>
        d.named = u.val ∧ d.get DPX_WSTAT_TERM = s.dev.dpx.wit.newest.toNat ∧
        ((d.out.filterMap Emission.verdict).take 2).map (fun v => (v.1, v.2.1, v.2.2.2)) =
          [(1, u.val, s.dev.dpx.wit.newest.toNat, 1), (0, u.val, s.dev.dpx.wit.newest.toNat, 1)]) ∧
      (e.reports 0 .active = true → e.reports 1 .active = true → Runs .witnessStart .device s fun d =>
        d.named = (if newerTerm s.dev.dpx.wit.b.term s.dev.dpx.wit.a.term then 1 else 0) ∧
        d.get DPX_WSTAT_TERM = (s.dev.dpx.wit.newest.toNat + 1) % 2 ^ 16) ∧
      (e.reports 0 .active = false → e.reports 1 .active = false → 1 < s.dev.named → e.qualifies 0 = false → e.qualifies 1 = false →
        Runs .witnessStart .device s fun d => d.named = s.dev.named ∧ d.get DPX_WSTAT_TERM = s.dev.dpx.wit.newest.toNat)) ∧
    (s.dev.role ≠ .witness ∨ s.dev.dpx.wit.started = true → Runs .witnessStart .device s fun d => d = s.dev) ∧
    (witnessBytes gs = none → Runs (.heartbeatReceive u gs) .partner s fun d => s.dev.WitBad d) ∧
    (witnessBytes gs = some b →
      (s.dev.role ≠ .witness → Runs (.heartbeatReceive u gs) .partner s fun d => d = s.dev) ∧
      (s.dev.role = .witness → beatForm u b = false → Runs (.heartbeatReceive u gs) .partner s fun d =>
        d.bit DPX_WEVT_WEVT 3 = true ∧ s.dev.Changes [] (At [DPX_WEVT]) d) ∧
      (s.dev.role = .witness → beatForm u b = true → s.dev.dpx.wit.started = false → Runs (.heartbeatReceive u gs) .partner s fun d =>
        d.dpx.wit.unit u = (s.dev.dpx.wit.unit u).heard b s.dev.time.cio ∧ d.dpx.wit.unit (1 - u) = s.dev.dpx.wit.unit (1 - u) ∧
        s.dev.Changes [.dpx] (At []) d) ∧
      (s.dev.role = .witness → beatForm u b = true → s.dev.dpx.wit.started = true →
        e = s.dev.setWit (fun w => w.setUnit u ((w.unit u).heard b s.dev.time.cio)) →
        (Runs (.heartbeatReceive u gs) .partner s fun d =>
          d.dpx.wit.unit u = (s.dev.dpx.wit.unit u).heard b s.dev.time.cio ∧ d.dpx.wit.unit (1 - u) = s.dev.dpx.wit.unit (1 - u) ∧
          (d.out.filterMap Emission.verdict).head?.map (fun v => (v.1, v.2.1, v.2.2.2.1)) = some (u.val, d.named, d.get DPX_WSTAT_TERM) ∧
          s.dev.Changes [.dpx, .out, .free] (At [DPX_WEVT, DPX_WSTAT]) d) ∧
        (s.dev.named = u.val → e.reports u .faulted = true → e.reports (1 - u.val) .standby = true → e.beat (1 - u) 2 = true →
          Runs (.heartbeatReceive u gs) .partner s fun d => d.named = 1 - u.val ∧
            d.get DPX_WSTAT_TERM = (s.dev.get DPX_WSTAT_TERM + 1) % 2 ^ 16 ∧ d.dpx.wit.cause = 2 ∧ d.bit DPX_WEVT_WEVT 0 = true))) ∧
    (s.dev.role ≠ .witness ∨ s.dev.dpx.wit.started = false → Runs (.witnessTimeout u) .device s fun d => d = s.dev) ∧
    (s.dev.role = .witness → s.dev.dpx.wit.started = true →
      e = s.dev.elapse (((s.dev.dpx.wit.unit u).at_.getD s.dev.dpx.wit.since) + s.dev.get DPX_WTO_WTO - s.dev.time.cio) →
      (Runs (.witnessTimeout u) .device s fun d => d.time = e.time ∧
        s.dev.Changes [.time, .dpx, .out, .free] (At [TIM_WRAP, DPX_WEVT, DPX_WSTAT]) d) ∧
      (s.dev.named = u.val → e.reports u .faulted = false → e.silent u = true → e.reports (1 - u.val) .standby = true →
        e.beat (1 - u) 2 = true → e.beat (1 - u) 3 = true → Runs (.witnessTimeout u) .device s fun d =>
          d.named = 1 - u.val ∧ d.get DPX_WSTAT_TERM = (s.dev.get DPX_WSTAT_TERM + 1) % 2 ^ 16 ∧ d.bit DPX_WEVT_WEVT 0 = true ∧
          ((d.out.filterMap Emission.verdict).take 2).map (fun v => (v.1, v.2.1, v.2.2.2)) =
            [(1, 1 - u.val, (s.dev.get DPX_WSTAT_TERM + 1) % 2 ^ 16, 3), (0, 1 - u.val, (s.dev.get DPX_WSTAT_TERM + 1) % 2 ^ 16, 3)]) ∧
      (1 < s.dev.named → e.qualifies (s.dev.get DPX_CFG_PREF) = true → Runs (.witnessTimeout u) .device s fun d =>
          d.named = s.dev.get DPX_CFG_PREF ∧ d.get DPX_WSTAT_TERM = (s.dev.get DPX_WSTAT_TERM + 1) % 2 ^ 16 ∧
          d.bit DPX_WEVT_WEVT 0 = true)))

/-- R82, R290, R299 to R304, R312: the messages of a cycle. ISLOT is queued with the signal slots of the cycle and written at a
follower; a block mask blocks the arms of an ACTIVE unit, which tells its partner, and is substituted at a follower; a relayed
slot that is not fresh commits its sample; REF gives the active sets; CMDS for the next cycle, or for this one 50 ns before its
departure, is placed in the frame buffers with the length of the cycle after. What a unit does not take leaves no trace but on
the link. -/
def Obligations.CycleMessages : Prop := ∀ (s : State) (lines : List (List Int)) (t : BitVec 40) (x : SolderIn) (e : Dev) (a : Fin 12)
  (p : Fin 48) (n : Fin 128) (i : Fin 64) (u : Nat × Nat × Nat × Nat) (y : Word × Word) (z : Nat × CellCmd) (m : Cmds), s.dev.held = false →
  (s.dev.inCycle = true → s.dev.role = .active → s.dev.cyc.closed = false → Runs .islotSend .device s fun d =>
    (s.dev.paired = true → s.dev.Queues d (.islot s.dev.cycle ((List.range 64).map fun i => s.dev.word (LOOP_SLOT i)))) ∧
    (s.dev.paired = false → d.dpx = s.dev.dpx) ∧ s.dev.Changes [.time, .dpx] (At [TIM_WRAP]) d) ∧
  (s.dev.inCycle = false ∨ s.dev.role ≠ .active ∨ s.dev.cyc.closed = true → Runs .islotSend .device s fun d => d = s.dev) ∧
  (s.dev.solderTake 2 lines 0 = ([x], e) →
    (s.dev.shadowing = true → Runs (.islotReceive lines) .partner s fun d =>
      d.word (LOOP_SLOT i) = ((leWords x.bytes)[i.val]?.getD (s.dev.word (LOOP_SLOT i))) ∧ d.dpx.islotCyc = some x.cyc ∧
      s.dev.Changes [.lane, .dpx] (Either (At solderRegs) (Each (List.range 64) fun i => [LOOP_SLOT i])) d) ∧
    (s.dev.shadowing = false → Runs (.islotReceive lines) .partner s fun d => s.dev.Listened d)) ∧
  (s.dev.solderTake 1 lines 0 = ([x], e) →
    (s.dev.role = .active → Runs (.blkReceive lines) .partner s fun d =>
      ((leAt x.bytes 0 2).testBit a = true → s.dev.arm a = .running ∨ s.dev.arm a = .deblocking → d.arm a = .blocking ∧
        (d.armCtl a).subst = some s.dev.time.tb0) ∧ ((leAt x.bytes 0 2).testBit a = false → d.arm a = s.dev.arm a) ∧
      (leAt x.bytes 0 2 % 4096 ≠ 0 → s.dev.Queues d (.blk (leAt x.bytes 0 2 % 4096))) ∧
      s.dev.Changes [.lane, .dpx, .arms, .aud, .rcd]
        (Either (At (audRegs ++ solderRegs)) (Each allArms fun a => [SCH_ASTAT a, SCH_AEVT a])) d) ∧
    (s.dev.role = .standby ∨ s.dev.role = .syncing → Runs (.blkReceive lines) .partner s fun d =>
      ((leAt x.bytes 0 2).testBit a = true → (d.armCtl a).subst.isSome = true) ∧ s.dev.Changes [.lane, .dpx, .arms] (At solderRegs) d) ∧
    (s.dev.role = .solo ∨ s.dev.role = .witness ∨ s.dev.role = .faulted → Runs (.blkReceive lines) .partner s fun d => s.dev.Listened d)) ∧
  (s.dev.solderTake 3 lines 0 = ([x], e) →
    (leAt x.bytes 0 1 = p.val → s.dev.portActive p = true → s.dev.running = true → s.dev.cyc.inCycle = true → s.dev.cyc.closed = false →
      leAt x.bytes 8 4 = s.dev.cycle.toNat → s.dev.phaseNs ≤ s.dev.closesAt p →
      (Runs (.relayReceive lines) .partner s fun d => s.dev.Changes [.lane, .dpx, .ports]
        (Either (At solderRegs) (Each ((relaySlots x.bytes).map (128 * p + ·.1)) fun c => [CELL_W00 c, CELL_W04 c, CELL_W08 c, CELL_W0C c])) d) ∧
      ((n.val, u) ∈ relaySlots x.bytes → n.val < (s.dev.port p).discovered → s.dev.isFresh p n = false →
        Runs (.relayReceive lines) .partner s fun d => d.isFresh p n = true ∧ d.word (CELL_W00 (128 * p + n)) = dw (u.2.1 * 2 ^ 16 + u.1) ∧
          d.word (CELL_W04 (128 * p + n)) = dw (u.2.2.2 * 2 ^ 16 + u.2.2.1) ∧ d.word (CELL_W08 (128 * p + n)) = s.dev.cycle ∧
          d.get (CELL_W0C_SRC (128 * p + n)) = 3 ∧ d.get (CELL_W0C_STALE (128 * p + n)) = 0)) ∧
    (48 ≤ leAt x.bytes 0 1 ∨ s.dev.portActive (leAt x.bytes 0 1) = false ∨ s.dev.running = false ∨ s.dev.cyc.inCycle = false ∨
      s.dev.cyc.closed = true ∨ leAt x.bytes 8 4 ≠ s.dev.cycle.toNat ∨ s.dev.closesAt (leAt x.bytes 0 1) < s.dev.phaseNs →
      Runs (.relayReceive lines) .partner s fun d => s.dev.Listened d)) ∧
  (s.dev.solderTake 4 lines 0 = ([x], e) →
    (s.dev.shadowing = true → s.dev.running = true → s.dev.cyc.inCycle = true → x.cyc = s.dev.cycle →
      (pairsOf (leWords x.bytes))[a.val]? = some y → Runs (.refReceive lines) .partner s fun d =>
        (d.armCtl a).vref = y.1 ∧ (d.armCtl a).vofs = y.2 ∧ d.get (SCH_ASTAT_RGEN a) = s.dev.get (SCH_ASTAT_RGEN a) ∧
        d.dpx.refCyc = some s.dev.cycle ∧ s.dev.Changes [.lane, .dpx, .arms] (Either (At solderRegs) (InAny [bSCH])) d) ∧
    (s.dev.shadowing = false ∨ s.dev.running = false ∨ s.dev.cyc.inCycle = false ∨ x.cyc ≠ s.dev.cycle →
      Runs (.refReceive lines) .partner s fun d => s.dev.Listened d)) ∧
  (s.dev.solderTake 5 lines t = ([x], e) → m = Cmds.of s.dev.mappedCells x.dep x.bytes →
    (s.dev.follower = false → Runs (.cmdsReceive lines t) .partner s fun d => s.dev.Listened d) ∧
    (s.dev.follower = true → s.dev.Steady m.t4 →
      (s.dev.running = true → s.dev.cyc.inCycle = true → m.cyc = s.dev.cycle + 1 → Runs (.cmdsReceive lines t) .partner s fun d =>
        d.cyc.len2 = m.len2 ∧ d.cyc.len1 = s.dev.cyc.len1) ∧
      (s.dev.running = true → s.dev.cyc.inCycle = true → m.cyc = s.dev.cycle → s.dev.cyc.departed = false →
        s.dev.phaseNs + 50 ≤ s.dev.cyc.tm0.dtx → Runs (.cmdsReceive lines t) .partner s fun d =>
        d.cyc.len1 = m.len2 ∧ d.cyc.len2 = s.dev.cyc.len2) ∧
      (s.dev.running = true → s.dev.cyc.inCycle = true →
        m.cyc = s.dev.cycle + 1 ∨ (m.cyc = s.dev.cycle ∧ s.dev.cyc.departed = false ∧ s.dev.phaseNs + 50 ≤ s.dev.cyc.tm0.dtx) →
        Runs (.cmdsReceive lines t) .partner s fun d =>
          d.dpx.cmdsFor = some m.cyc ∧ d.get DPX_STAT_PLOST = 0 ∧ d.word DPX_PHEALTH = m.health ∧ d.dpx.t4 = x.stamp ∧ d.dpx.blkMask = m.block ∧
          (s.dev.get (RING_CTRL_EN p) = 1 → (d.port p).buf.length = (s.dev.port p).discovered ∧
            (s.dev.role = .standby ∨ s.dev.get DPX_STAT_PAIRED = 1 → n.val < (s.dev.port p).discovered →
              m.cells.find? (fun e => e.1 == 128 * p.val + n.val) = some z → nth (d.port p).buf n noneCmd = z.2) ∧
            (s.dev.role = .syncing → s.dev.get DPX_STAT_PAIRED = 0 → nth (d.port p).buf n noneCmd = noneCmd)) ∧
          (m.block.getLsbD a = true → (d.armCtl a).subst.isSome = true) ∧
          (m.block.getLsbD a = false → s.dev.dpx.blkMask.getLsbD a = true → (d.armCtl a).subst = none) ∧
          (m.block.getLsbD a = false → s.dev.dpx.blkMask.getLsbD a = false → (d.armCtl a).subst = (s.dev.armCtl a).subst) ∧
          s.dev.Changes [.lane, .dpx, .cyc, .ports, .arms] (Either (At solderRegs) (InAny [bDPX, bSCH, bCELL])) d) ∧
      (s.dev.running = false ∨ s.dev.cyc.inCycle = false ∨ (m.cyc ≠ s.dev.cycle + 1 ∧
          (m.cyc ≠ s.dev.cycle ∨ s.dev.cyc.departed = true ∨ s.dev.cyc.tm0.dtx < s.dev.phaseNs + 50)) →
        Runs (.cmdsReceive lines t) .partner s fun d => d.dpx.cmdsFor = s.dev.dpx.cmdsFor ∧ d.get DPX_STAT_PLOST = 0 ∧ d.dpx.t4 = x.stamp ∧
          s.dev.Changes [.lane, .dpx] (Either (At solderRegs) (InAny [bDPX])) d)))

/-- R128, R295, R296, R298, R299, R305, R314: the link. What the four lanes bring acts message by message, each command on
those of its own type; without a pair nothing acts. A message leaves whole or in parts of 1,024 bytes with the next sequence
number, and the queue is dropped without a link. A message whose CRC is bad is discarded, a cast segment counts as lost. R292,
R295, R296, R299, R305, R314: pairing. PAIR and STAT carry the state of the unit; a PAIR message from a unit of the same number
fails check 2, which an ACTIVE unit flags, which makes a STANDBY SYNCING and which is the REASON of a SYNCING one; one whose
values agree, at an ACTIVE unit, pairs the units. R307 to R310, R313, R325, R327, R328, R345: ingots, casts, discovery results
and epochs at the partner. A segment leaves; the last one sets DPX_INGSTAT. A received ingot commits when all its bytes have
come with HDR, COMMIT word and CRC right. A cast segment is counted, a gap before it counts as a lost one, and the last sets
CASTDONE. Discovery results set the port's cells. A forwarded epoch is staged, committed and discarded with the ACTIVE unit's.
-/
def Obligations.PartnerData : Prop :=
  (∀ (s : State) (lines : List (List Int)) (t : BitVec 40) (l : List SolderIn) (e : Dev) (q : SolderQ)
    (rest : List SolderQ) (us : List (List Byte)), s.dev.held = false →
    (∀ y ∈ [(11, t, Instr.pairReceive lines t, fun x d => Dev.pairReceive d (.of x.bytes) x.stamp),
        (1, 0, .blkReceive lines, fun x d => d.blkReceive (leAt x.bytes 0 2)),
        (2, 0, .islotReceive lines, fun x d => d.islotReceive x.cyc (leWords x.bytes)),
        (3, 0, .relayReceive lines, fun x d => d.relayReceive (leAt x.bytes 0 1) (dw (leAt x.bytes 8 4)) (relaySlots x.bytes)),
        (4, 0, .refReceive lines, fun x d => d.refReceive x.cyc (pairsOf (leWords x.bytes))),
        (5, t, .cmdsReceive lines t, fun x d => d.cmdsReceive (.of d.mappedCells x.dep x.bytes) x.stamp),
        (6, t, .statReceive lines t, fun x d => d.statReceive (.of x.bytes) x.stamp),
        (7, 0, .ingotSegmentReceive lines, fun x d => d.ingReceive x.cyc x.bytes),
        (8, 0, .castSegmentReceive lines, fun x d => d.castReceive x.cyc.toNat x.bytes),
        (9, 0, .discresReceive lines, fun x d => d.discresMessage x.bytes)],
      s.dev.solderTake y.1 lines y.2.1 = (l, e) → s.dev.Changes [.lane, .dpx] (At (DPX_EVT :: solderRegs)) e ∧
        (y.1 ≠ 8 ∨ s.dev.role ≠ .syncing → s.dev.Listened e) ∧ (s.dev.paired = false → l = []) ∧
        (∀ x ∈ l, x.type = y.1) ∧ Runs y.2.2.1 .partner s fun d => d = e.each l y.2.2.2) ∧
    (s.dev.solderTake 10 lines 0 = (l, e) → Stores (.epochReceive lines) .partner s fun nv d =>
      (nv, d) = l.foldl (fun x m => x.2.epochMessage x.1 m.bytes) (s.nv, e)) ∧
    (s.dev.dpx.queue = [] → Runs .solderMessageSend .device s fun d => d = s.dev) ∧
    (s.dev.dpx.queue = q :: rest → s.dev.paired = false → Runs .solderMessageSend .device s fun d => d.dpx.queue = [] ∧
      s.dev.Changes [.dpx] (At []) d) ∧
    (s.dev.dpx.queue = q :: rest → s.dev.paired = true → Runs .solderMessageSend .device s fun d =>
      .solder (s.dev.solderBytes q) ∈ d.out ∧ d.dpx.queue = s.dev.solderLeft q ++ rest ∧ d.dpx.seq = s.dev.dpx.seq + 1 ∧
      (q.part = 0 → sentInParts q.msg.prio = false → d.dpx.queue = rest) ∧
      (q.part = 0 → hasStamp q.msg = true → d.dpx.t3 = s.dev.stamp) ∧
      s.dev.Changes [.dpx, .out, .lane, .free] (At [DPX_CNT3, DPX_EVT]) d) ∧
    (s.dev.solderUnits lines = (us, e) → s.dev.paired = false → Runs (.solderMessageCrcError lines) .partner s fun d => d = e) ∧
    (s.dev.solderUnits lines = (us, e) → s.dev.paired = true → Runs (.solderMessageCrcError lines) .partner s fun d =>
      (∀ z ∈ messagesOf us.length us, z.2.2 = false → (∀ y ∈ d.dpx.parts, y.type ≠ z.1.type) ∧
        (z.1.type = 8 → s.dev.role = .syncing → d.get DPX_EVT_CASTFAIL = 1)) ∧
      s.dev.Changes [.lane, .dpx] (At (DPX_EVT :: solderRegs)) d)) ∧
  (∀ (s : State) (lines : List (List Int)) (t : BitVec 40) (x : SolderIn) (e : Dev) (m : PairMsg) (a : Fin 12)
    (b : List Byte) (rest : List (List Byte)) (p : Fin 48) (recs : Words) (i n : Nat) (j : Option Word) (a0 : Option (BitVec 48)) (v : BitVec 64)
    (g : List Byte), s.dev.held = false →
    (s.dev.paired = true → Runs .pairSend .device s fun d => s.dev.Queues d (.pair s.dev.pairMsg) ∧ s.dev.Changes [.dpx] (At []) d) ∧
    (s.dev.paired = false → Runs .pairSend .device s fun d => d = s.dev) ∧
    (s.dev.solderTake 11 lines t = ([x], e) → m = PairMsg.of x.bytes →
      (Runs (.pairReceive lines t) .partner s fun d => d.dpx.partner = some m ∧ d.dpx.t4 = x.stamp ∧
        d.get DPX_STAT_PAIRED = (if d.dpx.check = 0 then 1 else 0)) ∧
      (m.unit = s.dev.get DPX_CFG_UNIT →
        (s.dev.role = .active → Runs (.pairReceive lines t) .partner s fun d =>
          d.dpx.check = 2 ∧ d.get DPX_STAT_PAIRED = 0 ∧ d.get DPX_EVT_PAIRMIS = 1 ∧ d.get DPX_HEALTH_TIMEOK = 1 ∧
          s.dev.Changes [.lane, .dpx] (At ([DPX_STAT, DPX_HEALTH, DPX_EVT, DPX_CASTSTAT] ++ solderRegs)) d) ∧
        (s.dev.role = .syncing → s.dev.Steady m.t4 → Runs (.pairReceive lines t) .partner s fun d =>
          d.role = .syncing ∧ d.get DPX_STAT_REASON = 2 ∧ d.get DPX_STAT_PAIRED = 0) ∧
        (s.dev.role = .standby → s.dev.Steady m.t4 → Runs (.pairReceive lines t) .partner s fun d =>
          d.role = .syncing ∧ d.get DPX_STAT_REASON = 2 ∧ d.get DPX_STAT_PAIRED = 0 ∧ d.arm a = .blocked)) ∧
      (m.unit ≠ s.dev.get DPX_CFG_UNIT → m.fwver = s.dev.word SEC_FWVER → m.digests = s.dev.imageDigests → m.ccv = s.dev.ccv →
        m.epoch = s.dev.word HIF_EPOCH &&& 0xFFFF → m.config = s.dev.configDigest → s.dev.role = .active → m.role = .standby ∨ m.role = .syncing →
        Runs (.pairReceive lines t) .partner s fun d => d.get DPX_STAT_PAIRED = 1 ∧ d.get DPX_HEALTH_PAIROK = 1 ∧ d.dpx.check = 0 ∧
          d.get DPX_HEALTH_TIMEOK = 1 ∧ s.dev.Changes [.lane, .dpx] (At ([DPX_STAT, DPX_HEALTH, DPX_CASTSTAT] ++ solderRegs)) d)) ∧
    (s.dev.solderTake 6 lines t = ([x], e) → Runs (.statReceive lines t) .partner s fun d =>
      d.word DPX_PHEALTH = dw (leAt x.bytes 0 4) ∧ d.dpx.pstat = some (.of x.bytes) ∧ d.dpx.t4 = x.stamp ∧
      d.dpx.castAsk = leAt x.bytes 14 2 ∧ s.dev.Changes [.lane, .dpx] (At (DPX_PHEALTH :: solderRegs)) d) ∧
    (s.dev.role = .active → s.dev.dpx.sending = b :: rest →
      (s.dev.perturbed .ing = false → Runs .ingotSegmentSend .device s fun d =>
        (s.dev.paired = true → s.dev.Queues d (.ingot s.dev.dpx.sendK b)) ∧ (s.dev.paired = false → d.dpx.queue = s.dev.dpx.queue) ∧
        d.dpx.sending = rest ∧ (rest = [] → d.word DPX_INGSTAT = s.dev.dpx.sendK ∧ d.dpx.sentUpTo = some s.dev.dpx.sendK) ∧
        (rest ≠ [] → d.word DPX_INGSTAT = s.dev.word DPX_INGSTAT) ∧ s.dev.Changes [.dpx] (At [DPX_INGSTAT]) d) ∧
      (s.dev.perturbed .ing = true → Runs .ingotSegmentSend .device s fun d => d.dpx.sending = rest ∧
        (s.dev.paired = true → s.dev.Queues d (.ingot s.dev.dpx.sendK b)) ∧ s.dev.Changes [.time, .dpx] (At [TIM_WRAP, DPX_INGSTAT]) d)) ∧
    (s.dev.role ≠ .active ∨ s.dev.dpx.sending = [] → Runs .ingotSegmentSend .device s fun d => d = s.dev) ∧
    (s.dev.solderTake 7 lines 0 = ([x], e) → g = s.dev.filled x.cyc x.bytes →
      (¬ s.dev.TakesIngot x.cyc → Runs (.ingotSegmentReceive lines) .partner s fun d => s.dev.Listened d) ∧
      (s.dev.TakesIngot x.cyc → g.length < s.dev.ingotLen ∨ commitOk x.cyc s.dev.ingotLen g = false →
        Runs (.ingotSegmentReceive lines) .partner s fun d => d.dpx.fill = some ⟨x.cyc, g⟩ ∧ d.dpx.comm = s.dev.dpx.comm ∧ s.dev.Listened d) ∧
      (s.dev.TakesIngot x.cyc → s.dev.ingotLen ≤ g.length → commitOk x.cyc s.dev.ingotLen g = true →
        Runs (.ingotSegmentReceive lines) .partner s fun d => d.dpx.comm = some ⟨x.cyc, g, s.dev.time.cio⟩ ∧ d.dpx.prev = s.dev.dpx.comm ∧
          d.dpx.fill = none ∧ d.word DPX_INGSTAT = x.cyc ∧ s.dev.Changes [.lane, .dpx, .aud, .rcd]
            (Either (At ([DPX_INGSTAT, DPX_CNT1, DPX_STAT, DPX_HEALTH, DPX_EVT] ++ audRegs ++ solderRegs))
              (Each ((sliceRecords g).map (·.1)) fun c => [CELL_W24 c, CELL_W34 c, CELL_W38 c])) d)) ∧
    (s.dev.solderTake 8 lines 0 = ([x], e) →
      (s.dev.role ≠ .syncing → Runs (.castSegmentReceive lines) .partner s fun d => s.dev.Listened d) ∧
      (s.dev.role = .syncing →
        (Runs (.castSegmentReceive lines) .partner s fun d =>
          d.dpx.castIn = (if s.dev.dpx.castIn.contains x.cyc.toNat then s.dev.dpx.castIn else x.cyc.toNat :: s.dev.dpx.castIn) ∧
          d.get DPX_CASTSTAT_SEGDONE = d.dpx.castIn.length % 2 ^ 16 ∧ (x.cyc = 0 → d.get DPX_CASTSTAT_SEGTOT = leAt x.bytes 4 4 % 2 ^ 16) ∧
          (d.dpx.castIn.contains 0 = true → d.get DPX_CASTSTAT_SEGTOT ≤ d.dpx.castIn.length →
            s.dev.get DPX_STAT_CASTDONE = 0 → d.get DPX_STAT_CASTDONE = 1 ∧ d.get DPX_HEALTH_CASTDONE = 1)) ∧
        (0 < x.cyc.toNat → s.dev.dpx.castIn.contains (x.cyc.toNat - 1) = false → Runs (.castSegmentReceive lines) .partner s fun d =>
          d.get DPX_EVT_CASTFAIL = 1) ∧
        (0 < x.cyc.toNat → s.dev.dpx.castIn.contains 0 = true → Runs (.castSegmentReceive lines) .partner s fun d =>
          (s.dev.putWords ((s.dev.castOffsets.drop (castAt x.cyc.toNat)).zip (leWords x.bytes))).Changes [.lane, .dpx, .aud, .rcd]
            (Either (InAny [bDPX]) (At (audRegs ++ solderRegs))) d) ∧
        (0 < x.cyc.toNat → s.dev.dpx.castIn.contains 0 = false → Runs (.castSegmentReceive lines) .partner s fun d =>
          (x.cyc.toNat, x.bytes) ∈ d.dpx.castHeld ∧ s.dev.Changes [.lane, .dpx] (Either (InAny [bDPX]) (At solderRegs)) d))) ∧
    (s.dev.solderTake 9 lines 0 = ([x], e) →
      (s.dev.timeRef = true ∨ 48 ≤ leAt x.bytes 0 1 → Runs (.discresReceive lines) .partner s fun d => s.dev.Listened d) ∧
      (s.dev.timeRef = false → leAt x.bytes 0 1 = p.val →
        (leAt x.bytes 1 1 = 1 → Runs (.discresReceive lines) .partner s fun d =>
          d.get (RING_DISC_RES p) = 1 ∧ d.get (RING_DISC_NFOUND p) = min (leAt x.bytes 2 2) 128 ∧ d.get (RING_EVT_DISCDONE p) = 1 ∧
          (d.port p).discovered = min (leAt x.bytes 2 2) 128 ∧
          s.dev.Changes [.lane, .dpx, .ports, .arms] (Either (At solderRegs) (InAny [bRING, bCELL, bARM])) d) ∧
        (leAt x.bytes 1 1 ≠ 1 → Runs (.discresReceive lines) .partner s fun d =>
          d.get (RING_DISC_RES p) = leAt x.bytes 1 1 % 2 ^ (RING_DISC_RES p).width ∧ d.get (RING_EVT_DISCFAIL p) = 1 ∧ (d.port p).discovered = 0 ∧
          s.dev.Changes [.lane, .dpx, .ports, .arms] (Either (At solderRegs) (InAny [bRING, bCELL, bARM])) d))) ∧
    (s.dev.solderTake 10 lines 0 = ([x], e) →
      (s.dev.follower = false ∨ s.dev.locked = false ∨ EpochMsg.of x.bytes = none → Stores (.epochReceive lines) .partner s fun nv d =>
        nv = s.nv ∧ s.dev.Listened d) ∧
      (s.dev.follower = true → s.dev.locked = true →
        (EpochMsg.of x.bytes = some (.group 0 n recs) → 1 < n → s.dev.epState ≠ .applying → Stores (.epochReceive lines) .partner s fun nv d =>
          nv = s.nv ∧ d.epState = .staging ∧ d.ep.groups = [recs.map fun r => ⟨r.1, r.2⟩] ∧ d.ep.origin = .partner ∧
          s.dev.Changes [.lane, .dpx, .ep, .hif, .out] (At (HIF_EPRES :: evtRegs ++ solderRegs)) d) ∧
        (EpochMsg.of x.bytes = some (.group i n recs) → 0 < i → i + 1 < n → s.dev.epState = .staging → s.dev.ep.origin = .partner →
          s.dev.ep.groups.length = i → Stores (.epochReceive lines) .partner s fun nv d =>
          nv = s.nv ∧ d.ep = { s.dev.ep with groups := s.dev.ep.groups ++ [recs.map fun r => ⟨r.1, r.2⟩] } ∧
          s.dev.Changes [.lane, .dpx, .ep] (At solderRegs) d) ∧
        (EpochMsg.of x.bytes = some (.commit j a0) → s.dev.epState = .valid → s.dev.ep.origin = .partner →
          Stores (.epochReceive lines) .partner s fun nv d => nv = s.nv ∧ d.epState = .applying ∧ d.ep.applyAt = j ∧ d.ep.applyTime = a0 ∧
            d.ep.groups = s.dev.ep.groups ∧ s.dev.Changes [.lane, .dpx, .ep, .hif, .out] (At (HIF_EPRES :: evtRegs ++ solderRegs)) d) ∧
        (EpochMsg.of x.bytes = some .abort → s.dev.epState ≠ .idle → s.dev.epState ≠ .applying →
          Stores (.epochReceive lines) .partner s fun nv d => nv = s.nv ∧ d.epState = .idle ∧ d.ep.groups = [] ∧
            s.dev.Changes [.lane, .dpx, .ep, .hif, .out] (At (HIF_EPRES :: evtRegs ++ solderRegs)) d) ∧
        (EpochMsg.of x.bytes = some (.confirm v) → s.dev.confirmRefusal v = none → Stores (.epochReceive lines) .partner s fun nv d =>
          nv.mram.ccvconf = v ∧ nv.fuses = s.nv.fuses ∧ nv.mram.log = s.nv.mram.log ∧ d.word SAF_CCVCONF_LO = dw (v.toNat % 2 ^ 32) ∧
          s.dev.Logs d 0x31 0 .partner))))

/-! ### Scheduler, semaphores and pairs (R390 to R412) -/

/-- An item of a flow with a sequence number, kind, origin and binding waits or is in service. -/
abbrev Sys2Proof.Machine.Dev.Has (d : Dev) (f seq kind origin : Nat) (b : Option Nat) : Prop :=
  (∃ x ∈ d.svc.ready, x.flow = f ∧ x.seq = seq ∧ x.kind = kind ∧ x.origin = origin ∧ x.bind = b) ∨
    ∃ p ∈ d.svc.pairs, p.item.any (fun x => x.flow = f ∧ x.seq = seq ∧ x.kind = kind ∧ x.origin = origin ∧ x.bind = b) = true

/-- R395, R397, R398, R400, R401, R404, R405, R406, R465: items. A write of SVC_ENQCMD commits an item with the next sequence
number, at once or into the delay list for its tick, or refuses it with the status of R398; a cancel takes a delay entry away;
DONE ends the item in service and counts it, also in the cycle of the pair's reset; a binding that fires enqueues one event
item, and while that item waits only counts. A binding whose flow pairs 1 to 3 may run wakes the device from DEEP. -/
def Obligations.WorkItems : Prop := ∀ (s : State) (o : Origin) (v cyc : Word) (f : Fin 256) (st k : Nat) (n : Fin 4) (x : WorkItem) (i : Fin 16),
  (s.Lets o SVC_ENQCMD → leAt (wordBytes (s.dev.enqCopy o).words) 0 1 = f.val →
    (s.dev.enqRefusal o f = some st → Comes (.svcEnqueue o v) o s fun d => (d.enqCopy o).res = dw (st * 2 ^ 28) ∧
      d.svc.ready = s.dev.svc.ready ∧ d.svc.delays = s.dev.svc.delays ∧ d.svc.nextSeq = s.dev.svc.nextSeq ∧
      s.dev.Changes [.svc, .out] (At []) d) ∧
    (s.dev.enqRefusal o f = none → v = 0 → s.dev.readyRoom f = true → Comes (.svcEnqueue o v) o s fun d =>
      (d.enqCopy o).res = 0 ∧ d.svc.nextSeq = s.dev.svc.nextSeq + 1 ∧ d.Has f s.dev.svc.nextSeq 0 o.code none ∧
      s.dev.Changes [.svc, .out] (InAny [bSVC]) d) ∧
    (s.dev.enqRefusal o f = none → v = 0 → s.dev.readyRoom f = false → Comes (.svcEnqueue o v) o s fun d =>
      (d.enqCopy o).res = 0x30000000 ∧ d.svc.ready = s.dev.svc.ready ∧ d.bit SVC_EVT_EVT 0 = true ∧ s.dev.Counted d SVC_CNT_FULL ∧
      s.dev.Changes [.svc, .out] (At [SVC_EVT, SVC_CNT]) d) ∧
    (s.dev.enqRefusal o f = none → v ≠ 0 → s.dev.svc.delayOn < 4096 → Comes (.svcEnqueue o v) o s fun d =>
      (∃ e ∈ d.svc.delays, e.item.flow = f.val ∧ e.item.seq = s.dev.svc.nextSeq ∧ e.item.kind = 1 ∧ e.expiry = s.dev.tickAfter v.toNat ∧
        (d.enqCopy o).res = dw e.handle) ∧ d.svc.delays.length = s.dev.svc.delays.length + 1 ∧
      d.svc.nextSeq = s.dev.svc.nextSeq + 1 ∧ s.dev.Changes [.svc, .out, .free] (InAny [bSVC]) d)) ∧
  (s.Lets o SVC_CANCEL → (∃ e ∈ s.dev.svc.delays, e.handle = SVC_CANCEL_HANDLE.of v) → Comes (.svcCancel o v) o s fun d =>
    d.svc.delays = s.dev.svc.delays.filter (fun e => e.handle ≠ SVC_CANCEL_HANDLE.of v) ∧ (d.enqCopy o).canres = 0 ∧
    s.dev.Changes [.svc, .out] (At []) d) ∧
  (s.Lets o SVC_CANCEL → (∀ e ∈ s.dev.svc.delays, e.handle ≠ SVC_CANCEL_HANDLE.of v) → Comes (.svcCancel o v) o s fun d =>
    d.svc.delays = s.dev.svc.delays ∧ (d.enqCopy o).canres = 1 ∧ s.dev.Changes [.svc, .out] (At []) d) ∧
  (s.Lets (.svc n) SVC_DONE →
    ((s.dev.pair n).item = some x → Comes (.svcDone (.svc n) false) (.svc n) s fun d => s.dev.Counted d (SVC_PCNT_ITEMS n) ∧
      (s.dev.get (SVC_PCTL_HALT n) = 1 → d.get (SVC_PSTAT_STATE n) = 1) ∧
      (s.dev.svc.ready = [] ∨ s.dev.get (SVC_PCTL_HALT n) = 1 → (d.pair n).item = none ∧ d.get (SVC_PSTAT_FLOW n) = 0xFF ∧
        d.get (SVC_PSEQ_SEQ n) = 0) ∧
      (s.dev.svc.ready = [] → x.flow < 256 → d.get (SVC_FSTAT_INSVC x.flow) = 0) ∧ s.dev.Changes [.svc, .out] (InAny [bSVC]) d) ∧
    ((s.dev.pair n).item = none → Comes (.svcDone (.svc n) false) (.svc n) s fun d => s.dev.Changes [.out] (At []) d)) ∧
  (s.dev.held = false →
    ((s.dev.pair n).cut = true → Runs (.svcDone (.svc n) true) (.svc n) s fun d => s.dev.Counted d (SVC_PCNT_ITEMS n) ∧
      (d.pair n).cut = false ∧ s.dev.Changes [.svc] (At [SVC_PCNT n]) d) ∧
    ((s.dev.pair n).cut = false → Runs (.svcDone (.svc n) true) (.svc n) s fun d => d = s.dev)) ∧
  (s.dev.held = false → s.dev.svc.due.find? (fun x => x.1 == i.val) = some (k, cyc) →
    (s.dev.rst.deep = false → s.dev.get (SVC_BIND_EN i) = 1 → 1 ≤ s.dev.get (SVC_BIND_SRC i) → s.dev.get (SVC_BIND_SRC i) ≤ 5 →
      ((∀ y ∈ s.dev.svc.ready, y.bind ≠ some i.val) → s.dev.enqRefusal .device (s.dev.get (SVC_BIND_FLOW i)) = none →
        s.dev.readyRoom (s.dev.get (SVC_BIND_FLOW i)) = true → Runs (.eventBindingFire i) .device s fun d =>
          d.Has (s.dev.get (SVC_BIND_FLOW i)) s.dev.svc.nextSeq 2 0 (some i) ∧ d.svc.nextSeq = s.dev.svc.nextSeq + 1 ∧
          d.svc.due = s.dev.svc.due.erase (k, cyc) ∧ s.dev.Changes [.svc, .out] (InAny [bSVC]) d) ∧
      ((∃ y ∈ s.dev.svc.ready, y.bind = some i.val) → Runs (.eventBindingFire i) .device s fun d =>
          d.svc.ready = s.dev.svc.ready.map (fun y => if y.bind = some i.val then countFiring y else y) ∧ d.svc.nextSeq = s.dev.svc.nextSeq ∧
          d.svc.due = s.dev.svc.due.erase (k, cyc) ∧ s.dev.Changes [.svc] (At []) d)) ∧
    (s.dev.get (SVC_BIND_EN i) = 0 → Runs (.eventBindingFire i) .device s fun d =>
      d.svc = { s.dev.svc with due := s.dev.svc.due.erase (k, cyc) } ∧ s.dev.Changes [.svc] (At []) d) ∧
    (s.dev.rst.deep = true → s.dev.get (SVC_BIND_EN i) = 1 → s.dev.flowWakes (s.dev.get (SVC_BIND_FLOW i)) = true →
      Runs (.eventBindingFire i) .device s fun d => d.rst.deep = false ∧ d.bit RST_EVT_EVT 3 = true)) ∧
  (s.dev.held = false → s.dev.svc.due.find? (fun x => x.1 == i.val) = none → Runs (.eventBindingFire i) .device s fun d => d = s.dev)

/-- R402, R404, R405: the scheduler's choice. A chosen item is a head item of the lowest priority number that has any; its flow
is enabled, not in service, and may run on the pair. At a tick boundary, when an item that was held back reaches AFFSTEAL, and
after a refill the free pairs choose, the lower-numbered first; due delay entries leave their list; spilled items come back on
chip, but for one that an uncorrectable error has taken. -/
def Obligations.SchedulerChoice : Prop := ∀ (s : State) (e : Dev) (n : Fin 4) (t q : Nat) (ts : List Nat) (x : WorkItem)
  (errs : List (Nat × Nat × DdrFault)), s.dev.held = false →
  (e.choose n 0 8 = some x → e.mayRun n x.flow = true ∧ e.get (SVC_FCFG_EN x.flow) = 1 ∧ e.get (SVC_FSTAT_INSVC x.flow) = 0 ∧
    x ∈ e.headsAt n (e.get (SVC_FCFG_PRIO x.flow)) ∧ ∀ q ∈ List.range (e.get (SVC_FCFG_PRIO x.flow)), e.headsAt n q = []) ∧
  (max (s.dev.get SVC_CFG_TICK) 1 = s.dev.svc.tick → Runs .tickBoundary .device s fun d =>
    (s.dev.time.on = true → d.time.up = max s.dev.time.up (s.dev.tickAfter 1)) ∧
    d.svc.delays = s.dev.svc.delays.filter (fun y => decide (d.time.up < y.expiry) || { s.dev with time := d.time }.stalled y) ∧
    s.dev.Changes [.time, .svc, .out] (InAny [bTIM, bSVC]) d) ∧
  (max (s.dev.get SVC_CFG_TICK) 1 ≠ s.dev.svc.tick → Runs .tickBoundary .device s fun d => d.svc.tick = max (s.dev.get SVC_CFG_TICK) 1 ∧
    s.dev.Changes [.time, .svc, .out] (InAny [bTIM, bSVC]) d) ∧
  ((allPairs.filterMap s.dev.heldBack).map (fun y => y.since + 10 * s.dev.get SVC_AFF_AFFSTEAL) = t :: ts →
    e = s.dev.elapse (ts.foldl min t - s.dev.time.up) → Runs .affstealTimeout .device s fun d => d.time = e.time ∧
      (e.pairFree 0 = true → e.choose 0 0 8 = some x → x.flow < 256 → x.seq < 2 ^ 32 → (d.pair 0).item = some x ∧
        d.get (SVC_PSTAT_STATE 0) = 3 ∧ d.get (SVC_PSTAT_FLOW 0) = x.flow ∧ d.get (SVC_PSEQ_SEQ 0) = x.seq ∧
        d.get (SVC_FSTAT_INSVC x.flow) = 1) ∧
      s.dev.Changes [.time, .svc, .out] (InAny [bTIM, bSVC]) d) ∧
  (allPairs.filterMap s.dev.heldBack = [] → Runs .affstealTimeout .device s fun d => d = s.dev) ∧
  (Runs (.spillRefill errs) .device s fun d =>
    (errs = [] → s.dev.svc.readyOn < 896 → s.dev.svc.readySp = 1 → d.svc.readySp = 0) ∧
    ((∃ y ∈ errs, y.1 = q ∧ y.2.2 ≠ .ce) → d.bit SVC_EVT_EVT 3 = true ∧
      ∀ y ∈ d.svc.ready, y.seq = q → ∃ z ∈ s.dev.svc.ready, z.seq = q ∧ z.spilled = false) ∧
    s.dev.Changes [.svc, .out] (InAny [bSVC, bMEM]) d)

/-- R407, R408, R409: semaphores. ACQ takes a free one for the origin, but for one in the cycle of a reset of its origin, which
is discarded; REL and CLRPOIS act for the owner alone, and any other origin's sets the flag. DONE leaves every semaphore as it
is. -/
def Obligations.Semaphores : Prop := ∀ (s : State) (o : Origin) (i : Fin 64), s.Lets o (SVC_SEMCTL i) →
  (s.dev.get (SVC_SEMST_HELD i) = 0 → Comes (.semAcq o i false) o s fun d => d.get (SVC_SEMST_HELD i) = 1 ∧ d.get (SVC_SEMST_ORIGIN i) = o.code ∧
    d.get (SVC_SEMST_FLOW i) = s.dev.flowOf o % 2 ^ 8 ∧ d.get (SVC_SEMST_POISONED i) = s.dev.get (SVC_SEMST_POISONED i) ∧
    s.dev.Changes [.out] (At [SVC_SEMST i]) d) ∧
  (s.dev.get (SVC_SEMST_HELD i) = 1 → Comes (.semAcq o i false) o s fun d => s.dev.Changes [.out] (At []) d) ∧
  (Comes (.semAcq o i true) o s fun d => s.dev.Changes [.out] (At []) d) ∧
  (s.dev.semOwned o i = true → Comes (.semRel o i) o s fun d => d.get (SVC_SEMST_HELD i) = 0 ∧ d.get (SVC_SEMST_FLOW i) = 0 ∧
    d.get (SVC_SEMST_ORIGIN i) = 0 ∧ (s.dev.svc.poison.contains i.val = true → d.get (SVC_SEMST_POISONED i) = 1) ∧
    (s.dev.svc.poison.contains i.val = false → d.get (SVC_SEMST_POISONED i) = s.dev.get (SVC_SEMST_POISONED i)) ∧
    s.dev.Changes [.svc, .out] (At [SVC_SEMST i]) d) ∧
  (s.dev.semOwned o i = true → Comes (.semClrpois o i) o s fun d => d.get (SVC_SEMST_POISONED i) = 0 ∧ d.get (SVC_SEMST_HELD i) = 1 ∧
    s.dev.Changes [.out] (At [SVC_SEMST i]) d) ∧
  (s.dev.semOwned o i = false →
    (Comes (.semRel o i) o s fun d => d.bit SVC_EVT_EVT 2 = true ∧ s.dev.Changes [.out] (At [SVC_EVT]) d) ∧
    (Comes (.semClrpois o i) o s fun d => d.bit SVC_EVT_EVT 2 = true ∧ s.dev.Changes [.out] (At [SVC_EVT]) d)) ∧
  (s.Lets o SVC_DONE → Comes (.svcDone o false) o s fun d => d.word (SVC_SEMST i) = s.dev.word (SVC_SEMST i))

/-- R293, R392, R394, R395, R396, R402, R403, R409, R410, R453: the service core pairs. A restart runs the pair anew, from its
verified image and behind an open gate, unless it is in FAULT; IRQ raises its vector for itself alone; HALT stops dispatch; a
lockstep or ECC fault of pair 0 or 1 is fatal and of pair 2 or 3 resets the pair; the watchdog resets it and counts; it
restarts 10 µs after a reset; it idles at the depth that the next event allows and wakes in time for it. -/
def Obligations.Pairs : Prop := ∀ (s : State) (o : Origin) (n : Fin 4) (x : WorkItem) (t : Nat) (i : Fin 64),
  (s.Lets o (SVC_PCTL n) →
    (s.dev.get (SVC_PSTAT_STATE n) ≠ 4 → Comes (.pairRestart o n) o s fun d =>
      d.get (SVC_PSTAT_STATE n) = (if s.dev.get (SVC_PSTAT_IMAGE n) = 1 ∧ s.dev.gateOpen0 (16 + n) = true then
        (if s.dev.get (SVC_PCTL_HALT n) = 1 ∨ s.dev.diag.halted.testBit n = true then 1 else 3) else 0) ∧
      d.get (SVC_PSTAT_DEPTH n) = 0 ∧ d.bit (SVC_PEVT_PEVT n) 4 = true ∧
      (s.dev.semOwned (.svc n) i = true → d.get (SVC_SEMST_HELD i) = 0 ∧ d.get (SVC_SEMST_POISONED i) = 1) ∧
      (s.dev.svc.ready = [] → (d.pair n).item = none ∧ (d.pair n).lmem = []) ∧ (d.pair n).restartAt = none ∧
      s.dev.Changes [.svc, .out] (InAny [bSVC]) d) ∧
    (s.dev.get (SVC_PSTAT_STATE n) = 4 → Comes (.pairRestart o n) o s fun d => s.dev.Changes [.out] (At []) d)) ∧
  (s.dev.Answers (SVC_PCTL n) → s.dev.get AUD_STAT_FULL = 0 → Comes (.pairIrq (.svc n) n) (.svc n) s fun d =>
    d.out = .answer (.svc n) (SVC_PCTL n) .written :: .msix (8 + n) :: s.dev.out ∧ s.dev.Changes [.out] (At []) d) ∧
  (s.Lets o (SVC_PCTL n) → o ≠ .svc n → Comes (.pairIrq o n) o s fun d =>
    d.out = .answer o (SVC_PCTL n) .written :: s.dev.out ∧ s.dev.Changes [.out] (At []) d) ∧
  (s.Lets o (SVC_PCTL n) →
    (s.dev.get (SVC_PCTL_HALT n) = 0 → (s.dev.pair n).item = none → s.dev.pairRuns n = true → Comes (.pairHaltWrite o n true) o s fun d =>
      d.get (SVC_PCTL_HALT n) = 1 ∧ d.get (SVC_PSTAT_STATE n) = 1 ∧ s.dev.Changes [.out] (At [SVC_PCTL n, SVC_PSTAT n]) d) ∧
    (s.dev.get (SVC_PCTL_HALT n) = 1 ∨ (s.dev.pair n).item = some x ∨ s.dev.pairRuns n = false → Comes (.pairHaltWrite o n true) o s fun d =>
      d.get (SVC_PCTL_HALT n) = 1 ∧ d.get (SVC_PSTAT_STATE n) = s.dev.get (SVC_PSTAT_STATE n) ∧ (d.pair n).item = (s.dev.pair n).item ∧
      s.dev.Changes [.out] (At [SVC_PCTL n]) d) ∧
    (s.dev.get (SVC_PCTL_HALT n) = 0 → Comes (.pairHaltWrite o n false) o s fun d => s.dev.Changes [.out] (At []) d) ∧
    (s.dev.get (SVC_PCTL_HALT n) = 1 → Comes (.pairHaltWrite o n false) o s fun d => d.get (SVC_PCTL_HALT n) = 0 ∧
      d.get (SVC_PSTAT_STATE n) = (if s.dev.get (SVC_PSTAT_STATE n) = 1 ∧ s.dev.diag.halted.testBit n = false ∧ (s.dev.pair n).down = false
        then 3 else s.dev.get (SVC_PSTAT_STATE n)) ∧ s.dev.Changes [.svc, .out] (InAny [bSVC]) d)) ∧
  (s.dev.held = false → s.dev.pairRuns n = true → n.val < 2 →
    (s.dev.dstate ≠ .boot → s.dev.dstate ≠ .halt →
      (Runs (.pairLockstepMismatch n) .device s fun d => d.get (SVC_PSTAT_STATE n) = 4 ∧ d.bit (SVC_PEVT_PEVT n) 0 = true ∧ d.dstate = .halt ∧
        d.get RST_STAT_HCAUSE = 1 ∧ d.get SAF_STAT_FAIL = 1 ∧
        (s.dev.role = .active ∨ s.dev.role = .standby ∨ s.dev.role = .syncing → d.role = .faulted) ∧
        (s.dev.role = .solo → s.dev.Changes [.arms, .aud, .saf, .rcd, .dpx] (InAny [bRST, bSCH, bSAF, bAUD, bSVC]) d)) ∧
      (Runs (.pairEccError n) .device s fun d => d.get (SVC_PSTAT_STATE n) = 4 ∧ d.bit (SVC_PEVT_PEVT n) 1 = true ∧ d.dstate = .halt ∧
        d.get RST_STAT_HCAUSE = 1 ∧ d.get SAF_STAT_FAIL = 1 ∧
        (s.dev.role = .active ∨ s.dev.role = .standby ∨ s.dev.role = .syncing → d.role = .faulted) ∧
        (s.dev.role = .solo → s.dev.Changes [.arms, .aud, .saf, .rcd, .dpx] (InAny [bRST, bSCH, bSAF, bAUD, bSVC]) d))) ∧
    (s.dev.dstate = .boot ∨ s.dev.dstate = .halt →
      (Runs (.pairLockstepMismatch n) .device s fun d => d.get (SVC_PSTAT_STATE n) = 4 ∧ d.bit (SVC_PEVT_PEVT n) 0 = true ∧
        s.dev.Changes [] (At [SVC_PSTAT n, SVC_PEVT n]) d) ∧
      (Runs (.pairEccError n) .device s fun d => d.get (SVC_PSTAT_STATE n) = 4 ∧ d.bit (SVC_PEVT_PEVT n) 1 = true ∧
        s.dev.Changes [] (At [SVC_PSTAT n, SVC_PEVT n]) d))) ∧
  (s.dev.held = false → s.dev.pairRuns n = true → 2 ≤ n.val →
    (Runs (.pairLockstepMismatch n) .device s fun d => d.bit (SVC_PEVT_PEVT n) 0 = true ∧
      d.get (SVC_PSTAT_STATE n) = (if s.dev.get (SVC_PCTL_AUTORST n) = 1 then 0 else 1) ∧ d.dstate = s.dev.dstate ∧
      (d.pair n).item = none ∧ (d.pair n).lmem = [] ∧ s.dev.Changes [.svc, .out] (InAny [bSVC]) d) ∧
    (Runs (.pairEccError n) .device s fun d => d.bit (SVC_PEVT_PEVT n) 1 = true ∧
      d.get (SVC_PSTAT_STATE n) = (if s.dev.get (SVC_PCTL_AUTORST n) = 1 then 0 else 1) ∧ d.dstate = s.dev.dstate ∧
      (d.pair n).item = none ∧ (d.pair n).lmem = [] ∧ s.dev.Changes [.svc, .out] (InAny [bSVC]) d)) ∧
  (s.dev.held = false → s.dev.pairRuns n = false →
    (Runs (.pairLockstepMismatch n) .device s fun d => d = s.dev) ∧ (Runs (.pairEccError n) .device s fun d => d = s.dev)) ∧
  (s.dev.held = false →
    (s.dev.get (SVC_MAXRUN_MAXRUN n) ≠ 0 → (s.dev.pair n).item = some x → s.dev.diag.halted.testBit n = false →
      s.dev.get (SVC_PSTAT_STATE n) ≠ 4 → Runs (.pairWatchdog n) .device s fun d =>
        s.dev.Counted d (SVC_PCNT_WDOG n) ∧ d.bit (SVC_PEVT_PEVT n) 2 = true ∧ (d.pair n).item = none ∧ (d.pair n).lmem = [] ∧
        d.get (SVC_PSTAT_STATE n) = (if s.dev.get (SVC_PCTL_AUTORST n) = 1 then 0 else 1) ∧
        (s.dev.time.on = true → (s.dev.pair n).since + 1000 * s.dev.get (SVC_MAXRUN_MAXRUN n) ≤ d.time.up) ∧
        s.dev.Changes [.time, .svc, .out] (InAny [bTIM, bSVC]) d) ∧
    (s.dev.get (SVC_MAXRUN_MAXRUN n) = 0 ∨ (s.dev.pair n).item = none ∨ s.dev.diag.halted.testBit n = true ∨
      s.dev.get (SVC_PSTAT_STATE n) = 4 → Runs (.pairWatchdog n) .device s fun d => d = s.dev)) ∧
  (s.dev.held = false →
    ((s.dev.pair n).restartAt = some t → Runs (.pairAutoRestart n) .device s fun d =>
      (d.pair n).restartAt = none ∧ (s.dev.time.on = true → t ≤ d.time.up) ∧
      d.get (SVC_PSTAT_STATE n) = (if s.dev.get (SVC_PSTAT_IMAGE n) = 1 ∧ s.dev.gateOpen0 (16 + n) = true then
        (if s.dev.pairKept n = true then 1 else 3) else 0) ∧
      (s.dev.get (SVC_PSTAT_IMAGE n) = 1 → s.dev.gateOpen0 (16 + n) = true → d.bit (SVC_PEVT_PEVT n) 4 = true) ∧
      s.dev.Changes [.time, .svc, .out] (InAny [bTIM, bSVC]) d) ∧
    ((s.dev.pair n).restartAt = none → Runs (.pairAutoRestart n) .device s fun d => d = s.dev)) ∧
  (s.dev.held = false →
    (s.dev.get (SVC_PSTAT_STATE n) = 3 → (s.dev.pair n).item = none → s.dev.choose n 0 8 = none ∨ s.dev.get (SVC_PCTL_HALT n) = 1 →
      Runs (.pairIdleEntry n) .device s fun d => d.get (SVC_PSTAT_STATE n) = 2 ∧
        (s.dev.tNext n = none → d.get (SVC_PSTAT_DEPTH n) = max (s.dev.get (SVC_PCTL_MAXDEPTH n)) 1) ∧
        (s.dev.tNext n = some t → d.get (SVC_PSTAT_DEPTH n) =
          min (if 100000 ≤ t then 3 else if 4000 ≤ t then 2 else 1) (max (s.dev.get (SVC_PCTL_MAXDEPTH n)) 1)) ∧
        s.dev.Changes [] (At [SVC_PSTAT n]) d) ∧
    (s.dev.get (SVC_PSTAT_STATE n) ≠ 3 ∨ (s.dev.pair n).item = some x → Runs (.pairIdleEntry n) .device s fun d => d = s.dev)) ∧
  (s.dev.held = false →
    (s.dev.get (SVC_PSTAT_STATE n) = 2 → s.dev.tNext n = some t → Runs (.pairWake n) .device s fun d =>
      d.get (SVC_PSTAT_STATE n) = 3 ∧ d.get (SVC_PSTAT_DEPTH n) = 0 ∧ d.out.head? = some (.pair n 3 0) ∧
      s.dev.Changes [.time, .out] (At [TIM_WRAP, SVC_PSTAT n]) d) ∧
    (s.dev.get (SVC_PSTAT_STATE n) ≠ 2 ∨ s.dev.tNext n = none → Runs (.pairWake n) .device s fun d => d = s.dev))

/-! ### Memory and arbitration (R414 to R428, R491, R492) -/

/-- R420, R422, R423, R424, R426, R427, R428: the fabric. The requester that R423 ranks first is granted, and credits refill by
the weight up to the weight at a window's end; a lone requester of a phase is granted. A written weight and priority act from
the phase after the cycle of the write; a weight whose sum would exceed the limit is discarded with its flag. A wait beyond the
limit sets STARVE. -/
def Obligations.Arbitration : Prop := ∀ (s : State) (e : Dev) (l : List Nat) (t q r n c : Nat) (phs : List ArbPhase) (o : Origin) (p : Fin 72)
    (v : Word) (i : Fin 256),
  (e.arbFirst t n l = some q → q ∈ l ∧ (r ∈ l → rankLt (e.arbRank t r n) (e.arbRank t q n) = false)) ∧
  (s.dev.held = false →
    (Runs (.arbWindowBoundary phs) .device s fun d => d.mem.window = s.dev.mem.window + 1 ∧ d.mem.compat = s.dev.is ARB_CFG_MODE ∧
      d.mem.slots = s.dev.slotTable ∧ d.mem.ddr = s.dev.mem.ddr ∧
      (phs = [] → t < s.dev.mem.targets.length → q < (nth s.dev.mem.targets t []).length →
        (d.arbReq t q).credit = min ((s.dev.arbReq t q).credit + (s.dev.arbHeld t q (256 * (s.dev.mem.window + 1))).1)
          (s.dev.arbHeld t q (256 * (s.dev.mem.window + 1))).1 ∧
        (d.arbReq t q).lost = (s.dev.arbReq t q).lost ∧ (d.arbReq t q).since = (s.dev.arbReq t q).since) ∧
      s.dev.Changes [.mem] (Either (At [ARB_EVT]) (Each (List.range 72) fun p => [ARB_PWAIT p])) d) ∧
    (Runs (.arbWindowBoundary [⟨t, c, [q], []⟩]) .device s fun d =>
      s.dev.throttled (if t = 64 then ddrPort q else q) (256 * s.dev.mem.window + c) = false →
      nth s.dev.mem.busy t 0 ≤ 256 * s.dev.mem.window + c → t < s.dev.mem.targets.length → q < (nth s.dev.mem.targets t []).length →
      (s.dev.arbReq t q).keep = [] → d.arbReq t q =
        ⟨min (max ((s.dev.arbReq t q).credit - 1) (-256) + (s.dev.arbRegs (t == 64) q).1) (s.dev.arbRegs (t == 64) q).1, 0, none, []⟩)) ∧
  (s.dev.held = false →
    ((∃ x ∈ s.dev.mem.targets, ∃ y ∈ x, y.since.isSome = true) →
      Runs .starve .device s fun d => d.bit ARB_EVT_EVT 0 = true ∧ s.dev.Changes [] (At [ARB_EVT]) d) ∧
    ((∀ x ∈ s.dev.mem.targets, ∀ y ∈ x, y.since = none) → Runs .starve .device s fun d => d = s.dev)) ∧
  (s.Lets o (ARB_PORT p) → s.dev.weightSum false p ((ARB_PORT_WEIGHT p).of v) ≤ 256 → Comes (.arbPortWrite o false p v c) o s fun d =>
    d.get (ARB_PORT_WEIGHT p) = (ARB_PORT_WEIGHT p).of v ∧ d.get (ARB_PORT_PRI p) = (ARB_PORT_PRI p).of v ∧
    d.get ARB_WSUM_SSUM = s.dev.weightSum false p ((ARB_PORT_WEIGHT p).of v) ∧
    (t < 64 → n ≤ 256 * s.dev.mem.window + c → d.arbHeld t p n = s.dev.arbHeld t p n) ∧
    (t < 64 → 256 * s.dev.mem.window + c < n → (s.dev.arbReq t p).keep = [] →
      d.arbHeld t p n = ((ARB_PORT_WEIGHT p).of v, (ARB_PORT_PRI p).of v)) ∧
    s.dev.Changes [.mem, .out] (At [ARB_PORT p, ARB_WSUM]) d) ∧
  (s.Lets o (ARB_PORT p) → 256 < s.dev.weightSum false p ((ARB_PORT_WEIGHT p).of v) → Comes (.arbPortWrite o false p v c) o s fun d =>
    d.bit ARB_EVT_EVT 1 = true ∧ s.dev.Changes [.out] (At [ARB_EVT]) d) ∧
  (s.Lets o (ARB_DDRW p) → p.val < 9 → s.dev.weightSum true p ((ARB_DDRW_WEIGHT p).of v) ≤ 160 → Comes (.arbPortWrite o true p v c) o s fun d =>
    d.get (ARB_DDRW_WEIGHT p) = (ARB_DDRW_WEIGHT p).of v ∧ d.get (ARB_DDRW_PRI p) = (ARB_DDRW_PRI p).of v ∧
    d.get ARB_WSUM_DSUM = s.dev.weightSum true p ((ARB_DDRW_WEIGHT p).of v) ∧
    (n ≤ 256 * s.dev.mem.window + c → d.arbHeld 64 p n = s.dev.arbHeld 64 p n) ∧
    s.dev.Changes [.mem, .out] (At [ARB_DDRW p, ARB_WSUM]) d) ∧
  (s.Lets o (ARB_DDRW p) → p.val < 9 → 160 < s.dev.weightSum true p ((ARB_DDRW_WEIGHT p).of v) → Comes (.arbPortWrite o true p v c) o s fun d =>
    d.bit ARB_EVT_EVT 2 = true ∧ s.dev.Changes [.out] (At [ARB_EVT]) d) ∧
  (rwlMask ARB_CFG = ARB_CFG_MODE.mask) ∧
  (s.Lets o (ARB_SLOT i) → Comes (.arbSlotWrite o i v) o s fun d => d.get (ARB_SLOT_OWNER i) = (ARB_SLOT_OWNER i).of v ∧
    s.dev.Changes [.out] (At [ARB_SLOT i]) d)

/-- R284, R416, R417, R491, R492: memory errors. An uncorrectable word is counted and located; read by a unit that computes it
is fatal with cause 6, by a ring port it makes the slot REPEAT, by a recorder it drops the row, by HIF or a pair it is answered
with an error, and a read-modify-write only discards its write. A scrub pass counts what it corrects and what it cannot. A
clean self-test pass sets MBISTOK; a failing one shows bank and check and is fatal. -/
def Obligations.MemoryErrors : Prop := ∀ (s : State) (p : Fin 72) (q : Fin 48) (n : Fin 4) (a e i : Nat) (ce ue : List Nat) (bank : Fin 64)
    (chk : Fin 256), s.dev.held = false →
  (Runs (.sramUncorrectable p a true) .device s fun d => s.dev.Counted d MEM_ERRCNT_UE ∧ d.bit MEM_EVT_EVT 1 = true ∧ d.get MEM_ERRLOC_VALID = 1 ∧
    s.dev.Changes [] (At [MEM_EVT, MEM_ERRCNT, MEM_ERRLOC, MEM_ERRADDR]) d) ∧
  (48 ≤ p.val ∧ p.val < 62 ∨ p.val = 66 →
    (s.dev.dstate ≠ .boot → s.dev.dstate ≠ .halt → Runs (.sramUncorrectable p a false) .device s fun d =>
      s.dev.Counted d MEM_ERRCNT_UE ∧ d.dstate = .halt ∧ d.get RST_STAT_HCAUSE = 6 ∧
      (s.dev.role = .solo → s.dev.Changes [.arms, .aud, .saf, .rcd, .dpx] (InAny [bRST, bSCH, bSAF, bAUD, bMEM]) d)) ∧
    (s.dev.dstate = .boot ∨ s.dev.dstate = .halt → Runs (.sramUncorrectable p a false) .device s fun d =>
      s.dev.Counted d MEM_ERRCNT_UE ∧ s.dev.Changes [] (At [MEM_EVT, MEM_ERRCNT, MEM_ERRLOC, MEM_ERRADDR]) d)) ∧
  (p.val = q.val →
    (bufferSlot a = some (q.val, e, i) → Runs (.sramUncorrectable p a false) .device s fun d => s.dev.Counted d MEM_ERRCNT_UE ∧
      (i < 128 → (if e = 0 then (d.port q).ue0 else (d.port q).ue1).getLsbD i = true) ∧
      s.dev.Changes [.ports] (At [MEM_EVT, MEM_ERRCNT, MEM_ERRLOC, MEM_ERRADDR]) d) ∧
    ((bufferSlot a).map (·.1) ≠ some q.val → Runs (.sramUncorrectable p a false) .device s fun d => s.dev.Counted d MEM_ERRCNT_UE ∧
      s.dev.Changes [] (At [MEM_EVT, MEM_ERRCNT, MEM_ERRLOC, MEM_ERRADDR]) d)) ∧
  (p.val = 62 + n.val → Runs (.sramUncorrectable p a false) .device s fun d => s.dev.Counted d MEM_ERRCNT_UE ∧
    (s.dev.get (REC_STAT_STATE n) ≠ 0 → s.dev.Counted d (REC_DROPCNT_DROPCNT n)) ∧
    s.dev.Changes [.rcd] (InAny [bREC, bMEM]) d) ∧
  (p.val = 67 ∨ p.val = 68 + n.val → Runs (.sramUncorrectable p a false) .device s fun d => s.dev.Counted d MEM_ERRCNT_UE ∧
    d.out = (if p.val = 68 + n.val then [.answer (.svc n) a .busError] else if a < 0x60000 then [.answer .pcie (0x400000 + a) .completerAbort]
      else []) ++ s.dev.out ∧ s.dev.Changes [.out] (At [MEM_EVT, MEM_ERRCNT, MEM_ERRLOC, MEM_ERRADDR]) d) ∧
  (Runs (.scrubPass ce ue) .device s fun d => d.get MEM_CECNT_SRAMCE = min (s.dev.get MEM_CECNT_SRAMCE + ce.length) 0xFFFF ∧
    d.get MEM_ERRCNT_UE = min (s.dev.get MEM_ERRCNT_UE + ue.length) 0xFFFF ∧ (ce ≠ [] → d.bit MEM_EVT_EVT 0 = true) ∧
    (ue ≠ [] → d.bit MEM_EVT_EVT 1 = true) ∧ d.mem.scrubAt = d.time.cio ∧
    s.dev.mem.scrubAt + ms (max (s.dev.get MEM_SCRUB_PERIOD) 1) ≤ d.time.cio ∧
    s.dev.Changes [.time, .mem] (At [TIM_WRAP, MEM_EVT, MEM_CECNT, MEM_ERRCNT, MEM_ERRLOC, MEM_ERRADDR]) d) ∧
  (Runs (.mbistPass none) .device s fun d => d.get DPX_HEALTH_MBISTOK = (if s.dev.get DIAG_MBST_CHECK = 0 then 1 else s.dev.get DPX_HEALTH_MBISTOK) ∧
    d.diag.mbAt = d.time.cio ∧ s.dev.diag.mbAt + ms (max (s.dev.get DIAG_MBCFG_MBPERIOD) 1) ≤ d.time.cio ∧
    s.dev.Changes [.time, .diag] (At [TIM_WRAP, DPX_HEALTH]) d) ∧
  (s.dev.dstate ≠ .boot → s.dev.dstate ≠ .halt → Runs (.mbistPass (some (bank.val, chk.val))) .device s fun d =>
    d.get DPX_HEALTH_MBISTOK = 0 ∧ d.get DIAG_MBST_BANK = bank.val ∧ d.get DIAG_MBST_CHECK = chk.val % 2 ^ DIAG_MBST_CHECK.width ∧
    d.bit DIAG_EVT_EVT 3 = true ∧ d.dstate = .halt ∧ d.get RST_STAT_HCAUSE = 3 ∧
    (s.dev.role = .solo → s.dev.Changes [.time, .arms, .aud, .saf, .rcd, .dpx, .diag] (InAny [bTIM, bRST, bSCH, bSAF, bAUD, bDIAG, bDPX]) d)) ∧
  (s.dev.dstate = .boot ∨ s.dev.dstate = .halt → Runs (.mbistPass (some (bank.val, chk.val))) .device s fun d =>
    d.get DPX_HEALTH_MBISTOK = 0 ∧ d.get DIAG_MBST_BANK = bank.val ∧ d.get DIAG_MBST_CHECK = chk.val % 2 ^ DIAG_MBST_CHECK.width ∧
    d.bit DIAG_EVT_EVT 3 = true ∧ s.dev.Changes [.time, .diag] (At [TIM_WRAP, DPX_HEALTH, DIAG_MBST, DIAG_EVT]) d)

/-! ### Clocks (R429 to R453) -/

/-- A write of CLK_CTRL may move the root to the source that it names: no switch is in progress, the source is READY with the written MDLLEN,
and away from the synthesiser every arm is BLOCKED (R430, R438, R440). -/
abbrev Sys2Proof.Machine.Dev.mayRoot (d : Dev) (v : Word) : Prop := d.get CLK_STAT_SWBUSY = 0 ∧
  (CLK_CTRL_SEL.of v = 1 → d.get CLK_STAT_MDLLRDY = 1 ∧ (CLK_CTRL_MDLLEN.of v = 1 ∨ d.get CLK_CTRL_MDLLEN = 0)) ∧
  (CLK_CTRL_SEL.of v = 0 → d.get CLK_STAT_CIORDY = 1 ∧ d.allBlocked = true)

/-- A value of CLK_DIV that R445 takes, at a time when it takes one. -/
abbrev Sys2Proof.Machine.Dev.mayDivide (d : Dev) (v : Word) : Prop :=
  16 ≤ CLK_DIV_PDIV.of v ∧ CLK_DIV_PDIV.of v ≤ 64 ∧ 4 ≤ CLK_DIV_FDIV.of v ∧ CLK_DIV_FDIV.of v ≤ 16 ∧ 3 ≤ CLK_DIV_SDIV.of v ∧
  CLK_DIV_SDIV.of v ≤ 16 ∧ 2 ≤ CLK_DIV_ADIV.of v ∧ CLK_DIV_ADIV.of v ≤ 16 ∧ d.running = false ∧ (d.role = .solo ∨ d.role = .witness) ∧
  d.get CLK_STAT_SWBUSY = 0

/-- R430, R440, R445, R446, R448, R451: writes of the clock registers. A source that is READY is switched to, one that is not
is refused with SWREF; MDLLEN starts an acquisition from the seed; CLK_MDLL keeps its value while MDLLEN = 1; dividers, CLKOUT
and gates take a value that their rule allows and refuse another with their flag. R431, R433 to R436, R438, R439, R441 to R444:
what the clocks do. Four good windows lock the synthesiser and start the time bases at 0, one bad window unlocks it; a
reference 1,000 ppm away, or lost, clears REFOK; a cause while the root runs from the synthesiser fails over and stores the
trim word; a switch completes on its source; the automatic return switches back; the trim word follows its error; the cast-iron
oscillator becomes READY. -/
def Obligations.Clocks : Prop :=
  (∀ (s : State) (o : Origin) (v : Word) (one : Bool),
    (s.Lets o CLK_CTRL →
      (Comes (.clockSourceSelect o v) o s fun d => d.get CLK_CTRL_TRIMEN = CLK_CTRL_TRIMEN.of v ∧ d.get CLK_CTRL_AUTORET = CLK_CTRL_AUTORET.of v ∧
        d.get CLK_CTRL_MDLLEN = CLK_CTRL_MDLLEN.of v ∧ d.get CLK_STAT_SRC = s.dev.get CLK_STAT_SRC ∧
        (s.dev.get CLK_CTRL_MDLLEN = 0 → CLK_CTRL_MDLLEN.of v = 1 → d.clk.lockRun = 0 ∧ d.clk.lfsr = s.dev.seed) ∧
        (s.dev.get CLK_CTRL_MDLLEN = 1 → CLK_CTRL_MDLLEN.of v = 0 → d.get CLK_STAT_MDLLRDY = 0) ∧
        s.dev.Changes [.clk, .out] (At [CLK_CTRL, CLK_STAT, CLK_EVT]) d) ∧
      (CLK_CTRL_SEL.of v = s.dev.get CLK_CTRL_SEL → CLK_CTRL_SEL.of v = s.dev.get CLK_STAT_SRC → Comes (.clockSourceSelect o v) o s fun d =>
        d.get CLK_CTRL_SEL = s.dev.get CLK_CTRL_SEL ∧ d.clk.switch = s.dev.clk.switch ∧
        s.dev.Changes [.clk, .out] (At [CLK_CTRL, CLK_STAT]) d) ∧
      (CLK_CTRL_SEL.of v ≠ s.dev.get CLK_STAT_SRC → s.dev.mayRoot v → Comes (.clockSourceSelect o v) o s fun d =>
        d.get CLK_CTRL_SEL = CLK_CTRL_SEL.of v ∧ d.get CLK_STAT_SWBUSY = 1 ∧ d.clk.switch = some (decide (CLK_CTRL_SEL.of v = 1)) ∧
        s.dev.Changes [.clk, .out] (At [CLK_CTRL, CLK_STAT]) d) ∧
      (CLK_CTRL_SEL.of v ≠ s.dev.get CLK_CTRL_SEL → CLK_CTRL_SEL.of v = s.dev.get CLK_STAT_SRC → s.dev.mayRoot v →
        Comes (.clockSourceSelect o v) o s fun d => d.get CLK_CTRL_SEL = CLK_CTRL_SEL.of v ∧ d.clk.switch = s.dev.clk.switch ∧
          s.dev.Changes [.clk, .out] (At [CLK_CTRL, CLK_STAT]) d) ∧
      (CLK_CTRL_SEL.of v ≠ s.dev.get CLK_CTRL_SEL ∨ CLK_CTRL_SEL.of v ≠ s.dev.get CLK_STAT_SRC → ¬ s.dev.mayRoot v →
        Comes (.clockSourceSelect o v) o s fun d => d.get CLK_EVT_SWREF = 1 ∧ d.get CLK_CTRL_SEL = s.dev.get CLK_CTRL_SEL ∧
          d.clk.switch = s.dev.clk.switch ∧ d.get CLK_STAT_SWBUSY = s.dev.get CLK_STAT_SWBUSY) ∧
      (Comes (.mdllEnable o) o s fun d => d.get CLK_CTRL_MDLLEN = 1 ∧ d.get CLK_CTRL_SEL = s.dev.get CLK_CTRL_SEL ∧
        (s.dev.get CLK_CTRL_MDLLEN = 0 → d.clk.lockRun = 0 ∧ d.clk.lfsr = s.dev.seed) ∧
        (s.dev.get CLK_CTRL_SEL = s.dev.get CLK_STAT_SRC → s.dev.Changes [.clk, .out] (At [CLK_CTRL]) d) ∧
        s.dev.Changes [.clk, .out] (At [CLK_CTRL, CLK_STAT, CLK_EVT]) d)) ∧
    (s.Reaches o CLK_MDLL →
      (s.dev.get CLK_CTRL_MDLLEN = 0 → Comes (.clkMdllWrite o v) o s fun d => d.get CLK_MDLL_SEED = CLK_MDLL_SEED.of v ∧
        d.get CLK_MDLL_LOCKWIN = CLK_MDLL_LOCKWIN.of v ∧ d.get CLK_MDLL_DITHEN = CLK_MDLL_DITHEN.of v ∧ d.get CLK_MDLL_REFSEL = CLK_MDLL_REFSEL.of v ∧
        s.dev.Changes [.out] (At [CLK_MDLL]) d) ∧
      (s.dev.get CLK_CTRL_MDLLEN = 1 → Comes (.clkMdllWrite o v) o s fun d => d.get CLK_EVT_CFGREF = 1 ∧ s.dev.Changes [.out] (At [CLK_EVT]) d)) ∧
    (s.Reaches o CLK_DIV →
      (s.dev.mayDivide v → Comes (.clkDivWrite o v) o s fun d => d.get CLK_DIV_PDIV = CLK_DIV_PDIV.of v ∧
          d.get CLK_DIV_FDIV = CLK_DIV_FDIV.of v ∧ d.get CLK_DIV_SDIV = CLK_DIV_SDIV.of v ∧ d.get CLK_DIV_ADIV = CLK_DIV_ADIV.of v ∧
          s.dev.Changes [.out] (At [CLK_DIV]) d) ∧
      (¬ s.dev.mayDivide v → Comes (.clkDivWrite o v) o s fun d => d.get CLK_EVT_CFGREF = 1 ∧ s.dev.Changes [.out] (At [CLK_EVT]) d)) ∧
    (s.Lets o CLK_OUT →
      (CLK_OUT_EN.of v = 0 ∨ s.dev.clkoutSource (CLK_OUT_SRC.of v) ≤ 250000 * (CLK_OUT_DIV.of v + 1) → Comes (.clkOutWrite o v) o s fun d =>
        d.get CLK_OUT_EN = CLK_OUT_EN.of v ∧ d.get CLK_OUT_SRC = CLK_OUT_SRC.of v ∧ d.get CLK_OUT_DIV = CLK_OUT_DIV.of v ∧
        (s.dev.dstate ≠ .boot → d.out = .answer o CLK_OUT .written :: (if CLK_OUT_EN.of v = 0 then .pin .clkOut .low else
          .clock .clkOut (CLK_OUT_SRC.of v) (CLK_OUT_DIV.of v + 1) ((CLK_OUT_DIV.of v + 2) / 2)) :: s.dev.out) ∧
        s.dev.Changes [.out] (At [CLK_OUT]) d) ∧
      (CLK_OUT_EN.of v = 1 → 250000 * (CLK_OUT_DIV.of v + 1) < s.dev.clkoutSource (CLK_OUT_SRC.of v) → Comes (.clkOutWrite o v) o s fun d =>
        d.get CLK_EVT_OUTREF = 1 ∧ s.dev.Changes [.out] (At [CLK_EVT]) d)) ∧
    (s.Lets o (if one then CLK_GATE1 else CLK_GATE0) →
      ((if one then s.dev.gate1Refused (v.toNat % 2 ^ 26) else s.dev.gate0Refused (v.toNat % 2 ^ 23)) = false → Comes (.clkGateWrite o one v) o s fun d =>
        d.word (if one then CLK_GATE1 else CLK_GATE0) = dw (v.toNat % 2 ^ (if one then 26 else 23)) ∧
        s.dev.Changes [.out] (At [if one then CLK_GATE1 else CLK_GATE0]) d) ∧
      ((if one then s.dev.gate1Refused (v.toNat % 2 ^ 26) else s.dev.gate0Refused (v.toNat % 2 ^ 23)) = true → Comes (.clkGateWrite o one v) o s fun d =>
        d.get CLK_EVT_GATEREF = 1 ∧ s.dev.Changes [.out] (At [CLK_EVT]) d)) ∧
    (s.Lets o CLK_LSEN → Comes (.clkLsenWrite o v) o s fun d => d.word CLK_LSEN = dw (v.toNat % 16) ∧ s.dev.Changes [.out] (At [CLK_LSEN]) d)) ∧
  (∀ (s : State) (dv err : Int) (ppm t : Nat) (mon stop b : Bool), s.dev.held = false →
    (Runs (.lockWindow dv ppm) .device s fun d => s.dev.clk.winAt + 2 ^ s.dev.lockWin * s.dev.refPeriod ≤ d.time.cio ∧ d.clk.winAt = d.time.cio ∧
      (s.dev.get CLK_CTRL_MDLLEN = 1 → s.dev.get CLK_STAT_MDLLRDY = 0 → s.dev.get CLK_STAT_REFOK = 1 → ppm ≤ 1000 → dv.natAbs ≤ 1 →
        3 ≤ s.dev.clk.lockRun → d.get CLK_STAT_MDLLRDY = 1 ∧ d.get CLK_EVT_LOCK = 1 ∧ d.getS CLK_LOCKCNT_D = dv ∧
        (s.dev.time.on = false → s.dev.sch.aclkStopped = false → d.time.on = true ∧ d.time.tb0 = 0 ∧ d.time.tb1 = 0 ∧ d.time.tb2 = 0 ∧
          d.time.tb3 = 0)) ∧
      (s.dev.get CLK_STAT_MDLLRDY = 0 → s.dev.clk.lockRun < 3 ∨ 1 < dv.natAbs ∨ 1000 < ppm ∨ s.dev.get CLK_CTRL_MDLLEN = 0 →
        d.get CLK_STAT_MDLLRDY = 0) ∧
      (s.dev.get CLK_CTRL_MDLLEN = 1 → s.dev.get CLK_STAT_MDLLRDY = 1 → 2 < dv.natAbs → s.dev.get CLK_STAT_REFOK = 0 ∨ ppm ≤ 1000 →
        d.get CLK_STAT_MDLLRDY = 0 ∧ d.get CLK_EVT_LOL = 1) ∧
      (s.dev.get CLK_STAT_REFOK = 1 → 1000 < ppm → d.get CLK_STAT_REFOK = 0 ∧ d.get CLK_EVT_REFLOSS = 1 ∧ d.get CLK_STAT_MDLLRDY = 0 ∧
        d.clk.frozen = true) ∧
      (s.dev.get CLK_STAT_REFOK = 0 → ppm ≤ 500 → 3 ≤ s.dev.clk.refRun → d.get CLK_STAT_REFOK = 1) ∧
      (s.dev.get CLK_STAT_REFOK = 0 → 500 < ppm → d.get CLK_STAT_REFOK = 0) ∧
      s.dev.Changes [.clk, .time] (At [CLK_STAT, CLK_EVT, CLK_LOCKCNT, TIM_WRAP]) d) ∧
    (s.dev.get CLK_STAT_REFOK = 1 → Runs .refloss .device s fun d => d.get CLK_STAT_REFOK = 0 ∧ d.get CLK_STAT_MDLLRDY = 0 ∧
      d.get CLK_EVT_REFLOSS = 1 ∧ d.clk.frozen = true ∧ s.dev.Changes [.clk] (At [CLK_STAT, CLK_EVT]) d) ∧
    (s.dev.get CLK_STAT_REFOK = 0 → Runs .refloss .device s fun d => d.clk.refRun = 0 ∧ s.dev.Changes [.clk] (At []) d) ∧
    ((s.dev.get CLK_STAT_REFOK = 0 ∨ s.dev.get CLK_STAT_MDLLRDY = 0 ∨ mon = true) ∧
        (s.dev.get CLK_STAT_SRC = 1 ∧ s.dev.clk.switch ≠ some false ∨ s.dev.clk.switch = some true) →
      Stores (.failover mon) .device s fun nv d => d.get CLK_EVT_FAILOVER = 1 ∧ s.dev.Posts d 9 .device ∧ d.get CLK_STAT_SWBUSY = 1 ∧
        (s.dev.get CLK_STAT_SRC = 1 → d.get CLK_STAT_CLKDEG = 1) ∧ d.clk.switch = some false ∧ d.clk.frozen = true ∧
        (s.dev.get CLK_STAT_TRIMOK = 1 → nv.mram.trim = some (BitVec.ofNat 24 (s.dev.get CLK_TRIM_TRIM))) ∧
        (s.dev.get CLK_STAT_TRIMOK = 0 → nv = s.nv) ∧ nv.fuses = s.nv.fuses ∧ nv.mram.log = s.nv.mram.log ∧
        s.dev.Changes [.clk, .hif, .out] (At ([CLK_STAT, CLK_EVT] ++ evtRegs)) d) ∧
    (s.dev.get CLK_STAT_REFOK = 1 ∧ s.dev.get CLK_STAT_MDLLRDY = 1 ∧ mon = false ∨
        s.dev.clk.switch ≠ some true ∧ (s.dev.get CLK_STAT_SRC = 0 ∨ s.dev.clk.switch = some false) →
      Stores (.failover mon) .device s fun nv d => nv = s.nv ∧ d = s.dev) ∧
    (s.dev.clk.switch = some b → Runs (.clockSwitchComplete stop) .device s fun d =>
      d.get CLK_STAT_SRC = (if b then 1 else 0) ∧ d.get CLK_STAT_SWBUSY = 0 ∧ d.clk.switch = none ∧
      (b = true → d.get CLK_STAT_CLKDEG = 0 ∧ (s.dev.get CLK_STAT_CLKDEG = 1 → d.get CLK_EVT_RETURN = 1)) ∧
      (stop = true → d.get CLK_EVT_FORCED = 1 ∧ s.dev.Posts d 8 .device ∧ d.time = s.dev.time) ∧
      (stop = false → d.time.tb0.toNat ≤ s.dev.time.tb0.toNat ∧ s.dev.time.tb0.toNat ≤ d.time.tb0.toNat + 0x8000) ∧
      s.dev.Changes [.clk, .time, .free, .hif, .out] (At ([CLK_STAT, CLK_EVT] ++ evtRegs)) d) ∧
    (s.dev.clk.switch = none → Runs (.clockSwitchComplete stop) .device s fun d => d = s.dev) ∧
    (s.dev.clk.retSince = some t → s.dev.get CLK_CTRL_AUTORET = 1 → s.dev.get CLK_STAT_CLKDEG = 1 → s.dev.clk.switch = none →
      s.dev.get CLK_STAT_SRC = 0 → Runs .clockAutoReturn .device s fun d => d.clk.switch = some true ∧ d.get CLK_STAT_SWBUSY = 1 ∧
        d.time.cio = max s.dev.time.cio (t + 1000000 * max (s.dev.get CLK_RETQ_RETQUAL) 1) ∧
        s.dev.Changes [.clk, .time] (At [CLK_STAT, TIM_WRAP]) d) ∧
    (s.dev.clk.retSince = none ∨ s.dev.get CLK_CTRL_AUTORET = 0 ∨ s.dev.get CLK_STAT_CLKDEG = 0 ∨ s.dev.clk.switch = some b ∨
      s.dev.get CLK_STAT_SRC = 1 → Runs .clockAutoReturn .device s fun d => d = s.dev) ∧
    (s.dev.get CLK_CTRL_TRIMEN = 1 → s.dev.get CLK_STAT_REFOK = 1 → s.dev.clk.frozen = false → s.dev.time.on = true →
      Runs (.trimWindow err) .device s fun d =>
        (d.get CLK_TRIM_TRIM : Int) = clampInt 0 0xFFFFFF (s.dev.get CLK_TRIM_TRIM - err) ∧ (err.natAbs < 2 ^ 15 → d.getS CLK_CIOERR_ERR = err) ∧
        (200 < err.natAbs → d.get CLK_STAT_TRIMOK = 0 ∧ (s.dev.get CLK_STAT_TRIMOK = 1 → d.get CLK_EVT_TRIMERR = 1)) ∧
        (err.natAbs ≤ 100 → 3 ≤ s.dev.clk.trimRun → d.get CLK_STAT_TRIMOK = 1) ∧ d.time.up % 1000000 = 0 ∧ s.dev.time.up < d.time.up ∧
        s.dev.Changes [.clk, .time] (At [CLK_STAT, CLK_EVT, CLK_TRIM, CLK_CIOERR, TIM_WRAP]) d) ∧
    (s.dev.get CLK_CTRL_TRIMEN = 0 ∨ s.dev.get CLK_STAT_REFOK = 0 ∨ s.dev.clk.frozen = true ∨ s.dev.time.on = false →
      Runs (.trimWindow err) .device s fun d => d = s.dev) ∧
    (s.dev.get CLK_STAT_TRIMOK = 1 → Stores .trimStore .device s fun nv d =>
      nv = { s.nv with mram := { s.nv.mram with trim := some (BitVec.ofNat 24 (s.dev.get CLK_TRIM_TRIM)) } } ∧
      d.time.cio = max s.dev.time.cio (s.dev.clk.storeAt + 60000000000) ∧ d.clk.storeAt = d.time.cio ∧
      s.dev.Changes [.clk, .time] (At [TIM_WRAP]) d) ∧
    (s.dev.get CLK_STAT_TRIMOK = 0 → Stores .trimStore .device s fun nv d => nv = s.nv ∧ d = s.dev) ∧
    (Runs .castIronOscillatorReady .device s fun d => d.get CLK_STAT_CIORDY = 1 ∧ d.time.cio = max s.dev.time.cio 2000 ∧
      s.dev.Changes [.time] (At [CLK_STAT, TIM_WRAP]) d))

/-! ### Security, diagnostics, JTAG (R466 to R492) -/

/-- R474 to R478, R480: SEC_CMD starts an operation unless one runs; its end shows operation, origin and code, with the flags;
an accepted unlock holds for its validity and is logged, an accepted KEYPROG programs its slot, a refused record changes
nothing else, and an ATTEST that waited reserves its index. Unlocks end by RELOCK and at their validity, and are logged. -/
def Obligations.SecurityOperations : Prop := ∀ (s : State) (o r : Origin) (op t : Nat) (c : Cmd) (u x : Nat × Nat × Nat)
    (us : List (Nat × Nat × Nat)),
  (s.Lets o SEC_CMD → ∀ y ∈ [(1, Instr.secUnlock o), (2, .secKeyprog o), (3, .secKeyrev o)],
    (s.dev.sec.op = none → Comes y.2 o s fun d => d.sec = { s.dev.sec with op := some (y.1, o) } ∧ s.dev.Changes [.sec, .out] (At []) d) ∧
    (s.dev.sec.op.isSome = true → Comes y.2 o s fun d => d.bit SEC_EVT_EVT 1 = true ∧ s.dev.Changes [.out] (At [SEC_EVT]) d)) ∧
  (s.dev.held = false → s.dev.sec.op = some (op, r) → Stores .secOperationComplete .device s fun nv d =>
    d.sec.op = none ∧ (op < 4 → d.get SEC_RES_OP = op) ∧ d.get SEC_RES_ORIGIN = r.code ∧ d.get SEC_RES_CODE = s.dev.recordCode s.nv op ∧
    d.bit SEC_EVT_EVT 0 = true ∧ (nv.mram = s.nv.mram ∨ nv.mram = { s.nv.mram with attIdx := s.nv.mram.attIdx + 1 }) ∧
    (s.dev.sec.attest = some (c, none) → nv.mram.attIdx = s.nv.mram.attIdx + 1 ∧ d.sec.attest = some (c, some s.nv.mram.attIdx)) ∧
    (s.dev.sec.attest = none → nv.mram = s.nv.mram ∧ d.sec.attest = none ∧ d.hif = s.dev.hif) ∧
    s.dev.Changes [.sec, .aud, .hif] (At ([SEC_RES, SEC_EVT] ++ audRegs)) d ∧
    (s.dev.recordCode s.nv op ≠ 0 → nv.fuses = s.nv.fuses ∧ d.bit SEC_EVT_EVT 2 = true ∧ d.sec.unlocks = s.dev.sec.unlocks ∧ d.aud = s.dev.aud) ∧
    (s.dev.recordCode s.nv op = 0 → leAt (s.dev.mbox 64) 2 1 ≤ 3 → nv.fuses = s.nv.fuses ∧ d.bit SEC_EVT_EVT 3 = true ∧ s.dev.Logs d 0x30 0 r ∧
      d.sec.unlocks.head? = some (leAt (s.dev.mbox 64) 2 1, s.dev.time.up + leAt (s.dev.mbox 64) 28 2 * 1000000000, leAt (s.dev.mbox 64) 28 2)) ∧
    (s.dev.recordCode s.nv op = 0 → leAt (s.dev.mbox 2884) 2 1 = 4 → s.dev.Logs d 0x30 (leAt (s.dev.mbox 64) 30 1) r ∧
      (nv.slot (leAt (s.dev.mbox 2884) 30 1)).hash = BitVec.ofNat 256 (leAt (s.dev.mbox 2884) 32 32) ∧
      (nv.slot (leAt (s.dev.mbox 2884) 30 1)).valid = true) ∧
    (s.dev.recordCode s.nv op = 0 → leAt (s.dev.mbox 2884) 2 1 = 5 → (nv.slot (leAt (s.dev.mbox 2884) 30 1)).revoked = true)) ∧
  (s.dev.held = false → s.dev.sec.op = none → Stores .secOperationComplete .device s fun nv d => nv = s.nv ∧ d = s.dev) ∧
  (s.Lets o SEC_CTRL →
    (s.dev.sec.unlocks = [] → Comes (.relock o) o s fun d => s.dev.Changes [.out] (At []) d) ∧
    (s.dev.sec.unlocks = u :: us → Comes (.relock o) o s fun d => (x ∈ d.sec.unlocks → x.1 ≠ 1 ∧ x.1 ≠ 2 ∧ x.1 ≠ 3) ∧
      (u.1 = 1 ∨ u.1 = 2 ∨ u.1 = 3 → d.bit SEC_EVT_EVT 4 = true) ∧
      (us = [] → u.1 = 1 → s.dev.Logs d 0x30 0 o ∧ d.get DIAG_STAT_ACTIVE = 0 ∧ d.word DIAG_PDEP = 0 ∧ d.word DIAG_PHB = 0) ∧
      s.dev.Changes [.sec, .aud, .diag, .svc, .arms, .out] (InAny [bSEC, bDIAG, bSVC, bSCH, bAUD]) d)) ∧
  (s.dev.held = false →
    (s.dev.sec.unlocks = [] → Runs .unlockExpiry .device s fun d => d = s.dev) ∧
    (s.dev.sec.unlocks = u :: us → t = listMin (us.map (·.2.1)) u.2.1 → Runs .unlockExpiry .device s fun d =>
      (s.dev.time.on = true → d.time.up = max s.dev.time.up t) ∧ d.bit SEC_EVT_EVT 4 = true ∧ (x ∈ d.sec.unlocks → t < x.2.1) ∧
      (x ∈ s.dev.sec.unlocks → (∀ y ∈ s.dev.sec.unlocks, y.1 = x.1 → t < y.2.1) → x ∈ d.sec.unlocks) ∧
      (us = [] → u.1 = 2 → s.dev.diag.halted = 0 → s.dev.Logs d 0x30 0 .device ∧
        s.dev.Changes [.time, .sec, .aud] (At ([TIM_WRAP, SEC_EVT, DIAG_STAT] ++ audRegs)) d) ∧
      s.dev.Changes [.time, .sec, .aud, .diag, .svc, .arms, .out] (InAny [bTIM, bSEC, bDIAG, bSVC, bSCH, bAUD]) d))

/-- R484, R485, R487: perturbations. With a TEST unlock a write takes effect, and while the timer is stopped at once; without
one it is discarded with LOCKREF; reads are always answered. After DUR boundaries EN clears and PTEND sets. -/
def Obligations.Perturbations : Prop := ∀ (s : State) (o : Origin) (k : Pert) (v : Word),
  (s.Lets o k.off → s.dev.unlocked 1 = false → Comes (.perturbationWrite o k v) o s fun d => d.bit DIAG_EVT_EVT 0 = true ∧
    s.dev.Changes [.out] (At [DIAG_EVT]) d) ∧
  (s.dev.awake → s.dev.latchOf .jtag k.off = none → Comes (.regacc false k.off v) .jtag s fun d =>
    d.out.head? = some (.answer .jtag k.off (.data (s.dev.word k.off)))) ∧
  (s.Lets o k.off → s.dev.unlocked 1 = true → Comes (.perturbationWrite o k v) o s fun d =>
    d.word k.off = v &&& typeMask (· == .rw) k.off ∧ (v.getLsbD 31 = true → d.get DIAG_STAT_ACTIVE = 1) ∧
    d.diag.active.any (fun x => x.1 == k) = (v.getLsbD 31 && !s.dev.running) ∧
    (k ≠ .dly → s.dev.Changes [.diag, .out] (At [k.off, DIAG_STAT]) d) ∧ s.dev.Changes [.diag, .svc, .out] (InAny [bDIAG, bSVC]) d) ∧
  (s.dev.held = false →
    (s.dev.diag.active.any (fun x => x.1 == k && s.dev.get k.dur != 0 && decide (s.dev.get k.dur < x.2)) = true →
      Runs (.perturbationEnd k) .device s fun d => d.get k.en = 0 ∧ d.bit DIAG_EVT_EVT 1 = true ∧ d.diag.active.any (fun x => x.1 == k) = false ∧
        (k ≠ .dly → s.dev.Changes [.diag] (At [k.off, DIAG_STAT, DIAG_EVT]) d) ∧ s.dev.Changes [.diag, .svc, .out] (InAny [bDIAG, bSVC]) d) ∧
    (s.dev.diag.active.any (fun x => x.1 == k && s.dev.get k.dur != 0 && decide (s.dev.get k.dur < x.2)) = false →
      Runs (.perturbationEnd k) .device s fun d => d = s.dev))

/-- R409, R478, R488, R489, R490: the TAP. IDCODE, BYPASS and SAMPLE/PRELOAD shift out what they say; EXTEST, HIGHZ and CLAMP
act with every arm BLOCKED in SOLO or WITNESS and clear the cycle timer's EN, and else are BYPASS with JTAGREF; a TAP reset
selects IDCODE and frees the TAP's semaphores POISONED; REGACC is an access of the TAP; HALTREQ halts unlocked pairs alone, and
the last pair released ends the debug halt. -/
def Obligations.TapInstructions : Prop := ∀ (s : State) (cap load : List Bool) (i : Fin 64) (off : Nat) (v : Word) (m : BitVec 4) (n : Fin 4),
  (s.dev.tapOn = true →
    (Runs .idcode .jtag s fun d => d.out = .tdo idcodeBits :: s.dev.out ∧ d.diag = { s.dev.diag with instr := 2 } ∧ s.dev.Changes [.diag, .out] (At []) d) ∧
    (Runs (.bypass load) .jtag s fun d => d.out = .tdo (false :: load) :: s.dev.out ∧ d.diag = { s.dev.diag with instr := 0x3F } ∧
      s.dev.Changes [.diag, .out] (At []) d) ∧
    (Runs (.samplePreload cap load) .jtag s fun d => d.out = .tdo cap :: s.dev.out ∧ d.diag = { s.dev.diag with instr := 1, bsr := load } ∧
      s.dev.Changes [.diag, .out] (At []) d) ∧
    (s.dev.scanOk = true →
      (Runs (.extest cap load) .jtag s fun d => d.out = .boundary load :: .tdo cap :: s.dev.out ∧
        d.diag = { s.dev.diag with instr := 0, bsr := load } ∧ d.get CYC_CTRL_EN = 0 ∧ s.dev.Changes [.diag, .out] (At [CYC_CTRL]) d) ∧
      (Runs .highz .jtag s fun d => .pin .syncOut .highZ ∈ d.out ∧ .pin .clkOut .highZ ∈ d.out ∧ .pin .trigIo .released ∈ d.out ∧
        d.diag = { s.dev.diag with instr := 4 } ∧ d.get CYC_CTRL_EN = 0 ∧ s.dev.Changes [.diag, .out] (At [CYC_CTRL]) d) ∧
      (Runs .clamp .jtag s fun d => d.out = .boundary s.dev.diag.bsr :: s.dev.out ∧ d.diag = { s.dev.diag with instr := 5 } ∧
        d.get CYC_CTRL_EN = 0 ∧ s.dev.Changes [.diag, .out] (At [CYC_CTRL]) d)) ∧
    (s.dev.scanOk = false → ∀ y ∈ [(load, Instr.extest cap load), ([], .highz), ([], .clamp)],
      Runs y.2 .jtag s fun d => d.out = .tdo (false :: y.1) :: s.dev.out ∧
        d.diag = { s.dev.diag with instr := 0x3F } ∧ d.bit DIAG_EVT_EVT 2 = true ∧ s.dev.Changes [.diag, .out] (At [DIAG_EVT]) d) ∧
    (Runs .jtagTapReset .jtag s fun d => d.diag = { s.dev.diag with instr := 2 } ∧
      (s.dev.semOwned .jtag i = true → d.get (SVC_SEMST_HELD i) = 0 ∧ d.get (SVC_SEMST_POISONED i) = 1) ∧
      (s.dev.semOwned .jtag i = false → d.word (SVC_SEMST i) = s.dev.word (SVC_SEMST i)) ∧
      s.dev.Changes [.diag, .svc] (Each (List.range 64) fun i => [SVC_SEMST i]) d)) ∧
  (s.dev.held = false →
    (Comes (.regacc true off v) .jtag s fun d =>
      d = ({ s.dev with diag := { s.dev.diag with instr := 0x10 } } : Dev).busWrite s.nv .jtag off 0xF v 0) ∧
    (Comes (.regacc false off v) .jtag s fun d =>
      d = ({ s.dev with diag := { s.dev.diag with instr := 0x10 } } : Dev).busRead s.nv .jtag off 0xF 0)) ∧
  (s.Reaches .jtag off → off % 4 = 0 → off < 0x400000 → (regAt off).isSome = true →
    (s.dev.special s.nv .jtag off v = none → Comes (.regacc true off v) .jtag s fun d =>
      d.out = .answer .jtag off .written :: s.dev.out ∧ d.diag = { s.dev.diag with instr := 0x10 } ∧
      d.word off &&& typeMask (fun t => t == .rw || t == .rwl) off = v &&& typeMask (fun t => t == .rw || t == .rwl) off ∧
      s.dev.Changes [.diag, .out] (At [off]) d) ∧
    (typeMask (· == .rc) off = 0 → InAny [bTOP, bCYC, bLOOP] off → latchedBy off = [] → s.dev.rlatch = [] →
      Comes (.regacc false off v) .jtag s fun d => d.out = .answer .jtag off (.data (s.dev.peek s.nv .jtag off)) :: s.dev.out ∧
        d.diag = { s.dev.diag with instr := 0x10 } ∧ s.dev.Changes [.diag, .out] (At []) d)) ∧
  (s.dev.held = false →
    ((m.getLsbD 2 = true ∨ m.getLsbD 3 = true) ∧ s.dev.unlocked 2 = false ∨ (m.getLsbD 0 = true ∨ m.getLsbD 1 = true) ∧ s.dev.unlocked 3 = false →
      Runs (.haltreq m true) .jtag s fun d => d.bit DIAG_EVT_EVT 2 = true ∧
        d.diag = { s.dev.diag with instr := 0x11 } ∧ s.dev.Changes [.diag] (At [DIAG_EVT]) d) ∧
    ((m.getLsbD 2 = true ∨ m.getLsbD 3 = true → s.dev.unlocked 2 = true) → (m.getLsbD 0 = true ∨ m.getLsbD 1 = true → s.dev.unlocked 3 = true) →
      Runs (.haltreq m true) .jtag s fun d =>
        d.diag.halted.testBit n = (m.getLsbD n || s.dev.diag.halted.testBit n) ∧
        (m.getLsbD n = true → s.dev.diag.halted.testBit n = false → s.dev.pairRuns n = true → d.get (SVC_PSTAT_STATE n) = 1) ∧
        (m.getLsbD n = false → d.word (SVC_PSTAT n) = s.dev.word (SVC_PSTAT n)) ∧ (m ≠ 0 → d.get SCH_STAT_HALTBLK = 1) ∧
        s.dev.Changes [.diag, .svc, .arms, .aud, .rcd, .dpx] (InAny [bSVC, bSCH, bAUD]) d) ∧
    (Runs (.haltreq m false) .jtag s fun d => d.diag.halted.testBit n = (s.dev.diag.halted.testBit n && !m.getLsbD n) ∧
      (s.dev.diag.halted = 2 ^ n.val → m.getLsbD n = true → s.dev.sch.aclkStopped = false → d.get SCH_STAT_HALTBLK = 0) ∧
      s.dev.Changes [.diag, .svc, .out] (InAny [bSVC, bSCH]) d))

/-! ### The block as a whole -/

/-- The commands that act whatever the reset state: the reset lines and the brown-out monitor (R456 to R458), the instructions of the TAP
(R459). -/
def Sys2Proof.Machine.actsInReset : Instr → Bool
  | .porstNAssert | .porstNRelease | .brownout .. | .brownoutRelease .. | .srstNAssert | .internalResetEnd => true
  | .extest .. | .samplePreload .. | .idcode | .highz | .clamp | .bypass .. | .jtagTapReset => true
  | _ => false

/-- A step with a command in front of the queue runs that command with the queue's rest. -/
def Obligations.StepRunsFront : Prop := ∀ (s : State) (c : Instr) (rest : List Instr), s.pending = c :: rest →
  step s = exec c (s.withQueue rest)

/-- R14, R160, R210, R457, R460: after the power-on reset every register reads its Reset column, the device is in BOOT, every
arm is BLOCKED, no time has passed, no port has cells, and the audit log is whole. The values of fuses and MRAM are the model's
choice (log entry 4). -/
def Obligations.ResetState : Prop := ∀ (off : Nat) (a : Fin 12) (p : Fin 48), State.reset.dev.word off = resetWord off ∧
  State.reset.pending = [] ∧ State.reset.dev.dstate = .boot ∧ State.reset.dev.arm a = .blocked ∧ State.reset.dev.held = false ∧
  State.reset.dev.time.on = false ∧ State.reset.dev.time.tb0 = 0 ∧ (State.reset.dev.port p).discovered = 0 ∧ State.reset.dev.locked = false ∧
  State.reset.dev.running = false ∧ State.reset.nv.LogOk

/-- Every command completes, whatever the state, and none touches the queue of commands. -/
def Obligations.CommandsComplete : Prop := ∀ (c : Instr) (s : State), ∃ t, exec c s = .next t ∧ t.pending = s.pending

/-- The model's choice (log entry 2), over R159, R349: with no command waiting a step lets one period of ACLK pass, which the
bases count once they are on and the cast-iron oscillator always, and nothing else changes. R457, R458, R459: while a reset
holds the device, a command that is no reset line, supply monitor or TAP instruction changes nothing. -/
def Obligations.StepsWithoutEffect : Prop :=
  (∀ (s : State), s.pending = [] → ∃ t, step s = .next t ∧ t.nv = s.nv ∧ t.pending = [] ∧
    (s.dev.time.on = true → t.dev.time.tb0 = s.dev.time.tb0 + 0x10000 ∧ t.dev.time.tb2 = s.dev.time.tb2 + 0x10000 ∧ t.dev.time.up = s.dev.time.up + 1) ∧
    (s.dev.time.on = false → t.dev.time.tb0 = s.dev.time.tb0 ∧ t.dev.time.tb2 = s.dev.time.tb2 ∧ t.dev.time.up = s.dev.time.up) ∧
    t.dev.time.cio = s.dev.time.cio + 1 ∧ s.dev.Changes [.time] (At [TIM_WRAP]) t.dev) ∧
  (∀ (c : Instr) (s : State), s.dev.held = true → actsInReset c = false → exec c s = .next s)

/-- R386: no step erases, rewrites or reorders an audit entry, a reset included: the log is as before, or has one new entry in
front, and a full log loses its oldest entry alone, whose chain value stands in AUD_ANCHOR. The chain from AUD_ANCHOR to the
newest entry stays valid. -/
def Obligations.AuditLogKept : Prop := ∀ (s t : State) (y : AudEntry), step s = .next t → s.nv.LogOk →
  t.nv.LogOk ∧ (t.nv.mram.log = s.nv.mram.log ∨ ∃ x, t.nv.mram.log = (x :: s.nv.mram.log).take 65536) ∧
  (s.nv.mram.log[65535]? = some y → t.nv.mram.log ≠ s.nv.mram.log → t.dev.peek t.nv .pcie AUD_ANCHOR_LO = dw y.chain.toNat ∧
    t.dev.peek t.nv .pcie AUD_ANCHOR_HI = dw (y.chain.toNat / 2 ^ 32))

/-- R466, R470, R477, R480: what no step takes back. A valid fuse stays programmed with its hash, a revoke fuse stays
programmed, the identity does not change; the SVN floors and the next attestation index only rise. -/
def Obligations.FusesOnlyBurn : Prop := ∀ (s t : State) (n j : Nat), step s = .next t →
  t.nv.fuses.uid = s.nv.fuses.uid ∧ t.nv.fuses.grade = s.nv.fuses.grade ∧ t.nv.fuses.testen = s.nv.fuses.testen ∧
  t.nv.fuses.idrec = s.nv.fuses.idrec ∧
  ((s.nv.slot n).valid = true → (t.nv.slot n).valid = true ∧ (t.nv.slot n).hash = (s.nv.slot n).hash) ∧
  ((s.nv.slot n).revoked = true → (t.nv.slot n).revoked = true) ∧
  (j < 4 → nth s.nv.mram.svn j 0 ≤ nth t.nv.mram.svn j 0) ∧ s.nv.mram.attIdx ≤ t.nv.mram.attIdx

/-! ### What follows at once -/

/-- R19, R32, R332, R334: what follows at once from a command out of reset and DEEP. The demands present and the arms requested
stand in SAF_DEMAND and SAF_REQ, SAFE_OK holds the conditions of R332, the attention interrupt follows the enabled domains, and
nothing but the parts and registers named changes. -/
def Obligations.Consequences : Prop := ∀ (d old : Dev) (o : Origin), d.held = false → d.rst.deep = false → d.saf.stuckA = none → d.saf.stuckB = none →
  (d.after old o).get SAF_DEMAND_PRESENT = (d.after old o).saf.presentBits % 2 ^ 8 ∧
  (d.after old o).get SAF_REQ_ARMS = (d.after old o).saf.wanted ∧
  (d.after old o).is SAF_STAT_SAFEOK = (d.after old o).safeOk ∧
  (d.after old o).hif.attn = decide ((d.after old o).attnDomains ≠ 0) ∧
  d.Changes [.hif, .aud, .arms, .saf, .adc, .rcd, .dpx, .ports, .svc, .out] (InAny [bRST, bTIM, bRING, bSCH, bREC, bDPX, bSAF, bAUD, bCELL])
    (d.after old o)
end

