-- ==== Sys2Proof/Laws/Store.lean ====
section
/-! SUPPORT. Laws of the register file and of fields: read after write, a write leaves every other offset and every other field
alone, every operation keeps the canonical form. -/

namespace Sys2Proof.Machine

open Sys2Proof

/-! ### Lists of offsets -/

theorem Store.erase_cons_same (st : Store) (e : Nat × Word) : Store.erase (e :: st) e.1 = Store.erase st e.1 := by
  simp [Store.erase]

theorem Store.erase_cons_ne (st : Store) (e : Nat × Word) {off : Nat} (h : e.1 ≠ off) :
    Store.erase (e :: st) off = e :: Store.erase st off := by
  simp [Store.erase, h]

theorem Store.find_erase_same (st : Store) (off : Nat) : (Store.erase st off).find off = none := by
  induction st with
  | nil => rfl
  | cons e rest ih =>
    by_cases h : e.1 = off
    · rw [← h, Store.erase_cons_same, h, ih]
    · rw [Store.erase_cons_ne _ _ h, Store.find, if_neg h, ih]

theorem Store.find_erase_ne (st : Store) {off off' : Nat} (h : off' ≠ off) :
    (Store.erase st off).find off' = Store.find st off' := by
  induction st with
  | nil => rfl
  | cons e rest ih =>
    by_cases h1 : e.1 = off
    · have h2 : e.1 ≠ off' := fun h3 => h (h3 ▸ h1)
      rw [← h1, Store.erase_cons_same, h1, ih, Store.find, if_neg h2]
    · rw [Store.erase_cons_ne _ _ h1]
      simp only [Store.find, ih]

theorem Store.find_place_same (st : Store) (off : Nat) (w : Word) (h : st.find off = none) :
    (st.place off w).find off = some w := by
  induction st with
  | nil => simp [Store.place, Store.find]
  | cons e rest ih =>
    simp only [Store.find] at h
    have h1 : e.1 ≠ off := fun h1 => by simp [h1] at h
    simp only [h1, if_false] at h
    unfold Store.place
    split
    · simp [Store.find]
    · simp [Store.find, h1, ih h]

theorem Store.find_place_ne (st : Store) {off off' : Nat} (w : Word) (h : off' ≠ off) :
    (st.place off w).find off' = st.find off' := by
  have h' : off ≠ off' := fun x => h x.symm
  induction st with
  | nil => simp [Store.place, Store.find, h']
  | cons e rest ih =>
    unfold Store.place
    split
    · rw [Store.find, if_neg h']
    · simp only [Store.find, ih]

/-! ### Words -/

/-- A read after a write of the same register gives the word written. -/
@[simp] theorem Store.get_put_same (st : Store) (off : Nat) (w : Word) : (st.put off w).get off = w := by
  unfold Store.put Store.get
  split
  · rename_i h
    rw [Store.find_erase_same, h, Option.getD_none]
  · rw [Store.find_place_same _ _ _ (Store.find_erase_same st off), Option.getD_some]

/-- A write leaves every other register alone. -/
theorem Store.get_put_ne (st : Store) {off off' : Nat} (w : Word) (h : off' ≠ off) : (st.put off w).get off' = st.get off' := by
  unfold Store.put Store.get
  split
  · rw [Store.find_erase_ne _ h]
  · rw [Store.find_place_ne _ _ h, Store.find_erase_ne _ h]

/-- An empty register file reads as the Reset column. -/
@[simp] theorem Store.get_nil (off : Nat) : Store.get [] off = resetWord off := rfl

/-! ### Fields -/

theorem Fld.mask_bit (f : Fld) (h : f.hi < 32) (i : Nat) : f.mask.getLsbD i = (decide (f.lo ≤ i) && decide (i ≤ f.hi)) := by
  unfold Fld.mask
  rw [BitVec.getLsbD_and, BitVec.getLsbD_ushiftRight, BitVec.getLsbD_allOnes, BitVec.getLsbD_shiftLeft, BitVec.getLsbD_allOnes]
  by_cases h1 : f.lo ≤ i <;> by_cases h2 : i ≤ f.hi <;> simp [h1, h2] <;> omega

/-- Writing a field and reading it gives the value, cut to the field's width. -/
theorem Fld.of_into_same (f : Fld) (w : Word) (v : Nat) (h : f.hi < 32) : f.of (f.into w v) = v % 2 ^ (f.hi + 1 - f.lo) := by
  unfold Fld.of Fld.into
  apply Nat.eq_of_testBit_eq
  intro i
  rw [Nat.testBit_mod_two_pow, BitVec.testBit_toNat, BitVec.getLsbD_ushiftRight, BitVec.getLsbD_and, BitVec.getLsbD_or,
    BitVec.getLsbD_and, BitVec.getLsbD_and, BitVec.getLsbD_not, BitVec.getLsbD_shiftLeft, BitVec.getLsbD_ofNat, Fld.mask_bit f h]
  by_cases h1 : i < f.hi + 1 - f.lo
  · have h2 : f.lo ≤ f.lo + i := by omega
    have h3 : f.lo + i ≤ f.hi := by omega
    have h4 : f.lo + i < 32 := by omega
    have h5 : ¬ f.lo + i < f.lo := by omega
    have h6 : f.lo + i - f.lo = i := by omega
    have h7 : i < 32 := by omega
    simp [h1, h2, h3, h4, h5, h6, h7]
  · have h3 : ¬ f.lo + i ≤ f.hi := by omega
    simp [h1, h3]

/-- Writing a field leaves a field of other bits alone. -/
theorem Fld.of_into_disjoint (f g : Fld) (w : Word) (v : Nat) (hf : f.hi < 32) (hg : g.hi < 32) (h : g.hi < f.lo ∨ f.hi < g.lo) :
    g.of (f.into w v) = g.of w := by
  unfold Fld.of Fld.into
  apply Nat.eq_of_testBit_eq
  intro i
  rw [BitVec.testBit_toNat, BitVec.testBit_toNat, BitVec.getLsbD_ushiftRight, BitVec.getLsbD_ushiftRight, BitVec.getLsbD_and,
    BitVec.getLsbD_and, BitVec.getLsbD_or, BitVec.getLsbD_and, BitVec.getLsbD_and, BitVec.getLsbD_not, Fld.mask_bit f hf,
    Fld.mask_bit g hg]
  by_cases h1 : g.lo + i ≤ g.hi
  · have h2 : ¬ (f.lo ≤ g.lo + i ∧ g.lo + i ≤ f.hi) := by omega
    have h3 : g.lo + i < 32 := by omega
    by_cases h4 : f.lo ≤ g.lo + i <;> by_cases h5 : g.lo + i ≤ f.hi <;> simp [h1, h3, h4, h5] <;> omega
  · simp [h1]

theorem Store.getF_setF_same (st : Store) (f : Fld) (v : Nat) (h : f.hi < 32) :
    (st.setF f v).getF f = v % 2 ^ (f.hi + 1 - f.lo) := by
  simp [Store.setF, Store.getF, Fld.of_into_same f _ v h]

theorem Store.getF_setF_off (st : Store) (f g : Fld) (v : Nat) (h : g.off ≠ f.off) : (st.setF f v).getF g = st.getF g := by
  simp [Store.setF, Store.getF, Store.get_put_ne _ _ h]

theorem Store.getF_setF_disjoint (st : Store) (f g : Fld) (v : Nat) (hf : f.hi < 32) (hg : g.hi < 32) (ho : g.off = f.off)
    (h : g.hi < f.lo ∨ f.hi < g.lo) : (st.setF f v).getF g = st.getF g := by
  simp [Store.setF, Store.getF, ho, Fld.of_into_disjoint f g _ v hf hg h]

/-! ### The canonical form -/

/-- What the canonical form says of the tail and of the head. -/
theorem Store.wf_cons (e : Nat × Word) (st : Store) :
    Store.wf (e :: st) = true ↔ e.2 ≠ resetWord e.1 ∧ (∀ x ∈ st.head?, e.1 < x.1) ∧ Store.wf st = true := by
  cases st with
  | nil => simp [Store.wf]
  | cons f rest => simp [Store.wf, and_assoc]

theorem Store.wf_lt (e : Nat × Word) (st : Store) (h : Store.wf (e :: st) = true) : ∀ x ∈ st, e.1 < x.1 := by
  induction st generalizing e with
  | nil => simp
  | cons f rest ih =>
    obtain ⟨-, h2, h3⟩ := (Store.wf_cons e _).1 h
    intro x hx
    have h4 : e.1 < f.1 := h2 f rfl
    rcases List.mem_cons.1 hx with rfl | hx
    · exact h4
    · exact Nat.lt_trans h4 (ih f h3 x hx)

/-- Dropping entries keeps the canonical form. -/
theorem Store.wf_filter (p : Nat × Word → Bool) (st : Store) (h : Store.wf st = true) : Store.wf (st.filter p) = true := by
  induction st with
  | nil => rfl
  | cons e rest ih =>
    obtain ⟨h1, -, h3⟩ := (Store.wf_cons e _).1 h
    by_cases hp : p e = true
    · rw [List.filter_cons_of_pos hp]
      refine (Store.wf_cons e _).2 ⟨h1, ?_, ih h3⟩
      intro x hx
      exact Store.wf_lt e rest h x ((List.mem_filter.1 (List.mem_of_mem_head? hx)).1)
    · rw [List.filter_cons_of_neg hp]
      exact ih h3

/-- Placing a word that differs from its reset word, at an offset not listed, keeps the canonical form. -/
theorem Store.wf_place (st : Store) (off : Nat) (w : Word) (h : Store.wf st = true) (hn : ∀ x ∈ st, x.1 ≠ off)
    (hw : w ≠ resetWord off) : Store.wf (st.place off w) = true := by
  induction st with
  | nil => simp [Store.place, Store.wf, hw]
  | cons e rest ih =>
    obtain ⟨h1, h2, h3⟩ := (Store.wf_cons e _).1 h
    unfold Store.place
    split
    · rename_i hlt
      exact (Store.wf_cons _ _).2 ⟨hw, by simpa using hlt, h⟩
    · rename_i hge
      have hne : e.1 ≠ off := hn e (List.mem_cons_self ..)
      refine (Store.wf_cons _ _).2 ⟨h1, ?_, ih h3 (fun x hx => hn x (List.mem_cons_of_mem _ hx))⟩
      intro x hx
      cases rest with
      | nil =>
        simp only [Store.place, List.head?_cons, Option.mem_def, Option.some.injEq] at hx
        subst hx
        show e.1 < off
        omega
      | cons f r =>
        unfold Store.place at hx
        split at hx
        · simp only [List.head?_cons, Option.mem_def, Option.some.injEq] at hx
          subst hx
          show e.1 < off
          omega
        · simp only [List.head?_cons, Option.mem_def, Option.some.injEq] at hx
          subst hx
          exact h2 f rfl

/-- A write keeps the canonical form. -/
theorem Store.wf_put (st : Store) (off : Nat) (w : Word) (h : Store.wf st = true) : Store.wf (st.put off w) = true := by
  unfold Store.put
  split
  · exact Store.wf_filter _ _ h
  · rename_i hw
    refine Store.wf_place _ _ _ (Store.wf_filter _ _ h) ?_ hw
    intro x hx
    have := (List.mem_filter.1 hx).2
    simpa using this

theorem Store.wf_setF (st : Store) (f : Fld) (v : Nat) (h : Store.wf st = true) : Store.wf (st.setF f v) = true :=
  Store.wf_put _ _ _ h

end Sys2Proof.Machine
end

