-- ==== Sys2Proof/Laws/State.lean ====
section
/-! SUPPORT. One lemma per part of the device and per update, true by unfolding: an update leaves the other parts as they are.
Then what the updates of register fields and words leave in the register file. -/

namespace Sys2Proof.Machine

open Sys2Proof

/-! ### set -/

@[simp] theorem Dev.set_time (d : Dev) (f : Fld) (v : Nat) : (d.set f v).time = d.time := rfl
@[simp] theorem Dev.set_ptp (d : Dev) (f : Fld) (v : Nat) : (d.set f v).ptp = d.ptp := rfl
@[simp] theorem Dev.set_cyc (d : Dev) (f : Fld) (v : Nat) : (d.set f v).cyc = d.cyc := rfl
@[simp] theorem Dev.set_rst (d : Dev) (f : Fld) (v : Nat) : (d.set f v).rst = d.rst := rfl
@[simp] theorem Dev.set_clk (d : Dev) (f : Fld) (v : Nat) : (d.set f v).clk = d.clk := rfl
@[simp] theorem Dev.set_hif (d : Dev) (f : Fld) (v : Nat) : (d.set f v).hif = d.hif := rfl
@[simp] theorem Dev.set_ep (d : Dev) (f : Fld) (v : Nat) : (d.set f v).ep = d.ep := rfl
@[simp] theorem Dev.set_aud (d : Dev) (f : Fld) (v : Nat) : (d.set f v).aud = d.aud := rfl
@[simp] theorem Dev.set_sec (d : Dev) (f : Fld) (v : Nat) : (d.set f v).sec = d.sec := rfl
@[simp] theorem Dev.set_ports (d : Dev) (f : Fld) (v : Nat) : (d.set f v).ports = d.ports := rfl
@[simp] theorem Dev.set_arms (d : Dev) (f : Fld) (v : Nat) : (d.set f v).arms = d.arms := rfl
@[simp] theorem Dev.set_sch (d : Dev) (f : Fld) (v : Nat) : (d.set f v).sch = d.sch := rfl
@[simp] theorem Dev.set_saf (d : Dev) (f : Fld) (v : Nat) : (d.set f v).saf = d.saf := rfl
@[simp] theorem Dev.set_lane (d : Dev) (f : Fld) (v : Nat) : (d.set f v).lane = d.lane := rfl
@[simp] theorem Dev.set_svc (d : Dev) (f : Fld) (v : Nat) : (d.set f v).svc = d.svc := rfl
@[simp] theorem Dev.set_loop (d : Dev) (f : Fld) (v : Nat) : (d.set f v).loop = d.loop := rfl
@[simp] theorem Dev.set_adc (d : Dev) (f : Fld) (v : Nat) : (d.set f v).adc = d.adc := rfl
@[simp] theorem Dev.set_rcd (d : Dev) (f : Fld) (v : Nat) : (d.set f v).rcd = d.rcd := rfl
@[simp] theorem Dev.set_mem (d : Dev) (f : Fld) (v : Nat) : (d.set f v).mem = d.mem := rfl
@[simp] theorem Dev.set_dpx (d : Dev) (f : Fld) (v : Nat) : (d.set f v).dpx = d.dpx := rfl
@[simp] theorem Dev.set_diag (d : Dev) (f : Fld) (v : Nat) : (d.set f v).diag = d.diag := rfl
@[simp] theorem Dev.set_rlatch (d : Dev) (f : Fld) (v : Nat) : (d.set f v).rlatch = d.rlatch := rfl
@[simp] theorem Dev.set_wlatch (d : Dev) (f : Fld) (v : Nat) : (d.set f v).wlatch = d.wlatch := rfl
@[simp] theorem Dev.set_free (d : Dev) (f : Fld) (v : Nat) : (d.set f v).free = d.free := rfl
@[simp] theorem Dev.set_out (d : Dev) (f : Fld) (v : Nat) : (d.set f v).out = d.out := rfl

/-! ### setWord -/

@[simp] theorem Dev.setWord_time (d : Dev) (off : Nat) (w : Word) : (d.setWord off w).time = d.time := rfl
@[simp] theorem Dev.setWord_ptp (d : Dev) (off : Nat) (w : Word) : (d.setWord off w).ptp = d.ptp := rfl
@[simp] theorem Dev.setWord_cyc (d : Dev) (off : Nat) (w : Word) : (d.setWord off w).cyc = d.cyc := rfl
@[simp] theorem Dev.setWord_rst (d : Dev) (off : Nat) (w : Word) : (d.setWord off w).rst = d.rst := rfl
@[simp] theorem Dev.setWord_clk (d : Dev) (off : Nat) (w : Word) : (d.setWord off w).clk = d.clk := rfl
@[simp] theorem Dev.setWord_hif (d : Dev) (off : Nat) (w : Word) : (d.setWord off w).hif = d.hif := rfl
@[simp] theorem Dev.setWord_ep (d : Dev) (off : Nat) (w : Word) : (d.setWord off w).ep = d.ep := rfl
@[simp] theorem Dev.setWord_aud (d : Dev) (off : Nat) (w : Word) : (d.setWord off w).aud = d.aud := rfl
@[simp] theorem Dev.setWord_sec (d : Dev) (off : Nat) (w : Word) : (d.setWord off w).sec = d.sec := rfl
@[simp] theorem Dev.setWord_ports (d : Dev) (off : Nat) (w : Word) : (d.setWord off w).ports = d.ports := rfl
@[simp] theorem Dev.setWord_arms (d : Dev) (off : Nat) (w : Word) : (d.setWord off w).arms = d.arms := rfl
@[simp] theorem Dev.setWord_sch (d : Dev) (off : Nat) (w : Word) : (d.setWord off w).sch = d.sch := rfl
@[simp] theorem Dev.setWord_saf (d : Dev) (off : Nat) (w : Word) : (d.setWord off w).saf = d.saf := rfl
@[simp] theorem Dev.setWord_lane (d : Dev) (off : Nat) (w : Word) : (d.setWord off w).lane = d.lane := rfl
@[simp] theorem Dev.setWord_svc (d : Dev) (off : Nat) (w : Word) : (d.setWord off w).svc = d.svc := rfl
@[simp] theorem Dev.setWord_loop (d : Dev) (off : Nat) (w : Word) : (d.setWord off w).loop = d.loop := rfl
@[simp] theorem Dev.setWord_adc (d : Dev) (off : Nat) (w : Word) : (d.setWord off w).adc = d.adc := rfl
@[simp] theorem Dev.setWord_rcd (d : Dev) (off : Nat) (w : Word) : (d.setWord off w).rcd = d.rcd := rfl
@[simp] theorem Dev.setWord_mem (d : Dev) (off : Nat) (w : Word) : (d.setWord off w).mem = d.mem := rfl
@[simp] theorem Dev.setWord_dpx (d : Dev) (off : Nat) (w : Word) : (d.setWord off w).dpx = d.dpx := rfl
@[simp] theorem Dev.setWord_diag (d : Dev) (off : Nat) (w : Word) : (d.setWord off w).diag = d.diag := rfl
@[simp] theorem Dev.setWord_rlatch (d : Dev) (off : Nat) (w : Word) : (d.setWord off w).rlatch = d.rlatch := rfl
@[simp] theorem Dev.setWord_wlatch (d : Dev) (off : Nat) (w : Word) : (d.setWord off w).wlatch = d.wlatch := rfl
@[simp] theorem Dev.setWord_free (d : Dev) (off : Nat) (w : Word) : (d.setWord off w).free = d.free := rfl
@[simp] theorem Dev.setWord_out (d : Dev) (off : Nat) (w : Word) : (d.setWord off w).out = d.out := rfl

/-! ### emit -/

@[simp] theorem Dev.emit_regs (d : Dev) (e : Emission) : (d.emit e).regs = d.regs := rfl
@[simp] theorem Dev.emit_time (d : Dev) (e : Emission) : (d.emit e).time = d.time := rfl
@[simp] theorem Dev.emit_ptp (d : Dev) (e : Emission) : (d.emit e).ptp = d.ptp := rfl
@[simp] theorem Dev.emit_cyc (d : Dev) (e : Emission) : (d.emit e).cyc = d.cyc := rfl
@[simp] theorem Dev.emit_rst (d : Dev) (e : Emission) : (d.emit e).rst = d.rst := rfl
@[simp] theorem Dev.emit_clk (d : Dev) (e : Emission) : (d.emit e).clk = d.clk := rfl
@[simp] theorem Dev.emit_hif (d : Dev) (e : Emission) : (d.emit e).hif = d.hif := rfl
@[simp] theorem Dev.emit_ep (d : Dev) (e : Emission) : (d.emit e).ep = d.ep := rfl
@[simp] theorem Dev.emit_aud (d : Dev) (e : Emission) : (d.emit e).aud = d.aud := rfl
@[simp] theorem Dev.emit_sec (d : Dev) (e : Emission) : (d.emit e).sec = d.sec := rfl
@[simp] theorem Dev.emit_ports (d : Dev) (e : Emission) : (d.emit e).ports = d.ports := rfl
@[simp] theorem Dev.emit_arms (d : Dev) (e : Emission) : (d.emit e).arms = d.arms := rfl
@[simp] theorem Dev.emit_sch (d : Dev) (e : Emission) : (d.emit e).sch = d.sch := rfl
@[simp] theorem Dev.emit_saf (d : Dev) (e : Emission) : (d.emit e).saf = d.saf := rfl
@[simp] theorem Dev.emit_lane (d : Dev) (e : Emission) : (d.emit e).lane = d.lane := rfl
@[simp] theorem Dev.emit_svc (d : Dev) (e : Emission) : (d.emit e).svc = d.svc := rfl
@[simp] theorem Dev.emit_loop (d : Dev) (e : Emission) : (d.emit e).loop = d.loop := rfl
@[simp] theorem Dev.emit_adc (d : Dev) (e : Emission) : (d.emit e).adc = d.adc := rfl
@[simp] theorem Dev.emit_rcd (d : Dev) (e : Emission) : (d.emit e).rcd = d.rcd := rfl
@[simp] theorem Dev.emit_mem (d : Dev) (e : Emission) : (d.emit e).mem = d.mem := rfl
@[simp] theorem Dev.emit_dpx (d : Dev) (e : Emission) : (d.emit e).dpx = d.dpx := rfl
@[simp] theorem Dev.emit_diag (d : Dev) (e : Emission) : (d.emit e).diag = d.diag := rfl
@[simp] theorem Dev.emit_rlatch (d : Dev) (e : Emission) : (d.emit e).rlatch = d.rlatch := rfl
@[simp] theorem Dev.emit_wlatch (d : Dev) (e : Emission) : (d.emit e).wlatch = d.wlatch := rfl
@[simp] theorem Dev.emit_free (d : Dev) (e : Emission) : (d.emit e).free = d.free := rfl

/-! ### draw -/

@[simp] theorem Dev.draw_regs (d : Dev)  : (d.draw ).regs = d.regs := rfl
@[simp] theorem Dev.draw_time (d : Dev)  : (d.draw ).time = d.time := rfl
@[simp] theorem Dev.draw_ptp (d : Dev)  : (d.draw ).ptp = d.ptp := rfl
@[simp] theorem Dev.draw_cyc (d : Dev)  : (d.draw ).cyc = d.cyc := rfl
@[simp] theorem Dev.draw_rst (d : Dev)  : (d.draw ).rst = d.rst := rfl
@[simp] theorem Dev.draw_clk (d : Dev)  : (d.draw ).clk = d.clk := rfl
@[simp] theorem Dev.draw_hif (d : Dev)  : (d.draw ).hif = d.hif := rfl
@[simp] theorem Dev.draw_ep (d : Dev)  : (d.draw ).ep = d.ep := rfl
@[simp] theorem Dev.draw_aud (d : Dev)  : (d.draw ).aud = d.aud := rfl
@[simp] theorem Dev.draw_sec (d : Dev)  : (d.draw ).sec = d.sec := rfl
@[simp] theorem Dev.draw_ports (d : Dev)  : (d.draw ).ports = d.ports := rfl
@[simp] theorem Dev.draw_arms (d : Dev)  : (d.draw ).arms = d.arms := rfl
@[simp] theorem Dev.draw_sch (d : Dev)  : (d.draw ).sch = d.sch := rfl
@[simp] theorem Dev.draw_saf (d : Dev)  : (d.draw ).saf = d.saf := rfl
@[simp] theorem Dev.draw_lane (d : Dev)  : (d.draw ).lane = d.lane := rfl
@[simp] theorem Dev.draw_svc (d : Dev)  : (d.draw ).svc = d.svc := rfl
@[simp] theorem Dev.draw_loop (d : Dev)  : (d.draw ).loop = d.loop := rfl
@[simp] theorem Dev.draw_adc (d : Dev)  : (d.draw ).adc = d.adc := rfl
@[simp] theorem Dev.draw_rcd (d : Dev)  : (d.draw ).rcd = d.rcd := rfl
@[simp] theorem Dev.draw_mem (d : Dev)  : (d.draw ).mem = d.mem := rfl
@[simp] theorem Dev.draw_dpx (d : Dev)  : (d.draw ).dpx = d.dpx := rfl
@[simp] theorem Dev.draw_diag (d : Dev)  : (d.draw ).diag = d.diag := rfl
@[simp] theorem Dev.draw_rlatch (d : Dev)  : (d.draw ).rlatch = d.rlatch := rfl
@[simp] theorem Dev.draw_wlatch (d : Dev)  : (d.draw ).wlatch = d.wlatch := rfl
@[simp] theorem Dev.draw_out (d : Dev)  : (d.draw ).out = d.out := rfl

/-! ### setPort -/

@[simp] theorem Dev.setPort_regs (d : Dev) (p : Nat) (f : PortState → PortState) : (d.setPort p f).regs = d.regs := rfl
@[simp] theorem Dev.setPort_time (d : Dev) (p : Nat) (f : PortState → PortState) : (d.setPort p f).time = d.time := rfl
@[simp] theorem Dev.setPort_ptp (d : Dev) (p : Nat) (f : PortState → PortState) : (d.setPort p f).ptp = d.ptp := rfl
@[simp] theorem Dev.setPort_cyc (d : Dev) (p : Nat) (f : PortState → PortState) : (d.setPort p f).cyc = d.cyc := rfl
@[simp] theorem Dev.setPort_rst (d : Dev) (p : Nat) (f : PortState → PortState) : (d.setPort p f).rst = d.rst := rfl
@[simp] theorem Dev.setPort_clk (d : Dev) (p : Nat) (f : PortState → PortState) : (d.setPort p f).clk = d.clk := rfl
@[simp] theorem Dev.setPort_hif (d : Dev) (p : Nat) (f : PortState → PortState) : (d.setPort p f).hif = d.hif := rfl
@[simp] theorem Dev.setPort_ep (d : Dev) (p : Nat) (f : PortState → PortState) : (d.setPort p f).ep = d.ep := rfl
@[simp] theorem Dev.setPort_aud (d : Dev) (p : Nat) (f : PortState → PortState) : (d.setPort p f).aud = d.aud := rfl
@[simp] theorem Dev.setPort_sec (d : Dev) (p : Nat) (f : PortState → PortState) : (d.setPort p f).sec = d.sec := rfl
@[simp] theorem Dev.setPort_arms (d : Dev) (p : Nat) (f : PortState → PortState) : (d.setPort p f).arms = d.arms := rfl
@[simp] theorem Dev.setPort_sch (d : Dev) (p : Nat) (f : PortState → PortState) : (d.setPort p f).sch = d.sch := rfl
@[simp] theorem Dev.setPort_saf (d : Dev) (p : Nat) (f : PortState → PortState) : (d.setPort p f).saf = d.saf := rfl
@[simp] theorem Dev.setPort_lane (d : Dev) (p : Nat) (f : PortState → PortState) : (d.setPort p f).lane = d.lane := rfl
@[simp] theorem Dev.setPort_svc (d : Dev) (p : Nat) (f : PortState → PortState) : (d.setPort p f).svc = d.svc := rfl
@[simp] theorem Dev.setPort_loop (d : Dev) (p : Nat) (f : PortState → PortState) : (d.setPort p f).loop = d.loop := rfl
@[simp] theorem Dev.setPort_adc (d : Dev) (p : Nat) (f : PortState → PortState) : (d.setPort p f).adc = d.adc := rfl
@[simp] theorem Dev.setPort_rcd (d : Dev) (p : Nat) (f : PortState → PortState) : (d.setPort p f).rcd = d.rcd := rfl
@[simp] theorem Dev.setPort_mem (d : Dev) (p : Nat) (f : PortState → PortState) : (d.setPort p f).mem = d.mem := rfl
@[simp] theorem Dev.setPort_dpx (d : Dev) (p : Nat) (f : PortState → PortState) : (d.setPort p f).dpx = d.dpx := rfl
@[simp] theorem Dev.setPort_diag (d : Dev) (p : Nat) (f : PortState → PortState) : (d.setPort p f).diag = d.diag := rfl
@[simp] theorem Dev.setPort_rlatch (d : Dev) (p : Nat) (f : PortState → PortState) : (d.setPort p f).rlatch = d.rlatch := rfl
@[simp] theorem Dev.setPort_wlatch (d : Dev) (p : Nat) (f : PortState → PortState) : (d.setPort p f).wlatch = d.wlatch := rfl
@[simp] theorem Dev.setPort_free (d : Dev) (p : Nat) (f : PortState → PortState) : (d.setPort p f).free = d.free := rfl
@[simp] theorem Dev.setPort_out (d : Dev) (p : Nat) (f : PortState → PortState) : (d.setPort p f).out = d.out := rfl

/-! ### setArm -/

@[simp] theorem Dev.setArm_regs (d : Dev) (a : Nat) (f : ArmCtl → ArmCtl) : (d.setArm a f).regs = d.regs := rfl
@[simp] theorem Dev.setArm_time (d : Dev) (a : Nat) (f : ArmCtl → ArmCtl) : (d.setArm a f).time = d.time := rfl
@[simp] theorem Dev.setArm_ptp (d : Dev) (a : Nat) (f : ArmCtl → ArmCtl) : (d.setArm a f).ptp = d.ptp := rfl
@[simp] theorem Dev.setArm_cyc (d : Dev) (a : Nat) (f : ArmCtl → ArmCtl) : (d.setArm a f).cyc = d.cyc := rfl
@[simp] theorem Dev.setArm_rst (d : Dev) (a : Nat) (f : ArmCtl → ArmCtl) : (d.setArm a f).rst = d.rst := rfl
@[simp] theorem Dev.setArm_clk (d : Dev) (a : Nat) (f : ArmCtl → ArmCtl) : (d.setArm a f).clk = d.clk := rfl
@[simp] theorem Dev.setArm_hif (d : Dev) (a : Nat) (f : ArmCtl → ArmCtl) : (d.setArm a f).hif = d.hif := rfl
@[simp] theorem Dev.setArm_ep (d : Dev) (a : Nat) (f : ArmCtl → ArmCtl) : (d.setArm a f).ep = d.ep := rfl
@[simp] theorem Dev.setArm_aud (d : Dev) (a : Nat) (f : ArmCtl → ArmCtl) : (d.setArm a f).aud = d.aud := rfl
@[simp] theorem Dev.setArm_sec (d : Dev) (a : Nat) (f : ArmCtl → ArmCtl) : (d.setArm a f).sec = d.sec := rfl
@[simp] theorem Dev.setArm_ports (d : Dev) (a : Nat) (f : ArmCtl → ArmCtl) : (d.setArm a f).ports = d.ports := rfl
@[simp] theorem Dev.setArm_sch (d : Dev) (a : Nat) (f : ArmCtl → ArmCtl) : (d.setArm a f).sch = d.sch := rfl
@[simp] theorem Dev.setArm_saf (d : Dev) (a : Nat) (f : ArmCtl → ArmCtl) : (d.setArm a f).saf = d.saf := rfl
@[simp] theorem Dev.setArm_lane (d : Dev) (a : Nat) (f : ArmCtl → ArmCtl) : (d.setArm a f).lane = d.lane := rfl
@[simp] theorem Dev.setArm_svc (d : Dev) (a : Nat) (f : ArmCtl → ArmCtl) : (d.setArm a f).svc = d.svc := rfl
@[simp] theorem Dev.setArm_loop (d : Dev) (a : Nat) (f : ArmCtl → ArmCtl) : (d.setArm a f).loop = d.loop := rfl
@[simp] theorem Dev.setArm_adc (d : Dev) (a : Nat) (f : ArmCtl → ArmCtl) : (d.setArm a f).adc = d.adc := rfl
@[simp] theorem Dev.setArm_rcd (d : Dev) (a : Nat) (f : ArmCtl → ArmCtl) : (d.setArm a f).rcd = d.rcd := rfl
@[simp] theorem Dev.setArm_mem (d : Dev) (a : Nat) (f : ArmCtl → ArmCtl) : (d.setArm a f).mem = d.mem := rfl
@[simp] theorem Dev.setArm_dpx (d : Dev) (a : Nat) (f : ArmCtl → ArmCtl) : (d.setArm a f).dpx = d.dpx := rfl
@[simp] theorem Dev.setArm_diag (d : Dev) (a : Nat) (f : ArmCtl → ArmCtl) : (d.setArm a f).diag = d.diag := rfl
@[simp] theorem Dev.setArm_rlatch (d : Dev) (a : Nat) (f : ArmCtl → ArmCtl) : (d.setArm a f).rlatch = d.rlatch := rfl
@[simp] theorem Dev.setArm_wlatch (d : Dev) (a : Nat) (f : ArmCtl → ArmCtl) : (d.setArm a f).wlatch = d.wlatch := rfl
@[simp] theorem Dev.setArm_free (d : Dev) (a : Nat) (f : ArmCtl → ArmCtl) : (d.setArm a f).free = d.free := rfl
@[simp] theorem Dev.setArm_out (d : Dev) (a : Nat) (f : ArmCtl → ArmCtl) : (d.setArm a f).out = d.out := rfl

/-! ### setLoop -/

@[simp] theorem Dev.setLoop_regs (d : Dev) (f : LoopState → LoopState) : (d.setLoop f).regs = d.regs := rfl
@[simp] theorem Dev.setLoop_time (d : Dev) (f : LoopState → LoopState) : (d.setLoop f).time = d.time := rfl
@[simp] theorem Dev.setLoop_ptp (d : Dev) (f : LoopState → LoopState) : (d.setLoop f).ptp = d.ptp := rfl
@[simp] theorem Dev.setLoop_cyc (d : Dev) (f : LoopState → LoopState) : (d.setLoop f).cyc = d.cyc := rfl
@[simp] theorem Dev.setLoop_rst (d : Dev) (f : LoopState → LoopState) : (d.setLoop f).rst = d.rst := rfl
@[simp] theorem Dev.setLoop_clk (d : Dev) (f : LoopState → LoopState) : (d.setLoop f).clk = d.clk := rfl
@[simp] theorem Dev.setLoop_hif (d : Dev) (f : LoopState → LoopState) : (d.setLoop f).hif = d.hif := rfl
@[simp] theorem Dev.setLoop_ep (d : Dev) (f : LoopState → LoopState) : (d.setLoop f).ep = d.ep := rfl
@[simp] theorem Dev.setLoop_aud (d : Dev) (f : LoopState → LoopState) : (d.setLoop f).aud = d.aud := rfl
@[simp] theorem Dev.setLoop_sec (d : Dev) (f : LoopState → LoopState) : (d.setLoop f).sec = d.sec := rfl
@[simp] theorem Dev.setLoop_ports (d : Dev) (f : LoopState → LoopState) : (d.setLoop f).ports = d.ports := rfl
@[simp] theorem Dev.setLoop_arms (d : Dev) (f : LoopState → LoopState) : (d.setLoop f).arms = d.arms := rfl
@[simp] theorem Dev.setLoop_sch (d : Dev) (f : LoopState → LoopState) : (d.setLoop f).sch = d.sch := rfl
@[simp] theorem Dev.setLoop_saf (d : Dev) (f : LoopState → LoopState) : (d.setLoop f).saf = d.saf := rfl
@[simp] theorem Dev.setLoop_lane (d : Dev) (f : LoopState → LoopState) : (d.setLoop f).lane = d.lane := rfl
@[simp] theorem Dev.setLoop_svc (d : Dev) (f : LoopState → LoopState) : (d.setLoop f).svc = d.svc := rfl
@[simp] theorem Dev.setLoop_adc (d : Dev) (f : LoopState → LoopState) : (d.setLoop f).adc = d.adc := rfl
@[simp] theorem Dev.setLoop_rcd (d : Dev) (f : LoopState → LoopState) : (d.setLoop f).rcd = d.rcd := rfl
@[simp] theorem Dev.setLoop_mem (d : Dev) (f : LoopState → LoopState) : (d.setLoop f).mem = d.mem := rfl
@[simp] theorem Dev.setLoop_dpx (d : Dev) (f : LoopState → LoopState) : (d.setLoop f).dpx = d.dpx := rfl
@[simp] theorem Dev.setLoop_diag (d : Dev) (f : LoopState → LoopState) : (d.setLoop f).diag = d.diag := rfl
@[simp] theorem Dev.setLoop_rlatch (d : Dev) (f : LoopState → LoopState) : (d.setLoop f).rlatch = d.rlatch := rfl
@[simp] theorem Dev.setLoop_wlatch (d : Dev) (f : LoopState → LoopState) : (d.setLoop f).wlatch = d.wlatch := rfl
@[simp] theorem Dev.setLoop_free (d : Dev) (f : LoopState → LoopState) : (d.setLoop f).free = d.free := rfl
@[simp] theorem Dev.setLoop_out (d : Dev) (f : LoopState → LoopState) : (d.setLoop f).out = d.out := rfl

/-! ### setSaf -/

@[simp] theorem Dev.setSaf_regs (d : Dev) (f : SafState → SafState) : (d.setSaf f).regs = d.regs := rfl
@[simp] theorem Dev.setSaf_time (d : Dev) (f : SafState → SafState) : (d.setSaf f).time = d.time := rfl
@[simp] theorem Dev.setSaf_ptp (d : Dev) (f : SafState → SafState) : (d.setSaf f).ptp = d.ptp := rfl
@[simp] theorem Dev.setSaf_cyc (d : Dev) (f : SafState → SafState) : (d.setSaf f).cyc = d.cyc := rfl
@[simp] theorem Dev.setSaf_rst (d : Dev) (f : SafState → SafState) : (d.setSaf f).rst = d.rst := rfl
@[simp] theorem Dev.setSaf_clk (d : Dev) (f : SafState → SafState) : (d.setSaf f).clk = d.clk := rfl
@[simp] theorem Dev.setSaf_hif (d : Dev) (f : SafState → SafState) : (d.setSaf f).hif = d.hif := rfl
@[simp] theorem Dev.setSaf_ep (d : Dev) (f : SafState → SafState) : (d.setSaf f).ep = d.ep := rfl
@[simp] theorem Dev.setSaf_aud (d : Dev) (f : SafState → SafState) : (d.setSaf f).aud = d.aud := rfl
@[simp] theorem Dev.setSaf_sec (d : Dev) (f : SafState → SafState) : (d.setSaf f).sec = d.sec := rfl
@[simp] theorem Dev.setSaf_ports (d : Dev) (f : SafState → SafState) : (d.setSaf f).ports = d.ports := rfl
@[simp] theorem Dev.setSaf_arms (d : Dev) (f : SafState → SafState) : (d.setSaf f).arms = d.arms := rfl
@[simp] theorem Dev.setSaf_sch (d : Dev) (f : SafState → SafState) : (d.setSaf f).sch = d.sch := rfl
@[simp] theorem Dev.setSaf_lane (d : Dev) (f : SafState → SafState) : (d.setSaf f).lane = d.lane := rfl
@[simp] theorem Dev.setSaf_svc (d : Dev) (f : SafState → SafState) : (d.setSaf f).svc = d.svc := rfl
@[simp] theorem Dev.setSaf_loop (d : Dev) (f : SafState → SafState) : (d.setSaf f).loop = d.loop := rfl
@[simp] theorem Dev.setSaf_adc (d : Dev) (f : SafState → SafState) : (d.setSaf f).adc = d.adc := rfl
@[simp] theorem Dev.setSaf_rcd (d : Dev) (f : SafState → SafState) : (d.setSaf f).rcd = d.rcd := rfl
@[simp] theorem Dev.setSaf_mem (d : Dev) (f : SafState → SafState) : (d.setSaf f).mem = d.mem := rfl
@[simp] theorem Dev.setSaf_dpx (d : Dev) (f : SafState → SafState) : (d.setSaf f).dpx = d.dpx := rfl
@[simp] theorem Dev.setSaf_diag (d : Dev) (f : SafState → SafState) : (d.setSaf f).diag = d.diag := rfl
@[simp] theorem Dev.setSaf_rlatch (d : Dev) (f : SafState → SafState) : (d.setSaf f).rlatch = d.rlatch := rfl
@[simp] theorem Dev.setSaf_wlatch (d : Dev) (f : SafState → SafState) : (d.setSaf f).wlatch = d.wlatch := rfl
@[simp] theorem Dev.setSaf_free (d : Dev) (f : SafState → SafState) : (d.setSaf f).free = d.free := rfl
@[simp] theorem Dev.setSaf_out (d : Dev) (f : SafState → SafState) : (d.setSaf f).out = d.out := rfl

/-! ### setHif -/

@[simp] theorem Dev.setHif_regs (d : Dev) (f : HifState → HifState) : (d.setHif f).regs = d.regs := rfl
@[simp] theorem Dev.setHif_time (d : Dev) (f : HifState → HifState) : (d.setHif f).time = d.time := rfl
@[simp] theorem Dev.setHif_ptp (d : Dev) (f : HifState → HifState) : (d.setHif f).ptp = d.ptp := rfl
@[simp] theorem Dev.setHif_cyc (d : Dev) (f : HifState → HifState) : (d.setHif f).cyc = d.cyc := rfl
@[simp] theorem Dev.setHif_rst (d : Dev) (f : HifState → HifState) : (d.setHif f).rst = d.rst := rfl
@[simp] theorem Dev.setHif_clk (d : Dev) (f : HifState → HifState) : (d.setHif f).clk = d.clk := rfl
@[simp] theorem Dev.setHif_ep (d : Dev) (f : HifState → HifState) : (d.setHif f).ep = d.ep := rfl
@[simp] theorem Dev.setHif_aud (d : Dev) (f : HifState → HifState) : (d.setHif f).aud = d.aud := rfl
@[simp] theorem Dev.setHif_sec (d : Dev) (f : HifState → HifState) : (d.setHif f).sec = d.sec := rfl
@[simp] theorem Dev.setHif_ports (d : Dev) (f : HifState → HifState) : (d.setHif f).ports = d.ports := rfl
@[simp] theorem Dev.setHif_arms (d : Dev) (f : HifState → HifState) : (d.setHif f).arms = d.arms := rfl
@[simp] theorem Dev.setHif_sch (d : Dev) (f : HifState → HifState) : (d.setHif f).sch = d.sch := rfl
@[simp] theorem Dev.setHif_saf (d : Dev) (f : HifState → HifState) : (d.setHif f).saf = d.saf := rfl
@[simp] theorem Dev.setHif_lane (d : Dev) (f : HifState → HifState) : (d.setHif f).lane = d.lane := rfl
@[simp] theorem Dev.setHif_svc (d : Dev) (f : HifState → HifState) : (d.setHif f).svc = d.svc := rfl
@[simp] theorem Dev.setHif_loop (d : Dev) (f : HifState → HifState) : (d.setHif f).loop = d.loop := rfl
@[simp] theorem Dev.setHif_adc (d : Dev) (f : HifState → HifState) : (d.setHif f).adc = d.adc := rfl
@[simp] theorem Dev.setHif_rcd (d : Dev) (f : HifState → HifState) : (d.setHif f).rcd = d.rcd := rfl
@[simp] theorem Dev.setHif_mem (d : Dev) (f : HifState → HifState) : (d.setHif f).mem = d.mem := rfl
@[simp] theorem Dev.setHif_dpx (d : Dev) (f : HifState → HifState) : (d.setHif f).dpx = d.dpx := rfl
@[simp] theorem Dev.setHif_diag (d : Dev) (f : HifState → HifState) : (d.setHif f).diag = d.diag := rfl
@[simp] theorem Dev.setHif_rlatch (d : Dev) (f : HifState → HifState) : (d.setHif f).rlatch = d.rlatch := rfl
@[simp] theorem Dev.setHif_wlatch (d : Dev) (f : HifState → HifState) : (d.setHif f).wlatch = d.wlatch := rfl
@[simp] theorem Dev.setHif_free (d : Dev) (f : HifState → HifState) : (d.setHif f).free = d.free := rfl
@[simp] theorem Dev.setHif_out (d : Dev) (f : HifState → HifState) : (d.setHif f).out = d.out := rfl

/-! ### setSvc -/

@[simp] theorem Dev.setSvc_regs (d : Dev) (f : SvcState → SvcState) : (d.setSvc f).regs = d.regs := rfl
@[simp] theorem Dev.setSvc_time (d : Dev) (f : SvcState → SvcState) : (d.setSvc f).time = d.time := rfl
@[simp] theorem Dev.setSvc_ptp (d : Dev) (f : SvcState → SvcState) : (d.setSvc f).ptp = d.ptp := rfl
@[simp] theorem Dev.setSvc_cyc (d : Dev) (f : SvcState → SvcState) : (d.setSvc f).cyc = d.cyc := rfl
@[simp] theorem Dev.setSvc_rst (d : Dev) (f : SvcState → SvcState) : (d.setSvc f).rst = d.rst := rfl
@[simp] theorem Dev.setSvc_clk (d : Dev) (f : SvcState → SvcState) : (d.setSvc f).clk = d.clk := rfl
@[simp] theorem Dev.setSvc_hif (d : Dev) (f : SvcState → SvcState) : (d.setSvc f).hif = d.hif := rfl
@[simp] theorem Dev.setSvc_ep (d : Dev) (f : SvcState → SvcState) : (d.setSvc f).ep = d.ep := rfl
@[simp] theorem Dev.setSvc_aud (d : Dev) (f : SvcState → SvcState) : (d.setSvc f).aud = d.aud := rfl
@[simp] theorem Dev.setSvc_sec (d : Dev) (f : SvcState → SvcState) : (d.setSvc f).sec = d.sec := rfl
@[simp] theorem Dev.setSvc_ports (d : Dev) (f : SvcState → SvcState) : (d.setSvc f).ports = d.ports := rfl
@[simp] theorem Dev.setSvc_arms (d : Dev) (f : SvcState → SvcState) : (d.setSvc f).arms = d.arms := rfl
@[simp] theorem Dev.setSvc_sch (d : Dev) (f : SvcState → SvcState) : (d.setSvc f).sch = d.sch := rfl
@[simp] theorem Dev.setSvc_saf (d : Dev) (f : SvcState → SvcState) : (d.setSvc f).saf = d.saf := rfl
@[simp] theorem Dev.setSvc_lane (d : Dev) (f : SvcState → SvcState) : (d.setSvc f).lane = d.lane := rfl
@[simp] theorem Dev.setSvc_loop (d : Dev) (f : SvcState → SvcState) : (d.setSvc f).loop = d.loop := rfl
@[simp] theorem Dev.setSvc_adc (d : Dev) (f : SvcState → SvcState) : (d.setSvc f).adc = d.adc := rfl
@[simp] theorem Dev.setSvc_rcd (d : Dev) (f : SvcState → SvcState) : (d.setSvc f).rcd = d.rcd := rfl
@[simp] theorem Dev.setSvc_mem (d : Dev) (f : SvcState → SvcState) : (d.setSvc f).mem = d.mem := rfl
@[simp] theorem Dev.setSvc_dpx (d : Dev) (f : SvcState → SvcState) : (d.setSvc f).dpx = d.dpx := rfl
@[simp] theorem Dev.setSvc_diag (d : Dev) (f : SvcState → SvcState) : (d.setSvc f).diag = d.diag := rfl
@[simp] theorem Dev.setSvc_rlatch (d : Dev) (f : SvcState → SvcState) : (d.setSvc f).rlatch = d.rlatch := rfl
@[simp] theorem Dev.setSvc_wlatch (d : Dev) (f : SvcState → SvcState) : (d.setSvc f).wlatch = d.wlatch := rfl
@[simp] theorem Dev.setSvc_free (d : Dev) (f : SvcState → SvcState) : (d.setSvc f).free = d.free := rfl
@[simp] theorem Dev.setSvc_out (d : Dev) (f : SvcState → SvcState) : (d.setSvc f).out = d.out := rfl

/-! ### setDpx -/

@[simp] theorem Dev.setDpx_regs (d : Dev) (f : DpxState → DpxState) : (d.setDpx f).regs = d.regs := rfl
@[simp] theorem Dev.setDpx_time (d : Dev) (f : DpxState → DpxState) : (d.setDpx f).time = d.time := rfl
@[simp] theorem Dev.setDpx_ptp (d : Dev) (f : DpxState → DpxState) : (d.setDpx f).ptp = d.ptp := rfl
@[simp] theorem Dev.setDpx_cyc (d : Dev) (f : DpxState → DpxState) : (d.setDpx f).cyc = d.cyc := rfl
@[simp] theorem Dev.setDpx_rst (d : Dev) (f : DpxState → DpxState) : (d.setDpx f).rst = d.rst := rfl
@[simp] theorem Dev.setDpx_clk (d : Dev) (f : DpxState → DpxState) : (d.setDpx f).clk = d.clk := rfl
@[simp] theorem Dev.setDpx_hif (d : Dev) (f : DpxState → DpxState) : (d.setDpx f).hif = d.hif := rfl
@[simp] theorem Dev.setDpx_ep (d : Dev) (f : DpxState → DpxState) : (d.setDpx f).ep = d.ep := rfl
@[simp] theorem Dev.setDpx_aud (d : Dev) (f : DpxState → DpxState) : (d.setDpx f).aud = d.aud := rfl
@[simp] theorem Dev.setDpx_sec (d : Dev) (f : DpxState → DpxState) : (d.setDpx f).sec = d.sec := rfl
@[simp] theorem Dev.setDpx_ports (d : Dev) (f : DpxState → DpxState) : (d.setDpx f).ports = d.ports := rfl
@[simp] theorem Dev.setDpx_arms (d : Dev) (f : DpxState → DpxState) : (d.setDpx f).arms = d.arms := rfl
@[simp] theorem Dev.setDpx_sch (d : Dev) (f : DpxState → DpxState) : (d.setDpx f).sch = d.sch := rfl
@[simp] theorem Dev.setDpx_saf (d : Dev) (f : DpxState → DpxState) : (d.setDpx f).saf = d.saf := rfl
@[simp] theorem Dev.setDpx_lane (d : Dev) (f : DpxState → DpxState) : (d.setDpx f).lane = d.lane := rfl
@[simp] theorem Dev.setDpx_svc (d : Dev) (f : DpxState → DpxState) : (d.setDpx f).svc = d.svc := rfl
@[simp] theorem Dev.setDpx_loop (d : Dev) (f : DpxState → DpxState) : (d.setDpx f).loop = d.loop := rfl
@[simp] theorem Dev.setDpx_adc (d : Dev) (f : DpxState → DpxState) : (d.setDpx f).adc = d.adc := rfl
@[simp] theorem Dev.setDpx_rcd (d : Dev) (f : DpxState → DpxState) : (d.setDpx f).rcd = d.rcd := rfl
@[simp] theorem Dev.setDpx_mem (d : Dev) (f : DpxState → DpxState) : (d.setDpx f).mem = d.mem := rfl
@[simp] theorem Dev.setDpx_diag (d : Dev) (f : DpxState → DpxState) : (d.setDpx f).diag = d.diag := rfl
@[simp] theorem Dev.setDpx_rlatch (d : Dev) (f : DpxState → DpxState) : (d.setDpx f).rlatch = d.rlatch := rfl
@[simp] theorem Dev.setDpx_wlatch (d : Dev) (f : DpxState → DpxState) : (d.setDpx f).wlatch = d.wlatch := rfl
@[simp] theorem Dev.setDpx_free (d : Dev) (f : DpxState → DpxState) : (d.setDpx f).free = d.free := rfl
@[simp] theorem Dev.setDpx_out (d : Dev) (f : DpxState → DpxState) : (d.setDpx f).out = d.out := rfl

/-! ### setCyc -/

@[simp] theorem Dev.setCyc_regs (d : Dev) (f : CycState → CycState) : (d.setCyc f).regs = d.regs := rfl
@[simp] theorem Dev.setCyc_time (d : Dev) (f : CycState → CycState) : (d.setCyc f).time = d.time := rfl
@[simp] theorem Dev.setCyc_ptp (d : Dev) (f : CycState → CycState) : (d.setCyc f).ptp = d.ptp := rfl
@[simp] theorem Dev.setCyc_rst (d : Dev) (f : CycState → CycState) : (d.setCyc f).rst = d.rst := rfl
@[simp] theorem Dev.setCyc_clk (d : Dev) (f : CycState → CycState) : (d.setCyc f).clk = d.clk := rfl
@[simp] theorem Dev.setCyc_hif (d : Dev) (f : CycState → CycState) : (d.setCyc f).hif = d.hif := rfl
@[simp] theorem Dev.setCyc_ep (d : Dev) (f : CycState → CycState) : (d.setCyc f).ep = d.ep := rfl
@[simp] theorem Dev.setCyc_aud (d : Dev) (f : CycState → CycState) : (d.setCyc f).aud = d.aud := rfl
@[simp] theorem Dev.setCyc_sec (d : Dev) (f : CycState → CycState) : (d.setCyc f).sec = d.sec := rfl
@[simp] theorem Dev.setCyc_ports (d : Dev) (f : CycState → CycState) : (d.setCyc f).ports = d.ports := rfl
@[simp] theorem Dev.setCyc_arms (d : Dev) (f : CycState → CycState) : (d.setCyc f).arms = d.arms := rfl
@[simp] theorem Dev.setCyc_sch (d : Dev) (f : CycState → CycState) : (d.setCyc f).sch = d.sch := rfl
@[simp] theorem Dev.setCyc_saf (d : Dev) (f : CycState → CycState) : (d.setCyc f).saf = d.saf := rfl
@[simp] theorem Dev.setCyc_lane (d : Dev) (f : CycState → CycState) : (d.setCyc f).lane = d.lane := rfl
@[simp] theorem Dev.setCyc_svc (d : Dev) (f : CycState → CycState) : (d.setCyc f).svc = d.svc := rfl
@[simp] theorem Dev.setCyc_loop (d : Dev) (f : CycState → CycState) : (d.setCyc f).loop = d.loop := rfl
@[simp] theorem Dev.setCyc_adc (d : Dev) (f : CycState → CycState) : (d.setCyc f).adc = d.adc := rfl
@[simp] theorem Dev.setCyc_rcd (d : Dev) (f : CycState → CycState) : (d.setCyc f).rcd = d.rcd := rfl
@[simp] theorem Dev.setCyc_mem (d : Dev) (f : CycState → CycState) : (d.setCyc f).mem = d.mem := rfl
@[simp] theorem Dev.setCyc_dpx (d : Dev) (f : CycState → CycState) : (d.setCyc f).dpx = d.dpx := rfl
@[simp] theorem Dev.setCyc_diag (d : Dev) (f : CycState → CycState) : (d.setCyc f).diag = d.diag := rfl
@[simp] theorem Dev.setCyc_rlatch (d : Dev) (f : CycState → CycState) : (d.setCyc f).rlatch = d.rlatch := rfl
@[simp] theorem Dev.setCyc_wlatch (d : Dev) (f : CycState → CycState) : (d.setCyc f).wlatch = d.wlatch := rfl
@[simp] theorem Dev.setCyc_free (d : Dev) (f : CycState → CycState) : (d.setCyc f).free = d.free := rfl
@[simp] theorem Dev.setCyc_out (d : Dev) (f : CycState → CycState) : (d.setCyc f).out = d.out := rfl

/-! ### setDiag -/

@[simp] theorem Dev.setDiag_regs (d : Dev) (f : DiagState → DiagState) : (d.setDiag f).regs = d.regs := rfl
@[simp] theorem Dev.setDiag_time (d : Dev) (f : DiagState → DiagState) : (d.setDiag f).time = d.time := rfl
@[simp] theorem Dev.setDiag_ptp (d : Dev) (f : DiagState → DiagState) : (d.setDiag f).ptp = d.ptp := rfl
@[simp] theorem Dev.setDiag_cyc (d : Dev) (f : DiagState → DiagState) : (d.setDiag f).cyc = d.cyc := rfl
@[simp] theorem Dev.setDiag_rst (d : Dev) (f : DiagState → DiagState) : (d.setDiag f).rst = d.rst := rfl
@[simp] theorem Dev.setDiag_clk (d : Dev) (f : DiagState → DiagState) : (d.setDiag f).clk = d.clk := rfl
@[simp] theorem Dev.setDiag_hif (d : Dev) (f : DiagState → DiagState) : (d.setDiag f).hif = d.hif := rfl
@[simp] theorem Dev.setDiag_ep (d : Dev) (f : DiagState → DiagState) : (d.setDiag f).ep = d.ep := rfl
@[simp] theorem Dev.setDiag_aud (d : Dev) (f : DiagState → DiagState) : (d.setDiag f).aud = d.aud := rfl
@[simp] theorem Dev.setDiag_sec (d : Dev) (f : DiagState → DiagState) : (d.setDiag f).sec = d.sec := rfl
@[simp] theorem Dev.setDiag_ports (d : Dev) (f : DiagState → DiagState) : (d.setDiag f).ports = d.ports := rfl
@[simp] theorem Dev.setDiag_arms (d : Dev) (f : DiagState → DiagState) : (d.setDiag f).arms = d.arms := rfl
@[simp] theorem Dev.setDiag_sch (d : Dev) (f : DiagState → DiagState) : (d.setDiag f).sch = d.sch := rfl
@[simp] theorem Dev.setDiag_saf (d : Dev) (f : DiagState → DiagState) : (d.setDiag f).saf = d.saf := rfl
@[simp] theorem Dev.setDiag_lane (d : Dev) (f : DiagState → DiagState) : (d.setDiag f).lane = d.lane := rfl
@[simp] theorem Dev.setDiag_svc (d : Dev) (f : DiagState → DiagState) : (d.setDiag f).svc = d.svc := rfl
@[simp] theorem Dev.setDiag_loop (d : Dev) (f : DiagState → DiagState) : (d.setDiag f).loop = d.loop := rfl
@[simp] theorem Dev.setDiag_adc (d : Dev) (f : DiagState → DiagState) : (d.setDiag f).adc = d.adc := rfl
@[simp] theorem Dev.setDiag_rcd (d : Dev) (f : DiagState → DiagState) : (d.setDiag f).rcd = d.rcd := rfl
@[simp] theorem Dev.setDiag_mem (d : Dev) (f : DiagState → DiagState) : (d.setDiag f).mem = d.mem := rfl
@[simp] theorem Dev.setDiag_dpx (d : Dev) (f : DiagState → DiagState) : (d.setDiag f).dpx = d.dpx := rfl
@[simp] theorem Dev.setDiag_rlatch (d : Dev) (f : DiagState → DiagState) : (d.setDiag f).rlatch = d.rlatch := rfl
@[simp] theorem Dev.setDiag_wlatch (d : Dev) (f : DiagState → DiagState) : (d.setDiag f).wlatch = d.wlatch := rfl
@[simp] theorem Dev.setDiag_free (d : Dev) (f : DiagState → DiagState) : (d.setDiag f).free = d.free := rfl
@[simp] theorem Dev.setDiag_out (d : Dev) (f : DiagState → DiagState) : (d.setDiag f).out = d.out := rfl

/-! ### setEp -/

@[simp] theorem Dev.setEp_regs (d : Dev) (f : EpochCtl → EpochCtl) : (d.setEp f).regs = d.regs := rfl
@[simp] theorem Dev.setEp_time (d : Dev) (f : EpochCtl → EpochCtl) : (d.setEp f).time = d.time := rfl
@[simp] theorem Dev.setEp_ptp (d : Dev) (f : EpochCtl → EpochCtl) : (d.setEp f).ptp = d.ptp := rfl
@[simp] theorem Dev.setEp_cyc (d : Dev) (f : EpochCtl → EpochCtl) : (d.setEp f).cyc = d.cyc := rfl
@[simp] theorem Dev.setEp_rst (d : Dev) (f : EpochCtl → EpochCtl) : (d.setEp f).rst = d.rst := rfl
@[simp] theorem Dev.setEp_clk (d : Dev) (f : EpochCtl → EpochCtl) : (d.setEp f).clk = d.clk := rfl
@[simp] theorem Dev.setEp_hif (d : Dev) (f : EpochCtl → EpochCtl) : (d.setEp f).hif = d.hif := rfl
@[simp] theorem Dev.setEp_aud (d : Dev) (f : EpochCtl → EpochCtl) : (d.setEp f).aud = d.aud := rfl
@[simp] theorem Dev.setEp_sec (d : Dev) (f : EpochCtl → EpochCtl) : (d.setEp f).sec = d.sec := rfl
@[simp] theorem Dev.setEp_ports (d : Dev) (f : EpochCtl → EpochCtl) : (d.setEp f).ports = d.ports := rfl
@[simp] theorem Dev.setEp_arms (d : Dev) (f : EpochCtl → EpochCtl) : (d.setEp f).arms = d.arms := rfl
@[simp] theorem Dev.setEp_sch (d : Dev) (f : EpochCtl → EpochCtl) : (d.setEp f).sch = d.sch := rfl
@[simp] theorem Dev.setEp_saf (d : Dev) (f : EpochCtl → EpochCtl) : (d.setEp f).saf = d.saf := rfl
@[simp] theorem Dev.setEp_lane (d : Dev) (f : EpochCtl → EpochCtl) : (d.setEp f).lane = d.lane := rfl
@[simp] theorem Dev.setEp_svc (d : Dev) (f : EpochCtl → EpochCtl) : (d.setEp f).svc = d.svc := rfl
@[simp] theorem Dev.setEp_loop (d : Dev) (f : EpochCtl → EpochCtl) : (d.setEp f).loop = d.loop := rfl
@[simp] theorem Dev.setEp_adc (d : Dev) (f : EpochCtl → EpochCtl) : (d.setEp f).adc = d.adc := rfl
@[simp] theorem Dev.setEp_rcd (d : Dev) (f : EpochCtl → EpochCtl) : (d.setEp f).rcd = d.rcd := rfl
@[simp] theorem Dev.setEp_mem (d : Dev) (f : EpochCtl → EpochCtl) : (d.setEp f).mem = d.mem := rfl
@[simp] theorem Dev.setEp_dpx (d : Dev) (f : EpochCtl → EpochCtl) : (d.setEp f).dpx = d.dpx := rfl
@[simp] theorem Dev.setEp_diag (d : Dev) (f : EpochCtl → EpochCtl) : (d.setEp f).diag = d.diag := rfl
@[simp] theorem Dev.setEp_rlatch (d : Dev) (f : EpochCtl → EpochCtl) : (d.setEp f).rlatch = d.rlatch := rfl
@[simp] theorem Dev.setEp_wlatch (d : Dev) (f : EpochCtl → EpochCtl) : (d.setEp f).wlatch = d.wlatch := rfl
@[simp] theorem Dev.setEp_free (d : Dev) (f : EpochCtl → EpochCtl) : (d.setEp f).free = d.free := rfl
@[simp] theorem Dev.setEp_out (d : Dev) (f : EpochCtl → EpochCtl) : (d.setEp f).out = d.out := rfl

/-! ### setClk -/

@[simp] theorem Dev.setClk_regs (d : Dev) (f : ClkState → ClkState) : (d.setClk f).regs = d.regs := rfl
@[simp] theorem Dev.setClk_time (d : Dev) (f : ClkState → ClkState) : (d.setClk f).time = d.time := rfl
@[simp] theorem Dev.setClk_ptp (d : Dev) (f : ClkState → ClkState) : (d.setClk f).ptp = d.ptp := rfl
@[simp] theorem Dev.setClk_cyc (d : Dev) (f : ClkState → ClkState) : (d.setClk f).cyc = d.cyc := rfl
@[simp] theorem Dev.setClk_rst (d : Dev) (f : ClkState → ClkState) : (d.setClk f).rst = d.rst := rfl
@[simp] theorem Dev.setClk_hif (d : Dev) (f : ClkState → ClkState) : (d.setClk f).hif = d.hif := rfl
@[simp] theorem Dev.setClk_ep (d : Dev) (f : ClkState → ClkState) : (d.setClk f).ep = d.ep := rfl
@[simp] theorem Dev.setClk_aud (d : Dev) (f : ClkState → ClkState) : (d.setClk f).aud = d.aud := rfl
@[simp] theorem Dev.setClk_sec (d : Dev) (f : ClkState → ClkState) : (d.setClk f).sec = d.sec := rfl
@[simp] theorem Dev.setClk_ports (d : Dev) (f : ClkState → ClkState) : (d.setClk f).ports = d.ports := rfl
@[simp] theorem Dev.setClk_arms (d : Dev) (f : ClkState → ClkState) : (d.setClk f).arms = d.arms := rfl
@[simp] theorem Dev.setClk_sch (d : Dev) (f : ClkState → ClkState) : (d.setClk f).sch = d.sch := rfl
@[simp] theorem Dev.setClk_saf (d : Dev) (f : ClkState → ClkState) : (d.setClk f).saf = d.saf := rfl
@[simp] theorem Dev.setClk_lane (d : Dev) (f : ClkState → ClkState) : (d.setClk f).lane = d.lane := rfl
@[simp] theorem Dev.setClk_svc (d : Dev) (f : ClkState → ClkState) : (d.setClk f).svc = d.svc := rfl
@[simp] theorem Dev.setClk_loop (d : Dev) (f : ClkState → ClkState) : (d.setClk f).loop = d.loop := rfl
@[simp] theorem Dev.setClk_adc (d : Dev) (f : ClkState → ClkState) : (d.setClk f).adc = d.adc := rfl
@[simp] theorem Dev.setClk_rcd (d : Dev) (f : ClkState → ClkState) : (d.setClk f).rcd = d.rcd := rfl
@[simp] theorem Dev.setClk_mem (d : Dev) (f : ClkState → ClkState) : (d.setClk f).mem = d.mem := rfl
@[simp] theorem Dev.setClk_dpx (d : Dev) (f : ClkState → ClkState) : (d.setClk f).dpx = d.dpx := rfl
@[simp] theorem Dev.setClk_diag (d : Dev) (f : ClkState → ClkState) : (d.setClk f).diag = d.diag := rfl
@[simp] theorem Dev.setClk_rlatch (d : Dev) (f : ClkState → ClkState) : (d.setClk f).rlatch = d.rlatch := rfl
@[simp] theorem Dev.setClk_wlatch (d : Dev) (f : ClkState → ClkState) : (d.setClk f).wlatch = d.wlatch := rfl
@[simp] theorem Dev.setClk_free (d : Dev) (f : ClkState → ClkState) : (d.setClk f).free = d.free := rfl
@[simp] theorem Dev.setClk_out (d : Dev) (f : ClkState → ClkState) : (d.setClk f).out = d.out := rfl

/-! ### setMem -/

@[simp] theorem Dev.setMem_regs (d : Dev) (f : MemState → MemState) : (d.setMem f).regs = d.regs := rfl
@[simp] theorem Dev.setMem_time (d : Dev) (f : MemState → MemState) : (d.setMem f).time = d.time := rfl
@[simp] theorem Dev.setMem_ptp (d : Dev) (f : MemState → MemState) : (d.setMem f).ptp = d.ptp := rfl
@[simp] theorem Dev.setMem_cyc (d : Dev) (f : MemState → MemState) : (d.setMem f).cyc = d.cyc := rfl
@[simp] theorem Dev.setMem_rst (d : Dev) (f : MemState → MemState) : (d.setMem f).rst = d.rst := rfl
@[simp] theorem Dev.setMem_clk (d : Dev) (f : MemState → MemState) : (d.setMem f).clk = d.clk := rfl
@[simp] theorem Dev.setMem_hif (d : Dev) (f : MemState → MemState) : (d.setMem f).hif = d.hif := rfl
@[simp] theorem Dev.setMem_ep (d : Dev) (f : MemState → MemState) : (d.setMem f).ep = d.ep := rfl
@[simp] theorem Dev.setMem_aud (d : Dev) (f : MemState → MemState) : (d.setMem f).aud = d.aud := rfl
@[simp] theorem Dev.setMem_sec (d : Dev) (f : MemState → MemState) : (d.setMem f).sec = d.sec := rfl
@[simp] theorem Dev.setMem_ports (d : Dev) (f : MemState → MemState) : (d.setMem f).ports = d.ports := rfl
@[simp] theorem Dev.setMem_arms (d : Dev) (f : MemState → MemState) : (d.setMem f).arms = d.arms := rfl
@[simp] theorem Dev.setMem_sch (d : Dev) (f : MemState → MemState) : (d.setMem f).sch = d.sch := rfl
@[simp] theorem Dev.setMem_saf (d : Dev) (f : MemState → MemState) : (d.setMem f).saf = d.saf := rfl
@[simp] theorem Dev.setMem_lane (d : Dev) (f : MemState → MemState) : (d.setMem f).lane = d.lane := rfl
@[simp] theorem Dev.setMem_svc (d : Dev) (f : MemState → MemState) : (d.setMem f).svc = d.svc := rfl
@[simp] theorem Dev.setMem_loop (d : Dev) (f : MemState → MemState) : (d.setMem f).loop = d.loop := rfl
@[simp] theorem Dev.setMem_adc (d : Dev) (f : MemState → MemState) : (d.setMem f).adc = d.adc := rfl
@[simp] theorem Dev.setMem_rcd (d : Dev) (f : MemState → MemState) : (d.setMem f).rcd = d.rcd := rfl
@[simp] theorem Dev.setMem_dpx (d : Dev) (f : MemState → MemState) : (d.setMem f).dpx = d.dpx := rfl
@[simp] theorem Dev.setMem_diag (d : Dev) (f : MemState → MemState) : (d.setMem f).diag = d.diag := rfl
@[simp] theorem Dev.setMem_rlatch (d : Dev) (f : MemState → MemState) : (d.setMem f).rlatch = d.rlatch := rfl
@[simp] theorem Dev.setMem_wlatch (d : Dev) (f : MemState → MemState) : (d.setMem f).wlatch = d.wlatch := rfl
@[simp] theorem Dev.setMem_free (d : Dev) (f : MemState → MemState) : (d.setMem f).free = d.free := rfl
@[simp] theorem Dev.setMem_out (d : Dev) (f : MemState → MemState) : (d.setMem f).out = d.out := rfl

/-! ### setSec -/

@[simp] theorem Dev.setSec_regs (d : Dev) (f : SecState → SecState) : (d.setSec f).regs = d.regs := rfl
@[simp] theorem Dev.setSec_time (d : Dev) (f : SecState → SecState) : (d.setSec f).time = d.time := rfl
@[simp] theorem Dev.setSec_ptp (d : Dev) (f : SecState → SecState) : (d.setSec f).ptp = d.ptp := rfl
@[simp] theorem Dev.setSec_cyc (d : Dev) (f : SecState → SecState) : (d.setSec f).cyc = d.cyc := rfl
@[simp] theorem Dev.setSec_rst (d : Dev) (f : SecState → SecState) : (d.setSec f).rst = d.rst := rfl
@[simp] theorem Dev.setSec_clk (d : Dev) (f : SecState → SecState) : (d.setSec f).clk = d.clk := rfl
@[simp] theorem Dev.setSec_hif (d : Dev) (f : SecState → SecState) : (d.setSec f).hif = d.hif := rfl
@[simp] theorem Dev.setSec_ep (d : Dev) (f : SecState → SecState) : (d.setSec f).ep = d.ep := rfl
@[simp] theorem Dev.setSec_aud (d : Dev) (f : SecState → SecState) : (d.setSec f).aud = d.aud := rfl
@[simp] theorem Dev.setSec_ports (d : Dev) (f : SecState → SecState) : (d.setSec f).ports = d.ports := rfl
@[simp] theorem Dev.setSec_arms (d : Dev) (f : SecState → SecState) : (d.setSec f).arms = d.arms := rfl
@[simp] theorem Dev.setSec_sch (d : Dev) (f : SecState → SecState) : (d.setSec f).sch = d.sch := rfl
@[simp] theorem Dev.setSec_saf (d : Dev) (f : SecState → SecState) : (d.setSec f).saf = d.saf := rfl
@[simp] theorem Dev.setSec_lane (d : Dev) (f : SecState → SecState) : (d.setSec f).lane = d.lane := rfl
@[simp] theorem Dev.setSec_svc (d : Dev) (f : SecState → SecState) : (d.setSec f).svc = d.svc := rfl
@[simp] theorem Dev.setSec_loop (d : Dev) (f : SecState → SecState) : (d.setSec f).loop = d.loop := rfl
@[simp] theorem Dev.setSec_adc (d : Dev) (f : SecState → SecState) : (d.setSec f).adc = d.adc := rfl
@[simp] theorem Dev.setSec_rcd (d : Dev) (f : SecState → SecState) : (d.setSec f).rcd = d.rcd := rfl
@[simp] theorem Dev.setSec_mem (d : Dev) (f : SecState → SecState) : (d.setSec f).mem = d.mem := rfl
@[simp] theorem Dev.setSec_dpx (d : Dev) (f : SecState → SecState) : (d.setSec f).dpx = d.dpx := rfl
@[simp] theorem Dev.setSec_diag (d : Dev) (f : SecState → SecState) : (d.setSec f).diag = d.diag := rfl
@[simp] theorem Dev.setSec_rlatch (d : Dev) (f : SecState → SecState) : (d.setSec f).rlatch = d.rlatch := rfl
@[simp] theorem Dev.setSec_wlatch (d : Dev) (f : SecState → SecState) : (d.setSec f).wlatch = d.wlatch := rfl
@[simp] theorem Dev.setSec_free (d : Dev) (f : SecState → SecState) : (d.setSec f).free = d.free := rfl
@[simp] theorem Dev.setSec_out (d : Dev) (f : SecState → SecState) : (d.setSec f).out = d.out := rfl

/-! ### setIo -/

@[simp] theorem Dev.setIo_regs (d : Dev) (f : RecState → RecState) : (d.setIo f).regs = d.regs := rfl
@[simp] theorem Dev.setIo_time (d : Dev) (f : RecState → RecState) : (d.setIo f).time = d.time := rfl
@[simp] theorem Dev.setIo_ptp (d : Dev) (f : RecState → RecState) : (d.setIo f).ptp = d.ptp := rfl
@[simp] theorem Dev.setIo_cyc (d : Dev) (f : RecState → RecState) : (d.setIo f).cyc = d.cyc := rfl
@[simp] theorem Dev.setIo_rst (d : Dev) (f : RecState → RecState) : (d.setIo f).rst = d.rst := rfl
@[simp] theorem Dev.setIo_clk (d : Dev) (f : RecState → RecState) : (d.setIo f).clk = d.clk := rfl
@[simp] theorem Dev.setIo_hif (d : Dev) (f : RecState → RecState) : (d.setIo f).hif = d.hif := rfl
@[simp] theorem Dev.setIo_ep (d : Dev) (f : RecState → RecState) : (d.setIo f).ep = d.ep := rfl
@[simp] theorem Dev.setIo_aud (d : Dev) (f : RecState → RecState) : (d.setIo f).aud = d.aud := rfl
@[simp] theorem Dev.setIo_sec (d : Dev) (f : RecState → RecState) : (d.setIo f).sec = d.sec := rfl
@[simp] theorem Dev.setIo_ports (d : Dev) (f : RecState → RecState) : (d.setIo f).ports = d.ports := rfl
@[simp] theorem Dev.setIo_arms (d : Dev) (f : RecState → RecState) : (d.setIo f).arms = d.arms := rfl
@[simp] theorem Dev.setIo_sch (d : Dev) (f : RecState → RecState) : (d.setIo f).sch = d.sch := rfl
@[simp] theorem Dev.setIo_saf (d : Dev) (f : RecState → RecState) : (d.setIo f).saf = d.saf := rfl
@[simp] theorem Dev.setIo_lane (d : Dev) (f : RecState → RecState) : (d.setIo f).lane = d.lane := rfl
@[simp] theorem Dev.setIo_svc (d : Dev) (f : RecState → RecState) : (d.setIo f).svc = d.svc := rfl
@[simp] theorem Dev.setIo_loop (d : Dev) (f : RecState → RecState) : (d.setIo f).loop = d.loop := rfl
@[simp] theorem Dev.setIo_adc (d : Dev) (f : RecState → RecState) : (d.setIo f).adc = d.adc := rfl
@[simp] theorem Dev.setIo_mem (d : Dev) (f : RecState → RecState) : (d.setIo f).mem = d.mem := rfl
@[simp] theorem Dev.setIo_dpx (d : Dev) (f : RecState → RecState) : (d.setIo f).dpx = d.dpx := rfl
@[simp] theorem Dev.setIo_diag (d : Dev) (f : RecState → RecState) : (d.setIo f).diag = d.diag := rfl
@[simp] theorem Dev.setIo_rlatch (d : Dev) (f : RecState → RecState) : (d.setIo f).rlatch = d.rlatch := rfl
@[simp] theorem Dev.setIo_wlatch (d : Dev) (f : RecState → RecState) : (d.setIo f).wlatch = d.wlatch := rfl
@[simp] theorem Dev.setIo_free (d : Dev) (f : RecState → RecState) : (d.setIo f).free = d.free := rfl
@[simp] theorem Dev.setIo_out (d : Dev) (f : RecState → RecState) : (d.setIo f).out = d.out := rfl

@[simp] theorem Dev.setLoop_loop (d : Dev) (f : LoopState → LoopState) : (d.setLoop f).loop = f d.loop := rfl
@[simp] theorem Dev.setSaf_saf (d : Dev) (f : SafState → SafState) : (d.setSaf f).saf = f d.saf := rfl
@[simp] theorem Dev.setHif_hif (d : Dev) (f : HifState → HifState) : (d.setHif f).hif = f d.hif := rfl
@[simp] theorem Dev.setSvc_svc (d : Dev) (f : SvcState → SvcState) : (d.setSvc f).svc = f d.svc := rfl
@[simp] theorem Dev.setDpx_dpx (d : Dev) (f : DpxState → DpxState) : (d.setDpx f).dpx = f d.dpx := rfl
@[simp] theorem Dev.setCyc_cyc (d : Dev) (f : CycState → CycState) : (d.setCyc f).cyc = f d.cyc := rfl
@[simp] theorem Dev.setDiag_diag (d : Dev) (f : DiagState → DiagState) : (d.setDiag f).diag = f d.diag := rfl
@[simp] theorem Dev.setEp_ep (d : Dev) (f : EpochCtl → EpochCtl) : (d.setEp f).ep = f d.ep := rfl
@[simp] theorem Dev.setClk_clk (d : Dev) (f : ClkState → ClkState) : (d.setClk f).clk = f d.clk := rfl
@[simp] theorem Dev.setMem_mem (d : Dev) (f : MemState → MemState) : (d.setMem f).mem = f d.mem := rfl
@[simp] theorem Dev.setSec_sec (d : Dev) (f : SecState → SecState) : (d.setSec f).sec = f d.sec := rfl
@[simp] theorem Dev.setIo_rcd (d : Dev) (f : RecState → RecState) : (d.setIo f).rcd = f d.rcd := rfl
@[simp] theorem Dev.set_regs (d : Dev) (f : Fld) (v : Nat) : (d.set f v).regs = d.regs.setF f v := rfl
@[simp] theorem Dev.setWord_regs (d : Dev) (off : Nat) (w : Word) : (d.setWord off w).regs = d.regs.put off w := rfl
@[simp] theorem Dev.emit_out (d : Dev) (e : Emission) : (d.emit e).out = e :: d.out := rfl

/-! ### What an update that leaves the register file alone reads as -/

@[simp] theorem Dev.emit_get (d : Dev) (e : Emission) (g : Fld) : (d.emit e).get g = d.get g := rfl
@[simp] theorem Dev.emit_word (d : Dev) (e : Emission) (x : Nat) : (d.emit e).word x = d.word x := rfl
@[simp] theorem Dev.draw_get (d : Dev)  (g : Fld) : (d.draw ).get g = d.get g := rfl
@[simp] theorem Dev.draw_word (d : Dev)  (x : Nat) : (d.draw ).word x = d.word x := rfl
@[simp] theorem Dev.setPort_get (d : Dev) (p : Nat) (f : PortState → PortState) (g : Fld) : (d.setPort p f).get g = d.get g := rfl
@[simp] theorem Dev.setPort_word (d : Dev) (p : Nat) (f : PortState → PortState) (x : Nat) : (d.setPort p f).word x = d.word x := rfl
@[simp] theorem Dev.setArm_get (d : Dev) (a : Nat) (f : ArmCtl → ArmCtl) (g : Fld) : (d.setArm a f).get g = d.get g := rfl
@[simp] theorem Dev.setArm_word (d : Dev) (a : Nat) (f : ArmCtl → ArmCtl) (x : Nat) : (d.setArm a f).word x = d.word x := rfl
@[simp] theorem Dev.setLoop_get (d : Dev) (f : LoopState → LoopState) (g : Fld) : (d.setLoop f).get g = d.get g := rfl
@[simp] theorem Dev.setLoop_word (d : Dev) (f : LoopState → LoopState) (x : Nat) : (d.setLoop f).word x = d.word x := rfl
@[simp] theorem Dev.setSaf_get (d : Dev) (f : SafState → SafState) (g : Fld) : (d.setSaf f).get g = d.get g := rfl
@[simp] theorem Dev.setSaf_word (d : Dev) (f : SafState → SafState) (x : Nat) : (d.setSaf f).word x = d.word x := rfl
@[simp] theorem Dev.setHif_get (d : Dev) (f : HifState → HifState) (g : Fld) : (d.setHif f).get g = d.get g := rfl
@[simp] theorem Dev.setHif_word (d : Dev) (f : HifState → HifState) (x : Nat) : (d.setHif f).word x = d.word x := rfl
@[simp] theorem Dev.setSvc_get (d : Dev) (f : SvcState → SvcState) (g : Fld) : (d.setSvc f).get g = d.get g := rfl
@[simp] theorem Dev.setSvc_word (d : Dev) (f : SvcState → SvcState) (x : Nat) : (d.setSvc f).word x = d.word x := rfl
@[simp] theorem Dev.setDpx_get (d : Dev) (f : DpxState → DpxState) (g : Fld) : (d.setDpx f).get g = d.get g := rfl
@[simp] theorem Dev.setDpx_word (d : Dev) (f : DpxState → DpxState) (x : Nat) : (d.setDpx f).word x = d.word x := rfl
@[simp] theorem Dev.setCyc_get (d : Dev) (f : CycState → CycState) (g : Fld) : (d.setCyc f).get g = d.get g := rfl
@[simp] theorem Dev.setCyc_word (d : Dev) (f : CycState → CycState) (x : Nat) : (d.setCyc f).word x = d.word x := rfl
@[simp] theorem Dev.setDiag_get (d : Dev) (f : DiagState → DiagState) (g : Fld) : (d.setDiag f).get g = d.get g := rfl
@[simp] theorem Dev.setDiag_word (d : Dev) (f : DiagState → DiagState) (x : Nat) : (d.setDiag f).word x = d.word x := rfl
@[simp] theorem Dev.setEp_get (d : Dev) (f : EpochCtl → EpochCtl) (g : Fld) : (d.setEp f).get g = d.get g := rfl
@[simp] theorem Dev.setEp_word (d : Dev) (f : EpochCtl → EpochCtl) (x : Nat) : (d.setEp f).word x = d.word x := rfl
@[simp] theorem Dev.setClk_get (d : Dev) (f : ClkState → ClkState) (g : Fld) : (d.setClk f).get g = d.get g := rfl
@[simp] theorem Dev.setClk_word (d : Dev) (f : ClkState → ClkState) (x : Nat) : (d.setClk f).word x = d.word x := rfl
@[simp] theorem Dev.setMem_get (d : Dev) (f : MemState → MemState) (g : Fld) : (d.setMem f).get g = d.get g := rfl
@[simp] theorem Dev.setMem_word (d : Dev) (f : MemState → MemState) (x : Nat) : (d.setMem f).word x = d.word x := rfl
@[simp] theorem Dev.setSec_get (d : Dev) (f : SecState → SecState) (g : Fld) : (d.setSec f).get g = d.get g := rfl
@[simp] theorem Dev.setSec_word (d : Dev) (f : SecState → SecState) (x : Nat) : (d.setSec f).word x = d.word x := rfl
@[simp] theorem Dev.setIo_get (d : Dev) (f : RecState → RecState) (g : Fld) : (d.setIo f).get g = d.get g := rfl
@[simp] theorem Dev.setIo_word (d : Dev) (f : RecState → RecState) (x : Nat) : (d.setIo f).word x = d.word x := rfl

/-! ### setRec -/

@[simp] theorem Dev.setRec_time (d : Dev) (n : Nat) (f : RecInst → RecInst) : (d.setRec n f).time = d.time := rfl
@[simp] theorem Dev.setRec_ptp (d : Dev) (n : Nat) (f : RecInst → RecInst) : (d.setRec n f).ptp = d.ptp := rfl
@[simp] theorem Dev.setRec_cyc (d : Dev) (n : Nat) (f : RecInst → RecInst) : (d.setRec n f).cyc = d.cyc := rfl
@[simp] theorem Dev.setRec_rst (d : Dev) (n : Nat) (f : RecInst → RecInst) : (d.setRec n f).rst = d.rst := rfl
@[simp] theorem Dev.setRec_clk (d : Dev) (n : Nat) (f : RecInst → RecInst) : (d.setRec n f).clk = d.clk := rfl
@[simp] theorem Dev.setRec_hif (d : Dev) (n : Nat) (f : RecInst → RecInst) : (d.setRec n f).hif = d.hif := rfl
@[simp] theorem Dev.setRec_ep (d : Dev) (n : Nat) (f : RecInst → RecInst) : (d.setRec n f).ep = d.ep := rfl
@[simp] theorem Dev.setRec_aud (d : Dev) (n : Nat) (f : RecInst → RecInst) : (d.setRec n f).aud = d.aud := rfl
@[simp] theorem Dev.setRec_sec (d : Dev) (n : Nat) (f : RecInst → RecInst) : (d.setRec n f).sec = d.sec := rfl
@[simp] theorem Dev.setRec_ports (d : Dev) (n : Nat) (f : RecInst → RecInst) : (d.setRec n f).ports = d.ports := rfl
@[simp] theorem Dev.setRec_arms (d : Dev) (n : Nat) (f : RecInst → RecInst) : (d.setRec n f).arms = d.arms := rfl
@[simp] theorem Dev.setRec_sch (d : Dev) (n : Nat) (f : RecInst → RecInst) : (d.setRec n f).sch = d.sch := rfl
@[simp] theorem Dev.setRec_saf (d : Dev) (n : Nat) (f : RecInst → RecInst) : (d.setRec n f).saf = d.saf := rfl
@[simp] theorem Dev.setRec_lane (d : Dev) (n : Nat) (f : RecInst → RecInst) : (d.setRec n f).lane = d.lane := rfl
@[simp] theorem Dev.setRec_svc (d : Dev) (n : Nat) (f : RecInst → RecInst) : (d.setRec n f).svc = d.svc := rfl
@[simp] theorem Dev.setRec_loop (d : Dev) (n : Nat) (f : RecInst → RecInst) : (d.setRec n f).loop = d.loop := rfl
@[simp] theorem Dev.setRec_adc (d : Dev) (n : Nat) (f : RecInst → RecInst) : (d.setRec n f).adc = d.adc := rfl
@[simp] theorem Dev.setRec_mem (d : Dev) (n : Nat) (f : RecInst → RecInst) : (d.setRec n f).mem = d.mem := rfl
@[simp] theorem Dev.setRec_dpx (d : Dev) (n : Nat) (f : RecInst → RecInst) : (d.setRec n f).dpx = d.dpx := rfl
@[simp] theorem Dev.setRec_diag (d : Dev) (n : Nat) (f : RecInst → RecInst) : (d.setRec n f).diag = d.diag := rfl
@[simp] theorem Dev.setRec_rlatch (d : Dev) (n : Nat) (f : RecInst → RecInst) : (d.setRec n f).rlatch = d.rlatch := rfl
@[simp] theorem Dev.setRec_wlatch (d : Dev) (n : Nat) (f : RecInst → RecInst) : (d.setRec n f).wlatch = d.wlatch := rfl
@[simp] theorem Dev.setRec_free (d : Dev) (n : Nat) (f : RecInst → RecInst) : (d.setRec n f).free = d.free := rfl
@[simp] theorem Dev.setRec_out (d : Dev) (n : Nat) (f : RecInst → RecInst) : (d.setRec n f).out = d.out := rfl
@[simp] theorem Dev.setRec_regs (d : Dev) (n : Nat) (f : RecInst → RecInst) : (d.setRec n f).regs = d.regs := rfl
@[simp] theorem Dev.setRec_get (d : Dev) (n : Nat) (f : RecInst → RecInst) (g : Fld) : (d.setRec n f).get g = d.get g := rfl
@[simp] theorem Dev.setRec_word (d : Dev) (n : Nat) (f : RecInst → RecInst) (x : Nat) : (d.setRec n f).word x = d.word x := rfl

/-! ### setConv -/

@[simp] theorem Dev.setConv_time (d : Dev) (x : Nat) (f : AdcConv → AdcConv) : (d.setConv x f).time = d.time := rfl
@[simp] theorem Dev.setConv_ptp (d : Dev) (x : Nat) (f : AdcConv → AdcConv) : (d.setConv x f).ptp = d.ptp := rfl
@[simp] theorem Dev.setConv_cyc (d : Dev) (x : Nat) (f : AdcConv → AdcConv) : (d.setConv x f).cyc = d.cyc := rfl
@[simp] theorem Dev.setConv_rst (d : Dev) (x : Nat) (f : AdcConv → AdcConv) : (d.setConv x f).rst = d.rst := rfl
@[simp] theorem Dev.setConv_clk (d : Dev) (x : Nat) (f : AdcConv → AdcConv) : (d.setConv x f).clk = d.clk := rfl
@[simp] theorem Dev.setConv_hif (d : Dev) (x : Nat) (f : AdcConv → AdcConv) : (d.setConv x f).hif = d.hif := rfl
@[simp] theorem Dev.setConv_ep (d : Dev) (x : Nat) (f : AdcConv → AdcConv) : (d.setConv x f).ep = d.ep := rfl
@[simp] theorem Dev.setConv_aud (d : Dev) (x : Nat) (f : AdcConv → AdcConv) : (d.setConv x f).aud = d.aud := rfl
@[simp] theorem Dev.setConv_sec (d : Dev) (x : Nat) (f : AdcConv → AdcConv) : (d.setConv x f).sec = d.sec := rfl
@[simp] theorem Dev.setConv_ports (d : Dev) (x : Nat) (f : AdcConv → AdcConv) : (d.setConv x f).ports = d.ports := rfl
@[simp] theorem Dev.setConv_arms (d : Dev) (x : Nat) (f : AdcConv → AdcConv) : (d.setConv x f).arms = d.arms := rfl
@[simp] theorem Dev.setConv_sch (d : Dev) (x : Nat) (f : AdcConv → AdcConv) : (d.setConv x f).sch = d.sch := rfl
@[simp] theorem Dev.setConv_saf (d : Dev) (x : Nat) (f : AdcConv → AdcConv) : (d.setConv x f).saf = d.saf := rfl
@[simp] theorem Dev.setConv_lane (d : Dev) (x : Nat) (f : AdcConv → AdcConv) : (d.setConv x f).lane = d.lane := rfl
@[simp] theorem Dev.setConv_svc (d : Dev) (x : Nat) (f : AdcConv → AdcConv) : (d.setConv x f).svc = d.svc := rfl
@[simp] theorem Dev.setConv_loop (d : Dev) (x : Nat) (f : AdcConv → AdcConv) : (d.setConv x f).loop = d.loop := rfl
@[simp] theorem Dev.setConv_rcd (d : Dev) (x : Nat) (f : AdcConv → AdcConv) : (d.setConv x f).rcd = d.rcd := rfl
@[simp] theorem Dev.setConv_mem (d : Dev) (x : Nat) (f : AdcConv → AdcConv) : (d.setConv x f).mem = d.mem := rfl
@[simp] theorem Dev.setConv_dpx (d : Dev) (x : Nat) (f : AdcConv → AdcConv) : (d.setConv x f).dpx = d.dpx := rfl
@[simp] theorem Dev.setConv_diag (d : Dev) (x : Nat) (f : AdcConv → AdcConv) : (d.setConv x f).diag = d.diag := rfl
@[simp] theorem Dev.setConv_rlatch (d : Dev) (x : Nat) (f : AdcConv → AdcConv) : (d.setConv x f).rlatch = d.rlatch := rfl
@[simp] theorem Dev.setConv_wlatch (d : Dev) (x : Nat) (f : AdcConv → AdcConv) : (d.setConv x f).wlatch = d.wlatch := rfl
@[simp] theorem Dev.setConv_free (d : Dev) (x : Nat) (f : AdcConv → AdcConv) : (d.setConv x f).free = d.free := rfl
@[simp] theorem Dev.setConv_out (d : Dev) (x : Nat) (f : AdcConv → AdcConv) : (d.setConv x f).out = d.out := rfl
@[simp] theorem Dev.setConv_regs (d : Dev) (x : Nat) (f : AdcConv → AdcConv) : (d.setConv x f).regs = d.regs := rfl
@[simp] theorem Dev.setConv_get (d : Dev) (x : Nat) (f : AdcConv → AdcConv) (g : Fld) : (d.setConv x f).get g = d.get g := rfl
@[simp] theorem Dev.setConv_word (d : Dev) (x : Nat) (f : AdcConv → AdcConv) (x : Nat) : (d.setConv x f).word x = d.word x := rfl

/-! ### setLine -/

@[simp] theorem Dev.setLine_time (d : Dev) (n : Nat) (f : LineState → LineState) : (d.setLine n f).time = d.time := rfl
@[simp] theorem Dev.setLine_ptp (d : Dev) (n : Nat) (f : LineState → LineState) : (d.setLine n f).ptp = d.ptp := rfl
@[simp] theorem Dev.setLine_cyc (d : Dev) (n : Nat) (f : LineState → LineState) : (d.setLine n f).cyc = d.cyc := rfl
@[simp] theorem Dev.setLine_rst (d : Dev) (n : Nat) (f : LineState → LineState) : (d.setLine n f).rst = d.rst := rfl
@[simp] theorem Dev.setLine_clk (d : Dev) (n : Nat) (f : LineState → LineState) : (d.setLine n f).clk = d.clk := rfl
@[simp] theorem Dev.setLine_hif (d : Dev) (n : Nat) (f : LineState → LineState) : (d.setLine n f).hif = d.hif := rfl
@[simp] theorem Dev.setLine_ep (d : Dev) (n : Nat) (f : LineState → LineState) : (d.setLine n f).ep = d.ep := rfl
@[simp] theorem Dev.setLine_aud (d : Dev) (n : Nat) (f : LineState → LineState) : (d.setLine n f).aud = d.aud := rfl
@[simp] theorem Dev.setLine_sec (d : Dev) (n : Nat) (f : LineState → LineState) : (d.setLine n f).sec = d.sec := rfl
@[simp] theorem Dev.setLine_ports (d : Dev) (n : Nat) (f : LineState → LineState) : (d.setLine n f).ports = d.ports := rfl
@[simp] theorem Dev.setLine_arms (d : Dev) (n : Nat) (f : LineState → LineState) : (d.setLine n f).arms = d.arms := rfl
@[simp] theorem Dev.setLine_sch (d : Dev) (n : Nat) (f : LineState → LineState) : (d.setLine n f).sch = d.sch := rfl
@[simp] theorem Dev.setLine_saf (d : Dev) (n : Nat) (f : LineState → LineState) : (d.setLine n f).saf = d.saf := rfl
@[simp] theorem Dev.setLine_svc (d : Dev) (n : Nat) (f : LineState → LineState) : (d.setLine n f).svc = d.svc := rfl
@[simp] theorem Dev.setLine_loop (d : Dev) (n : Nat) (f : LineState → LineState) : (d.setLine n f).loop = d.loop := rfl
@[simp] theorem Dev.setLine_adc (d : Dev) (n : Nat) (f : LineState → LineState) : (d.setLine n f).adc = d.adc := rfl
@[simp] theorem Dev.setLine_rcd (d : Dev) (n : Nat) (f : LineState → LineState) : (d.setLine n f).rcd = d.rcd := rfl
@[simp] theorem Dev.setLine_mem (d : Dev) (n : Nat) (f : LineState → LineState) : (d.setLine n f).mem = d.mem := rfl
@[simp] theorem Dev.setLine_dpx (d : Dev) (n : Nat) (f : LineState → LineState) : (d.setLine n f).dpx = d.dpx := rfl
@[simp] theorem Dev.setLine_diag (d : Dev) (n : Nat) (f : LineState → LineState) : (d.setLine n f).diag = d.diag := rfl
@[simp] theorem Dev.setLine_rlatch (d : Dev) (n : Nat) (f : LineState → LineState) : (d.setLine n f).rlatch = d.rlatch := rfl
@[simp] theorem Dev.setLine_wlatch (d : Dev) (n : Nat) (f : LineState → LineState) : (d.setLine n f).wlatch = d.wlatch := rfl
@[simp] theorem Dev.setLine_free (d : Dev) (n : Nat) (f : LineState → LineState) : (d.setLine n f).free = d.free := rfl
@[simp] theorem Dev.setLine_out (d : Dev) (n : Nat) (f : LineState → LineState) : (d.setLine n f).out = d.out := rfl
@[simp] theorem Dev.setLine_regs (d : Dev) (n : Nat) (f : LineState → LineState) : (d.setLine n f).regs = d.regs := rfl
@[simp] theorem Dev.setLine_get (d : Dev) (n : Nat) (f : LineState → LineState) (g : Fld) : (d.setLine n f).get g = d.get g := rfl
@[simp] theorem Dev.setLine_word (d : Dev) (n : Nat) (f : LineState → LineState) (x : Nat) : (d.setLine n f).word x = d.word x := rfl

/-! ### setPair -/

@[simp] theorem Dev.setPair_time (d : Dev) (n : Nat) (f : PairState → PairState) : (d.setPair n f).time = d.time := rfl
@[simp] theorem Dev.setPair_ptp (d : Dev) (n : Nat) (f : PairState → PairState) : (d.setPair n f).ptp = d.ptp := rfl
@[simp] theorem Dev.setPair_cyc (d : Dev) (n : Nat) (f : PairState → PairState) : (d.setPair n f).cyc = d.cyc := rfl
@[simp] theorem Dev.setPair_rst (d : Dev) (n : Nat) (f : PairState → PairState) : (d.setPair n f).rst = d.rst := rfl
@[simp] theorem Dev.setPair_clk (d : Dev) (n : Nat) (f : PairState → PairState) : (d.setPair n f).clk = d.clk := rfl
@[simp] theorem Dev.setPair_hif (d : Dev) (n : Nat) (f : PairState → PairState) : (d.setPair n f).hif = d.hif := rfl
@[simp] theorem Dev.setPair_ep (d : Dev) (n : Nat) (f : PairState → PairState) : (d.setPair n f).ep = d.ep := rfl
@[simp] theorem Dev.setPair_aud (d : Dev) (n : Nat) (f : PairState → PairState) : (d.setPair n f).aud = d.aud := rfl
@[simp] theorem Dev.setPair_sec (d : Dev) (n : Nat) (f : PairState → PairState) : (d.setPair n f).sec = d.sec := rfl
@[simp] theorem Dev.setPair_ports (d : Dev) (n : Nat) (f : PairState → PairState) : (d.setPair n f).ports = d.ports := rfl
@[simp] theorem Dev.setPair_arms (d : Dev) (n : Nat) (f : PairState → PairState) : (d.setPair n f).arms = d.arms := rfl
@[simp] theorem Dev.setPair_sch (d : Dev) (n : Nat) (f : PairState → PairState) : (d.setPair n f).sch = d.sch := rfl
@[simp] theorem Dev.setPair_saf (d : Dev) (n : Nat) (f : PairState → PairState) : (d.setPair n f).saf = d.saf := rfl
@[simp] theorem Dev.setPair_lane (d : Dev) (n : Nat) (f : PairState → PairState) : (d.setPair n f).lane = d.lane := rfl
@[simp] theorem Dev.setPair_loop (d : Dev) (n : Nat) (f : PairState → PairState) : (d.setPair n f).loop = d.loop := rfl
@[simp] theorem Dev.setPair_adc (d : Dev) (n : Nat) (f : PairState → PairState) : (d.setPair n f).adc = d.adc := rfl
@[simp] theorem Dev.setPair_rcd (d : Dev) (n : Nat) (f : PairState → PairState) : (d.setPair n f).rcd = d.rcd := rfl
@[simp] theorem Dev.setPair_mem (d : Dev) (n : Nat) (f : PairState → PairState) : (d.setPair n f).mem = d.mem := rfl
@[simp] theorem Dev.setPair_dpx (d : Dev) (n : Nat) (f : PairState → PairState) : (d.setPair n f).dpx = d.dpx := rfl
@[simp] theorem Dev.setPair_diag (d : Dev) (n : Nat) (f : PairState → PairState) : (d.setPair n f).diag = d.diag := rfl
@[simp] theorem Dev.setPair_rlatch (d : Dev) (n : Nat) (f : PairState → PairState) : (d.setPair n f).rlatch = d.rlatch := rfl
@[simp] theorem Dev.setPair_wlatch (d : Dev) (n : Nat) (f : PairState → PairState) : (d.setPair n f).wlatch = d.wlatch := rfl
@[simp] theorem Dev.setPair_free (d : Dev) (n : Nat) (f : PairState → PairState) : (d.setPair n f).free = d.free := rfl
@[simp] theorem Dev.setPair_out (d : Dev) (n : Nat) (f : PairState → PairState) : (d.setPair n f).out = d.out := rfl
@[simp] theorem Dev.setPair_regs (d : Dev) (n : Nat) (f : PairState → PairState) : (d.setPair n f).regs = d.regs := rfl
@[simp] theorem Dev.setPair_get (d : Dev) (n : Nat) (f : PairState → PairState) (g : Fld) : (d.setPair n f).get g = d.get g := rfl
@[simp] theorem Dev.setPair_word (d : Dev) (n : Nat) (f : PairState → PairState) (x : Nat) : (d.setPair n f).word x = d.word x := rfl

/-! ### Registers -/

/-- A field written and read gives the value, cut to the field's width. -/
theorem Dev.get_set_same (d : Dev) (f : Fld) (v : Nat) (h : f.hi < 32) : (d.set f v).get f = v % 2 ^ (f.hi + 1 - f.lo) :=
  Store.getF_setF_same d.regs f v h

/-- A field of another register keeps its value. -/
theorem Dev.get_set_off (d : Dev) (f g : Fld) (v : Nat) (h : g.off ≠ f.off) : (d.set f v).get g = d.get g :=
  Store.getF_setF_off d.regs f g v h

/-- A field of other bits of the register keeps its value. -/
theorem Dev.get_set_disjoint (d : Dev) (f g : Fld) (v : Nat) (hf : f.hi < 32) (hg : g.hi < 32) (ho : g.off = f.off)
    (h : g.hi < f.lo ∨ f.hi < g.lo) : (d.set f v).get g = d.get g :=
  Store.getF_setF_disjoint d.regs f g v hf hg ho h

/-- Another register keeps its word. -/
theorem Dev.word_set_off (d : Dev) (f : Fld) (v x : Nat) (h : x ≠ f.off) : (d.set f v).word x = d.word x :=
  Store.get_put_ne d.regs _ h

@[simp] theorem Dev.word_setWord_same (d : Dev) (off : Nat) (w : Word) : (d.setWord off w).word off = w :=
  Store.get_put_same d.regs off w

theorem Dev.word_setWord_off (d : Dev) (off x : Nat) (w : Word) (h : x ≠ off) : (d.setWord off w).word x = d.word x :=
  Store.get_put_ne d.regs w h

@[simp] theorem Dev.get_setWord_same (d : Dev) (f : Fld) (w : Word) : (d.setWord f.off w).get f = f.of w := by
  simp [Dev.get, Store.getF]

theorem Dev.get_setWord_off (d : Dev) (off : Nat) (f : Fld) (w : Word) (h : f.off ≠ off) : (d.setWord off w).get f = d.get f := by
  simp [Dev.get, Store.getF, Store.get_put_ne d.regs w h]

/-! ### Ports and arms -/

@[simp] theorem Dev.port_set (d : Dev) (f : Fld) (v p : Nat) : (d.set f v).port p = d.port p := rfl
@[simp] theorem Dev.port_setWord (d : Dev) (off : Nat) (w : Word) (p : Nat) : (d.setWord off w).port p = d.port p := rfl
@[simp] theorem Dev.port_emit (d : Dev) (e : Emission) (p : Nat) : (d.emit e).port p = d.port p := rfl
@[simp] theorem Dev.armCtl_set (d : Dev) (f : Fld) (v a : Nat) : (d.set f v).armCtl a = d.armCtl a := rfl
@[simp] theorem Dev.armCtl_emit (d : Dev) (e : Emission) (a : Nat) : (d.emit e).armCtl a = d.armCtl a := rfl

/-- An element put at a place and read. -/
@[simp] theorem nth_putAt_same {α : Type} (l : List α) (n : Nat) (dflt x : α) : nth (putAt l n dflt x) n dflt = x := by
  induction n generalizing l with
  | zero => cases l <;> simp [putAt, nth]
  | succ n ih => cases l with
    | nil => simpa [putAt, nth] using ih []
    | cons a l => simpa [putAt, nth] using ih l

/-- The other elements, the default beyond the list, stay. -/
theorem nth_putAt_ne {α : Type} (l : List α) (n m : Nat) (dflt x : α) (h : m ≠ n) : nth (putAt l n dflt x) m dflt = nth l m dflt := by
  induction n generalizing l m with
  | zero =>
    cases m with
    | zero => exact absurd rfl h
    | succ m => cases l <;> simp [putAt, nth]
  | succ n ih =>
    cases m with
    | zero => cases l <;> simp [putAt, nth]
    | succ m =>
      have hm : m ≠ n := fun e => h (by rw [e])
      cases l with
      | nil => simpa [putAt, nth] using ih [] m hm
      | cons a l => simpa [putAt, nth] using ih l m hm

/-- A port written and read. -/
@[simp] theorem Dev.port_setPort_same (d : Dev) (p : Nat) (f : PortState → PortState) : (d.setPort p f).port p = f (d.port p) :=
  nth_putAt_same ..

/-- Another port keeps its state. -/
theorem Dev.port_setPort_ne (d : Dev) (p q : Nat) (f : PortState → PortState) (h : q ≠ p) : (d.setPort p f).port q = d.port q :=
  nth_putAt_ne _ _ _ _ _ h

/-- An arm written and read. -/
@[simp] theorem Dev.armCtl_setArm_same (d : Dev) (a : Nat) (f : ArmCtl → ArmCtl) : (d.setArm a f).armCtl a = f (d.armCtl a) := nth_putAt_same ..

/-- Another arm keeps its state. -/
theorem Dev.armCtl_setArm_ne (d : Dev) (a m : Nat) (f : ArmCtl → ArmCtl) (h : m ≠ a) : (d.setArm a f).armCtl m = d.armCtl m :=
  nth_putAt_ne _ _ _ _ _ h

/-- A recorder instance written and read. -/
@[simp] theorem Dev.recInst_setRec_same (d : Dev) (n : Nat) (f : RecInst → RecInst) : (d.setRec n f).recInst n = f (d.recInst n) := nth_putAt_same ..

/-- Another instance keeps its state. -/
theorem Dev.recInst_setRec_ne (d : Dev) (n m : Nat) (f : RecInst → RecInst) (h : m ≠ n) : (d.setRec n f).recInst m = d.recInst m :=
  nth_putAt_ne _ _ _ _ _ h

/-- A converter written and read. -/
@[simp] theorem Dev.conv_setConv_same (d : Dev) (x : Nat) (f : AdcConv → AdcConv) : (d.setConv x f).conv x = f (d.conv x) := nth_putAt_same ..

/-- Another converter keeps its state. -/
theorem Dev.conv_setConv_ne (d : Dev) (x m : Nat) (f : AdcConv → AdcConv) (h : m ≠ x) : (d.setConv x f).conv m = d.conv m :=
  nth_putAt_ne _ _ _ _ _ h

/-- A lane's line state written and read. -/
@[simp] theorem Dev.line_setLine_same (d : Dev) (n : Nat) (f : LineState → LineState) : (d.setLine n f).line n = f (d.line n) := nth_putAt_same ..

/-- Another lane's keeps what it is. -/
theorem Dev.line_setLine_ne (d : Dev) (n m : Nat) (f : LineState → LineState) (h : m ≠ n) : (d.setLine n f).line m = d.line m :=
  nth_putAt_ne _ _ _ _ _ h

/-- A pair of service cores written and read. -/
@[simp] theorem Dev.pair_setPair_same (d : Dev) (n : Nat) (f : PairState → PairState) : (d.setPair n f).pair n = f (d.pair n) := nth_putAt_same ..

/-- Another pair keeps its state. -/
theorem Dev.pair_setPair_ne (d : Dev) (n m : Nat) (f : PairState → PairState) (h : m ≠ n) : (d.setPair n f).pair m = d.pair m :=
  nth_putAt_ne _ _ _ _ _ h

/-! ### The state -/

@[simp] theorem State.withQueue_pending (s : State) (q : List Instr) : (s.withQueue q).pending = q := rfl
@[simp] theorem State.withQueue_nv (s : State) (q : List Instr) : (s.withQueue q).nv = s.nv := rfl
@[simp] theorem State.withQueue_dev (s : State) (q : List Instr) : (s.withQueue q).dev = s.dev := rfl
@[simp] theorem State.with_pending (s : State) (x : Nonvol × Dev) : (s.with_ x).pending = s.pending := rfl
@[simp] theorem State.with_nv (s : State) (x : Nonvol × Dev) : (s.with_ x).nv = x.1 := rfl
@[simp] theorem State.with_dev (s : State) (x : Nonvol × Dev) : (s.with_ x).dev = x.2 := rfl
@[simp] theorem State.ran_pending (s : State) (o : Origin) (d' : Dev) : (s.ran o d').pending = s.pending := rfl
@[simp] theorem State.ran_nv (s : State) (o : Origin) (d' : Dev) : (s.ran o d').nv = s.nv := rfl
@[simp] theorem State.ran_dev (s : State) (o : Origin) (d' : Dev) : (s.ran o d').dev = d'.after s.dev o := rfl

end Sys2Proof.Machine
end

