-- ==== Sys2Proof/Laws/Changes.lean ====
section
/-! SUPPORT. The algebra of frames: what an update of one part or register changes, and how frames compose. `Dev.Chg` builds a frame
along the text of an operation, from its last update inwards; `Dev.Chg.changes` is the frame. -/

namespace Sys2Proof.Machine

open Sys2Proof

theorem Dev.Changes.refl {ps : List DevPart} {S : Nat → Prop} (d : Dev) : Dev.Changes ps S d d :=
  ⟨fun p _ => by cases p <;> rfl, fun _ _ => rfl⟩

theorem Dev.Changes.trans {ps : List DevPart} {S : Nat → Prop} {a b c : Dev} (h : Dev.Changes ps S a b) (k : Dev.Changes ps S b c) :
    Dev.Changes ps S a c :=
  ⟨fun p hp => by
    have x := h.1 p hp
    have y := k.1 p hp
    cases p <;> exact Eq.trans y x,
   fun off ho => (k.2 off ho).trans (h.2 off ho)⟩

theorem Dev.Changes.mono {ps ps' : List DevPart} {S S' : Nat → Prop} {a b : Dev} (h : Dev.Changes ps S a b)
    (hp : ∀ p, p ∈ ps → p ∈ ps') (hs : ∀ off, S off → S' off) : Dev.Changes ps' S' a b :=
  ⟨fun p q => h.1 p fun x => q (hp p x), fun off q => h.2 off fun x => q (hs off x)⟩

theorem Dev.Changes.each {ps : List DevPart} {S : Nat → Prop} {α : Type} (d : Dev) (l : List α) (f : α → Dev → Dev)
    (h : ∀ x, x ∈ l → ∀ e, Dev.Changes ps S e (f x e)) : Dev.Changes ps S d (d.each l f) := by
  induction l generalizing d with
  | nil => exact .refl d
  | cons x l ih => exact (h x (by simp) d).trans (ih (f x d) fun y hy e => h y (by simp [hy]) e)

/-- A frame built along updates: the device reached from a by updates of parts of ps and of registers of S. -/
inductive Dev.Chg (ps : List DevPart) (S : Nat → Prop) (a : Dev) : Dev → Prop where
  | refl : Dev.Chg ps S a a
  | set (d : Dev) (f : Fld) (v : Nat) (k : Dev.Chg ps S a d) (h : S f.off) : Dev.Chg ps S a (d.set f v)
  | setWord (d : Dev) (off : Nat) (w : Word) (k : Dev.Chg ps S a d) (h : S off) : Dev.Chg ps S a (d.setWord off w)
  | ite (c : Prop) [Decidable c] (d e : Dev) (k : Dev.Chg ps S a d) (l : Dev.Chg ps S a e) : Dev.Chg ps S a (if c then d else e)
  | each {α : Type} (d : Dev) (l : List α) (f : α → Dev → Dev) (k : Dev.Chg ps S a d)
      (h : ∀ x, x ∈ l → ∀ e, Dev.Changes ps S e (f x e)) : Dev.Chg ps S a (d.each l f)
  | time_ (d : Dev) (x : TimeState) (k : Dev.Chg ps S a d) (h : DevPart.time ∈ ps) : Dev.Chg ps S a { d with time := x }
  | ptp_ (d : Dev) (x : PtpState) (k : Dev.Chg ps S a d) (h : DevPart.ptp ∈ ps) : Dev.Chg ps S a { d with ptp := x }
  | cyc_ (d : Dev) (x : CycState) (k : Dev.Chg ps S a d) (h : DevPart.cyc ∈ ps) : Dev.Chg ps S a { d with cyc := x }
  | rst_ (d : Dev) (x : RstState) (k : Dev.Chg ps S a d) (h : DevPart.rst ∈ ps) : Dev.Chg ps S a { d with rst := x }
  | clk_ (d : Dev) (x : ClkState) (k : Dev.Chg ps S a d) (h : DevPart.clk ∈ ps) : Dev.Chg ps S a { d with clk := x }
  | hif_ (d : Dev) (x : HifState) (k : Dev.Chg ps S a d) (h : DevPart.hif ∈ ps) : Dev.Chg ps S a { d with hif := x }
  | ep_ (d : Dev) (x : EpochCtl) (k : Dev.Chg ps S a d) (h : DevPart.ep ∈ ps) : Dev.Chg ps S a { d with ep := x }
  | aud_ (d : Dev) (x : AudState) (k : Dev.Chg ps S a d) (h : DevPart.aud ∈ ps) : Dev.Chg ps S a { d with aud := x }
  | sec_ (d : Dev) (x : SecState) (k : Dev.Chg ps S a d) (h : DevPart.sec ∈ ps) : Dev.Chg ps S a { d with sec := x }
  | ports_ (d : Dev) (x : List PortState) (k : Dev.Chg ps S a d) (h : DevPart.ports ∈ ps) : Dev.Chg ps S a { d with ports := x }
  | arms_ (d : Dev) (x : List ArmCtl) (k : Dev.Chg ps S a d) (h : DevPart.arms ∈ ps) : Dev.Chg ps S a { d with arms := x }
  | sch_ (d : Dev) (x : SchState) (k : Dev.Chg ps S a d) (h : DevPart.sch ∈ ps) : Dev.Chg ps S a { d with sch := x }
  | saf_ (d : Dev) (x : SafState) (k : Dev.Chg ps S a d) (h : DevPart.saf ∈ ps) : Dev.Chg ps S a { d with saf := x }
  | lane_ (d : Dev) (x : LaneState) (k : Dev.Chg ps S a d) (h : DevPart.lane ∈ ps) : Dev.Chg ps S a { d with lane := x }
  | svc_ (d : Dev) (x : SvcState) (k : Dev.Chg ps S a d) (h : DevPart.svc ∈ ps) : Dev.Chg ps S a { d with svc := x }
  | loop_ (d : Dev) (x : LoopState) (k : Dev.Chg ps S a d) (h : DevPart.loop ∈ ps) : Dev.Chg ps S a { d with loop := x }
  | adc_ (d : Dev) (x : AdcState) (k : Dev.Chg ps S a d) (h : DevPart.adc ∈ ps) : Dev.Chg ps S a { d with adc := x }
  | rcd_ (d : Dev) (x : RecState) (k : Dev.Chg ps S a d) (h : DevPart.rcd ∈ ps) : Dev.Chg ps S a { d with rcd := x }
  | mem_ (d : Dev) (x : MemState) (k : Dev.Chg ps S a d) (h : DevPart.mem ∈ ps) : Dev.Chg ps S a { d with mem := x }
  | dpx_ (d : Dev) (x : DpxState) (k : Dev.Chg ps S a d) (h : DevPart.dpx ∈ ps) : Dev.Chg ps S a { d with dpx := x }
  | diag_ (d : Dev) (x : DiagState) (k : Dev.Chg ps S a d) (h : DevPart.diag ∈ ps) : Dev.Chg ps S a { d with diag := x }
  | rlatch_ (d : Dev) (x : List ((Origin × Nat) × Word)) (k : Dev.Chg ps S a d) (h : DevPart.rlatch ∈ ps) : Dev.Chg ps S a { d with rlatch := x }
  | wlatch_ (d : Dev) (x : List ((Origin × Nat) × Word)) (k : Dev.Chg ps S a d) (h : DevPart.wlatch ∈ ps) : Dev.Chg ps S a { d with wlatch := x }
  | free_ (d : Dev) (x : Nat) (k : Dev.Chg ps S a d) (h : DevPart.free ∈ ps) : Dev.Chg ps S a { d with free := x }
  | out_ (d : Dev) (x : List Emission) (k : Dev.Chg ps S a d) (h : DevPart.out ∈ ps) : Dev.Chg ps S a { d with out := x }

theorem Dev.Changes.set {ps : List DevPart} {S : Nat → Prop} (d : Dev) (f : Fld) (v : Nat) (h : S f.off) :
    Dev.Changes ps S d (d.set f v) :=
  ⟨fun p _ => by cases p <;> rfl, fun off ho => Dev.word_set_off d f v off fun e => ho (e ▸ h)⟩

theorem Dev.Changes.setWord {ps : List DevPart} {S : Nat → Prop} (d : Dev) (r : Nat) (w : Word) (h : S r) :
    Dev.Changes ps S d (d.setWord r w) :=
  ⟨fun p _ => by cases p <;> rfl, fun off ho => Dev.word_setWord_off d r off w fun e => ho (e ▸ h)⟩

theorem Dev.Changes.time_ {ps : List DevPart} {S : Nat → Prop} (d : Dev) (x : TimeState) (h : DevPart.time ∈ ps) :
    Dev.Changes ps S d { d with time := x } :=
  ⟨fun p hp => by cases p <;> first | rfl | exact absurd h hp, fun _ _ => rfl⟩

theorem Dev.Changes.ptp_ {ps : List DevPart} {S : Nat → Prop} (d : Dev) (x : PtpState) (h : DevPart.ptp ∈ ps) :
    Dev.Changes ps S d { d with ptp := x } :=
  ⟨fun p hp => by cases p <;> first | rfl | exact absurd h hp, fun _ _ => rfl⟩

theorem Dev.Changes.cyc_ {ps : List DevPart} {S : Nat → Prop} (d : Dev) (x : CycState) (h : DevPart.cyc ∈ ps) :
    Dev.Changes ps S d { d with cyc := x } :=
  ⟨fun p hp => by cases p <;> first | rfl | exact absurd h hp, fun _ _ => rfl⟩

theorem Dev.Changes.rst_ {ps : List DevPart} {S : Nat → Prop} (d : Dev) (x : RstState) (h : DevPart.rst ∈ ps) :
    Dev.Changes ps S d { d with rst := x } :=
  ⟨fun p hp => by cases p <;> first | rfl | exact absurd h hp, fun _ _ => rfl⟩

theorem Dev.Changes.clk_ {ps : List DevPart} {S : Nat → Prop} (d : Dev) (x : ClkState) (h : DevPart.clk ∈ ps) :
    Dev.Changes ps S d { d with clk := x } :=
  ⟨fun p hp => by cases p <;> first | rfl | exact absurd h hp, fun _ _ => rfl⟩

theorem Dev.Changes.hif_ {ps : List DevPart} {S : Nat → Prop} (d : Dev) (x : HifState) (h : DevPart.hif ∈ ps) :
    Dev.Changes ps S d { d with hif := x } :=
  ⟨fun p hp => by cases p <;> first | rfl | exact absurd h hp, fun _ _ => rfl⟩

theorem Dev.Changes.ep_ {ps : List DevPart} {S : Nat → Prop} (d : Dev) (x : EpochCtl) (h : DevPart.ep ∈ ps) :
    Dev.Changes ps S d { d with ep := x } :=
  ⟨fun p hp => by cases p <;> first | rfl | exact absurd h hp, fun _ _ => rfl⟩

theorem Dev.Changes.aud_ {ps : List DevPart} {S : Nat → Prop} (d : Dev) (x : AudState) (h : DevPart.aud ∈ ps) :
    Dev.Changes ps S d { d with aud := x } :=
  ⟨fun p hp => by cases p <;> first | rfl | exact absurd h hp, fun _ _ => rfl⟩

theorem Dev.Changes.sec_ {ps : List DevPart} {S : Nat → Prop} (d : Dev) (x : SecState) (h : DevPart.sec ∈ ps) :
    Dev.Changes ps S d { d with sec := x } :=
  ⟨fun p hp => by cases p <;> first | rfl | exact absurd h hp, fun _ _ => rfl⟩

theorem Dev.Changes.ports_ {ps : List DevPart} {S : Nat → Prop} (d : Dev) (x : List PortState) (h : DevPart.ports ∈ ps) :
    Dev.Changes ps S d { d with ports := x } :=
  ⟨fun p hp => by cases p <;> first | rfl | exact absurd h hp, fun _ _ => rfl⟩

theorem Dev.Changes.arms_ {ps : List DevPart} {S : Nat → Prop} (d : Dev) (x : List ArmCtl) (h : DevPart.arms ∈ ps) :
    Dev.Changes ps S d { d with arms := x } :=
  ⟨fun p hp => by cases p <;> first | rfl | exact absurd h hp, fun _ _ => rfl⟩

theorem Dev.Changes.sch_ {ps : List DevPart} {S : Nat → Prop} (d : Dev) (x : SchState) (h : DevPart.sch ∈ ps) :
    Dev.Changes ps S d { d with sch := x } :=
  ⟨fun p hp => by cases p <;> first | rfl | exact absurd h hp, fun _ _ => rfl⟩

theorem Dev.Changes.saf_ {ps : List DevPart} {S : Nat → Prop} (d : Dev) (x : SafState) (h : DevPart.saf ∈ ps) :
    Dev.Changes ps S d { d with saf := x } :=
  ⟨fun p hp => by cases p <;> first | rfl | exact absurd h hp, fun _ _ => rfl⟩

theorem Dev.Changes.lane_ {ps : List DevPart} {S : Nat → Prop} (d : Dev) (x : LaneState) (h : DevPart.lane ∈ ps) :
    Dev.Changes ps S d { d with lane := x } :=
  ⟨fun p hp => by cases p <;> first | rfl | exact absurd h hp, fun _ _ => rfl⟩

theorem Dev.Changes.svc_ {ps : List DevPart} {S : Nat → Prop} (d : Dev) (x : SvcState) (h : DevPart.svc ∈ ps) :
    Dev.Changes ps S d { d with svc := x } :=
  ⟨fun p hp => by cases p <;> first | rfl | exact absurd h hp, fun _ _ => rfl⟩

theorem Dev.Changes.loop_ {ps : List DevPart} {S : Nat → Prop} (d : Dev) (x : LoopState) (h : DevPart.loop ∈ ps) :
    Dev.Changes ps S d { d with loop := x } :=
  ⟨fun p hp => by cases p <;> first | rfl | exact absurd h hp, fun _ _ => rfl⟩

theorem Dev.Changes.adc_ {ps : List DevPart} {S : Nat → Prop} (d : Dev) (x : AdcState) (h : DevPart.adc ∈ ps) :
    Dev.Changes ps S d { d with adc := x } :=
  ⟨fun p hp => by cases p <;> first | rfl | exact absurd h hp, fun _ _ => rfl⟩

theorem Dev.Changes.rcd_ {ps : List DevPart} {S : Nat → Prop} (d : Dev) (x : RecState) (h : DevPart.rcd ∈ ps) :
    Dev.Changes ps S d { d with rcd := x } :=
  ⟨fun p hp => by cases p <;> first | rfl | exact absurd h hp, fun _ _ => rfl⟩

theorem Dev.Changes.mem_ {ps : List DevPart} {S : Nat → Prop} (d : Dev) (x : MemState) (h : DevPart.mem ∈ ps) :
    Dev.Changes ps S d { d with mem := x } :=
  ⟨fun p hp => by cases p <;> first | rfl | exact absurd h hp, fun _ _ => rfl⟩

theorem Dev.Changes.dpx_ {ps : List DevPart} {S : Nat → Prop} (d : Dev) (x : DpxState) (h : DevPart.dpx ∈ ps) :
    Dev.Changes ps S d { d with dpx := x } :=
  ⟨fun p hp => by cases p <;> first | rfl | exact absurd h hp, fun _ _ => rfl⟩

theorem Dev.Changes.diag_ {ps : List DevPart} {S : Nat → Prop} (d : Dev) (x : DiagState) (h : DevPart.diag ∈ ps) :
    Dev.Changes ps S d { d with diag := x } :=
  ⟨fun p hp => by cases p <;> first | rfl | exact absurd h hp, fun _ _ => rfl⟩

theorem Dev.Changes.rlatch_ {ps : List DevPart} {S : Nat → Prop} (d : Dev) (x : List ((Origin × Nat) × Word)) (h : DevPart.rlatch ∈ ps) :
    Dev.Changes ps S d { d with rlatch := x } :=
  ⟨fun p hp => by cases p <;> first | rfl | exact absurd h hp, fun _ _ => rfl⟩

theorem Dev.Changes.wlatch_ {ps : List DevPart} {S : Nat → Prop} (d : Dev) (x : List ((Origin × Nat) × Word)) (h : DevPart.wlatch ∈ ps) :
    Dev.Changes ps S d { d with wlatch := x } :=
  ⟨fun p hp => by cases p <;> first | rfl | exact absurd h hp, fun _ _ => rfl⟩

theorem Dev.Changes.free_ {ps : List DevPart} {S : Nat → Prop} (d : Dev) (x : Nat) (h : DevPart.free ∈ ps) :
    Dev.Changes ps S d { d with free := x } :=
  ⟨fun p hp => by cases p <;> first | rfl | exact absurd h hp, fun _ _ => rfl⟩

theorem Dev.Changes.out_ {ps : List DevPart} {S : Nat → Prop} (d : Dev) (x : List Emission) (h : DevPart.out ∈ ps) :
    Dev.Changes ps S d { d with out := x } :=
  ⟨fun p hp => by cases p <;> first | rfl | exact absurd h hp, fun _ _ => rfl⟩

/-- What is built along updates is a frame. -/
theorem Dev.Chg.changes {ps : List DevPart} {S : Nat → Prop} {a b : Dev} (h : Dev.Chg ps S a b) : Dev.Changes ps S a b := by
  induction h with
  | refl => exact .refl a
  | set d f v _ h ih => exact ih.trans (.set d f v h)
  | setWord d off w _ h ih => exact ih.trans (.setWord d off w h)
  | ite c d e _ _ ih jh => split <;> assumption
  | each d l f _ h ih =>
    exact ih.trans (.each d l f h)
  | time_ d x _ h ih => exact ih.trans (.time_ d x h)
  | ptp_ d x _ h ih => exact ih.trans (.ptp_ d x h)
  | cyc_ d x _ h ih => exact ih.trans (.cyc_ d x h)
  | rst_ d x _ h ih => exact ih.trans (.rst_ d x h)
  | clk_ d x _ h ih => exact ih.trans (.clk_ d x h)
  | hif_ d x _ h ih => exact ih.trans (.hif_ d x h)
  | ep_ d x _ h ih => exact ih.trans (.ep_ d x h)
  | aud_ d x _ h ih => exact ih.trans (.aud_ d x h)
  | sec_ d x _ h ih => exact ih.trans (.sec_ d x h)
  | ports_ d x _ h ih => exact ih.trans (.ports_ d x h)
  | arms_ d x _ h ih => exact ih.trans (.arms_ d x h)
  | sch_ d x _ h ih => exact ih.trans (.sch_ d x h)
  | saf_ d x _ h ih => exact ih.trans (.saf_ d x h)
  | lane_ d x _ h ih => exact ih.trans (.lane_ d x h)
  | svc_ d x _ h ih => exact ih.trans (.svc_ d x h)
  | loop_ d x _ h ih => exact ih.trans (.loop_ d x h)
  | adc_ d x _ h ih => exact ih.trans (.adc_ d x h)
  | rcd_ d x _ h ih => exact ih.trans (.rcd_ d x h)
  | mem_ d x _ h ih => exact ih.trans (.mem_ d x h)
  | dpx_ d x _ h ih => exact ih.trans (.dpx_ d x h)
  | diag_ d x _ h ih => exact ih.trans (.diag_ d x h)
  | rlatch_ d x _ h ih => exact ih.trans (.rlatch_ d x h)
  | wlatch_ d x _ h ih => exact ih.trans (.wlatch_ d x h)
  | free_ d x _ h ih => exact ih.trans (.free_ d x h)
  | out_ d x _ h ih => exact ih.trans (.out_ d x h)

/-- A frame keeps every field whose register it does not name. -/
theorem Dev.Changes.get {ps : List DevPart} {S : Nat → Prop} {a b : Dev} (h : Dev.Changes ps S a b) (g : Fld) (hg : ¬ S g.off) :
    b.get g = a.get g := congrArg g.of (h.2 g.off hg)

/-- A frame keeps every register at an offset it does not name. -/
theorem Dev.Changes.word {ps : List DevPart} {S : Nat → Prop} {a b : Dev} (h : Dev.Changes ps S a b) (off : Nat) (hg : ¬ S off) :
    b.word off = a.word off := h.2 off hg

end Sys2Proof.Machine
end

