-- ==== Sys2Proof/Laws/Act.lean ====
section
/-! SUPPORT. How the frames of commands run: out of reset a command's own effect is its function of the device, and a write that
is let through is the effect of its register. -/

namespace Sys2Proof.Machine

open Sys2Proof

theorem State.act_next (s : State) (o : Origin) (f : Dev → Dev) (h : s.dev.held = false) : s.act o f = .next (s.ran o (f s.dev)) := by
  simp [State.act, h]

theorem State.look_next (s : State) (o : Origin) (f : Nonvol → Dev → Dev) (h : s.dev.held = false) :
    s.look o f = .next (s.ran o (f s.nv s.dev)) := by
  simp [State.look, State.act, h]

theorem State.store_next (s : State) (o : Origin) (f : Nonvol → Dev → Nonvol × Dev) (h : s.dev.held = false) :
    s.store o f = .next (s.with_ ((f s.nv s.dev).1, (f s.nv s.dev).2.after s.dev o)) := by
  simp [State.store, h]

theorem State.access_next (s : State) (o : Origin) (f : Nonvol → Dev → Dev) (h : s.dev.held = false) :
    s.access o f = .next (s.came o (f s.nv s.dev)) := by
  simp [State.access, h]

theorem State.tap_next (s : State) (f : Dev → Dev) (h : s.dev.tapOn = true) : s.tap f = .next (s.ran .jtag (f s.dev)) := by
  simp [State.tap, h]

/-- While a reset holds the device, commands do nothing. -/
theorem State.act_held (s : State) (o : Origin) (f : Dev → Dev) (h : s.dev.held = true) : s.act o f = .next s := by
  simp [State.act, h]

theorem State.store_held (s : State) (o : Origin) (f : Nonvol → Dev → Nonvol × Dev) (h : s.dev.held = true) :
    s.store o f = .next s := by
  simp [State.store, h]

theorem State.access_held (s : State) (o : Origin) (f : Nonvol → Dev → Dev) (h : s.dev.held = true) : s.access o f = .next s := by
  simp [State.access, h]

/-- Out of DEEP nothing wakes. -/
theorem Dev.wake_awake (d : Dev) (h : d.rst.deep = false) : d.wake = d := by
  simp [Dev.wake, h]

/-- An address of BAR0's registers is no memory of a pair. -/
theorem isPairMem_bar0 (off : Nat) (h : off < 0x400000) : isPairMem off = false := by
  simp [isPairMem]
  omega

/-- A write that is let through is the effect of its register, and it answers, if it changes no locked field. -/
theorem Dev.busWrite_lets (s : State) (o : Origin) (off : Nat) (v hw : Word) (h : s.Lets o off)
    (hk : s.dev.locked = false ∨ (v ^^^ s.dev.word off) &&& rwlMask off = 0) (ha : off % 4 = 0)
    (hl : off < 0x400000) (hr : (regAt off).isSome = true) :
    s.dev.busWrite s.nv o off 0xF v hw =
      ((s.dev.special s.nv o off v).getD (s.dev.plainWrite off v hw)).emit (.answer o off .written) := by
  obtain ⟨⟨-, hd⟩, hg, h2, hf⟩ := h
  have hu : s.dev.unlockedPart off v = v := by
    unfold Dev.unlockedPart
    rcases hk with hk | hk
    · simp [hk]
    · split
      · generalize s.dev.word off = w at hk
        generalize rwlMask off = m at hk
        apply BitVec.eq_of_getLsbD_eq
        intro k hk'
        have e := congrArg (fun x : Word => x.getLsbD k) hk
        simp only [BitVec.getLsbD_and, BitVec.getLsbD_xor, BitVec.ofNat_eq_ofNat, BitVec.getLsbD_zero] at e
        simp only [BitVec.getLsbD_or, BitVec.getLsbD_and, BitVec.getLsbD_not, hk', decide_true, Bool.true_and]
        revert e
        cases v.getLsbD k <;> cases w.getLsbD k <;> cases m.getLsbD k <;> simp
      · rfl
  have hc : s.dev.lockCheck o off v = s.dev := by
    unfold Dev.lockCheck
    rcases hk with hk | hk
    · simp [hk]
    · simp [hk]
  have hw' : ∀ f, s.dev.audited o f = f s.dev := by
    intro f
    simp [Dev.audited, Dev.withheld, hf]
  have hm : s.dev.mapWrite s.nv o off 0xF v hw = s.dev.regWrite s.nv o off v hw := by
    unfold Dev.mapWrite
    rw [if_neg (by omega), if_neg (by omega)]
    cases o with
    | svc n =>
      simp only [Origin.mayWrite, Bool.or_eq_true, Bool.and_eq_true, decide_eq_true_eq, Bool.not_eq_true', Option.isNone_iff_eq_none] at h2
      rcases h2 with h2 | ⟨h2, h3⟩
      · simp only [show ¬ 2 ≤ n.val by omega, if_false, hr, if_true]
      · simp [Dev.pairRule, h2, h3, hr]
    | _ => simp [hr]
  unfold Dev.busWrite
  rw [Dev.wake_awake _ hd]
  simp only []
  rw [if_neg (by simp [isPairMem_bar0 off hl]), if_neg (by omega), hg, if_neg (by simp), hm]
  unfold Dev.regWrite
  rw [hu, hc, hw']

/-- The same, of a state. -/
theorem State.write_lets (s : State) (o : Origin) (off : Nat) (v : Word) (h : s.Lets o off)
    (hk : s.dev.locked = false ∨ (v ^^^ s.dev.word off) &&& rwlMask off = 0) (ha : off % 4 = 0)
    (hl : off < 0x400000) (hr : (regAt off).isSome = true) :
    s.write o off v =
      .next (s.came o (((s.dev.special s.nv o off v).getD (s.dev.plainWrite off v 0)).emit (.answer o off .written))) := by
  rw [← Dev.busWrite_lets s o off v 0 h hk ha hl hr]
  exact State.access_next s o _ h.1.1

/-- A write of one field that is not locked. -/
theorem State.writeF_lets (s : State) (o : Origin) (f : Fld) (x : Nat) (h : s.Lets o f.off)
    (hk : s.dev.locked = false ∨ (s.dev.fieldWord f x ^^^ s.dev.word f.off) &&& rwlMask f.off = 0) (ha : f.off % 4 = 0)
    (hl : f.off < 0x400000) (hr : (regAt f.off).isSome = true) :
    s.writeF o f x = .next (s.came o (((s.dev.special s.nv o f.off (s.dev.fieldWord f x)).getD
      (s.dev.plainWrite f.off (s.dev.fieldWord f x) 0)).emit (.answer o f.off .written))) := by
  rw [← Dev.busWrite_lets s o f.off _ 0 h hk ha hl hr]
  exact State.access_next s o _ h.1.1

/-- A write that is let through while no field is locked. -/
theorem State.write_reaches (s : State) (o : Origin) (off : Nat) (v : Word) (h : s.Reaches o off) (ha : off % 4 = 0)
    (hl : off < 0x400000) (hr : (regAt off).isSome = true) :
    s.write o off v =
      .next (s.came o (((s.dev.special s.nv o off v).getD (s.dev.plainWrite off v 0)).emit (.answer o off .written))) :=
  State.write_lets s o off v h.1 (h.2.imp id fun e => by simp [e]) ha hl hr

end Sys2Proof.Machine
end

