-- ==== Sys2Proof/Laws/Access.lean ====
section
/-! SUPPORT. The registers that rows of the opcode table write: each is implemented, and a write of it has the effect named. -/

namespace Sys2Proof.Machine

open Sys2Proof

set_option linter.unusedSimpArgs false
set_option maxRecDepth 4000

theorem regAt_CYC_CTRL : (regAt CYC_CTRL).isSome = true := by decide
theorem Dev.special_CYC_CTRL (d : Dev) (nv : Nonvol) (o : Origin) (v : Word) :
    d.special nv o CYC_CTRL v = some (if CYC_CTRL_EN.of v = 0 then d.timerStopRequest o v else (d.timerStart v).setCyc (fun c => { c with by_ := o })) := rfl

theorem regAt_RST_CTRL : (regAt RST_CTRL).isSome = true := by decide
theorem Dev.special_RST_CTRL (d : Dev) (nv : Nonvol) (o : Origin) (v : Word) :
    d.special nv o RST_CTRL v = some (d.rstCtrl o v) := rfl

theorem regAt_TOP_ATTN_EN : (regAt TOP_ATTN_EN).isSome = true := by decide
theorem Dev.special_TOP_ATTN_EN (d : Dev) (nv : Nonvol) (o : Origin) (v : Word) :
    d.special nv o TOP_ATTN_EN v = none := rfl

theorem regAt_CLK_CTRL : (regAt CLK_CTRL).isSome = true := by decide
theorem Dev.special_CLK_CTRL (d : Dev) (nv : Nonvol) (o : Origin) (v : Word) :
    d.special nv o CLK_CTRL v = some (d.clkCtrl v) := rfl

theorem regAt_CLK_MDLL : (regAt CLK_MDLL).isSome = true := by decide
theorem Dev.special_CLK_MDLL (d : Dev) (nv : Nonvol) (o : Origin) (v : Word) :
    d.special nv o CLK_MDLL v = some (d.clkMdll v) := rfl

theorem regAt_CLK_DIV : (regAt CLK_DIV).isSome = true := by decide
theorem Dev.special_CLK_DIV (d : Dev) (nv : Nonvol) (o : Origin) (v : Word) :
    d.special nv o CLK_DIV v = some (d.clkDiv v) := rfl

theorem regAt_CLK_OUT : (regAt CLK_OUT).isSome = true := by decide
theorem Dev.special_CLK_OUT (d : Dev) (nv : Nonvol) (o : Origin) (v : Word) :
    d.special nv o CLK_OUT v = some (d.clkOut v) := rfl

theorem regAt_CLK_GATE0 : (regAt CLK_GATE0).isSome = true := by decide
theorem Dev.special_CLK_GATE0 (d : Dev) (nv : Nonvol) (o : Origin) (v : Word) :
    d.special nv o CLK_GATE0 v = some (d.clkGate false v) := rfl

theorem regAt_CLK_GATE1 : (regAt CLK_GATE1).isSome = true := by decide
theorem Dev.special_CLK_GATE1 (d : Dev) (nv : Nonvol) (o : Origin) (v : Word) :
    d.special nv o CLK_GATE1 v = some (d.clkGate true v) := rfl

theorem regAt_CLK_LSEN : (regAt CLK_LSEN).isSome = true := by decide
theorem Dev.special_CLK_LSEN (d : Dev) (nv : Nonvol) (o : Origin) (v : Word) :
    d.special nv o CLK_LSEN v = some (d.clkLsen v) := rfl

theorem regAt_TIM_CTRL : (regAt TIM_CTRL).isSome = true := by decide
theorem Dev.special_TIM_CTRL (d : Dev) (nv : Nonvol) (o : Origin) (v : Word) :
    d.special nv o TIM_CTRL v = some (if TIM_CTRL_SNAP.of v = 0 then d else d.snap) := rfl

theorem regAt_TIM_TB0SET : (regAt TIM_TB0SET).isSome = true := by decide
theorem Dev.special_TIM_TB0SET (d : Dev) (nv : Nonvol) (o : Origin) (v : Word) :
    d.special nv o TIM_TB0SET v = some (d.tb0Set o v) := rfl

theorem regAt_TIM_TB1STEP : (regAt TIM_TB1STEP).isSome = true := by decide
theorem Dev.special_TIM_TB1STEP (d : Dev) (nv : Nonvol) (o : Origin) (v : Word) :
    d.special nv o TIM_TB1STEP v = some (d.tb1Step o v) := rfl

theorem regAt_TIM_TB1SLEW : (regAt TIM_TB1SLEW).isSome = true := by decide
theorem Dev.special_TIM_TB1SLEW (d : Dev) (nv : Nonvol) (o : Origin) (v : Word) :
    d.special nv o TIM_TB1SLEW v = some (d.tb1Slew o v) := rfl

theorem regAt_TIM_TB1RATE : (regAt TIM_TB1RATE).isSome = true := by decide
theorem Dev.special_TIM_TB1RATE (d : Dev) (nv : Nonvol) (o : Origin) (v : Word) :
    d.special nv o TIM_TB1RATE v = some (d.tb1Rate o v) := rfl

theorem regAt_TIM_TB3SET : (regAt TIM_TB3SET).isSome = true := by decide
theorem Dev.special_TIM_TB3SET (d : Dev) (nv : Nonvol) (o : Origin) (v : Word) :
    d.special nv o TIM_TB3SET v = some (d.tb3Set v) := rfl

theorem regAt_TIM_TB3STEP : (regAt TIM_TB3STEP).isSome = true := by decide
theorem Dev.special_TIM_TB3STEP (d : Dev) (nv : Nonvol) (o : Origin) (v : Word) :
    d.special nv o TIM_TB3STEP v = some (d.tb3Step v) := rfl

theorem regAt_TIM_TB3RATE : (regAt TIM_TB3RATE).isSome = true := by decide
theorem Dev.special_TIM_TB3RATE (d : Dev) (nv : Nonvol) (o : Origin) (v : Word) :
    d.special nv o TIM_TB3RATE v = some (d.tb3Rate v) := rfl

theorem regAt_SCH_ARMCMD : (regAt SCH_ARMCMD).isSome = true := by decide
theorem Dev.special_SCH_ARMCMD (d : Dev) (nv : Nonvol) (o : Origin) (v : Word) :
    d.special nv o SCH_ARMCMD v = some (d.armCommand v o) := rfl

theorem regAt_LOOP_GCLR : (regAt LOOP_GCLR).isSome = true := by decide
theorem Dev.special_LOOP_GCLR (d : Dev) (nv : Nonvol) (o : Origin) (v : Word) :
    d.special nv o LOOP_GCLR v = some (d.gclrWrite v) := rfl

theorem regAt_ADC_SWSTART : (regAt ADC_SWSTART).isSome = true := by decide
theorem Dev.special_ADC_SWSTART (d : Dev) (nv : Nonvol) (o : Origin) (v : Word) :
    d.special nv o ADC_SWSTART v = some (d.adcSwstart (ADC_SWSTART_START.of v)) := rfl

theorem regAt_ADC_OW0 : (regAt ADC_OW0).isSome = true := by decide
theorem Dev.special_ADC_OW0 (d : Dev) (nv : Nonvol) (o : Origin) (v : Word) :
    d.special nv o ADC_OW0 v = some (d.adcOwWrite 0 v) := rfl

theorem regAt_ADC_OW1 : (regAt ADC_OW1).isSome = true := by decide
theorem Dev.special_ADC_OW1 (d : Dev) (nv : Nonvol) (o : Origin) (v : Word) :
    d.special nv o ADC_OW1 v = some (d.adcOwWrite 1 (v &&& 0xFFFF)) := rfl

theorem regAt_REC_IOCMD : (regAt REC_IOCMD).isSome = true := by decide
theorem Dev.special_REC_IOCMD (d : Dev) (nv : Nonvol) (o : Origin) (v : Word) :
    d.special nv o REC_IOCMD v = some (if REC_IOCMD_ARMOUT.of v = 0 then d else d.ioArmout) := rfl

theorem regAt_DPX_CTRL : (regAt DPX_CTRL).isSome = true := by decide
theorem Dev.special_DPX_CTRL (d : Dev) (nv : Nonvol) (o : Origin) (v : Word) :
    d.special nv o DPX_CTRL v = some (d.faultWrite o v) := rfl

theorem regAt_SAF_CTRL : (regAt SAF_CTRL).isSome = true := by decide
theorem Dev.special_SAF_CTRL (d : Dev) (nv : Nonvol) (o : Origin) (v : Word) :
    d.special nv o SAF_CTRL v = some (if SAF_CTRL_ACK.of v = 0 then d else d.safAck o) := rfl

theorem regAt_SVC_ENQCMD : (regAt SVC_ENQCMD).isSome = true := by decide
theorem Dev.special_SVC_ENQCMD (d : Dev) (nv : Nonvol) (o : Origin) (v : Word) :
    d.special nv o SVC_ENQCMD v = some (d.enqueue o v.toNat) := rfl

theorem regAt_SVC_CANCEL : (regAt SVC_CANCEL).isSome = true := by decide
theorem Dev.special_SVC_CANCEL (d : Dev) (nv : Nonvol) (o : Origin) (v : Word) :
    d.special nv o SVC_CANCEL v = some (d.cancel o (SVC_CANCEL_HANDLE.of v)) := rfl

theorem regAt_SVC_DONE : (regAt SVC_DONE).isSome = true := by decide
theorem Dev.special_SVC_DONE (d : Dev) (nv : Nonvol) (o : Origin) (v : Word) :
    d.special nv o SVC_DONE v = some (if SVC_DONE_DONE.of v = 0 then d else d.svcDone o) := rfl

theorem regAt_SEC_CTRL : (regAt SEC_CTRL).isSome = true := by decide
theorem Dev.special_SEC_CTRL (d : Dev) (nv : Nonvol) (o : Origin) (v : Word) :
    d.special nv o SEC_CTRL v = some (if SEC_CTRL_RELOCK.of v = 0 then d else d.relock o) := rfl

theorem regAt_SEC_CMD : (regAt SEC_CMD).isSome = true := by decide
theorem Dev.special_SEC_CMD (d : Dev) (nv : Nonvol) (o : Origin) (v : Word) :
    d.special nv o SEC_CMD v = some (d.secCmd o (SEC_CMD_OP.of v)) := rfl

theorem regAt_AUD_RDSEQ : (regAt AUD_RDSEQ).isSome = true := by decide
theorem Dev.special_AUD_RDSEQ (d : Dev) (nv : Nonvol) (o : Origin) (v : Word) :
    d.special nv o AUD_RDSEQ v = some (d.auditRead nv v) := rfl

theorem within_iff (lo hi off : Nat) : within lo hi off = true ↔ lo ≤ off ∧ off < hi := by
  simp [within]

theorem ix_at (base stride n k : Nat) (hs : 0 < stride) (hk : k < n) : ix base stride n (base + stride * k) = some k := by
  unfold ix
  have h : base + stride * k - base = stride * k := by omega
  rw [h, Nat.mul_mod_right, Nat.mul_div_cancel_left _ hs, if_pos ⟨by omega, rfl, hk⟩]

/-- A copy of a register of a block is implemented. -/
theorem regAt_copy (off : Nat) (l : List RDesc) (k : Nat) (r : RDesc) (i : Nat) (hb : blockRegs off = l) (hr : l[k]? = some r)
    (hs : 0 < r.s1) (hi : i < r.n1) (hj : 0 < r.n2) (ho : off = r.base + r.s1 * i) : (regAt off).isSome = true := by
  unfold regAt
  rw [hb, List.find?_isSome]
  refine ⟨r, List.mem_of_getElem? hr, ?_⟩
  have h : r.base + r.s1 * i - r.base = r.s1 * i := by omega
  have h2 : r.s1 * i - i * r.s1 = 0 := by rw [Nat.mul_comm]; omega
  have h3 : (if r.s2 = 0 then 0 else 0 / r.s2) = 0 := by split <;> simp
  subst ho
  simp only [regHit, show ¬ r.base + r.s1 * i < r.base by omega, if_false, h, show ¬ r.s1 = 0 by omega,
    Nat.mul_div_cancel_left _ hs, h2, h3, hi, hj, Nat.zero_mul, and_self, if_true]
  rfl

theorem blockRegs_RING (off : Nat) (h : 0x080000 ≤ off) (k : off < 0x0C0000) : blockRegs off = regsRING := by
  unfold blockRegs
  repeat first | rw [if_pos (by omega)] | rw [if_neg (by omega)]

theorem blockRegs_LANE (off : Nat) (h : 0x0C0000 ≤ off) (k : off < 0x100000) : blockRegs off = regsLANE := by
  unfold blockRegs
  repeat first | rw [if_pos (by omega)] | rw [if_neg (by omega)]

theorem blockRegs_SCH (off : Nat) (h : 0x140000 ≤ off) (k : off < 0x180000) : blockRegs off = regsSCH := by
  unfold blockRegs
  repeat first | rw [if_pos (by omega)] | rw [if_neg (by omega)]

theorem blockRegs_REC (off : Nat) (h : 0x1D0000 ≤ off) (k : off < 0x200000) : blockRegs off = regsREC := by
  unfold blockRegs
  repeat first | rw [if_pos (by omega)] | rw [if_neg (by omega)]

theorem blockRegs_HIF (off : Nat) (h : 0x220000 ≤ off) (k : off < 0x230000) : blockRegs off = regsHIF := by
  unfold blockRegs
  repeat first | rw [if_pos (by omega)] | rw [if_neg (by omega)]

theorem blockRegs_SVC (off : Nat) (h : 0x230000 ≤ off) (k : off < 0x240000) : blockRegs off = regsSVC := by
  unfold blockRegs
  repeat first | rw [if_pos (by omega)] | rw [if_neg (by omega)]

theorem blockRegs_ARB (off : Nat) (h : 0x240000 ≤ off) (k : off < 0x250000) : blockRegs off = regsARB := by
  unfold blockRegs
  repeat first | rw [if_pos (by omega)] | rw [if_neg (by omega)]

theorem regAt_RING_CTRL (n : Fin 48) : (regAt (RING_CTRL n)).isSome = true := by
  have h := n.isLt
  exact regAt_copy _ _ 0 _ n (blockRegs_RING _ (by unfold RING_CTRL; omega) (by unfold RING_CTRL; omega)) rfl (by decide) h (by decide) rfl

theorem Dev.special_RING_CTRL (d : Dev) (nv : Nonvol) (o : Origin) (n : Fin 48) (v : Word) :
    d.special nv o (RING_CTRL n) v = some (d.ringCtrlWrite o n v) := by
  have h := n.isLt
  have e : RING_CTRL n = RING_CTRL 0 + 0x1000 * n := by unfold RING_CTRL; omega
  unfold Dev.special
  rw [e]
  generalize hx : RING_CTRL 0 + 0x1000 * n.val = x
  simp only [RING_CTRL] at hx
  repeat first | rw [if_pos (by omega)] | rw [if_neg (by omega)]
  unfold Dev.writeR
  have iRING_CTRL : ix (RING_CTRL 0) 0x1000 48 x = some n.val := by
    rw [← hx]; exact ix_at (RING_CTRL 0) 0x1000 48 n (by decide) h
  have iRING_MAP : ix (RING_MAP 0) 0x1000 48 x = none := by
    unfold ix; rw [if_neg (by simp only [RING_MAP]; omega)]
  have iLANE_CTRL : ix (LANE_CTRL 0) 0x400 100 x = none := by
    unfold ix; rw [if_neg (by simp only [LANE_CTRL]; omega)]
  have iLANE_TXEQ : ix (LANE_TXEQ 0) 0x400 100 x = none := by
    unfold ix; rw [if_neg (by simp only [LANE_TXEQ]; omega)]
  simp only [iRING_CTRL, iRING_MAP, iLANE_CTRL, iLANE_TXEQ]

theorem regAt_LANE_CTRL (n : Fin 100) : (regAt (LANE_CTRL n)).isSome = true := by
  have h := n.isLt
  exact regAt_copy _ _ 0 _ n (blockRegs_LANE _ (by unfold LANE_CTRL; omega) (by unfold LANE_CTRL; omega)) rfl (by decide) h (by decide) rfl

theorem Dev.special_LANE_CTRL (d : Dev) (nv : Nonvol) (o : Origin) (n : Fin 100) (v : Word) :
    d.special nv o (LANE_CTRL n) v = some (d.laneCtrlWrite o n v) := by
  have h := n.isLt
  have e : LANE_CTRL n = LANE_CTRL 0 + 0x400 * n := by unfold LANE_CTRL; omega
  unfold Dev.special
  rw [e]
  generalize hx : LANE_CTRL 0 + 0x400 * n.val = x
  simp only [LANE_CTRL] at hx
  repeat first | rw [if_pos (by omega)] | rw [if_neg (by omega)]
  unfold Dev.writeR
  have iRING_CTRL : ix (RING_CTRL 0) 0x1000 48 x = none := by
    unfold ix; rw [if_neg (by simp only [RING_CTRL]; omega)]
  have iRING_MAP : ix (RING_MAP 0) 0x1000 48 x = none := by
    unfold ix; rw [if_neg (by simp only [RING_MAP]; omega)]
  have iLANE_CTRL : ix (LANE_CTRL 0) 0x400 100 x = some n.val := by
    rw [← hx]; exact ix_at (LANE_CTRL 0) 0x400 100 n (by decide) h
  have iLANE_TXEQ : ix (LANE_TXEQ 0) 0x400 100 x = none := by
    unfold ix; rw [if_neg (by simp only [LANE_TXEQ]; omega)]
  simp only [iRING_CTRL, iRING_MAP, iLANE_CTRL, iLANE_TXEQ]

theorem regAt_LANE_TXEQ (n : Fin 100) : (regAt (LANE_TXEQ n)).isSome = true := by
  have h := n.isLt
  exact regAt_copy _ _ 1 _ n (blockRegs_LANE _ (by unfold LANE_TXEQ; omega) (by unfold LANE_TXEQ; omega)) rfl (by decide) h (by decide) rfl

theorem Dev.special_LANE_TXEQ (d : Dev) (nv : Nonvol) (o : Origin) (n : Fin 100) (v : Word) :
    d.special nv o (LANE_TXEQ n) v = some (d.laneTxeq n v) := by
  have h := n.isLt
  have e : LANE_TXEQ n = LANE_TXEQ 0 + 0x400 * n := by unfold LANE_TXEQ; omega
  unfold Dev.special
  rw [e]
  generalize hx : LANE_TXEQ 0 + 0x400 * n.val = x
  simp only [LANE_TXEQ] at hx
  repeat first | rw [if_pos (by omega)] | rw [if_neg (by omega)]
  unfold Dev.writeR
  have iRING_CTRL : ix (RING_CTRL 0) 0x1000 48 x = none := by
    unfold ix; rw [if_neg (by simp only [RING_CTRL]; omega)]
  have iRING_MAP : ix (RING_MAP 0) 0x1000 48 x = none := by
    unfold ix; rw [if_neg (by simp only [RING_MAP]; omega)]
  have iLANE_CTRL : ix (LANE_CTRL 0) 0x400 100 x = none := by
    unfold ix; rw [if_neg (by simp only [LANE_CTRL]; omega)]
  have iLANE_TXEQ : ix (LANE_TXEQ 0) 0x400 100 x = some n.val := by
    rw [← hx]; exact ix_at (LANE_TXEQ 0) 0x400 100 n (by decide) h
  simp only [iRING_CTRL, iRING_MAP, iLANE_CTRL, iLANE_TXEQ]

theorem regAt_SCH_ACTL (n : Fin 12) : (regAt (SCH_ACTL n)).isSome = true := by
  have h := n.isLt
  exact regAt_copy _ _ 6 _ n (blockRegs_SCH _ (by unfold SCH_ACTL; omega) (by unfold SCH_ACTL; omega)) rfl (by decide) h (by decide) rfl

theorem Dev.special_SCH_ACTL (d : Dev) (nv : Nonvol) (o : Origin) (n : Fin 12) (v : Word) :
    d.special nv o (SCH_ACTL n) v = some (d.actlWrite o n v) := by
  have h := n.isLt
  have e : SCH_ACTL n = SCH_ACTL 0 + 0x40 * n := by unfold SCH_ACTL; omega
  unfold Dev.special
  rw [e]
  generalize hx : SCH_ACTL 0 + 0x40 * n.val = x
  simp only [SCH_ACTL] at hx
  repeat first | rw [if_pos (by omega)] | rw [if_neg (by omega)]
  unfold Dev.writeS
  have iSCH_ACTL : ix (SCH_ACTL 0) 0x40 12 x = some n.val := by
    rw [← hx]; exact ix_at (SCH_ACTL 0) 0x40 12 n (by decide) h
  have iREC_CTRL : ix (REC_CTRL 0) 0x100 4 x = none := by
    unfold ix; rw [if_neg (by simp only [REC_CTRL]; omega)]
  rw [if_neg (show ¬ x = SCH_ARMCMD by unfold SCH_ARMCMD; omega)]
  rw [if_neg (show ¬ (within (SCH_VREF 0) (SCH_VREF 12) x = true ∧ x % 0x40 ∈ [0x0C, 0x10, 0x14, 0x18]) by
    have hm : x % 0x40 = 0 := by omega
    rw [hm]; rintro ⟨-, h⟩; exact absurd h (by decide))]
  rw [if_neg (show ¬ x = LOOP_GCLR by unfold LOOP_GCLR; omega)]
  rw [if_neg (show ¬ x = ADC_SWSTART by unfold ADC_SWSTART; omega)]
  rw [if_neg (show ¬ x = ADC_OW0 by unfold ADC_OW0; omega)]
  rw [if_neg (show ¬ x = ADC_OW1 by unfold ADC_OW1; omega)]
  rw [if_neg (show ¬ x = REC_IOCMD by unfold REC_IOCMD; omega)]
  simp only [iSCH_ACTL, iREC_CTRL]

theorem regAt_SCH_VREF (n : Fin 12) : (regAt (SCH_VREF n)).isSome = true := by
  have h := n.isLt
  exact regAt_copy _ _ 9 _ n (blockRegs_SCH _ (by unfold SCH_VREF; omega) (by unfold SCH_VREF; omega)) rfl (by decide) h (by decide) rfl

theorem Dev.special_SCH_VREF (d : Dev) (nv : Nonvol) (o : Origin) (n : Fin 12) (v : Word) :
    d.special nv o (SCH_VREF n) v = some (d.setRWrite false n false v.toNat) := by
  have h := n.isLt
  have e : SCH_VREF n = SCH_VREF 0 + 0x40 * n := by unfold SCH_VREF; omega
  unfold Dev.special
  rw [e]
  generalize hx : SCH_VREF 0 + 0x40 * n.val = x
  simp only [SCH_VREF] at hx
  repeat first | rw [if_pos (by omega)] | rw [if_neg (by omega)]
  unfold Dev.writeS
  rw [if_neg (show ¬ x = SCH_ARMCMD by unfold SCH_ARMCMD; omega)]
  have hm : x % 0x40 = 0xc := by omega
  have hw : within (SCH_VREF 0) (SCH_VREF 12) x = true := by
    simp only [within_iff, SCH_VREF]; omega
  rw [if_pos ⟨hw, by rw [hm]; decide⟩, hm, show (x - SCH_VREF 0) / 0x40 = n.val by unfold SCH_VREF; omega]
  rfl

theorem regAt_SCH_VOFS (n : Fin 12) : (regAt (SCH_VOFS n)).isSome = true := by
  have h := n.isLt
  exact regAt_copy _ _ 10 _ n (blockRegs_SCH _ (by unfold SCH_VOFS; omega) (by unfold SCH_VOFS; omega)) rfl (by decide) h (by decide) rfl

theorem Dev.special_SCH_VOFS (d : Dev) (nv : Nonvol) (o : Origin) (n : Fin 12) (v : Word) :
    d.special nv o (SCH_VOFS n) v = some (d.setRWrite false n true v.toNat) := by
  have h := n.isLt
  have e : SCH_VOFS n = SCH_VOFS 0 + 0x40 * n := by unfold SCH_VOFS; omega
  unfold Dev.special
  rw [e]
  generalize hx : SCH_VOFS 0 + 0x40 * n.val = x
  simp only [SCH_VOFS] at hx
  repeat first | rw [if_pos (by omega)] | rw [if_neg (by omega)]
  unfold Dev.writeS
  rw [if_neg (show ¬ x = SCH_ARMCMD by unfold SCH_ARMCMD; omega)]
  have hm : x % 0x40 = 0x10 := by omega
  have hw : within (SCH_VREF 0) (SCH_VREF 12) x = true := by
    simp only [within_iff, SCH_VREF]; omega
  rw [if_pos ⟨hw, by rw [hm]; decide⟩, hm, show (x - SCH_VREF 0) / 0x40 = n.val by unfold SCH_VREF; omega]
  rfl

theorem regAt_SCH_PCFG (n : Fin 12) : (regAt (SCH_PCFG n)).isSome = true := by
  have h := n.isLt
  exact regAt_copy _ _ 11 _ n (blockRegs_SCH _ (by unfold SCH_PCFG; omega) (by unfold SCH_PCFG; omega)) rfl (by decide) h (by decide) rfl

theorem Dev.special_SCH_PCFG (d : Dev) (nv : Nonvol) (o : Origin) (n : Fin 12) (v : Word) :
    d.special nv o (SCH_PCFG n) v = some (d.pcfgWrite n v) := by
  have h := n.isLt
  have e : SCH_PCFG n = SCH_PCFG 0 + 0x40 * n := by unfold SCH_PCFG; omega
  unfold Dev.special
  rw [e]
  generalize hx : SCH_PCFG 0 + 0x40 * n.val = x
  simp only [SCH_PCFG] at hx
  repeat first | rw [if_pos (by omega)] | rw [if_neg (by omega)]
  unfold Dev.writeS
  rw [if_neg (show ¬ x = SCH_ARMCMD by unfold SCH_ARMCMD; omega)]
  have hm : x % 0x40 = 0x14 := by omega
  have hw : within (SCH_VREF 0) (SCH_VREF 12) x = true := by
    simp only [within_iff, SCH_VREF]; omega
  rw [if_pos ⟨hw, by rw [hm]; decide⟩, hm, show (x - SCH_VREF 0) / 0x40 = n.val by unfold SCH_VREF; omega]
  rfl

theorem regAt_SCH_PSC (n : Fin 12) : (regAt (SCH_PSC n)).isSome = true := by
  have h := n.isLt
  exact regAt_copy _ _ 12 _ n (blockRegs_SCH _ (by unfold SCH_PSC; omega) (by unfold SCH_PSC; omega)) rfl (by decide) h (by decide) rfl

theorem Dev.special_SCH_PSC (d : Dev) (nv : Nonvol) (o : Origin) (n : Fin 12) (v : Word) :
    d.special nv o (SCH_PSC n) v = some (d.pscWrite n v) := by
  have h := n.isLt
  have e : SCH_PSC n = SCH_PSC 0 + 0x40 * n := by unfold SCH_PSC; omega
  unfold Dev.special
  rw [e]
  generalize hx : SCH_PSC 0 + 0x40 * n.val = x
  simp only [SCH_PSC] at hx
  repeat first | rw [if_pos (by omega)] | rw [if_neg (by omega)]
  unfold Dev.writeS
  rw [if_neg (show ¬ x = SCH_ARMCMD by unfold SCH_ARMCMD; omega)]
  have hm : x % 0x40 = 0x18 := by omega
  have hw : within (SCH_VREF 0) (SCH_VREF 12) x = true := by
    simp only [within_iff, SCH_VREF]; omega
  rw [if_pos ⟨hw, by rw [hm]; decide⟩, hm, show (x - SCH_VREF 0) / 0x40 = n.val by unfold SCH_VREF; omega]
  rfl

theorem regAt_REC_CTRL (n : Fin 4) : (regAt (REC_CTRL n)).isSome = true := by
  have h := n.isLt
  exact regAt_copy _ _ 6 _ n (blockRegs_REC _ (by unfold REC_CTRL; omega) (by unfold REC_CTRL; omega)) rfl (by decide) h (by decide) rfl

theorem Dev.special_REC_CTRL (d : Dev) (nv : Nonvol) (o : Origin) (n : Fin 4) (v : Word) :
    d.special nv o (REC_CTRL n) v = some (d.recCtrlWrite n v) := by
  have h := n.isLt
  have e : REC_CTRL n = REC_CTRL 0 + 0x100 * n := by unfold REC_CTRL; omega
  unfold Dev.special
  rw [e]
  generalize hx : REC_CTRL 0 + 0x100 * n.val = x
  simp only [REC_CTRL] at hx
  repeat first | rw [if_pos (by omega)] | rw [if_neg (by omega)]
  unfold Dev.writeS
  have iSCH_ACTL : ix (SCH_ACTL 0) 0x40 12 x = none := by
    unfold ix; rw [if_neg (by simp only [SCH_ACTL]; omega)]
  have iREC_CTRL : ix (REC_CTRL 0) 0x100 4 x = some n.val := by
    rw [← hx]; exact ix_at (REC_CTRL 0) 0x100 4 n (by decide) h
  rw [if_neg (show ¬ x = SCH_ARMCMD by unfold SCH_ARMCMD; omega)]
  rw [if_neg (show ¬ (within (SCH_VREF 0) (SCH_VREF 12) x = true ∧ x % 0x40 ∈ [0x0C, 0x10, 0x14, 0x18]) by
    simp only [within_iff, SCH_VREF]; omega)]
  rw [if_neg (show ¬ x = LOOP_GCLR by unfold LOOP_GCLR; omega)]
  rw [if_neg (show ¬ x = ADC_SWSTART by unfold ADC_SWSTART; omega)]
  rw [if_neg (show ¬ x = ADC_OW0 by unfold ADC_OW0; omega)]
  rw [if_neg (show ¬ x = ADC_OW1 by unfold ADC_OW1; omega)]
  rw [if_neg (show ¬ x = REC_IOCMD by unfold REC_IOCMD; omega)]
  simp only [iSCH_ACTL, iREC_CTRL]

theorem regAt_HIF_RING_CTL (n : Fin 6) : (regAt (HIF_RING_CTL n)).isSome = true := by
  have h := n.isLt
  exact regAt_copy _ _ 10 _ n (blockRegs_HIF _ (by unfold HIF_RING_CTL; omega) (by unfold HIF_RING_CTL; omega)) rfl (by decide) h (by decide) rfl

theorem Dev.special_HIF_RING_CTL (d : Dev) (nv : Nonvol) (o : Origin) (n : Fin 6) (v : Word) :
    d.special nv o (HIF_RING_CTL n) v = some (d.ringCtl n v) := by
  have h := n.isLt
  have e : HIF_RING_CTL n = HIF_RING_CTL 0 + 0x20 * n := by unfold HIF_RING_CTL; omega
  unfold Dev.special
  rw [e]
  generalize hx : HIF_RING_CTL 0 + 0x20 * n.val = x
  simp only [HIF_RING_CTL] at hx
  repeat first | rw [if_pos (by omega)] | rw [if_neg (by omega)]
  unfold Dev.writeH
  have iHIF_RING_CTL : ix (HIF_RING_CTL 0) 0x20 6 x = some n.val := by
    rw [← hx]; exact ix_at (HIF_RING_CTL 0) 0x20 6 n (by decide) h
  have iHIF_RING_BASELO : ix (HIF_RING_BASELO 0) 0x20 6 x = none := by
    unfold ix; rw [if_neg (by simp only [HIF_RING_BASELO]; omega)]
  have iHIF_RING_BASEHI : ix (HIF_RING_BASEHI 0) 0x20 6 x = none := by
    unfold ix; rw [if_neg (by simp only [HIF_RING_BASEHI]; omega)]
  rw [if_neg (show ¬ x = DPX_CTRL by unfold DPX_CTRL; omega)]
  rw [if_neg (show ¬ x = DPX_CFG by unfold DPX_CFG; omega)]
  rw [if_neg (show ¬ x = SAF_CTRL by unfold SAF_CTRL; omega)]
  rw [if_neg (show ¬ (within 0x210000 0x220000 x = true ∧ x ≠ SAF_EVT) by
    simp only [within_iff]; omega)]
  simp only [iHIF_RING_CTL, iHIF_RING_BASELO, iHIF_RING_BASEHI]

theorem regAt_HIF_RING_BASELO (n : Fin 6) : (regAt (HIF_RING_BASELO n)).isSome = true := by
  have h := n.isLt
  exact regAt_copy _ _ 8 _ n (blockRegs_HIF _ (by unfold HIF_RING_BASELO; omega) (by unfold HIF_RING_BASELO; omega)) rfl (by decide) h (by decide) rfl

theorem Dev.special_HIF_RING_BASELO (d : Dev) (nv : Nonvol) (o : Origin) (n : Fin 6) (v : Word) :
    d.special nv o (HIF_RING_BASELO n) v = some (d.wideLow o (HIF_RING_BASELO n) v) := by
  have h := n.isLt
  have e : HIF_RING_BASELO n = HIF_RING_BASELO 0 + 0x20 * n := by unfold HIF_RING_BASELO; omega
  unfold Dev.special
  rw [e]
  generalize hx : HIF_RING_BASELO 0 + 0x20 * n.val = x
  simp only [HIF_RING_BASELO] at hx
  repeat first | rw [if_pos (by omega)] | rw [if_neg (by omega)]
  unfold Dev.writeH
  have iHIF_RING_CTL : ix (HIF_RING_CTL 0) 0x20 6 x = none := by
    unfold ix; rw [if_neg (by simp only [HIF_RING_CTL]; omega)]
  have iHIF_RING_BASELO : ix (HIF_RING_BASELO 0) 0x20 6 x = some n.val := by
    rw [← hx]; exact ix_at (HIF_RING_BASELO 0) 0x20 6 n (by decide) h
  have iHIF_RING_BASEHI : ix (HIF_RING_BASEHI 0) 0x20 6 x = none := by
    unfold ix; rw [if_neg (by simp only [HIF_RING_BASEHI]; omega)]
  rw [if_neg (show ¬ x = DPX_CTRL by unfold DPX_CTRL; omega)]
  rw [if_neg (show ¬ x = DPX_CFG by unfold DPX_CFG; omega)]
  rw [if_neg (show ¬ x = SAF_CTRL by unfold SAF_CTRL; omega)]
  rw [if_neg (show ¬ (within 0x210000 0x220000 x = true ∧ x ≠ SAF_EVT) by
    simp only [within_iff]; omega)]
  simp only [iHIF_RING_CTL, iHIF_RING_BASELO, iHIF_RING_BASEHI]

theorem regAt_HIF_RING_BASEHI (n : Fin 6) : (regAt (HIF_RING_BASEHI n)).isSome = true := by
  have h := n.isLt
  exact regAt_copy _ _ 9 _ n (blockRegs_HIF _ (by unfold HIF_RING_BASEHI; omega) (by unfold HIF_RING_BASEHI; omega)) rfl (by decide) h (by decide) rfl

theorem Dev.special_HIF_RING_BASEHI (d : Dev) (nv : Nonvol) (o : Origin) (n : Fin 6) (v : Word) :
    d.special nv o (HIF_RING_BASEHI n) v = some (d.wideHigh o (HIF_RING_BASELO n) (HIF_RING_BASEHI n) v) := by
  have h := n.isLt
  have e : HIF_RING_BASEHI n = HIF_RING_BASEHI 0 + 0x20 * n := by unfold HIF_RING_BASEHI; omega
  unfold Dev.special
  rw [e]
  generalize hx : HIF_RING_BASEHI 0 + 0x20 * n.val = x
  simp only [HIF_RING_BASEHI] at hx
  repeat first | rw [if_pos (by omega)] | rw [if_neg (by omega)]
  unfold Dev.writeH
  have iHIF_RING_CTL : ix (HIF_RING_CTL 0) 0x20 6 x = none := by
    unfold ix; rw [if_neg (by simp only [HIF_RING_CTL]; omega)]
  have iHIF_RING_BASELO : ix (HIF_RING_BASELO 0) 0x20 6 x = none := by
    unfold ix; rw [if_neg (by simp only [HIF_RING_BASELO]; omega)]
  have iHIF_RING_BASEHI : ix (HIF_RING_BASEHI 0) 0x20 6 x = some n.val := by
    rw [← hx]; exact ix_at (HIF_RING_BASEHI 0) 0x20 6 n (by decide) h
  rw [if_neg (show ¬ x = DPX_CTRL by unfold DPX_CTRL; omega)]
  rw [if_neg (show ¬ x = DPX_CFG by unfold DPX_CFG; omega)]
  rw [if_neg (show ¬ x = SAF_CTRL by unfold SAF_CTRL; omega)]
  rw [if_neg (show ¬ (within 0x210000 0x220000 x = true ∧ x ≠ SAF_EVT) by
    simp only [within_iff]; omega)]
  simp only [iHIF_RING_CTL, iHIF_RING_BASELO, iHIF_RING_BASEHI]

theorem regAt_SVC_PCTL (n : Fin 4) : (regAt (SVC_PCTL n)).isSome = true := by
  have h := n.isLt
  exact regAt_copy _ _ 16 _ n (blockRegs_SVC _ (by unfold SVC_PCTL; omega) (by unfold SVC_PCTL; omega)) rfl (by decide) h (by decide) rfl

theorem Dev.special_SVC_PCTL (d : Dev) (nv : Nonvol) (o : Origin) (n : Fin 4) (v : Word) :
    d.special nv o (SVC_PCTL n) v = some (d.pctlWrite o n v) := by
  have h := n.isLt
  have e : SVC_PCTL n = SVC_PCTL 0 + 0x40 * n := by unfold SVC_PCTL; omega
  unfold Dev.special
  rw [e]
  generalize hx : SVC_PCTL 0 + 0x40 * n.val = x
  simp only [SVC_PCTL] at hx
  repeat first | rw [if_pos (by omega)] | rw [if_neg (by omega)]
  unfold Dev.writeV
  have iSVC_ENQ : ix (SVC_ENQ 0) 0x4 8 x = none := by
    unfold ix; rw [if_neg (by simp only [SVC_ENQ]; omega)]
  have iSVC_PCTL : ix (SVC_PCTL 0) 0x40 4 x = some n.val := by
    rw [← hx]; exact ix_at (SVC_PCTL 0) 0x40 4 n (by decide) h
  have iSVC_SEMCTL : ix (SVC_SEMCTL 0) 0x10 64 x = none := by
    unfold ix; rw [if_neg (by simp only [SVC_SEMCTL]; omega)]
  have iSVC_FCFG : ix (SVC_FCFG 0) 0x10 256 x = none := by
    unfold ix; rw [if_neg (by simp only [SVC_FCFG]; omega)]
  rw [if_neg (show ¬ x = SVC_ENQCMD by unfold SVC_ENQCMD; omega)]
  rw [if_neg (show ¬ x = SVC_CANCEL by unfold SVC_CANCEL; omega)]
  rw [if_neg (show ¬ x = SVC_DONE by unfold SVC_DONE; omega)]
  simp only [iSVC_ENQ, iSVC_PCTL, iSVC_SEMCTL, iSVC_FCFG]

theorem regAt_SVC_SEMCTL (n : Fin 64) : (regAt (SVC_SEMCTL n)).isSome = true := by
  have h := n.isLt
  exact regAt_copy _ _ 28 _ n (blockRegs_SVC _ (by unfold SVC_SEMCTL; omega) (by unfold SVC_SEMCTL; omega)) rfl (by decide) h (by decide) rfl

theorem Dev.special_SVC_SEMCTL (d : Dev) (nv : Nonvol) (o : Origin) (n : Fin 64) (v : Word) :
    d.special nv o (SVC_SEMCTL n) v = some (d.semWrite o n v) := by
  have h := n.isLt
  have e : SVC_SEMCTL n = SVC_SEMCTL 0 + 0x10 * n := by unfold SVC_SEMCTL; omega
  unfold Dev.special
  rw [e]
  generalize hx : SVC_SEMCTL 0 + 0x10 * n.val = x
  simp only [SVC_SEMCTL] at hx
  repeat first | rw [if_pos (by omega)] | rw [if_neg (by omega)]
  unfold Dev.writeV
  have iSVC_ENQ : ix (SVC_ENQ 0) 0x4 8 x = none := by
    unfold ix; rw [if_neg (by simp only [SVC_ENQ]; omega)]
  have iSVC_PCTL : ix (SVC_PCTL 0) 0x40 4 x = none := by
    unfold ix; rw [if_neg (by simp only [SVC_PCTL]; omega)]
  have iSVC_SEMCTL : ix (SVC_SEMCTL 0) 0x10 64 x = some n.val := by
    rw [← hx]; exact ix_at (SVC_SEMCTL 0) 0x10 64 n (by decide) h
  have iSVC_FCFG : ix (SVC_FCFG 0) 0x10 256 x = none := by
    unfold ix; rw [if_neg (by simp only [SVC_FCFG]; omega)]
  rw [if_neg (show ¬ x = SVC_ENQCMD by unfold SVC_ENQCMD; omega)]
  rw [if_neg (show ¬ x = SVC_CANCEL by unfold SVC_CANCEL; omega)]
  rw [if_neg (show ¬ x = SVC_DONE by unfold SVC_DONE; omega)]
  simp only [iSVC_ENQ, iSVC_PCTL, iSVC_SEMCTL, iSVC_FCFG]

theorem regAt_ARB_PORT (n : Fin 72) : (regAt (ARB_PORT n)).isSome = true := by
  have h := n.isLt
  exact regAt_copy _ _ 6 _ n (blockRegs_ARB _ (by unfold ARB_PORT; omega) (by unfold ARB_PORT; omega)) rfl (by decide) h (by decide) rfl

theorem Dev.special_ARB_PORT (d : Dev) (nv : Nonvol) (o : Origin) (n : Fin 72) (v : Word) :
    d.special nv o (ARB_PORT n) v = some (d.arbPortWrite false n 0 v) := by
  have h := n.isLt
  have e : ARB_PORT n = ARB_PORT 0 + 0x4 * n := by unfold ARB_PORT; omega
  unfold Dev.special
  rw [e]
  generalize hx : ARB_PORT 0 + 0x4 * n.val = x
  simp only [ARB_PORT] at hx
  repeat first | rw [if_pos (by omega)] | rw [if_neg (by omega)]
  unfold Dev.writeM
  have iARB_PORT : ix (ARB_PORT 0) 0x4 72 x = some n.val := by
    rw [← hx]; exact ix_at (ARB_PORT 0) 0x4 72 n (by decide) h
  have iARB_DDRW : ix (ARB_DDRW 0) 0x4 9 x = none := by
    unfold ix; rw [if_neg (by simp only [ARB_DDRW]; omega)]
  have hp : pertAt x = none := by
    simp only [pertAt, allPerts, List.find?_eq_none, beq_iff_eq, List.mem_cons, List.not_mem_nil, or_false]
    rintro p (rfl | rfl | rfl | rfl | rfl | rfl | rfl) <;> simp only [Pert.off, DIAG_PDEP, DIAG_PFWD, DIAG_PTHR, DIAG_PSLOT, DIAG_PING, DIAG_PHB, DIAG_PDLY] <;> omega
  rw [if_neg (show ¬ x = SEC_CTRL by unfold SEC_CTRL; omega)]
  rw [if_neg (show ¬ x = SEC_CMD by unfold SEC_CMD; omega)]
  rw [if_neg (show ¬ (within (SEC_MBOX 0) (SEC_MBOX 1024) x = true) by
    simp only [within_iff, SEC_MBOX]; omega)]
  rw [if_neg (show ¬ x = AUD_RDSEQ by unfold AUD_RDSEQ; omega)]
  simp only [iARB_PORT, iARB_DDRW, hp]

theorem regAt_ARB_DDRW (n : Fin 9) : (regAt (ARB_DDRW n)).isSome = true := by
  have h := n.isLt
  exact regAt_copy _ _ 8 _ n (blockRegs_ARB _ (by unfold ARB_DDRW; omega) (by unfold ARB_DDRW; omega)) rfl (by decide) h (by decide) rfl

theorem Dev.special_ARB_DDRW (d : Dev) (nv : Nonvol) (o : Origin) (n : Fin 9) (v : Word) :
    d.special nv o (ARB_DDRW n) v = some (d.arbPortWrite true n 0 v) := by
  have h := n.isLt
  have e : ARB_DDRW n = ARB_DDRW 0 + 0x4 * n := by unfold ARB_DDRW; omega
  unfold Dev.special
  rw [e]
  generalize hx : ARB_DDRW 0 + 0x4 * n.val = x
  simp only [ARB_DDRW] at hx
  repeat first | rw [if_pos (by omega)] | rw [if_neg (by omega)]
  unfold Dev.writeM
  have iARB_PORT : ix (ARB_PORT 0) 0x4 72 x = none := by
    unfold ix; rw [if_neg (by simp only [ARB_PORT]; omega)]
  have iARB_DDRW : ix (ARB_DDRW 0) 0x4 9 x = some n.val := by
    rw [← hx]; exact ix_at (ARB_DDRW 0) 0x4 9 n (by decide) h
  have hp : pertAt x = none := by
    simp only [pertAt, allPerts, List.find?_eq_none, beq_iff_eq, List.mem_cons, List.not_mem_nil, or_false]
    rintro p (rfl | rfl | rfl | rfl | rfl | rfl | rfl) <;> simp only [Pert.off, DIAG_PDEP, DIAG_PFWD, DIAG_PTHR, DIAG_PSLOT, DIAG_PING, DIAG_PHB, DIAG_PDLY] <;> omega
  rw [if_neg (show ¬ x = SEC_CTRL by unfold SEC_CTRL; omega)]
  rw [if_neg (show ¬ x = SEC_CMD by unfold SEC_CMD; omega)]
  rw [if_neg (show ¬ (within (SEC_MBOX 0) (SEC_MBOX 1024) x = true) by
    simp only [within_iff, SEC_MBOX]; omega)]
  rw [if_neg (show ¬ x = AUD_RDSEQ by unfold AUD_RDSEQ; omega)]
  simp only [iARB_PORT, iARB_DDRW, hp]

theorem regAt_ARB_SLOT (n : Fin 256) : (regAt (ARB_SLOT n)).isSome = true := by
  have h := n.isLt
  exact regAt_copy _ _ 9 _ n (blockRegs_ARB _ (by unfold ARB_SLOT; omega) (by unfold ARB_SLOT; omega)) rfl (by decide) h (by decide) rfl

theorem Dev.special_ARB_SLOT (d : Dev) (nv : Nonvol) (o : Origin) (n : Fin 256) (v : Word) :
    d.special nv o (ARB_SLOT n) v = none := by
  have h := n.isLt
  have e : ARB_SLOT n = ARB_SLOT 0 + 0x4 * n := by unfold ARB_SLOT; omega
  unfold Dev.special
  rw [e]
  generalize hx : ARB_SLOT 0 + 0x4 * n.val = x
  simp only [ARB_SLOT] at hx
  repeat first | rw [if_pos (by omega)] | rw [if_neg (by omega)]
  unfold Dev.writeM
  have iARB_PORT : ix (ARB_PORT 0) 0x4 72 x = none := by
    unfold ix; rw [if_neg (by simp only [ARB_PORT]; omega)]
  have iARB_DDRW : ix (ARB_DDRW 0) 0x4 9 x = none := by
    unfold ix; rw [if_neg (by simp only [ARB_DDRW]; omega)]
  have hp : pertAt x = none := by
    simp only [pertAt, allPerts, List.find?_eq_none, beq_iff_eq, List.mem_cons, List.not_mem_nil, or_false]
    rintro p (rfl | rfl | rfl | rfl | rfl | rfl | rfl) <;> simp only [Pert.off, DIAG_PDEP, DIAG_PFWD, DIAG_PTHR, DIAG_PSLOT, DIAG_PING, DIAG_PHB, DIAG_PDLY] <;> omega
  rw [if_neg (show ¬ x = SEC_CTRL by unfold SEC_CTRL; omega)]
  rw [if_neg (show ¬ x = SEC_CMD by unfold SEC_CMD; omega)]
  rw [if_neg (show ¬ (within (SEC_MBOX 0) (SEC_MBOX 1024) x = true) by
    simp only [within_iff, SEC_MBOX]; omega)]
  rw [if_neg (show ¬ x = AUD_RDSEQ by unfold AUD_RDSEQ; omega)]
  simp only [iARB_PORT, iARB_DDRW, hp]

theorem regAt_pert (k : Pert) : (regAt k.off).isSome = true := by cases k <;> decide
theorem Dev.special_pert (d : Dev) (nv : Nonvol) (o : Origin) (k : Pert) (v : Word) :
    d.special nv o k.off v = some (d.pertWrite k (typeMask (· == .rw) k.off) v) := by cases k <;> rfl

end Sys2Proof.Machine
end

