-- ==== Sys2Proof/Laws/Audit.lean ====
section
/-! SUPPORT. The audit log's chain: a new entry keeps it, and a full log loses its oldest entry; what the frames of commands leave
of fuses, MRAM and the queue of commands. -/

namespace Sys2Proof.Machine

open Sys2Proof

theorem Chained.append_one {base : BitVec 64} {next : Word} {l : List AudEntry} {y : AudEntry} (h : Chained base next (l ++ [y])) :
    Chained y.chain next l := by
  induction l generalizing next with
  | nil => trivial
  | cons e l ih =>
    obtain ⟨h1, h2, h3⟩ := h
    refine ⟨h1, ?_, ih h3⟩
    cases l with
    | nil => exact h2
    | cons f l => exact h2

/-- Without its oldest entry a chain verifies from that entry's value. -/
theorem Chained.take {base : BitVec 64} {next : Word} {l : List AudEntry} {n : Nat} {y : AudEntry} (h : Chained base next l)
    (hl : l.length ≤ n + 1) (hy : l[n]? = some y) : Chained y.chain next (l.take n) := by
  have hn : n < l.length := (List.getElem?_eq_some_iff.mp hy).1
  have e : l = l.take n ++ [y] := by
    have := List.take_append_drop n l
    rw [List.drop_eq_getElem_cons hn, List.drop_eq_nil_of_le (by omega)] at this
    rw [(List.getElem?_eq_some_iff.mp hy).2] at this
    exact this.symm
  rw [e] at h
  exact h.append_one

theorem Nonvol.lastChain_eq (nv : Nonvol) : nv.lastChain = chainBefore nv.anchor nv.mram.log := by
  unfold Nonvol.lastChain chainBefore
  cases nv.mram.log <;> rfl

/-- A new entry keeps the log whole (R385, R386). -/
theorem Nonvol.append_logOk (nv : Nonvol) (e : AudItem) (h : nv.LogOk) : (nv.append e).LogOk := by
  obtain ⟨hc, hl⟩ := h
  have hx : Chained nv.anchor (nv.mram.nextSeq + 1)
      (⟨nv.mram.nextSeq, e, chainNext nv.lastChain nv.mram.nextSeq e⟩ :: nv.mram.log) :=
    ⟨rfl, by rw [nv.lastChain_eq], hc⟩
  unfold Nonvol.append Nonvol.LogOk
  simp only []
  split
  · rename_i y hy
    refine ⟨?_, by rw [List.length_take]; exact Nat.min_le_left _ _⟩
    exact hx.take (by simp; omega) hy
  · rename_i hy
    refine ⟨hx, ?_⟩
    exact List.getElem?_eq_none_iff.mp hy

theorem State.act_nv {s t : State} {o : Origin} {f : Dev → Dev} (h : s.act o f = .next t) : t.nv = s.nv ∧ t.pending = s.pending := by
  unfold State.act at h
  cases h
  split <;> exact ⟨rfl, rfl⟩

theorem State.tap_nv {s t : State} {f : Dev → Dev} (h : s.tap f = .next t) : t.nv = s.nv ∧ t.pending = s.pending := by
  unfold State.tap at h
  cases h
  split <;> exact ⟨rfl, rfl⟩

/-- A reset that takes hold leaves MRAM as it is. -/
theorem State.access_mram {s t : State} {o : Origin} {f : Nonvol → Dev → Dev} (h : s.access o f = .next t) :
    t.nv.mram = s.nv.mram ∧ t.pending = s.pending := by
  unfold State.access at h
  cases h
  split
  · exact ⟨rfl, rfl⟩
  · refine ⟨?_, rfl⟩
    simp only [State.came, State.with_, resetCut, Dev.cutFuses]
    split
    · simp only []
      split
      · split <;> rfl
      · rfl
    · rfl

theorem State.line_mram {s t : State} {f : Dev → Dev} (h : s.line f = .next t) : t.nv.mram = s.nv.mram ∧ t.pending = s.pending := by
  unfold State.line at h
  cases h
  refine ⟨?_, rfl⟩
  simp only [State.came, State.with_, resetCut, Dev.cutFuses]
  split
  · simp only []
    split
    · split <;> rfl
    · rfl
  · rfl

end Sys2Proof.Machine
end

