-- ==== Sys2Proof/Laws/Mem.lean ====
section
/-! SUPPORT. Laws of DDR4's bytes: read after write, a write leaves every other byte alone, every operation keeps the canonical
form, and the memory right after reset has it. -/

namespace Sys2Proof.Machine

open Sys2Proof

/-- Every address of a memory lies beyond a. -/
abbrev Memory.Above (m : Memory) (a : Nat) : Prop := ∀ c ∈ m, a < c.1

theorem Memory.wf_cons (c : Host.Cell) (m : Memory) :
    Memory.wf (c :: m) = true ↔ c.2 ≠ Memory.blank ∧ m.Above c.1 ∧ Memory.wf m = true := by
  induction m generalizing c with
  | nil => simp [Memory.wf]
  | cons e rest ih =>
    simp only [Memory.wf, Bool.and_eq_true, decide_eq_true_eq, ih e, Memory.Above, List.mem_cons, forall_eq_or_imp]
    constructor
    · rintro ⟨⟨h1, h2⟩, h3, h4, h5⟩
      exact ⟨h1, ⟨h2, fun x hx => lt_trans h2 (h4 x hx)⟩, h3, h4, h5⟩
    · rintro ⟨h1, ⟨h2, -⟩, h3, h4, h5⟩
      exact ⟨⟨h1, h2⟩, h3, h4, h5⟩

theorem Memory.above_write {m : Memory} {a b : Nat} {v : Byte} (h : m.Above b) (hb : b < a) : (m.write a v).Above b := by
  induction m with
  | nil =>
    unfold Memory.write
    split <;> simp [Memory.Above, hb]
  | cons c rest ih =>
    have hr : Memory.Above rest b := fun x hx => h x (List.mem_cons_of_mem _ hx)
    have hc : b < c.1 := h c List.mem_cons_self
    unfold Memory.write
    split
    · split
      · exact h
      · intro x hx
        rcases List.mem_cons.mp hx with rfl | hx
        · exact hb
        · exact h x hx
    · split
      · split
        · exact hr
        · intro x hx
          rcases List.mem_cons.mp hx with rfl | hx
          · exact hb
          · exact hr x hx
      · intro x hx
        rcases List.mem_cons.mp hx with rfl | hx
        · exact hc
        · exact ih hr x hx

/-- A write keeps the canonical form. -/
theorem Memory.wf_write (m : Memory) (a : Nat) (v : Byte) (h : m.wf = true) : (m.write a v).wf = true := by
  induction m with
  | nil =>
    unfold Memory.write
    split
    · rfl
    · rename_i hv
      simpa [Memory.wf] using hv
  | cons c rest ih =>
    have h' := (Memory.wf_cons c rest).mp h
    unfold Memory.write
    split
    · rename_i hlt
      split
      · exact h
      · rename_i hv
        refine (Memory.wf_cons _ _).mpr ⟨hv, fun x hx => ?_, h⟩
        rcases List.mem_cons.mp hx with rfl | hx
        · exact hlt
        · exact lt_trans hlt (h'.2.1 x hx)
    · rename_i hge
      split
      · rename_i heq
        split
        · exact h'.2.2
        · rename_i hv
          exact (Memory.wf_cons _ _).mpr ⟨hv, by rw [heq]; exact h'.2.1, h'.2.2⟩
      · rename_i hne
        exact (Memory.wf_cons _ _).mpr ⟨h'.1, Memory.above_write h'.2.1 (by omega), ih h'.2.2⟩

theorem Memory.wf_writeBytes (m : Memory) (a : Nat) (l : List Byte) (h : m.wf = true) : (m.writeBytes a l).wf = true := by
  unfold Memory.writeBytes
  generalize l.zipIdx = z
  induction z generalizing m with
  | nil => exact h
  | cons x z ih => exact ih _ (Memory.wf_write _ _ _ h)

theorem Memory.read_above {m : Memory} {a : Nat} (h : m.Above a) : m.read a = Memory.blank := by
  induction m with
  | nil => rfl
  | cons c rest ih =>
    have hc : a < c.1 := h c List.mem_cons_self
    unfold Memory.read
    rw [if_neg (by omega)]
    exact ih fun x hx => h x (List.mem_cons_of_mem _ hx)

/-- A byte just written reads as written. -/
theorem Memory.read_write_same (m : Memory) (a : Nat) (v : Byte) (h : m.wf = true) : (m.write a v).read a = v := by
  induction m with
  | nil =>
    unfold Memory.write
    split
    · rename_i hv
      exact hv.symm
    · simp [Memory.read]
  | cons c rest ih =>
    have h' := (Memory.wf_cons c rest).mp h
    unfold Memory.write
    split
    · rename_i hlt
      split
      · rename_i hv
        rw [hv]
        refine Memory.read_above fun x hx => ?_
        rcases List.mem_cons.mp hx with rfl | hx
        · exact hlt
        · exact lt_trans hlt (h'.2.1 x hx)
      · simp [Memory.read]
    · split
      · rename_i heq
        split
        · rename_i hv
          rw [hv, heq]
          exact Memory.read_above h'.2.1
        · simp [Memory.read]
      · rename_i hne
        unfold Memory.read
        rw [if_neg (fun e => hne e.symm)]
        exact ih h'.2.2

/-- A write leaves every other byte alone. -/
theorem Memory.read_write_ne (m : Memory) {a b : Nat} (v : Byte) (hab : b ≠ a) : (m.write a v).read b = m.read b := by
  induction m with
  | nil =>
    unfold Memory.write
    split
    · rfl
    · simp [Memory.read, Ne.symm hab]
  | cons c rest ih =>
    unfold Memory.write
    split
    · split
      · rfl
      · simp [Memory.read, Ne.symm hab]
    · split
      · rename_i heq
        split <;> simp [Memory.read, ← heq, Ne.symm hab]
      · simp only [Memory.read]
        split
        · rfl
        · exact ih

/-- DDR4 right after reset has the canonical form. -/
theorem State.reset_ddr_wf : Memory.wf State.reset.dev.mem.ddr = true := by decide

end Sys2Proof.Machine
end

