-- ==== Sys2Proof/Laws/Ops.lean ====
section
/-! SUPPORT. What the shared operations can change: time, ring entries, audit entries, demands, block causes, device state. -/

namespace Sys2Proof.Machine

open Sys2Proof

/-- Counting time on changes the time bases and their carry flags. -/
theorem Dev.elapse_changes (d : Dev) (ns : Nat) : Dev.Changes [.time] (At [TIM_WRAP]) d (d.elapse ns) := by
  refine Dev.Chg.changes ?_
  unfold Dev.elapse Dev.basesOn Dev.when Dev.wrapped
  repeat' constructor

theorem Dev.recNote_changes (d : Dev) (n : Nat) : Dev.Changes [.rcd] (At []) d (d.recNote n) := by
  refine Dev.Chg.changes ?_
  unfold Dev.recNote
  repeat' constructor

/-- The registers that entries of device-to-host ring r change. -/
def entryRegs (r : Nat) : List Nat := [HIF_RING_DIDX r, HIF_LOST, HIF_EVT]

theorem lostField_off (r : Nat) : (lostField r).off = HIF_LOST := by
  unfold lostField
  repeat' split
  all_goals rfl

/-- An entry of a device-to-host ring. -/
theorem Dev.pushEntry_changes (d : Dev) (r : Nat) (mk : Bool → Nat → List Word) :
    Dev.Changes [.hif, .out] (At (entryRegs r)) d (d.pushEntry r mk) := by
  refine Dev.Chg.changes ?_
  unfold Dev.pushEntry Dev.loseEntry Dev.writeEntry Dev.coalesce Dev.signal Dev.count Dev.raise
  have h : At (entryRegs r) (lostField r).off := by simp [At, entryRegs, lostField_off]
  repeat' first | exact h | constructor

theorem Dev.event_changes (d : Dev) (code : Nat) (o : Origin) (arg : Nat) :
    Dev.Changes [.hif, .out] (At (entryRegs 2)) d (d.event code o arg) := Dev.pushEntry_changes d 2 _

theorem Dev.audit_changes (d : Dev) (kind code a0 a1 : Nat) (o : Origin) :
    Dev.Changes [.aud] (At [AUD_EVT, AUD_STAT]) d (d.audit kind code a0 a1 o) := by
  refine Dev.Chg.changes ?_
  unfold Dev.audit Dev.audFull Dev.setB Dev.raise
  repeat' constructor

theorem Dev.enter_changes (d : Dev) (n : DState) (o : Origin) :
    Dev.Changes [.aud] (At [RST_STAT, RST_EVT, AUD_EVT, AUD_STAT]) d (d.enter n o) := by
  refine Dev.Chg.changes ?_
  unfold Dev.enter Dev.audit Dev.audFull Dev.setB Dev.raise
  repeat' constructor

/-! ### Demands -/

theorem Dev.latchDemand_changes (d : Dev) (kind m : Nat) : Dev.Changes [.saf] (At [SAF_DEMAND, SAF_EVT]) d (d.latchDemand kind m) := by
  refine Dev.Chg.changes ?_
  unfold Dev.latchDemand Dev.setSaf Dev.raise
  repeat' constructor

theorem Dev.demandRose_changes (d : Dev) (kind : Nat) (first : Bool) :
    Dev.Changes [.saf] (At [SAF_DEMAND, SAF_EVT]) d (d.demandRose kind first) := by
  refine Dev.Chg.changes ?_
  unfold Dev.demandRose Dev.setSaf Dev.raise
  repeat' constructor

theorem Dev.setSaf_changes {S : Nat → Prop} (d : Dev) (f : SafState → SafState) : Dev.Changes [.saf] S d (d.setSaf f) :=
  .saf_ d _ (by simp)

theorem Dev.demand_changes (d : Dev) (kind key : Nat) (m : Option Nat) :
    Dev.Changes [.saf] (At [SAF_DEMAND, SAF_EVT]) d (d.demand kind key m) := by
  dsimp only [Dev.demand]
  split
  · exact .refl d
  · exact d.setSaf_changes _
  · split
    · exact .refl d
    · exact (d.setSaf_changes _).trans (Dev.latchDemand_changes _ _ _)
  · exact ((d.setSaf_changes _).trans (Dev.latchDemand_changes _ _ _)).trans (Dev.demandRose_changes _ _ _)

theorem Dev.demandIf_changes (d : Dev) (b : Bool) (kind key m : Nat) :
    Dev.Changes [.saf] (At [SAF_DEMAND, SAF_EVT]) d (d.demandIf b kind key m) := Dev.demand_changes d kind key _

theorem Dev.scCause_changes (d : Dev) (n : Nat) (b : Bool) :
    Dev.Changes [.saf] (At [SAF_SCCAUSE, SAF_EVT, SAF_STAT]) d (d.scCause n b) := by
  refine Dev.Chg.changes ?_
  unfold Dev.scCause Dev.setSaf Dev.raise Dev.drop
  repeat' constructor

/-- The registers of the ring degraded modes. -/
def ringDegRegs : List Nat :=
  [SAF_RINGDEG_LO, SAF_RINGDEG_HI, SAF_RINGSOLE_LO, SAF_RINGSOLE_HI, SAF_STAT, SAF_DEMAND, SAF_EVT]

theorem Dev.setBit_changes {ps : List DevPart} {S : Nat → Prop} (d : Dev) (f : Fld) (n : Nat) (b : Bool) (h : S f.off) :
    Dev.Changes ps S d (d.setBit f n b) := by
  unfold Dev.setBit Dev.raise Dev.drop
  split <;> exact .set _ _ _ h

theorem Dev.setB_changes {ps : List DevPart} {S : Nat → Prop} (d : Dev) (f : Fld) (b : Bool) (h : S f.off) :
    Dev.Changes ps S d (d.setB f b) := .set _ _ _ h

theorem Dev.ringCause_changes (d : Dev) (p : Nat) : Dev.Changes [.saf] (At ringDegRegs) d (d.ringCause p) := by
  refine .trans ?_ ((Dev.demandIf_changes _ _ _ _ _).mono (fun _ h => h) fun off h => ?_)
  · refine .trans ?_ (Dev.setB_changes _ _ _ (by decide))
    split <;> refine .trans ?_ (Dev.setBit_changes _ _ _ _ (by decide)) <;>
      refine .trans ?_ (Dev.setBit_changes _ _ _ _ (by decide)) <;> exact d.setSaf_changes _
  · simp only [At, ringDegRegs, List.mem_cons] at *
    tauto

theorem Dev.ringCauses_changes (d : Dev) : Dev.Changes [.saf] (At ringDegRegs) d d.ringCauses :=
  .each d _ _ fun p _ e => e.ringCause_changes p

end Sys2Proof.Machine
end

