-- ==== Sys2Proof/Machine/Package.lean ====
section
/-! DEFINITION. The package: names and contents of the balls (R509 to R512), the typical power (R497). -/

namespace Sys2Proof.Machine

open Sys2Proof

/-- What a ball carries (R510). -/
inductive Ball where
  /-- a signal, in the order of R512; 0 to 247, the last three RSVD -/
  | periphery (i : Fin 248)
  /-- ring lane n: receive or transmit, P or N (R511) -/
  | lane (n : Nat) (tx pos : Bool)
  | vddCore | vddSda | vddSdh | vddDdr | vddIo18 | vddIo33 | vdda | vssa | vss
  deriving DecidableEq, Repr

/-- The row letters of indices 1 to 46 (R509): a prefix and one of 19 letters. -/
def rowLetters : List Char := ['A', 'B', 'C', 'D', 'E', 'F', 'G', 'H', 'J', 'K', 'L', 'M', 'N', 'P', 'T', 'U', 'V', 'W', 'Y']

/-- The name of a row by its index from 1 (R509). -/
def rowName (r : Nat) : String :=
  let c := String.ofList [(rowLetters[(r - 1) % 19]?).getD '?']
  if r ≤ 19 then c else if r ≤ 38 then "A" ++ c else "B" ++ c

/-- The name of a ball, for example AM46. -/
def ballName (row col : Nat) : String := rowName row ++ toString col

/-- The ball in the lane region: row within its three (1 P, 2 N, 3 VSS), column counted from the outer edge of its side (R511). -/
def laneBall (east : Bool) (row col : Nat) : Ball :=
  let b := (row - 1) / 3
  let s := (col - 1) / 3
  let n := (if east then 48 else 0) + 12 * s + b
  if row % 3 = 0 ∨ col % 3 = 0 then .vss else .lane n (col % 3 == 1) (row % 3 == 1)

/-- The ball at a row and a column, both 1 to 46 (R510 to R512). -/
def ballAt (row col : Nat) : Ball :=
  if row ≤ 36 then
    if col ≤ 12 then laneBall false row col
    else if 35 ≤ col then laneBall true row (47 - col)
    else if col = 13 ∨ col = 34 then .vddSda
    else if col = 14 ∨ col = 33 then .vddSdh
    else if (row + col) % 2 = 0 then .vddCore else .vss
  else if row = 37 then (if col % 2 = 0 then .vss else if col ≤ 30 then .vddDdr else .vddIo18)
  else if row = 38 then
    if col % 2 = 0 then (if 39 ≤ col then .vssa else .vss)
    else if col ≤ 30 then .vddDdr else if col ≤ 38 then .vddIo33 else .vdda
  else if col % 3 = 0 then .vss
  else .periphery (Fin.ofNat 248 ((row - 39) * 31 + 2 * (col / 3) + (col % 3 - 1)))

/-- Names with a prefix and the numbers below n, from a start. -/
def numbered (pre : String) (n : Nat) (start : Nat := 0) : List String := (List.range n).map (fun i => pre ++ toString (start + i))

/-- P and N of each of some pairs. -/
def pairNames (l : List String) : List String := l.flatMap (fun x => [x ++ "P", x ++ "N"])

/-- Transmit and receive pairs of a serial lane, such as SDL0_ or PCIE_. -/
def serialNames (pre num : String) : List String := pairNames [pre ++ "TX" ++ num, pre ++ "RX" ++ num]

/-- The signals of one Ethernet port. -/
def ethNames (e : String) : List String :=
  ["TXC", "TX_CTL", "TXD0", "TXD1", "TXD2", "TXD3", "RXC", "RX_CTL", "RXD0", "RXD1", "RXD2", "RXD3"].map (fun x => e ++ "_" ++ x)

/-- The signals of the periphery in the order of R512. -/
def peripheryNames : List String :=
  (["SDL0_", "SDL1_", "SDL2_", "SDL3_"].flatMap (fun x => serialNames x "")) ++ ["REFCLK_P", "REFCLK_N"]
    ++ (["0", "1", "2"].flatMap (serialNames "PCIE_")) ++ ["PCIE_PERST_N"]
    ++ serialNames "PCIE_" "3" ++ ["PCIE_REFCLK_P", "PCIE_REFCLK_N"] ++ (["WIT0_", "WIT1_"].flatMap (fun x => serialNames x ""))
    ++ ["DDR_CK_P", "DDR_CK_N"] ++ pairNames ["DDR_DQS0_", "DDR_DQS1_", "DDR_DQS2_", "DDR_DQS3_", "DDR_DQS4_"]
    ++ numbered "DDR_DQ" 40
    ++ (List.range 5).map (fun i => "DDR_DM_DBI" ++ toString i ++ "_N") ++ numbered "DDR_A" 17
    ++ ["DDR_BA0", "DDR_BA1", "DDR_BG0", "DDR_BG1", "DDR_ACT_N", "DDR_CKE0", "DDR_CKE1", "DDR_CS0_N", "DDR_CS1_N", "DDR_ODT0",
        "DDR_ODT1", "DDR_RESET_N", "DDR_PAR", "DDR_ALERT_N", "DDR_ZQ"]
    ++ ethNames "ETH0" ++ ethNames "ETH1" ++ ["ETH_MDC", "ETH_MDIO"]
    ++ ["SYNC_IN", "SYNC_OUT", "TRIG_IO", "CLKOUT", "GUARD_A", "GUARD_B", "BLOCK_REQ_A", "BLOCK_REQ_B", "SAFE_OK_A", "SAFE_OK_B",
        "PORST_N", "SRST_N"]
    ++ ["UART_TX", "UART_RX", "I2C_SCL", "I2C_SDA", "SPI_SCK", "SPI_CS_N"] ++ numbered "SPI_IO" 4 ++ numbered "GPIO" 32
    ++ ["TCK", "TMS", "TDI", "TDO", "TRST_N"] ++ ["THERM_P", "THERM_N"] ++ numbered "AIN" 24 ++ ["RSVD", "RSVD", "RSVD"]

/-- The typical power in µW, rounded down (R497): enabled lanes, mapped cells, whether DDR4 is in use. -/
def Dev.typicalPower (d : Dev) : Nat :=
  if d.rst.deep then 2600000
  else
    let lanes := (allLanes.filter (fun n => d.is (LANE_CTRL_EN n))).length
    let ddr := if d.ddrInUse then 1800000 else 200000
    let t := max d.cyc.tm0.tcyc 1
    8790000 + 74250 * lanes + ddr + 1953 * d.mappedCells.length * 10000 / t

/-- The bound of the maximum power in µW (R497). -/
def Dev.maxPower (d : Dev) : Nat := min (d.typicalPower * 147 / 100) 44000000

end Sys2Proof.Machine
end

