-- ==== Sys2Proof/Tests/Slice0.lean ====
section
/-! SUPPORT. The model's own tests: operands that no command has, the manual's worked examples, single steps, and for every
statement with premises states and operands that meet the premises of each of its clauses. -/

namespace Sys2Proof.Tests

open Sys2Proof Sys2Proof.Machine

-- one theorem after another: each evaluates a whole step, and many at once ask for too much memory
set_option Elab.async false

namespace Wit

/-- A device after a reset with fields set. -/
def set (d : Dev) (l : List (Fld × Nat)) : Dev := l.foldl (fun d x => d.set x.1 x.2) d

/-- CONFIG, with every clock gate open and every low-speed port enabled. -/
def quiet : Dev :=
  set State.reset.dev [(RST_STAT_DSTATE, 2), (CLK_LSEN_UARTEN, 1), (CLK_LSEN_I2CEN, 1), (CLK_LSEN_GPIOEN, 1)]
    |>.setWord CLK_GATE0 0xFFFFFFFF |>.setWord CLK_GATE1 0xFFFFFFFF

/-- The cycle timer in a cycle, port 0 in use with two cells of arm 0. -/
def cycling : Dev :=
  set quiet ([(CYC_STAT_RUNNING, 1), (CYC_CTRL_EN, 1), (RING_CTRL_EN 0, 1), (LANE_CTRL_EN 0, 1), (LANE_CTRL_EN 1, 1),
      (LANE_STAT_STATE 0, 6), (LANE_STAT_STATE 1, 6), (CELL_W1C_MAPPED 0, 1), (CELL_W1C_MAPPED 1, 1), (CELL_W1C_LIDX 1, 1)])
    |>.setCyc (fun c => { c with inCycle := true, tm0 := ⟨10000, 1000, 800, 1000, 1000, 100⟩, len0 := 10000 })
    |>.setPort 0 (fun p => { p with discovered := 2 })

def cfg (l : List (Fld × Nat)) (f : Dev → Dev := id) : State := { State.reset with dev := f (set quiet l) }

def run (l : List (Fld × Nat)) (f : Dev → Dev := id) : State := { State.reset with dev := f (set cycling l) }

def item : AudItem := ⟨0, 0, 1, 1, 0, 0, 0⟩
def entry : AudEntry := ⟨0, item, 5⟩
def tel : TelCopy := ⟨7, List.replicate 28 0, 1, 9⟩
def arun : AdcRun := ⟨0, 0, 4, [], 0, 0, false, none⟩
def aent : AdcEntry := ⟨0, 0, 0, false, false, false, false⟩
def witem : WorkItem := ⟨0, 1, false, 3, 4, List.replicate 24 0, 0, none, false⟩
def pair : PairMsg := ⟨1, .standby, 0, [], 0, 0, 0, true, 0, 0, true, 0, 0⟩
def sq : SolderQ := ⟨6, .stat ⟨0, 0, 0, 0, 0⟩, 0, [], 0⟩
def ingot : Ingot := ⟨0, List.replicate 1216 0, 0⟩

/-- A slot with a valid write and the frame of two of them that returns at end 0 of port 0 in cycle 0. -/
def slot : BitVec 128 := sealSlot (0x8080 * 2 ^ 32)
def frame : Frame := mkFrame (mkHeader 0 0 0 0 1 true false false 0 2 0 + 2 * 2 ^ 41) [slot, slot]

/-- A discovery frame of a pass sent from end 1 that the one cell filled in and turned, one that the second of two turned,
    one that the far end turned, and one with a bad
header. -/
def enum (k : Nat) : Frame :=
  mkFrame (mkHeader 3 0 0 1 1 false false false 0 1 k + 2 ^ 41 + 2 ^ 73) [if k = 0 then sealSlot (0x1F00000000001000 * 2 ^ 16) else 0]
def short : Frame := mkFrame (mkHeader 3 0 0 1 1 false false false 0 2 0 + 2 ^ 41 + 2 ^ 73 + 2 ^ 66) [slot, slot]
def turned : Frame := mkFrame (mkHeader 0 0 0 1 1 true false false 0 0 0) []
def badFrame : Frame := { frame with hdr := frame.hdr + 1 }

def last : AdcRun := { arun with len := 1 }
def avg : AdcRun := { arun with cfg := [(ADC_ECFG 0 0, 0x01000000)] }
def converting (d : Dev) : Dev := { d with adc := { d.adc with conv := d.adc.conv.set 0 { d.conv 0 with run := some arun } } }
def averaging (d : Dev) : Dev := { d with adc := { d.adc with conv := d.adc.conv.set 0 { d.conv 0 with run := some avg } } }
def armed (d : Dev) : Dev :=
  { d with rcd := { d.rcd with insts := d.rcd.insts.set 0 { d.recInst 0 with cfg := [(REC_CTRL 0, 0x100)], age := 100000000 } } }
def full (d : Dev) : Dev := { d with svc := { d.svc with ready := [{ witem with spilled := true }] } }

/-- A station command with a sequence number, for station and device 0. -/
def telegram (seq : Nat) : List Byte :=
  let b := [0, 0, 0, 1, 0, 0, 0, 0] ++ leBytes 4 seq ++ List.replicate 16 0
  b ++ leBytes 4 (telCrc (b ++ [0, 0, 0, 0]))

def uartRead : List Byte :=
  let b := [1] ++ leBytes 4 TOP_SCRATCH
  [0x7E] ++ b ++ leBytes 2 (crc16Bytes b).toNat

def uartWrite : List Byte :=
  let b := [2] ++ leBytes 4 TOP_SCRATCH ++ leBytes 4 7
  [0x7E] ++ b ++ leBytes 2 (crc16Bytes b).toNat

def groupOf (off : Nat) : List Byte := leBytes 2 0x4547 ++ leBytes 2 0 ++ leBytes 2 1 ++ List.replicate 10 0 ++ leBytes 4 off
    ++ leBytes 4 3

/-- A group of one record, and one that names a register no group may. -/
def group : List Byte := groupOf (LOOP_GCFG 1)
def badGroup : List Byte := groupOf TOP_SCRATCH

/-- A payload in an Ethernet frame from station 7. -/
def ether (b : List Byte) : List Byte := beBytes 6 1 ++ beBytes 6 7 ++ beBytes 2 0x88B5 ++ b ++ List.replicate 14 0

def verdict (named order : Nat) : List Byte := [0x21, BitVec.ofNat 8 (16 * named + order), 5, 0, 1, 0, 0, 0]
    ++ List.replicate 8 0

def beat (unit role flags : Nat) : List Byte :=
  [0x11, BitVec.ofNat 8 (128 * unit + 16 * role)] ++ [0, 0] ++ leBytes 2 flags ++ List.replicate 10 0

def clk (sel en : Nat) : Word := BitVec.ofNat 32 (sel + 2 * en)

/-- The lines that bring blocks to a lane, and a message to the Solder lanes. -/
def lineFor (d : Dev) (n : Nat) (bs : List Block) : List Int :=
  let x := d.line n
  ({ x with txPrev := x.rxPrev, txSr := x.rxSr }.transmit (d.is (LANE_CTRL_RXPRE n)) (d.is (LANE_CTRL_RXINV n)) bs).1

def solderFor (d : Dev) (b : List Byte) : List (List Int) := ((solderBlocks b).zipIdx.map fun x => lineFor d (96 + x.2) x.1)

def message (d : Dev) (type : Nat) (cyc : Word) (p : List Byte) : List (List Int) :=
  solderFor d (messageBytes ⟨type, 0, true, (p.length + 15) / 16, cyc, 5, 77⟩ p)

/-- A line on lane 0 that brings a frame, and the four lines of an ALIGN. -/
def lineOf (d : Dev) (f : Frame) (n : Nat := 0) : List Int := lineFor d n (fillBlock :: frameBlocks 0 f.bits)
def alignLines (d : Dev) (q : Nat) : List (List Int) := [96, 97, 98,
    99].map fun n => lineFor d n [alignBlock (BitVec.ofNat 8 q) true]

/-- The bytes of an ingot without cells that is complete. -/
def ingotBytes : List Byte :=
  withCommit 0xFFFFFFFF 0 (leBytes 2 0x494E ++ leBytes 2 1 ++ leBytes 4 0xFFFFFFFF ++ leBytes 4 0 ++ List.replicate 9716 0)

/-- What the lanes bring of a type: the last message, and the device that has listened. -/
def brought (d : Dev) (type : Nat) (lines : List (List Int)) (t : BitVec 40) : SolderIn :=
  match (d.solderTake type lines t).1 with
  | x :: _ => x
  | [] => ⟨0, 0, [], 0, 0, 0⟩

/-- A discovery in a pass. -/
def disc : Disc := ⟨[], 0, 0, 0, 0, none, [], 2, 0, 0, 0, none, none, 0, [], [], .pcie⟩

def leg : DiscLeg := ⟨none, 0, [], [], [], 0, 0⟩

def finding (x : Disc) (d : Dev) : Dev := d.setPort 0 (fun p => { p with disc := some x })

end Wit

theorem Wit.median_high (n : Nat) : medianOf n (List.replicate 16 120) = 120 := by
  show 120 + Config.medianTap n % 1 = 120
  omega
theorem Wit.median_low (n : Nat) : medianOf n (List.replicate 16 31) = 31 := by
  show 31 + Config.medianTap n % 1 = 31
  omega

theorem Wit.taken_eq {d : Dev} {ty : Nat} {lines : List (List Int)} {t : BitVec 40} {x : SolderIn} (h : (d.solderTake ty lines t).1 = [x]) :
    d.solderTake ty lines t = ([x], (d.solderTake ty lines t).2) := by
  rw [← h]

theorem Wit.frames_eq {d : Dev} {n : Nat} {line : List Int} {f : Frame} (h : (d.framesIn n line).1 = [f]) :
    d.framesIn n line = ([f], (d.framesIn n line).2) := by
  rw [← h]

theorem leBytes_four (v : Nat) :
    leBytes 4 v = [BitVec.ofNat 8 v, BitVec.ofNat 8 (v / 256), BitVec.ofNat 8 (v / 65536), BitVec.ofNat 8 (v / 16777216)] := by
  simp [leBytes, List.range_succ]

theorem Wit.ingotBytes_ok : commitOk 0xFFFFFFFF 9760 Wit.ingotBytes = true := by
  have key : ∀ (b : List Byte) (r : BitVec 32), b.length = 9728 → crc32Bytes b = r → leAt b 0 2 = 0x494E → leAt b 2 1 = 1 →
      leAt b 4 4 = 0xFFFFFFFF → leAt b 8 4 = 0 → commitOk 0xFFFFFFFF 9760 (withCommit 0xFFFFFFFF 0 b) = true := by
    intro b r hb hr h0 h1 h2 h3
    have ht : ∀ o n : Nat, o + n ≤ 9728 → ∀ c : List Byte, leAt (b ++ c) o n = leAt b o n := by
      intro o n hn c
      simp only [leAt]
      rw [List.drop_append_of_le_length (by omega), List.take_append_of_le_length (by simp; omega)]
    have hlt := r.isLt
    have hc : ∀ c : List Byte, (b ++ c).drop 9728 = c := fun c => by rw [← hb, List.drop_left]
    have hk : ∀ c : List Byte, (b ++ c).take 9728 = b := fun c => by rw [← hb, List.take_left]
    simp only [commitOk, withCommit, hb, hr, ht 0 2 (by decide), ht 2 1 (by decide), ht 4 4 (by decide), ht 8 4 (by decide),
      h0, h1, h2, h3,
      Nat.reduceSub, hc, hk, leWord, leBytes_four, fit, List.length_append]
    simp [leAt, leNat]
    omega
  refine key _ _ ?_ rfl (by decide +kernel) (by decide +kernel) (by decide +kernel) (by decide +kernel)
  simp only [List.length_append, List.length_replicate]
  rfl

/-! ### Operands that no command has -/

theorem test_ill_boot : (Instr.boot ⟨none, 256, true, true, true⟩).wellFormed = false := by decide
theorem test_ill_write_offset : (Instr.registerWrite .pcie 0x1000000 0xF 0 0 0).wellFormed = false := by decide
theorem test_ill_write_enables : (Instr.registerWrite .pcie 0 16 0 0 0).wellFormed = false := by decide
theorem test_ill_unmapped : (Instr.unmapped .pcie 0x45FFFC true).wellFormed = false := by decide
theorem test_ill_unsupported : (Instr.unsupportedRequest 0x1000000).wellFormed = false := by decide
theorem test_ill_gated : (Instr.gatedAccess .pcie 2 true).wellFormed = false := by decide
theorem test_ill_rc_read : (Instr.rcFieldRead .pcie 0x400000 0xF 0).wellFormed = false := by decide
theorem test_ill_reload : (Instr.reload [1, 2, 3]).wellFormed = false := by decide
theorem test_ill_align : (Instr.alignBlockReceive [] [1, 2, 3]).wellFormed = false := by decide
theorem test_ill_set : (Instr.setEntryReadComplete 0 []).wellFormed = false := by decide
theorem test_ill_hold : (Instr.adcHold []).wellFormed = false := by decide
theorem test_ill_run : (Instr.adcRunStart 0 []).wellFormed = false := by decide
theorem test_ill_swstart : (Instr.adcSwstart .pcie 1 []).wellFormed = false := by decide
theorem test_ill_publish : (Instr.adcPublish 0 []).wellFormed = false := by decide
theorem test_ill_verdict : (Instr.verdictReceive []).wellFormed = false := by decide
theorem test_ill_heartbeat : (Instr.heartbeatReceive 0 []).wellFormed = false := by decide
theorem test_ill_islot : (Instr.islotReceive [[]]).wellFormed = false := by decide
theorem test_ill_ref : (Instr.refReceive [[0]]).wellFormed = false := by decide
theorem test_ill_cmds : (Instr.cmdsReceive [[], [], []] 0).wellFormed = false := by decide
theorem test_ill_ingot : (Instr.ingotSegmentReceive [[0], [0], [0], [0]]).wellFormed = false := by decide
theorem test_ill_cast : (Instr.castSegmentReceive [[], [], [], [0]]).wellFormed = false := by decide
theorem test_ill_fetch : (Instr.cmdFetch []).wellFormed = false := by decide
theorem test_ill_port : (Instr.arbPortWrite .pcie true 9 0 0).wellFormed = false := by decide
theorem test_ill_sram : (Instr.sramUncorrectable 0 4 false).wellFormed = false := by decide
theorem test_ill_link : (Instr.pcieLinkUp 5 1).wellFormed = false := by decide
theorem test_ill_write_hw : (Instr.registerWrite .pcie 0 7 0 1 0).wellFormed = false := by decide
theorem test_well_formed : (Instr.registerWrite .pcie 0xFFFFFC 0xF 0 0 0).wellFormed = true := by decide

/-! ### The worked examples of the manual -/

/-- "Schedule generation and switching edges": station A, arm 3. -/
theorem test_nearest_count : nearestCount 400000000 1901500 432 = (13786168, false) := by decide
theorem test_nearest_split : nearestSplit 13786168 40000 40 = (210, 14409) := by decide
theorem test_nearest_fine : nearestAt 40000 210 14409 1 false 210 = (⟨1, 12795, 27204⟩, 5902, 0) := by decide
theorem test_nearest_whole : nearestAt 40000 210 14409 1 false 209 = (⟨5, 0xFFFFF, 0xFFFFF⟩, 16384, 1) := by decide
/-- The same chapter: unit C, cells 10 and 28. -/
theorem test_carrier_wraps : carrierCmd 20000 1 0 8000 = ⟨4, 4000, 16000⟩ := by decide
theorem test_carrier_duty : carrierDuty 26214 32 1010000 1000000 true = 24904 := by decide
theorem test_carrier_inside : carrierCmd 20000 1 10000 7600 = ⟨1, 6200, 13800⟩ := by decide
theorem test_sigma : sigmaOf 7600 20000 = 6226 := by decide
/-- "The control engine": one run of the current controller. -/
theorem test_compensator : dot [(26870389, 335544), (-26843546, 318767), (268435456, 4194304)] = (4196015, false) := by decide
/-- "Analog inputs": 1.105 V, and the slot value of arm 3. -/
theorem test_adc_code : adcCode 1105000000 0 = 2514 := by decide
theorem test_adc_scale : adcScale 2514 966367642 2048 = 6871450 := by decide
/-- "Disturbance recorder": the crossing of condition 0. -/
theorem test_crossing : crossing 12582912 12079596 13421773 40000 = 15000 := by decide
/-- "Ring and Solder lanes": the precoder, and the driven voltage of −130.0 mV in 288 parts of a mV. -/
theorem test_precode : precode 0 [2, 3, 0, 1] = [2, 1, 3, 2] := by decide
theorem test_unprecode : unprecode 0 [2, 1, 3, 2] = [2, 3, 0, 1] := by decide
theorem test_driven : drivenVoltage 8 2 6 (-3) (-1) 3 = -130 * 288 := by decide
/-- "Electrical and mechanical": balls AM46, AN45 and AU46 of lanes 58 and 59. -/
theorem test_balls : (ballName 31 46, ballName 32 45, ballName 35 46) = ("AM46", "AN45", "AU46") ∧
    ballAt 31 46 = .lane 58 true true ∧
    ballAt 32 45 = .lane 58 false false ∧ ballAt 35 46 = .lane 59 true false := by decide +kernel
/-- R512: as many names as the periphery has balls. -/
theorem test_ball_names : peripheryNames.length = 248 := by decide +kernel
/-- "Architecture": lane 58 and ring port 29. -/
theorem test_addresses : LANE_CTRL 58 = 0xCE800 ∧ RING_CTRL 29 = 0x9D000 := by decide

/-- "Arm units": cell X of station A, VCAP, terminal and capacitor voltage and prediction. -/
def cellX : Dev :=
  let d := Wit.set State.reset.dev [(CELL_W00_VCAP 3742, 0xC2A0), (CELL_W10_ENUM_HI 3742, 25000), (CELL_W3C_ST0 3742, 1),
    (CELL_W34_ESR 3742, 600), (CELL_W28_SIG0 3742, 16384), (CELL_W28_SIG1 3742, 16384), (CELL_W24_CEST 3742, 2304000),
    (CELL_W38_NEST 3742, 100), (ARM_ESTCFG_NMIN 3, 8), (ARM_CFG_PRED 3, 1), (CYC_PERIOD_PERIOD, 10000)]
  d
theorem test_cell_terminal : cellX.vRaw 3742 = 1900634 := by decide +kernel
theorem test_cell_capacitor : cellX.vCap 3742 820000 = 1900142 := by decide +kernel
theorem test_cell_predicted : (cellX.predict 3 3742 .fresh 820000 812000 1900142).getS (CELL_W20_VPRED 3742) = 1901982 := by
  decide +kernel

/-- "Arm units": the budget of station B's cell 649. -/
theorem test_budget : (let d := Wit.set State.reset.dev [(CELL_W38_BUD 649, 0x68000), (ARM_BUDRATE_RATE 2, 262),
    (ARM_BUDCAP_CAP 2, 16),
      (CELL_W3C_ST0 649, 2), (CELL_W28_SIG0 649, 0xC000)]
    ({ d with arms := d.arms.set 2 { d.armCtl 2 with ranNow := true } }.budget 2 649).get (CELL_W38_BUD 649)) = 0x58106 := by
  decide +kernel

/-- "Memory and arbitration": bank 17 of the example. -/
def bank17 : Dev :=
  let d := Wit.set State.reset.dev [(ARB_PORT_PRI 29, 6), (ARB_PORT_PRI 51, 5), (ARB_PORT_PRI 70, 0), (ARB_PORT_WEIGHT 70, 2)]
  d.setReq 17 29 ⟨1, 0, none, []⟩ |>.setReq 17 51 ⟨7, 1, none, []⟩ |>.setReq 17 70 ⟨0, 0, none, []⟩
theorem test_bank_first : ((bank17.arbPhase ⟨17, 0, [29, 51, 70], []⟩).arbReq 17 51).credit = 6 ∧
    ((bank17.arbPhase ⟨17, 0, [29, 51, 70], []⟩).arbReq 17 29).lost = 1 := by decide +kernel
theorem test_bank_second :
    (((bank17.arbPhase ⟨17, 0, [29, 51, 70], []⟩).arbPhase ⟨17, 1, [29, 51, 70],
      []⟩).arbReq 17 29).credit = 0 := by decide +kernel

/-! ### Steps -/

/-- Whether an outcome is a next state with a property. -/
def after (x : Host.Outcome State Fault Refusal) (p : State → Bool) : Bool :=
  match x with
  | .next t => p t
  | .fault f => nomatch f
  | .refused _ => false

/-- The queue is first in, first out. -/
theorem test_step_front : after (step { State.reset with pending := [.idcode, .bootEnd] }) (fun t => t.pending == [.bootEnd]) = true := by
  decide +kernel
theorem test_step_idle : after (step State.reset) (fun t => t.pending == []) = true := by decide +kernel
theorem test_no_word : decodeTableWord 0 0 = none ∧ State.reset.withFetchWord 0 0 = State.reset := ⟨rfl, rfl⟩

theorem test_scratch_written : after (exec (.registerWrite (.svc 0) TOP_SCRATCH 0xF 0x12345678 0 0) State.reset)
    (fun t => t.dev.word TOP_SCRATCH == 0x12345678) = true := by decide +kernel
/-- R6: a write that does not enable every byte has no effect. -/
theorem test_partial_write : after (exec (.registerWrite (.svc 0) TOP_SCRATCH 0x7 0x12345678 0 0) State.reset)
    (fun t => t.dev.word TOP_SCRATCH == 0) = true := by decide +kernel
/-- R7: hardware wins over a clear. -/
theorem test_w1c_tie : after (exec (.registerWrite (.svc 0) (LANE_EVT 0) 0xF 3 1 0) (Wit.cfg [(LANE_EVT_LOSSET 0, 1)]))
    (fun t => (t.dev.word (LANE_EVT 0)).toNat % 4 == 1) = true := by decide +kernel
theorem test_lane_restart_refused : after (exec (.laneRestart (.svc 0) 0) (Wit.cfg [(SCH_ASTAT_ST 0, 2), (LANE_STAT_STATE 0,
    6)]))
    (fun t => t.dev.get (LANE_STAT_STATE 0) == 6) = true := by decide +kernel
theorem test_los : after (exec (.losAssert 1 0 1000000) (Wit.cfg [(LANE_STAT_STATE 1, 6)]))
    (fun t => t.dev.get (LANE_STAT_STATE 1) == 2 && t.dev.get (LANE_EVT_DOWN 1) == 1) = true := by decide +kernel
theorem test_reset_holds : after (exec (.losAssert 1 0 1000000) (Wit.cfg [(LANE_STAT_STATE 1,
    6)] fun d => { d with rst := { d.rst with porstLow := true } }))
    (fun t => t.dev.get (LANE_STAT_STATE 1) == 6) = true := by decide +kernel
set_option maxRecDepth 1000000 in
theorem test_frame_accepted : after (exec (.frameReceive 0 0 (Wit.lineOf (Wit.run []).dev Wit.frame) 7100) (Wit.run []))
    (fun t => t.dev.isFresh 0 1 && t.dev.get (CELL_W0C_SRC 1) == 1) = true := by decide +kernel
set_option maxRecDepth 1000000 in
theorem test_frame_late : after (exec (.frameReceive 0 0 (Wit.lineOf (Wit.run []).dev Wit.frame) 7101) (Wit.run []))
    (fun t => !t.dev.isFresh 0 1 && t.dev.get (RING_MISSLATE_LATE 0 0) == 1) = true := by decide +kernel
theorem test_deadline_stale : after (exec .returnDeadline (Wit.run []))
    (fun t => t.dev.get (CELL_W0C_STALE 0) == 1 && t.dev.get (CELL_W0C_STALERUN 1) == 1) = true := by decide +kernel
theorem test_stop_refused : after (exec (.cycleTimerStopRequest (.svc 0) false) (Wit.run [(SCH_ASTAT_ST 0, 2)]))
    (fun t => t.dev.get CYC_CTRL_EN == 1) = true := by decide +kernel
/-- R463: an arm is refused outside ARMED, RUN and DEGRADED. -/
theorem test_deblock_refused : (Wit.cfg []).dev.deblockRefusal 0 = some 0x30 := by decide +kernel
theorem test_block_runs : after (exec (.armBlockWrite (.svc 0) 1) (Wit.cfg [(SCH_ASTAT_ST 0, 2)]))
    (fun t => t.dev.arm 0 == .blocking) = true := by decide +kernel
theorem test_semaphore_other : after (exec (.semRel .pcie 3) (Wit.cfg [(SVC_SEMST_HELD 3, 1), (SVC_SEMST_ORIGIN 3, 3)]))
    (fun t => t.dev.get (SVC_SEMST_HELD 3) == 1 && t.dev.bit SVC_EVT_EVT 2) = true := by decide +kernel
theorem test_perturbation_locked : after (exec (.perturbationWrite (.svc 0) .slot 0x80000000) (Wit.cfg []))
    (fun t => t.dev.word DIAG_PSLOT == 0 && t.dev.bit DIAG_EVT_EVT 0) = true := by decide +kernel
theorem test_audit_chain : after (exec .auditEntryWrite (Wit.cfg [] fun d => { d with aud := { d.aud with queue := [Wit.item] } }))
    (fun t => t.nv.mram.log.length == 1 && t.nv.mram.nextSeq == 1) = true := by decide +kernel
theorem test_tap_reset_frees : after (exec .jtagTapReset (Wit.cfg [(SVC_SEMST_HELD 5, 1), (SVC_SEMST_ORIGIN 5, 9)]))
    (fun t => t.dev.get (SVC_SEMST_HELD 5) == 0 && t.dev.get (SVC_SEMST_POISONED 5) == 1) = true := by decide +kernel

/-! ### Premises that can be met -/

set_option maxRecDepth 1000000 in
theorem test_premises_LaneBringUp :
    (∃ (s : State) (n : Fin 100) (amp : Nat) (ns : Nat), s.dev.held = false ∧ 2 ≤ s.dev.get (LANE_STAT_STATE n) ∧
      s.dev.get (LANE_STAT_LOS n) = 0 ∧ amp < 40 + 10 * s.dev.get (LANE_RXCFG_LOSTH n) ∧ 64 ≤ ns) ∧
    (∃ (s : State) (n : Fin 100) (amp : Nat) (ns : Nat), s.dev.held = false ∧ 2 ≤ s.dev.get (LANE_STAT_STATE n) ∧
      (s.dev.get (LANE_STAT_LOS n) = 1 ∨ 40 + 10 * s.dev.get (LANE_RXCFG_LOSTH n) ≤ amp ∨ ns < 64)) ∧
    (∃ (s : State) (n : Fin 100), s.dev.held = false ∧ s.dev.get (LANE_STAT_STATE n) < 2) ∧
    (∃ (s : State) (n : Fin 100) (amp : Nat) (ns : Nat), s.dev.held = false ∧ s.dev.get (LANE_STAT_STATE n) = 2 ∧
      s.dev.get (LANE_STAT_LOS n) = 1 ∧ 40 + 10 * s.dev.get (LANE_RXCFG_LOSTH n) + 20 < amp ∧
      1000 * 10 ^ s.dev.get (LANE_RXCFG_LOSQUAL n) ≤ ns) ∧
    (∃ (s : State) (n : Fin 100) (amp : Nat) (ns : Nat), s.dev.held = false ∧
      (s.dev.get (LANE_STAT_STATE n) ≠ 2 ∨ s.dev.get (LANE_STAT_LOS n) = 0 ∨ amp ≤ 40 + 10 * s.dev.get (LANE_RXCFG_LOSTH n) + 20 ∨ ns < 1000 * 10 ^ s.dev.get (LANE_RXCFG_LOSQUAL n))) ∧
    (∃ (s : State) (n : Fin 100), s.dev.held = false ∧ s.dev.get (LANE_STAT_STATE n) = 3) ∧
    (∃ (s : State) (n : Fin 100), s.dev.held = false ∧ s.dev.get (LANE_STAT_STATE n) ≠ 3) ∧
    (∃ (s : State) (n : Fin 100), s.dev.held = false ∧
      (s.dev.get (LANE_STAT_STATE n) = 4 ∨ s.dev.get (LANE_STAT_STATE n) = 5)) ∧
    (∃ (s : State) (n : Fin 100), s.dev.held = false ∧ s.dev.get (LANE_STAT_STATE n) = 6) ∧
    (∃ (s : State) (n : Fin 100), s.dev.held = false ∧
      (s.dev.get (LANE_STAT_STATE n) < 4 ∨ s.dev.get (LANE_STAT_STATE n) = 7)) ∧
    (∃ (s : State) (n : Fin 100), s.dev.held = false ∧ s.dev.get (LANE_STAT_STATE n) = 4) ∧
    (∃ (s : State) (n : Fin 100), s.dev.held = false ∧ s.dev.get (LANE_STAT_STATE n) ≠ 4) ∧
    (∃ (s : State) (n : Fin 100), s.dev.held = false ∧ s.dev.get (LANE_STAT_STATE n) = 5) ∧
    (∃ (s : State) (n : Fin 100), s.dev.held = false ∧
      (s.dev.get (LANE_STAT_STATE n) < 5 ∨ s.dev.get (LANE_STAT_STATE n) = 7)) ∧
    (∃ (s : State) (n : Fin 100), s.dev.held = false ∧ s.dev.get (LANE_STAT_STATE n) ≠ 6) ∧
    (∃ (s : State) (g : Fin 25) (n : Nat), s.dev.held = false ∧ n / 4 = g.val ∧ (∃ m ∈ groupLanes g,
      s.dev.get (LANE_CTRL_EN m) = 1)) ∧
    (∃ (s : State) (g : Fin 25) (n : Nat), s.dev.held = false ∧ n / 4 = g.val ∧ (∀ m ∈ groupLanes g,
      s.dev.get (LANE_CTRL_EN m) = 0)) ∧
    (∃ (s : State) (g : Fin 25) (n : Nat), s.dev.held = false ∧ n / 4 = g.val) ∧
    (∃ (s : State), s.dev.held = false ∧ 2 ≤ s.dev.get (LANE_STAT_STATE 96) ∧
      (s.dev.get DPX_STAT_SDLUP = 0 ∨ s.dev.lane.peerUp = false ∨ s.dev.lane.sentUp < 4)) ∧
    (∃ (s : State), s.dev.held = false ∧ (s.dev.get (LANE_STAT_STATE 96) < 2 ∨ (s.dev.get DPX_STAT_SDLUP = 1 ∧
      s.dev.lane.peerUp = true ∧ 4 ≤ s.dev.lane.sentUp))) ∧
    (∃ (s : State) (lines : List (List Int)) (bs : List (List RxBlock)) (y : Dev) (q : Nat) (u0 : Bool) (u1 : Bool) (u2 : Bool) (u3 : Bool) (k0 : Nat) (k1 : Nat) (k2 : Nat) (k3 : Nat), s.dev.held = false ∧ s.dev.solderIn lines = (bs, y) ∧ (bs.map (fun l => l.head?.bind RxBlock.alignOf) = [some (q, u0), some (q, u1), some (q, u2), some (q, u3)]) ∧ (∀ n ∈ solderLanes, s.dev.get (LANE_STAT_STATE n) = 5) ∧ k0 ≤ 16 ∧ k1 ≤ 16 ∧ k2 ≤ 16 ∧ k3 ≤ 16 ∧ s.dev.lane.rxSeq = some (BitVec.ofNat 8 q - 1)) ∧
    (∃ (s : State) (lines : List (List Int)) (bs : List (List RxBlock)) (y : Dev) (q : Nat) (u0 : Bool) (u1 : Bool) (u2 : Bool) (u3 : Bool) (k0 : Nat) (k1 : Nat) (k2 : Nat) (k3 : Nat), s.dev.held = false ∧ s.dev.solderIn lines = (bs, y) ∧ (bs.map (fun l => l.head?.bind RxBlock.alignOf) = [some (q, u0), some (q, u1), some (q, u2), some (q, u3)]) ∧ (∀ n ∈ solderLanes, s.dev.get (LANE_STAT_STATE n) = 5) ∧ k0 ≤ 16 ∧ k1 ≤ 16 ∧ k2 ≤ 16 ∧ k3 ≤ 16 ∧ s.dev.lane.rxSeq ≠ some (BitVec.ofNat 8 q - 1)) ∧
    (∃ (s : State) (lines : List (List Int)) (bs : List (List RxBlock)) (y : Dev) (q : Nat) (u0 : Bool) (u1 : Bool) (u2 : Bool) (u3 : Bool) (k3 : Nat), s.dev.held = false ∧ s.dev.solderIn lines = (bs, y) ∧ (bs.map (fun l => l.head?.bind RxBlock.alignOf) = [some (q, u0), some (q, u1), some (q, u2), some (q, u3)]) ∧ (∀ n ∈ solderLanes, s.dev.get (LANE_STAT_STATE n) = 5) ∧ 16 < k3) ∧
    (∃ (s : State) (lines : List (List Int)) (bs : List (List RxBlock)) (y : Dev), s.dev.held = false ∧
      s.dev.solderIn lines = (bs, y) ∧ (∃ l ∈ bs, l.head?.bind RxBlock.alignOf = none)) :=
  ⟨⟨Wit.cfg [(LANE_STAT_STATE 0, 2), (LANE_STAT_LOS 0, 0)], 0, 0, 64, by decide +kernel⟩,
   ⟨Wit.cfg [(LANE_STAT_STATE 0, 2), (LANE_STAT_LOS 0, 1)], 0, 0, 0, by decide +kernel⟩,
   ⟨Wit.cfg [(LANE_STAT_STATE 0, 1)], 0, by decide +kernel⟩,
   ⟨Wit.cfg [(LANE_STAT_STATE 0, 2), (LANE_STAT_LOS 0, 1)], 0, 4000, 2000000000, by decide +kernel⟩,
   ⟨Wit.cfg [(LANE_STAT_STATE 0, 0)], 0, 0, 0, by decide +kernel⟩,
   ⟨Wit.cfg [(LANE_STAT_STATE 0, 3)], 0, by decide +kernel⟩,
   ⟨Wit.cfg [(LANE_STAT_STATE 0, 0)], 0, by decide +kernel⟩,
   ⟨Wit.cfg [(LANE_STAT_STATE 0, 4)], 0, by decide +kernel⟩,
   ⟨Wit.cfg [(LANE_STAT_STATE 0, 6)], 0, by decide +kernel⟩,
   ⟨Wit.cfg [(LANE_STAT_STATE 0, 3)], 0, by decide +kernel⟩,
   ⟨Wit.cfg [(LANE_STAT_STATE 0, 4)], 0, by decide +kernel⟩,
   ⟨Wit.cfg [(LANE_STAT_STATE 0, 0)], 0, by decide +kernel⟩,
   ⟨Wit.cfg [(LANE_STAT_STATE 0, 5)], 0, by decide +kernel⟩,
   ⟨Wit.cfg [(LANE_STAT_STATE 0, 4)], 0, by decide +kernel⟩,
   ⟨Wit.cfg [(LANE_STAT_STATE 0, 0)], 0, by decide +kernel⟩,
   ⟨Wit.run [], 0, 0, by decide +kernel⟩,
   ⟨Wit.cfg [], 0, 0, by decide +kernel⟩,
   ⟨Wit.cfg [], 0, 0, by decide +kernel⟩,
   ⟨Wit.cfg [(LANE_STAT_STATE 96, 2), (DPX_STAT_SDLUP, 0)], by decide +kernel⟩,
   ⟨Wit.cfg [(LANE_STAT_STATE 96, 1)], by decide +kernel⟩,
   ⟨Wit.cfg [(LANE_STAT_STATE 96, 5), (LANE_STAT_STATE 97, 5), (LANE_STAT_STATE 98, 5), (LANE_STAT_STATE 99,
     5)] fun d => { d with lane := { d.lane with rxSeq := some 254 } }, Wit.alignLines (Wit.cfg [(LANE_STAT_STATE 96, 5),
     (LANE_STAT_STATE 97, 5), (LANE_STAT_STATE 98, 5), (LANE_STAT_STATE 99,
     5)] fun d => { d with lane := { d.lane with rxSeq := some 254 } }).dev 255, ((Wit.cfg [(LANE_STAT_STATE 96, 5),
     (LANE_STAT_STATE 97, 5), (LANE_STAT_STATE 98, 5), (LANE_STAT_STATE 99,
     5)] fun d => { d with lane := { d.lane with rxSeq := some 254 } }).dev.solderIn (Wit.alignLines (Wit.cfg [(LANE_STAT_STATE 96, 5), (LANE_STAT_STATE 97, 5), (LANE_STAT_STATE 98, 5), (LANE_STAT_STATE 99, 5)] fun d => { d with lane := { d.lane with rxSeq := some 254 } }).dev 255)).1, ((Wit.cfg [(LANE_STAT_STATE 96, 5), (LANE_STAT_STATE 97, 5), (LANE_STAT_STATE 98, 5), (LANE_STAT_STATE 99, 5)] fun d => { d with lane := { d.lane with rxSeq := some 254 } }).dev.solderIn (Wit.alignLines (Wit.cfg [(LANE_STAT_STATE 96, 5), (LANE_STAT_STATE 97, 5), (LANE_STAT_STATE 98, 5), (LANE_STAT_STATE 99, 5)] fun d => { d with lane := { d.lane with rxSeq := some 254 } }).dev 255)).2, 255, true, true, true, true, 16, 16, 16, 16, by decide +kernel, (Prod.eta _).symm, by decide +kernel, by decide +kernel, by decide +kernel, by decide +kernel, by decide +kernel, by decide +kernel, by decide +kernel⟩,
   ⟨Wit.cfg [(LANE_STAT_STATE 96, 5), (LANE_STAT_STATE 97, 5), (LANE_STAT_STATE 98, 5), (LANE_STAT_STATE 99, 5)],
     Wit.alignLines (Wit.cfg [(LANE_STAT_STATE 96, 5), (LANE_STAT_STATE 97, 5), (LANE_STAT_STATE 98, 5), (LANE_STAT_STATE 99,
     5)]).dev 255, ((Wit.cfg [(LANE_STAT_STATE 96, 5), (LANE_STAT_STATE 97, 5), (LANE_STAT_STATE 98, 5), (LANE_STAT_STATE 99,
     5)]).dev.solderIn (Wit.alignLines (Wit.cfg [(LANE_STAT_STATE 96, 5), (LANE_STAT_STATE 97, 5), (LANE_STAT_STATE 98, 5),
     (LANE_STAT_STATE 99, 5)]).dev 255)).1, ((Wit.cfg [(LANE_STAT_STATE 96, 5), (LANE_STAT_STATE 97, 5), (LANE_STAT_STATE 98,
     5), (LANE_STAT_STATE 99, 5)]).dev.solderIn (Wit.alignLines (Wit.cfg [(LANE_STAT_STATE 96, 5), (LANE_STAT_STATE 97, 5),
     (LANE_STAT_STATE 98, 5), (LANE_STAT_STATE 99, 5)]).dev 255)).2, 255, true, true, true, true, 16, 16, 16, 16,
     by decide +kernel, (Prod.eta _).symm, by decide +kernel, by decide +kernel, by decide +kernel, by decide +kernel,
     by decide +kernel, by decide +kernel, by decide +kernel⟩,
   ⟨Wit.cfg [(LANE_STAT_STATE 96, 5), (LANE_STAT_STATE 97, 5), (LANE_STAT_STATE 98, 5), (LANE_STAT_STATE 99,
     5)] fun d => { d with lane := { d.lane with rxSeq := some 254 } }, Wit.alignLines (Wit.cfg [(LANE_STAT_STATE 96, 5),
     (LANE_STAT_STATE 97, 5), (LANE_STAT_STATE 98, 5), (LANE_STAT_STATE 99,
     5)] fun d => { d with lane := { d.lane with rxSeq := some 254 } }).dev 255, ((Wit.cfg [(LANE_STAT_STATE 96, 5),
     (LANE_STAT_STATE 97, 5), (LANE_STAT_STATE 98, 5), (LANE_STAT_STATE 99,
     5)] fun d => { d with lane := { d.lane with rxSeq := some 254 } }).dev.solderIn (Wit.alignLines (Wit.cfg [(LANE_STAT_STATE 96, 5), (LANE_STAT_STATE 97, 5), (LANE_STAT_STATE 98, 5), (LANE_STAT_STATE 99, 5)] fun d => { d with lane := { d.lane with rxSeq := some 254 } }).dev 255)).1, ((Wit.cfg [(LANE_STAT_STATE 96, 5), (LANE_STAT_STATE 97, 5), (LANE_STAT_STATE 98, 5), (LANE_STAT_STATE 99, 5)] fun d => { d with lane := { d.lane with rxSeq := some 254 } }).dev.solderIn (Wit.alignLines (Wit.cfg [(LANE_STAT_STATE 96, 5), (LANE_STAT_STATE 97, 5), (LANE_STAT_STATE 98, 5), (LANE_STAT_STATE 99, 5)] fun d => { d with lane := { d.lane with rxSeq := some 254 } }).dev 255)).2, 255, true, true, true, true, 16 + 1, by decide +kernel, (Prod.eta _).symm, by decide +kernel, by decide +kernel, by decide +kernel⟩,
   ⟨Wit.cfg [(LANE_STAT_STATE 96, 5), (LANE_STAT_STATE 97, 5), (LANE_STAT_STATE 98, 5), (LANE_STAT_STATE 99, 5)],
     Wit.solderFor (Wit.cfg [(LANE_STAT_STATE 96, 5), (LANE_STAT_STATE 97, 5), (LANE_STAT_STATE 98, 5), (LANE_STAT_STATE 99,
     5)]).dev [], ((Wit.cfg [(LANE_STAT_STATE 96, 5), (LANE_STAT_STATE 97, 5), (LANE_STAT_STATE 98, 5), (LANE_STAT_STATE 99,
     5)]).dev.solderIn (Wit.solderFor (Wit.cfg [(LANE_STAT_STATE 96, 5), (LANE_STAT_STATE 97, 5), (LANE_STAT_STATE 98, 5),
     (LANE_STAT_STATE 99, 5)]).dev [])).1, ((Wit.cfg [(LANE_STAT_STATE 96, 5), (LANE_STAT_STATE 97, 5), (LANE_STAT_STATE 98,
     5), (LANE_STAT_STATE 99, 5)]).dev.solderIn (Wit.solderFor (Wit.cfg [(LANE_STAT_STATE 96, 5), (LANE_STAT_STATE 97, 5),
     (LANE_STAT_STATE 98, 5), (LANE_STAT_STATE 99, 5)]).dev [])).2, by decide +kernel, (Prod.eta _).symm, by decide +kernel⟩⟩

theorem test_premises_LaneWrites :
    (∃ (s : State) (o : Origin) (n : Fin 100) (v : Word), s.Reaches o (LANE_TXEQ n) ∧ (v.toNat % 16 ≤ 8 ∧
      v.toNat / 256 % 32 ≤ 16 ∧ v.toNat % 16 + v.toNat / 256 % 32 ≤ 20)) ∧
    (∃ (s : State) (o : Origin) (n : Fin 100) (v : Word), s.Reaches o (LANE_TXEQ n) ∧
      (8 < v.toNat % 16 ∨ 16 < v.toNat / 256 % 32 ∨ 20 < v.toNat % 16 + v.toNat / 256 % 32)) ∧
    (∃ (s : State) (o : Origin) (n : Fin 100), s.Lets o (LANE_CTRL n) ∧ n.val < 96 ∧
      s.dev.arm (s.dev.portArm (n.val / 2)) = .blocked) ∧
    (∃ (s : State) (o : Origin) (n : Fin 100), s.Lets o (LANE_CTRL n) ∧ n.val < 96 ∧
      s.dev.arm (s.dev.portArm (n.val / 2)) ≠ .blocked) ∧
    (∃ (s : State) (o : Origin) (n : Fin 100), s.Lets o (LANE_CTRL n) ∧ 96 ≤ n.val ∧
      (s.dev.role = .solo ∨ s.dev.role = .syncing ∨ s.dev.role = .witness)) ∧
    (∃ (s : State) (o : Origin) (n : Fin 100), s.Lets o (LANE_CTRL n) ∧ 96 ≤ n.val ∧
      (s.dev.role = .active ∨ s.dev.role = .standby ∨ s.dev.role = .faulted)) :=
  ⟨⟨Wit.cfg [], .svc 0, 0, 0, by decide +kernel⟩,
   ⟨Wit.cfg [], .svc 0, 0, 0x1100, by decide +kernel⟩,
   ⟨Wit.cfg [(SCH_ASTAT_ST 0, 0)], .svc 0, 95, by decide +kernel⟩,
   ⟨Wit.cfg [(SCH_ASTAT_ST 0, 2)], .svc 0, 95, by decide +kernel⟩,
   ⟨Wit.cfg [(DPX_STAT_ROLE, 0)], .svc 0, 96, by decide +kernel⟩,
   ⟨Wit.cfg [(DPX_STAT_ROLE, 1)], .svc 0, 96, by decide +kernel⟩⟩

theorem test_premises_CycleTimerStartStop :
    (∃ (s : State) (o : Origin), s.Reaches o CYC_CTRL ∧ s.dev.running = false ∧ s.dev.timing.closes = true ∧
      s.dev.divsAtReset = true ∧ s.dev.boundaryScan = false) ∧
    (∃ (s : State) (o : Origin), s.Reaches o CYC_CTRL ∧ s.dev.running = false ∧ s.dev.timing.closes = true ∧
      (s.dev.divsAtReset = false ∨ s.dev.boundaryScan = true)) ∧
    (∃ (s : State) (o : Origin), s.Reaches o CYC_CTRL ∧ s.dev.running = false ∧ s.dev.timing.closes = false) ∧
    (∃ (s : State) (o : Origin), s.Reaches o CYC_CTRL ∧ s.dev.running = true) ∧
    (∃ (s : State) (o : Origin), s.Reaches o CYC_CTRL ∧ (s.dev.get CYC_CTRL_EN = 0 ∨ s.dev.allBlocked = true)) ∧
    (∃ (s : State) (o : Origin), s.Reaches o CYC_CTRL ∧ s.dev.get CYC_CTRL_EN = 1 ∧ s.dev.allBlocked = false) ∧
    (∃ (t : BitVec 48), t.toNat + 3000 * 2 ^ 16 ≤ 2 ^ 48) ∧
    (∃ (t : BitVec 48), 2 ^ 48 - 2000 * 2 ^ 16 - 296 * 2 ^ 16 < t.toNat ∧ t.toNat ≤ 2 ^ 48 - 2000 * 2 ^ 16) :=
  ⟨⟨Wit.cfg [(CYC_STAT_RUNNING, 0)], .svc 0, by decide +kernel⟩,
   ⟨Wit.cfg [] fun d => { d with diag := { d.diag with instr := 0 } }, .svc 0, by decide +kernel⟩,
   ⟨Wit.cfg [(CYC_PERIOD_PERIOD, 2), (CYC_STAT_RUNNING, 0)], .svc 0, by decide +kernel⟩,
   ⟨Wit.cfg [(CYC_STAT_RUNNING, 1)], .svc 0, by decide +kernel⟩,
   ⟨Wit.cfg [(CYC_CTRL_EN, 0)], .svc 0, by decide +kernel⟩,
   ⟨Wit.cfg [(CYC_CTRL_EN, 1), (SCH_ASTAT_ST 11, 2)], .svc 0, by decide +kernel⟩,
   ⟨0, by decide +kernel⟩,
   ⟨281474845573120, by decide +kernel⟩⟩

theorem test_premises_CycleBoundaryAdvances :
    (∃ (s : State), s.dev.held = false ∧ s.dev.sch.aclkStopped = false ∧ s.dev.running = true ∧ s.dev.cyc.inCycle = true ∧
      s.dev.get CYC_CTRL_EN = 1) ∧
    (∃ (s : State) (t : BitVec 48), s.dev.held = false ∧ s.dev.sch.aclkStopped = false ∧ s.dev.running = true ∧
      s.dev.cyc.inCycle = false ∧ s.dev.get CYC_CTRL_EN = 1 ∧ s.dev.cyc.start = some t) ∧
    (∃ (s : State), s.dev.held = false ∧ s.dev.sch.aclkStopped = false ∧ s.dev.running = true ∧
      (s.dev.cyc.inCycle = true ∨ s.dev.cyc.start = none) ∧ s.dev.get CYC_CTRL_EN = 0) :=
  ⟨⟨Wit.cfg [(CYC_STAT_RUNNING, 1), (CYC_CTRL_EN,
    1)] fun d => let d := ({ d with sch := { d.sch with aclkStopped := false } } : Dev);
    let d := ({ d with cyc := { d.cyc with inCycle := true } } : Dev); d, by decide +kernel⟩,
   ⟨Wit.cfg [(CYC_STAT_RUNNING, 1), (CYC_CTRL_EN,
     1)] fun d => let d := ({ d with sch := { d.sch with aclkStopped := false } } : Dev);
     let d := ({ d with cyc := { d.cyc with inCycle := false } } : Dev);
     let d := ({ d with cyc := { d.cyc with start := some (0) } } : Dev); d, 0, by decide +kernel⟩,
   ⟨Wit.cfg [(CYC_STAT_RUNNING, 1), (CYC_CTRL_EN,
     0)] fun d => let d := ({ d with sch := { d.sch with aclkStopped := false } } : Dev);
     let d := ({ d with cyc := { d.cyc with inCycle := true } } : Dev); d, by decide +kernel⟩⟩

set_option maxRecDepth 1000000 in
theorem test_premises_Frames :
    (∃ (s : State), s.dev.held = false ∧ s.dev.sch.aclkStopped = false ∧ s.dev.inCycle = true ∧ s.dev.cyc.departed = false) ∧
    (∃ (s : State), s.dev.held = false ∧ s.dev.sch.aclkStopped = true) ∧
    (∃ (s : State) (p : Fin 48), s.dev.held = false ∧ s.dev.inUse p = true ∧ s.dev.running = false ∧ s.dev.time.on = true ∧
      s.dev.role ≠ .witness ∧ s.dev.role ≠ .faulted) ∧
    (∃ (s : State) (p : Fin 48), s.dev.held = false ∧
      (s.dev.inUse p = false ∨ s.dev.running = true ∨ s.dev.role = .witness ∨ s.dev.role = .faulted)) ∧
    (∃ (s : State) (p : Fin 48) (e : Fin 2) (line : List Int) (f : Frame) (x : Dev) (ret : Nat), s.dev.held = false ∧
      s.dev.sch.aclkStopped = false ∧ s.dev.framesIn (2 * p + e) line = ([f], x) ∧ s.dev.receives p e = true ∧
      s.dev.checkFrame p e f ret = none) ∧
    (∃ (s : State) (p : Fin 48) (e : Fin 2) (line : List Int) (f : Frame) (x : Dev), s.dev.held = false ∧
      s.dev.sch.aclkStopped = false ∧ s.dev.framesIn (2 * p + e) line = ([f], x) ∧ s.dev.receives p e = true ∧
      f.headerOk = false) ∧
    (∃ (s : State) (p : Fin 48) (e : Fin 2) (line : List Int) (f : Frame) (x : Dev) (ret : Nat), s.dev.held = false ∧
      s.dev.sch.aclkStopped = false ∧ s.dev.framesIn (2 * p + e) line = ([f], x) ∧ s.dev.receives p e = true ∧
      (s.dev.checkFrame p e f ret).isSome = true) ∧
    (∃ (s : State) (p : Fin 48) (e : Fin 2) (line : List Int) (x : Dev), s.dev.held = false ∧ s.dev.sch.aclkStopped = false ∧
      s.dev.framesIn (2 * p + e) line = ([], x)) ∧
    (∃ (s : State), s.dev.held = false ∧ s.dev.inCycle = true ∧ s.dev.cyc.closed = false) ∧
    (∃ (s : State) (p : Fin 48), s.dev.held = false ∧ s.dev.get (RING_CTRL_UNWRAPDLY p) ≠ 0 ∧
      16 * s.dev.get (RING_CTRL_UNWRAPDLY p) ≤ (s.dev.port p).qual ∧ (s.dev.port p).unwrap = 0) ∧
    (∃ (s : State) (p : Fin 48), s.dev.held = false ∧
      (s.dev.get (RING_CTRL_UNWRAPDLY p) = 0 ∨ (s.dev.port p).qual < 16 * s.dev.get (RING_CTRL_UNWRAPDLY p))) :=
  ⟨⟨Wit.run [] fun d => let d := ({ d with sch := { d.sch with aclkStopped := false } } : Dev);
    let d := ({ d with cyc := { d.cyc with departed := false } } : Dev); d, by decide +kernel⟩,
   ⟨Wit.cfg [] fun d => { d with sch := { d.sch with aclkStopped := true } }, by decide +kernel⟩,
   ⟨Wit.cfg [(RING_CTRL_EN 0, 1), (CYC_STAT_RUNNING, 0), (DPX_STAT_ROLE,
     1)] fun d => { d with time := { d.time with on := true } }, 0, by decide +kernel⟩,
   ⟨Wit.cfg [], 0, by decide +kernel⟩,
   ⟨Wit.run [] fun d => { d with sch := { d.sch with aclkStopped := false } }, 0, 0,
     Wit.lineOf (Wit.run [] fun d => { d with sch := { d.sch with aclkStopped := false } }).dev Wit.frame, Wit.frame,
     ((Wit.run [] fun d => { d with sch := { d.sch with aclkStopped := false } }).dev.framesIn 0 (Wit.lineOf (Wit.run [] fun d => { d with sch := { d.sch with aclkStopped := false } }).dev Wit.frame)).2, 7100, by decide +kernel, by decide +kernel, Wit.frames_eq (by decide +kernel), by decide +kernel, by decide +kernel⟩,
   ⟨Wit.run [] fun d => { d with sch := { d.sch with aclkStopped := false } }, 0, 0,
     Wit.lineOf (Wit.run [] fun d => { d with sch := { d.sch with aclkStopped := false } }).dev Wit.badFrame, Wit.badFrame,
     ((Wit.run [] fun d => { d with sch := { d.sch with aclkStopped := false } }).dev.framesIn 0 (Wit.lineOf (Wit.run [] fun d => { d with sch := { d.sch with aclkStopped := false } }).dev Wit.badFrame)).2, by decide +kernel, by decide +kernel, Wit.frames_eq (by decide +kernel), by decide +kernel, by decide +kernel⟩,
   ⟨Wit.run [] fun d => { d with sch := { d.sch with aclkStopped := false } }, 0, 0,
     Wit.lineOf (Wit.run [] fun d => { d with sch := { d.sch with aclkStopped := false } }).dev Wit.frame, Wit.frame,
     ((Wit.run [] fun d => { d with sch := { d.sch with aclkStopped := false } }).dev.framesIn 0 (Wit.lineOf (Wit.run [] fun d => { d with sch := { d.sch with aclkStopped := false } }).dev Wit.frame)).2, 7101, by decide +kernel, by decide +kernel, Wit.frames_eq (by decide +kernel), by decide +kernel, by decide +kernel⟩,
   ⟨Wit.cfg [] fun d => { d with sch := { d.sch with aclkStopped := false } }, 0, 0, [],
     (Wit.cfg [] fun d => { d with sch := { d.sch with aclkStopped := false } }).dev, by decide +kernel⟩,
   ⟨Wit.run [] fun d => { d with cyc := { d.cyc with closed := false } }, by decide +kernel⟩,
   ⟨Wit.run [(RING_CTRL_UNWRAPDLY 0, 1)] fun d => { d with ports := d.ports.set 0 { d.port 0 with qual := 64 } }, 0,
     by decide +kernel⟩,
   ⟨Wit.cfg [(RING_CTRL_UNWRAPDLY 0, 0)], 0, by decide +kernel⟩⟩

theorem test_premises_CyclePhases :
    (∃ (s : State) (a : Fin 12) (ns : Nat), s.dev.held = false ∧ s.dev.inCycle = true ∧ s.dev.sortDue a = true ∧
      s.dev.armCells a ≠ [] ∧ ns ≤ s.dev.cyc.tm0.sort) ∧
    (∃ (s : State) (a : Fin 12) (ns : Nat), s.dev.held = false ∧ s.dev.inCycle = true ∧ s.dev.sortDue a = true ∧
      s.dev.armCells a ≠ [] ∧ s.dev.cyc.tm0.sort < ns) ∧
    (∃ (s : State) (a : Fin 12), s.dev.held = false ∧ s.dev.inCycle = true ∧ s.dev.sortDue a = true ∧ s.dev.armCells a ≠ []) ∧
    (∃ (s : State), s.dev.held = false ∧ s.dev.inCycle = true ∧ s.dev.cyc.closed = true ∧ s.dev.cyc.looped = false ∧
      s.dev.cyc.reloaded = false) ∧
    (∃ (s : State), s.dev.held = false ∧ s.dev.inCycle = true ∧ s.dev.cyc.reloaded = false) ∧
    (∃ (s : State), s.dev.held = false ∧ s.dev.inCycle = true ∧ s.dev.cyc.reloaded = true ∧ s.dev.cyc.copied = false) ∧
    (∃ (s : State) (a : Fin 12), s.dev.held = false ∧ s.dev.inCycle = true ∧ s.dev.cyc.reloaded = true ∧
      s.dev.cyc.copied = false ∧ s.dev.armCells a ≠ [] ∧ (s.dev.armCtl a).schedLate = false) ∧
    (∃ (s : State) (o : Origin), s.Reaches o LOOP_GCLR) :=
  ⟨⟨Wit.run [] fun d => { d with cyc := { d.cyc with closed := true } }, 0, 0, by decide +kernel⟩,
   ⟨Wit.run [] fun d => { d with cyc := { d.cyc with closed := true } }, 0, 1001, by decide +kernel⟩,
   ⟨Wit.run [] fun d => { d with cyc := { d.cyc with closed := true } }, 0, by decide +kernel⟩,
   ⟨Wit.run [] fun d => let d := ({ d with cyc := { d.cyc with closed := true } } : Dev);
     let d := ({ d with cyc := { d.cyc with looped := false } } : Dev);
     let d := ({ d with cyc := { d.cyc with reloaded := false } } : Dev); d, by decide +kernel⟩,
   ⟨Wit.run [] fun d => { d with cyc := { d.cyc with reloaded := false } }, by decide +kernel⟩,
   ⟨Wit.run [] fun d => let d := ({ d with cyc := { d.cyc with reloaded := true } } : Dev);
     let d := ({ d with cyc := { d.cyc with copied := false } } : Dev); d, by decide +kernel⟩,
   ⟨Wit.run [] fun d => let d := ({ d with cyc := { d.cyc with reloaded := true } } : Dev);
     let d := ({ d with cyc := { d.cyc with copied := false } } : Dev); d, 0, by decide +kernel⟩,
   ⟨Wit.cfg [], .svc 0, by decide +kernel⟩⟩

theorem test_premises_SyncInFollowing :
    (∃ (s : State), s.dev.held = false ∧ s.dev.following = true ∧ s.dev.cyc.waitEdge = true) ∧
    (∃ (s : State) (t : BitVec 48), s.dev.held = false ∧ s.dev.following = true ∧ s.dev.cyc.waitEdge = false ∧
      s.dev.cyc.inCycle = true ∧ s.dev.cyc.edge = false ∧
      (nsBetween (((t >>> 16) <<< 16) - BitVec.ofNat 48 (s.dev.get CYC_SYNCIN_INDLY * 2 ^ 16)) s.dev.cyc.t0).natAbs ≤ s.dev.get CYC_SYNCCFG_WIN) ∧
    (∃ (s : State), s.dev.held = false ∧ s.dev.following = true ∧ 8 ≤ s.dev.get CYC_SYNCERR_MISSRUN) ∧
    (∃ (s : State), s.dev.held = false ∧ s.dev.following = true ∧ s.dev.get CYC_SYNCERR_MISSRUN < 8) :=
  ⟨⟨Wit.run [(CYC_CTRL_FOLLOW, 1)] fun d => let d := ({ d with cyc := { d.cyc with waitEdge := true } } : Dev);
    let d := ({ d with cyc := { d.cyc with waitEdge := true } } : Dev); d, by decide +kernel⟩,
   ⟨Wit.run [(CYC_CTRL_FOLLOW, 1)] fun d => let d := ({ d with cyc := { d.cyc with waitEdge := true } } : Dev);
     let d := ({ d with cyc := { d.cyc with waitEdge := false } } : Dev);
     let d := ({ d with cyc := { d.cyc with inCycle := true } } : Dev);
     let d := ({ d with cyc := { d.cyc with edge := false } } : Dev); d, 0, by decide +kernel⟩,
   ⟨Wit.run [(CYC_CTRL_FOLLOW, 1), (CYC_SYNCERR_MISSRUN, 8)] fun d => { d with cyc := { d.cyc with waitEdge := true } },
     by decide +kernel⟩,
   ⟨Wit.run [(CYC_CTRL_FOLLOW, 1), (CYC_SYNCERR_MISSRUN, 7)] fun d => { d with cyc := { d.cyc with waitEdge := true } },
     by decide +kernel⟩⟩

def Wit.sampleCommits1 : State := Wit.run [(DPX_CFG_MODE, 1), (DPX_STAT_SDLUP, 1), (LANE_STAT_STATE 96, 6),
    (LANE_STAT_STATE 97, 6), (LANE_STAT_STATE 98, 6), (LANE_STAT_STATE 99, 6), (CYC_STAT_RUNNING,
    1)] fun d => let d := ({ d with cyc := { d.cyc with inCycle := true } } : Dev);
    let d := ({ d with cyc := { d.cyc with closed := false } } : Dev); d
def Wit.sampleCommits1Lines : List (List Int) := Wit.message Wit.sampleCommits1.dev 3 0 (SolderMsg.payload (.relay 0 0 1 3 [(1, 5, 6, 0x8007, 8)]))

set_option maxRecDepth 1000000 in
theorem test_premises_SampleCommits_1 :
    ∃ (s : State) (p : Fin 48) (y : Dev) (i : Fin 128) (lines : List (List Int)) (m : SolderIn) (u : Nat × Nat × Nat × Nat),
      s.dev.held = false ∧ s.dev.isFresh p i = false ∧ s.dev.solderTake 3 lines 0 = ([m], y) ∧ leAt m.bytes 0 1 = p.val ∧
      dw (leAt m.bytes 8 4) = s.dev.cycle ∧ (i.val, u) ∈ relaySlots m.bytes ∧ s.dev.portActive p = true ∧
      s.dev.running = true ∧ s.dev.cyc.inCycle = true ∧ s.dev.cyc.closed = false ∧ s.dev.phaseNs ≤ s.dev.closesAt p ∧
      i.val < (s.dev.port p).discovered :=
  ⟨Wit.sampleCommits1, 0, (Wit.sampleCommits1.dev.solderTake 3 Wit.sampleCommits1Lines 0).2, 1, Wit.sampleCommits1Lines,
    Wit.brought Wit.sampleCommits1.dev 3 Wit.sampleCommits1Lines 0, (5, 6, 0x8007, 8), by decide +kernel⟩


set_option maxRecDepth 1000000 in
theorem test_premises_SampleCommits :
    (∃ (s : State) (p : Fin 48) (e : Fin 2) (line : List Int) (f : Frame) (y : Dev) (ret : Nat) (i : Fin 128) (x : BitVec 128), s.dev.held = false ∧ s.dev.isFresh p i = false ∧ s.dev.sch.aclkStopped = false ∧ s.dev.framesIn (2 * p + e) line = ([f], y) ∧ s.dev.receives p e = true ∧ s.dev.checkFrame p e f ret = none ∧ s.dev.perturbed .slot = false ∧ f.wrap = 0 ∧ f.slots[i.val]? = some x ∧ bitsOf x.toNat 15 0 = slotCrc x.toNat ∧ bitsOf x.toNat 47 47 = 1) :=
  ⟨Wit.run [] fun d => { d with sch := { d.sch with aclkStopped := false } }, 0, 0,
    Wit.lineOf (Wit.run [] fun d => { d with sch := { d.sch with aclkStopped := false } }).dev Wit.frame, Wit.frame,
    ((Wit.run [] fun d => { d with sch := { d.sch with aclkStopped := false } }).dev.framesIn 0 (Wit.lineOf (Wit.run [] fun d => { d with sch := { d.sch with aclkStopped := false } }).dev Wit.frame)).2, 7100, 1, Wit.slot, by decide +kernel, by decide +kernel, by decide +kernel, Wit.frames_eq (by decide +kernel), by decide +kernel, by decide +kernel, by decide +kernel, by decide +kernel, by decide +kernel, by decide +kernel, by decide +kernel⟩

theorem test_premises_RankingOrder :
    (∃ (d : Dev) (a : Fin 12) (ik : Int) (ip : Int) (x : Nat) (y : Nat), x ∈ d.rankedCells a ∧ y ∈ d.rankedCells a ∧
      (d.armCells a).Nodup ∧ (d.armCells a).length ≤ 1024 ∧
      (d.rankArm a ik ip).get (CELL_W3C_CLS x) = (d.rankArm a ik ip).get (CELL_W3C_CLS y) ∧
      d.getS (CELL_W20_VPRED x) = d.getS (CELL_W20_VPRED y) ∧ d.get (CELL_W1C_LIDX x) < d.get (CELL_W1C_LIDX y)) ∧
    (∃ (d : Dev) (a : Fin 12) (ik : Int) (ip : Int) (x : Nat) (y : Nat), x ∈ d.rankedCells a ∧ y ∈ d.rankedCells a ∧
      (d.armCells a).Nodup ∧ (d.armCells a).length ≤ 1024 ∧
      (d.rankArm a ik ip).get (CELL_W3C_CLS x) < (d.rankArm a ik ip).get (CELL_W3C_CLS y)) ∧
    (∃ (d : Dev) (a : Fin 12) (ik : Int) (ip : Int) (x : Nat) (y : Nat), x ∈ d.rankedCells a ∧ y ∈ d.rankedCells a ∧
      (d.armCells a).Nodup ∧ (d.armCells a).length ≤ 1024 ∧
      (d.rankArm a ik ip).get (CELL_W3C_CLS x) = (d.rankArm a ik ip).get (CELL_W3C_CLS y) ∧
      (if (d.rankArm a ik ip).get (ARM_STAT_DIR a) = 1 then d.getS (CELL_W20_VPRED x) < d.getS (CELL_W20_VPRED y) else d.getS (CELL_W20_VPRED y) < d.getS (CELL_W20_VPRED x))) :=
  ⟨⟨(Wit.run [(CELL_W3C_CLS 0, 1), (CELL_W3C_CLS 1, 1)]).dev, 0, 0, 0, 0, 1, by decide +kernel⟩,
   ⟨(Wit.run [(CELL_W3C_CLS 0, 1), (CELL_W3C_CLS 1, 1), (ARM_CFG_MODE 0, 1), (CELL_W3C_ST1 1, 1)]).dev, 0, 0, 0, 1, 0,
     by decide +kernel⟩,
   ⟨(Wit.run [(CELL_W3C_CLS 0, 1), (CELL_W3C_CLS 1, 1), (CELL_W20_VPRED 0, 1)]).dev, 0, 0, 0, 1, 0, by decide +kernel⟩⟩

theorem test_premises_PulsePlacement :
    (∃ (win : Nat) (w : Nat) (phi : Nat) (ins : Nat) (u : Nat), 0 < w ∧ w < win ∧ win ≤ noEdge ∧ phi < win ∧
      (ins = 1 ∨ ins = 2) ∧ u < win) ∧
    (∃ (nq : Nat) (win : Nat) (nrank : Nat), 16 ≤ win ∧ nq ≤ nrank * 2 ^ 16) :=
  ⟨⟨5, 0 + 1, 4, 1, 4, by decide +kernel⟩,
   ⟨0, 16, 0, by decide +kernel⟩⟩

theorem test_premises_EngineArithmetic :
    (∃ (l : List (Int × Int)), (dot l).2 = false) ∧
    (∃ (l : List (Int × Int)), (∀ n ≤ l.length, -2 ^ 63 ≤ ((l.take n).map fun c => c.1 * c.2).sum ∧
      ((l.take n).map fun c => c.1 * c.2).sum < 2 ^ 63) ∧ (-2 ^ 59 ≤ (l.map fun c => c.1 * c.2).sum) ∧
      ((l.map fun c => c.1 * c.2).sum < 2 ^ 59 - 2 ^ 27)) ∧
    (∃ (d : Dev) (i : Fin 128), (d.get (LOOP_CCFG_AW i) = 1 ∨ d.get (LOOP_CCFG_AW i) = 2) ∧ d.is (LOOP_CCFG_WRAP i) = false ∧
      d.is (LOOP_CCFG_LOSLOT i) = false ∧ d.is (LOOP_CCFG_HISLOT i) = false ∧
      (d.word (LOOP_CLO i)).toInt ≤ (d.word (LOOP_CHI i)).toInt) :=
  ⟨⟨[], by decide +kernel⟩,
   ⟨[], by decide +kernel⟩,
   ⟨(Wit.cfg [(LOOP_CCFG_AW 0, 1), (LOOP_CCFG_WRAP 0, 0), (LOOP_CCFG_LOSLOT 0, 0), (LOOP_CCFG_HISLOT 0, 0)]).dev, 0,
     by decide +kernel⟩⟩

set_option maxRecDepth 1000000 in
theorem test_premises_Discovery :
    (∃ (s : State) (o : Origin) (p : Fin 48), s.Lets o (RING_CTRL p) ∧ (s.dev.port p).disc = none ∧
      s.dev.arm (s.dev.portArm p) = .blocked ∧ s.dev.discBarred = false ∧ s.dev.epState ≠ .applying) ∧
    (∃ (s : State) (o : Origin) (p : Fin 48), s.Lets o (RING_CTRL p) ∧ s.dev.discRefused p = true) ∧
    (∃ (s : State) (o : Origin) (p : Fin 48), s.Lets o (RING_CTRL p) ∧ (s.dev.port p).disc = none ∧
      s.dev.discRefused p = false ∧ s.dev.epState = .applying) ∧
    (∃ (s : State) (o : Origin) (p : Fin 48), s.Lets o (RING_CTRL p) ∧ (s.dev.port p).disc.isSome = true) ∧
    (∃ (s : State) (o : Origin) (p : Fin 48), s.dev.held = false ∧ s.dev.epState ≠ .applying ∧
      (s.dev.port p).discWait = some o ∧ (s.dev.port p).disc = none) ∧
    (∃ (s : State), s.dev.held = false ∧ s.dev.epState = .applying) ∧
    (∃ (s : State) (p : Fin 48) (e : Fin 2) (x : Disc), s.dev.held = false ∧ (s.dev.port p).disc = some x ∧ x.lock = [] ∧
      x.end_ = e.val ∧ x.sent = none ∧ x.attempt < 3 ∧ s.dev.framesOn = true) ∧
    (∃ (s : State) (p : Fin 48), s.dev.held = false ∧ (s.dev.port p).disc = none) ∧
    (∃ (s : State) (p : Fin 48) (e : Fin 2), s.dev.held = false ∧ s.dev.paired = true ∧ s.dev.timeRef = false ∧
      s.dev.inUse p = true ∧ s.dev.get (RING_CTRL_DPX p) = 1 ∧ s.dev.get (RING_CTRL_OWNEND p) = e.val ∧ s.dev.framesOn = true) ∧
    (∃ (s : State) (p : Fin 48) (x : Disc) (t : Nat), s.dev.held = false ∧ (s.dev.port p).disc = some x ∧ x.sent = some t ∧
      x.attempt < 3) ∧
    (∃ (s : State) (p : Fin 48) (x : Disc) (t : Nat), s.dev.held = false ∧ (s.dev.port p).disc = some x ∧ x.sent = some t ∧
      3 ≤ x.attempt) ∧
    (∃ (s : State) (p : Fin 48), s.dev.held = false ∧ (s.dev.port p).disc.bind (·.sent) = none) ∧
    (∃ (s : State) (p : Fin 48) (x : Disc), s.dev.held = false ∧ (s.dev.port p).disc = some x ∧ x.lock ≠ []) ∧
    (∃ (s : State) (p : Fin 48) (x : Disc), s.dev.held = false ∧ (∀ x, (s.dev.port p).disc = some x → x.lock = [])) ∧
    (∃ (s : State) (p : Fin 48) (e : Fin 2) (line : List Int) (f : Frame) (y : Dev), s.dev.held = false ∧
      s.dev.framesIn (2 * p + e) line = ([f], y) ∧ s.dev.get (RING_CTRL_EN p) = 1 ∧ f.type = 1 ∧ f.dir ≠ e.val ∧
      f.headerOk = true ∧ s.dev.framesOn = true ∧ 2 ≤ s.dev.get (LANE_STAT_STATE (2 * p + e))) ∧
    (∃ (s : State) (p : Fin 48) (e : Fin 2) (line : List Int) (f : Frame) (y : Dev), s.dev.held = false ∧
      s.dev.framesIn (2 * p + e) line = ([f], y) ∧
      (s.dev.get (RING_CTRL_EN p) = 0 ∨ f.type ≠ 1 ∨ f.dir = e.val ∨ f.headerOk = false)) ∧
    (∃ (s : State) (p : Fin 48) (e : Fin 2) (line : List Int) (f : Frame) (y : Dev) (x : Disc), s.dev.held = false ∧
      s.dev.framesIn (2 * p + e) line = ([f], y) ∧ (s.dev.port p).disc = some x ∧
      discCheck p e x.pass (passSlots e x.ncfg) (x.done.contains e.val) f = none ∧ x.end_ = e.val ∧ x.sent.isSome = true ∧
      x.pass = 0 ∧ x.leg0 = none ∧ x.leg1 = none ∧ f.wrap = 1 ∧
      (DiscLeg.mk (some f.wpos) f.hops [] [] [] 0 0).count e x.ncfg ≠ x.ncfg) ∧
    (∃ (s : State) (p : Fin 48) (e : Fin 2) (line : List Int) (f : Frame) (y : Dev) (x : Disc), s.dev.held = false ∧
      s.dev.framesIn (2 * p + e) line = ([f], y) ∧ (s.dev.port p).disc = some x ∧
      discCheck p e x.pass (passSlots e x.ncfg) (x.done.contains e.val) f = none ∧ x.end_ = e.val ∧ x.sent.isSome = true ∧
      x.pass = 0 ∧ x.leg0 = none ∧ x.leg1 = none ∧ f.wrap = 1 ∧
      (DiscLeg.mk (some f.wpos) f.hops [] [] [] 0 0).count e x.ncfg = x.ncfg ∧
      s.dev.declared p ({ x with cells := x.ncfg }.setLeg e ⟨some f.wpos, f.hops, discRecs f, [], [], 0, 0⟩) = none) ∧
    (∃ (s : State) (p : Fin 48) (e : Fin 2) (line : List Int) (f : Frame) (y : Dev) (x : Disc) (l : DiscLeg),
      s.dev.held = false ∧ s.dev.framesIn (2 * p + e) line = ([f], y) ∧ (s.dev.port p).disc = some x ∧
      discCheck p e x.pass (passSlots e x.ncfg) (x.done.contains e.val) f = none ∧ x.end_ = e.val ∧ x.sent.isSome = true ∧
      x.pass = 1 ∧ x.leg e = some l ∧ (e.val = 1 ∨ x.leg1 = none)) ∧
    (∃ (s : State) (p : Fin 48) (e : Fin 2) (line : List Int) (f : Frame) (y : Dev) (x : Disc) (l : DiscLeg),
      s.dev.held = false ∧ s.dev.framesIn (2 * p + e) line = ([f], y) ∧ (s.dev.port p).disc = some x ∧
      discCheck p e x.pass (passSlots e x.ncfg) (x.done.contains e.val) f = none ∧ x.end_ = e.val ∧ x.sent.isSome = true ∧
      x.pass = 2 ∧ x.leg e = some l ∧ (e.val = 1 ∨ x.leg1 = none) ∧ (∀ i < x.cells,
      (x.setLeg e { l with echo := discRecs f }).badEcho 0 i = false ∧
      (x.setLeg e { l with echo := discRecs f }).badEcho 1 i = false)) ∧
    (∃ (s : State) (p : Fin 48) (e : Fin 2) (line : List Int) (f : Frame) (y : Dev) (x : Disc), s.dev.held = false ∧
      s.dev.framesIn (2 * p + e) line = ([f], y) ∧ (s.dev.port p).disc = some x ∧
      (discCheck p e x.pass (passSlots e x.ncfg) (x.done.contains e.val) f).isSome = true) ∧
    (∃ (s : State) (p : Fin 48) (e : Fin 2) (line : List Int) (y : Dev), s.dev.held = false ∧
      s.dev.framesIn (2 * p + e) line = ([], y)) :=
  ⟨⟨Wit.cfg [(SCH_ASTAT_ST 0, 0), (HIF_EPRES_STATE, 0)], .svc 0, 0, by decide +kernel⟩,
   ⟨Wit.cfg [(SCH_ASTAT_ST 0, 2)], .svc 0, 0, by decide +kernel⟩,
   ⟨Wit.cfg [(HIF_EPRES_STATE, 4)], .svc 0, 0, by decide +kernel⟩,
   ⟨Wit.cfg [] fun d => Wit.finding Wit.disc d, .svc 0, 0, by decide +kernel⟩,
   ⟨Wit.cfg [(HIF_EPRES_STATE, 0)] fun d => { d with ports := d.ports.set 0 { d.port 0 with discWait := some (.svc 0) } },
     .svc 0, 0, by decide +kernel⟩,
   ⟨Wit.cfg [(HIF_EPRES_STATE, 4)], by decide +kernel⟩,
   ⟨Wit.cfg [(RING_CTRL_EN 0, 1)] fun d => Wit.finding { Wit.disc with end_ := 1 } d, 0, 1, { Wit.disc with end_ := 1 },
     by decide +kernel⟩,
   ⟨Wit.cfg [], 0, by decide +kernel⟩,
   ⟨Wit.cfg [(DPX_CFG_MODE, 1), (DPX_STAT_SDLUP, 1), (DPX_CFG_UNIT, 1), (DPX_STAT_ROLE, 2), (RING_CTRL_EN 0, 1),
     (RING_CTRL_DPX 0, 1)], 0, 0, by decide +kernel⟩,
   ⟨Wit.cfg [(RING_CTRL_EN 0, 1)] fun d => Wit.finding { Wit.disc with sent := some 0 } d, 0,
     { Wit.disc with sent := some 0 }, 0, by decide +kernel⟩,
   ⟨Wit.cfg [(RING_CTRL_EN 0, 1)] fun d => Wit.finding { Wit.disc with sent := some 0, attempt := 3 } d, 0,
     { Wit.disc with sent := some 0, attempt := 3 }, 0, by decide +kernel⟩,
   ⟨Wit.cfg [], 0, by decide +kernel⟩,
   ⟨Wit.cfg [(RING_CTRL_EN 0, 1)] fun d => Wit.finding { Wit.disc with lock := [1] } d, 0, { Wit.disc with lock := [1] },
     by decide +kernel⟩,
   ⟨Wit.cfg [], 0, Wit.disc, by decide +kernel⟩,
   ⟨Wit.run [], 0, 0, Wit.lineOf (Wit.run []).dev Wit.turned, Wit.turned,
     ((Wit.run []).dev.framesIn 0 (Wit.lineOf (Wit.run []).dev Wit.turned)).2, by decide +kernel,
     Wit.frames_eq (by decide +kernel), by decide +kernel, by decide +kernel, by decide +kernel, by decide +kernel,
     by decide +kernel, by decide +kernel⟩,
   ⟨Wit.run [(RING_CTRL_EN 0, 0)], 0, 0, Wit.lineOf (Wit.run [(RING_CTRL_EN 0, 0)]).dev Wit.turned, Wit.turned,
     ((Wit.run [(RING_CTRL_EN 0, 0)]).dev.framesIn 0 (Wit.lineOf (Wit.run [(RING_CTRL_EN 0, 0)]).dev Wit.turned)).2,
     by decide +kernel, Wit.frames_eq (by decide +kernel), by decide +kernel⟩,
   ⟨Wit.run [(RING_MAP_NCELL 0,
     2)] fun d => let d := (Wit.finding { Wit.disc with end_ := 1, sent := some 0, ncfg := 2 } d : Dev); d, 0, 1,
     Wit.lineOf (Wit.run [(RING_MAP_NCELL 0,
     2)] fun d => let d := (Wit.finding { Wit.disc with end_ := 1, sent := some 0, ncfg := 2 } d : Dev); d).dev Wit.short 1,
     Wit.short, ((Wit.run [(RING_MAP_NCELL 0,
     2)] fun d => let d := (Wit.finding { Wit.disc with end_ := 1, sent := some 0, ncfg := 2 } d : Dev);
     d).dev.framesIn 1 (Wit.lineOf (Wit.run [(RING_MAP_NCELL 0,
     2)] fun d => let d := (Wit.finding { Wit.disc with end_ := 1, sent := some 0, ncfg := 2 } d : Dev);
     d).dev Wit.short 1)).2, { Wit.disc with end_ := 1, sent := some 0, ncfg := 2 }, by decide +kernel,
     Wit.frames_eq (by decide +kernel), by decide +kernel, by decide +kernel, by decide +kernel, by decide +kernel,
     by decide +kernel, by decide +kernel, by decide +kernel, by decide +kernel, by decide +kernel⟩,
   ⟨Wit.run [(RING_MAP_NCELL 0,
     2)] fun d => let d := (Wit.finding { Wit.disc with end_ := 1, sent := some 0, ncfg := 1 } d : Dev); d, 0, 1,
     Wit.lineOf (Wit.run [(RING_MAP_NCELL 0,
     2)] fun d => let d := (Wit.finding { Wit.disc with end_ := 1, sent := some 0, ncfg := 1 } d : Dev);
     d).dev (Wit.enum 0) 1, Wit.enum 0, ((Wit.run [(RING_MAP_NCELL 0,
     2)] fun d => let d := (Wit.finding { Wit.disc with end_ := 1, sent := some 0, ncfg := 1 } d : Dev);
     d).dev.framesIn 1 (Wit.lineOf (Wit.run [(RING_MAP_NCELL 0,
     2)] fun d => let d := (Wit.finding { Wit.disc with end_ := 1, sent := some 0, ncfg := 1 } d : Dev);
     d).dev (Wit.enum 0) 1)).2, { Wit.disc with end_ := 1, sent := some 0, ncfg := 1 }, by decide +kernel,
     Wit.frames_eq (by decide +kernel), by decide +kernel, by decide +kernel, by decide +kernel, by decide +kernel,
     by decide +kernel, by decide +kernel, by decide +kernel, by decide +kernel, by decide +kernel, by decide +kernel⟩,
   ⟨Wit.run [(RING_MAP_NCELL 0,
     2)] fun d => let d := (Wit.finding { Wit.disc with end_ := 1, sent := some 0, pass := 1, ncfg := 1, leg0 := some Wit.leg, leg1 := some Wit.leg } d : Dev); d, 0, 1, Wit.lineOf (Wit.run [(RING_MAP_NCELL 0, 2)] fun d => let d := (Wit.finding { Wit.disc with end_ := 1, sent := some 0, pass := 1, ncfg := 1, leg0 := some Wit.leg, leg1 := some Wit.leg } d : Dev); d).dev (Wit.enum 1) 1, Wit.enum 1, ((Wit.run [(RING_MAP_NCELL 0, 2)] fun d => let d := (Wit.finding { Wit.disc with end_ := 1, sent := some 0, pass := 1, ncfg := 1, leg0 := some Wit.leg, leg1 := some Wit.leg } d : Dev); d).dev.framesIn 1 (Wit.lineOf (Wit.run [(RING_MAP_NCELL 0, 2)] fun d => let d := (Wit.finding { Wit.disc with end_ := 1, sent := some 0, pass := 1, ncfg := 1, leg0 := some Wit.leg, leg1 := some Wit.leg } d : Dev); d).dev (Wit.enum 1) 1)).2, { Wit.disc with end_ := 1, sent := some 0, pass := 1, ncfg := 1, leg0 := some Wit.leg, leg1 := some Wit.leg }, Wit.leg, by decide +kernel, Wit.frames_eq (by decide +kernel), by decide +kernel, by decide +kernel, by decide +kernel, by decide +kernel, by decide +kernel, by decide +kernel, by decide +kernel⟩,
   ⟨Wit.run [(RING_MAP_NCELL 0,
     2)] fun d => let d := (Wit.finding { Wit.disc with end_ := 1, sent := some 0, pass := 2, ncfg := 1, leg0 := some Wit.leg, leg1 := some Wit.leg } d : Dev); d, 0, 1, Wit.lineOf (Wit.run [(RING_MAP_NCELL 0, 2)] fun d => let d := (Wit.finding { Wit.disc with end_ := 1, sent := some 0, pass := 2, ncfg := 1, leg0 := some Wit.leg, leg1 := some Wit.leg } d : Dev); d).dev (Wit.enum 2) 1, Wit.enum 2, ((Wit.run [(RING_MAP_NCELL 0, 2)] fun d => let d := (Wit.finding { Wit.disc with end_ := 1, sent := some 0, pass := 2, ncfg := 1, leg0 := some Wit.leg, leg1 := some Wit.leg } d : Dev); d).dev.framesIn 1 (Wit.lineOf (Wit.run [(RING_MAP_NCELL 0, 2)] fun d => let d := (Wit.finding { Wit.disc with end_ := 1, sent := some 0, pass := 2, ncfg := 1, leg0 := some Wit.leg, leg1 := some Wit.leg } d : Dev); d).dev (Wit.enum 2) 1)).2, { Wit.disc with end_ := 1, sent := some 0, pass := 2, ncfg := 1, leg0 := some Wit.leg, leg1 := some Wit.leg }, Wit.leg, by decide +kernel, Wit.frames_eq (by decide +kernel), by decide +kernel, by decide +kernel, by decide +kernel, by decide +kernel, by decide +kernel, by decide +kernel, by decide +kernel, by decide +kernel⟩,
   ⟨Wit.run [(RING_MAP_NCELL 0, 2)] fun d => Wit.finding { Wit.disc with sent := some 0 } d, 0, 0,
     Wit.lineOf (Wit.run [(RING_MAP_NCELL 0, 2)] fun d => Wit.finding { Wit.disc with sent := some 0 } d).dev (Wit.frame),
     Wit.frame, ((Wit.run [(RING_MAP_NCELL 0,
     2)] fun d => Wit.finding { Wit.disc with sent := some 0 } d).dev.framesIn 0 (Wit.lineOf (Wit.run [(RING_MAP_NCELL 0,
     2)] fun d => Wit.finding { Wit.disc with sent := some 0 } d).dev (Wit.frame))).2, { Wit.disc with sent := some 0 },
     by decide +kernel, Wit.frames_eq (by decide +kernel), by decide +kernel, by decide +kernel⟩,
   ⟨Wit.cfg [], 0, 0, [], (Wit.cfg []).dev, by decide +kernel⟩⟩

theorem test_premises_PowerReset :
    (∃ (uv : Nat) (ns : Nat), uv < tripLevel ∧ 2000 < ns) ∧
    (∃ (uv : Nat) (ns : Nat), (tripLevel ≤ uv ∨ ns ≤ 2000)) ∧
    (∃ (s : State), s.dev.rst.porstLow = true ∧ s.dev.rst.brownLow = false) ∧
    (∃ (s : State) (uv : Nat) (ns : Nat), s.dev.rst.brownLow = true ∧ s.dev.rst.porstLow = false ∧ tripLevel + 20000 < uv ∧
      1000000 ≤ ns) ∧
    (∃ (s : State), s.dev.rst.porstLow = true ∧ s.dev.rst.brownLow = true) :=
  ⟨⟨0, 2000 + 1, by simp only [tripLevel]; omega, by decide +kernel⟩,
   ⟨0, 0, by simp only [tripLevel]; omega⟩,
   ⟨Wit.cfg [] fun d => let d := ({ d with rst := { d.rst with porstLow := true } } : Dev);
     let d := ({ d with rst := { d.rst with brownLow := false } } : Dev); d, by decide +kernel⟩,
   ⟨Wit.cfg [] fun d => let d := ({ d with rst := { d.rst with brownLow := true } } : Dev);
     let d := ({ d with rst := { d.rst with brownLow := true } } : Dev);
     let d := ({ d with rst := { d.rst with porstLow := false } } : Dev); d, tripLevel + 20001, 1000000, by decide +kernel,
     by decide +kernel, by simp only [tripLevel]; omega, by decide +kernel⟩,
   ⟨Wit.cfg [] fun d => let d := ({ d with rst := { d.rst with porstLow := true } } : Dev);
     let d := ({ d with rst := { d.rst with brownLow := true } } : Dev); d, by decide +kernel⟩⟩

theorem test_premises_SoftResetTable :
    (∃ (s : State), s.dev.rst.porstLow = false ∧ s.dev.rst.brownLow = false) ∧
    (∃ (s : State) (o : Origin), s.Reaches o RST_CTRL ∧ swrstOrigin o = true) ∧
    (∃ (s : State), s.dev.rst.internal = true) :=
  ⟨⟨Wit.cfg [] fun d => let d := ({ d with rst := { d.rst with porstLow := false } } : Dev);
    let d := ({ d with rst := { d.rst with brownLow := false } } : Dev); d, by decide +kernel⟩,
   ⟨Wit.cfg [], .svc 0, by decide +kernel⟩,
   ⟨Wit.cfg [] fun d => { d with rst := { d.rst with internal := true } }, by decide +kernel⟩⟩

theorem test_premises_BootEnds :
    (∃ (s : State), s.dev.held = false ∧ s.dev.dstate = .boot ∧ s.dev.rst.boot = none) ∧
    (∃ (s : State) (res : Nat) (svns : List Nat), s.dev.held = false ∧ s.dev.dstate = .boot ∧ s.dev.rst.boot = some (res,
      svns) ∧ res < 256) :=
  ⟨⟨Wit.cfg [(RST_STAT_DSTATE, 1)] fun d => { d with rst := { d.rst with boot := none } }, by decide +kernel⟩,
   ⟨Wit.cfg [(RST_STAT_DSTATE, 1)] fun d => { d with rst := { d.rst with boot := some (255, [1, 0, 0, 0]) } }, 255, [1, 0, 0,
     0], by decide +kernel⟩⟩

theorem test_premises_FatalFaultHalts :
    (∃ (s : State) (c : Fin 5), s.dev.held = false ∧ s.dev.dstate ≠ .boot ∧ s.dev.dstate ≠ .halt ∧
      (c.val ≠ 3 ∨ s.dev.role = .active)) ∧
    (∃ (s : State), s.dev.held = false ∧ (s.dev.dstate = .boot ∨ s.dev.dstate = .halt)) :=
  ⟨⟨Wit.cfg [], 4, by decide +kernel⟩,
   ⟨Wit.cfg [(RST_STAT_DSTATE, 1)], by decide +kernel⟩⟩

theorem test_premises_DiscoverAndDeep :
    (∃ (s : State) (o : Origin), s.Reaches o RST_CTRL ∧ s.dev.get RST_CTRL_SWRST = 0 ∧ s.dev.dstate = .config ∧
      s.dev.portsUsed ≠ [] ∧ s.dev.allBlocked = true ∧ s.dev.discBarred = false) ∧
    (∃ (s : State) (o : Origin), s.Reaches o RST_CTRL ∧ s.dev.get RST_CTRL_SWRST = 0 ∧
      (s.dev.dstate ≠ .config ∨ s.dev.portsUsed = [] ∨ s.dev.allBlocked = false ∨ s.dev.discBarred = true)) ∧
    (∃ (s : State), s.dev.held = false ∧ s.dev.dstate = .discover ∧ s.dev.discovering = false) ∧
    (∃ (s : State), s.dev.held = false ∧ (s.dev.dstate ≠ .discover ∨ s.dev.discovering = true)) ∧
    (∃ (s : State), s.dev.held = false ∧ s.dev.running = false ∧ s.dev.discovering = false ∧ s.dev.rst.deep = false ∧
      s.dev.get RST_PCFG_DEEPEN = 1 ∧ (s.dev.dstate = .config ∨ s.dev.dstate = .sync) ∧ s.dev.role = .solo ∧
      s.dev.epState = .idle ∧ (∀ u, s.dev.tNext 0 = some u → 1000000 * max (s.dev.get RST_PCFG_DEEPMIN) 1 ≤ u)) ∧
    (∃ (s : State), s.dev.held = false ∧
      (s.dev.running = true ∨ s.dev.discovering = true ∨ s.dev.get RST_PCFG_DEEPEN = 0 ∨ s.dev.role ≠ .solo ∨ s.dev.epState ≠ .idle)) ∧
    (∃ (s : State) (t : Nat), s.dev.held = false ∧ s.dev.rst.deep = true ∧ s.dev.tNext 0 = some t) :=
  ⟨⟨Wit.run [(RST_CTRL_SWRST, 0), (RST_STAT_DSTATE, 2)], .svc 0, by decide +kernel⟩,
   ⟨Wit.cfg [(RST_CTRL_SWRST, 0)], .svc 0, by decide +kernel⟩,
   ⟨Wit.cfg [(RST_STAT_DSTATE, 3)], by decide +kernel⟩,
   ⟨Wit.cfg [], by decide +kernel⟩,
   ⟨Wit.cfg [(CYC_STAT_RUNNING, 0), (RST_PCFG_DEEPEN, 1), (RST_STAT_DSTATE, 2), (DPX_STAT_ROLE, 0), (HIF_EPRES_STATE,
     0)] fun d => { d with rst := { d.rst with deep := false } }, by decide +kernel⟩,
   ⟨Wit.cfg [(CYC_STAT_RUNNING, 1)], by decide +kernel⟩,
   ⟨Wit.cfg [(SVC_FCFG_PAIRS 0,
     3)] fun d => { d with rst := { d.rst with deep := true }, svc := { d.svc with delays := [⟨Wit.witem, 50, 0⟩] } }, 50,
     by decide +kernel⟩⟩

theorem test_premises_RegisterAccess :
    (∃ (s : State) (o : Origin) (off : Nat) (v : Word), s.Reaches o off ∧ off % 4 = 0 ∧ off < 0x400000 ∧
      (regAt off).isSome = true ∧ s.dev.special s.nv o off v = none) ∧
    (∃ (s : State) (off : Nat) (be : Nat), s.dev.Answers off ∧ off % 4 = 0 ∧ off < 0x460000 ∧ (be ≠ 0xF ∨ 0x400000 ≤ off)) ∧
    (∃ (s : State) (o : Origin) (off : Nat), s.dev.Answers off ∧ off % 4 = 0 ∧ off < 0x460000 ∧ regAt off = none ∧
      o.mayWrite off = true) ∧
    (∃ (s : State) (off : Nat) (n : Fin 4), s.dev.Answers off ∧ off % 4 = 0 ∧ off < 0x400000 ∧ 2 ≤ n.val ∧
      pairBarred off = true) ∧
    (∃ (s : State), s.dev.held = false ∧ s.dev.rst.deep = true) ∧
    (∃ (s : State) (o : Origin) (off : Nat), s.dev.Answers off ∧ o.mayWrite off = true ∧ s.dev.get AUD_STAT_FULL = 0 ∧
      s.dev.locked = true ∧ InAny [bLOOP] off ∧ off ≠ LOOP_GCLR ∧ off % 4 = 0 ∧ (regAt off).isSome = true) :=
  ⟨⟨Wit.cfg [], .svc 0, 0, 0, by decide +kernel⟩,
   ⟨Wit.cfg [], 0, 0, by decide +kernel⟩,
   ⟨Wit.cfg [], .svc 0, 0xFFFC, by decide +kernel⟩,
   ⟨Wit.cfg [], CLK_CTRL, 2, by decide +kernel⟩,
   ⟨Wit.cfg [] fun d => { d with rst := { d.rst with deep := true } }, by decide +kernel⟩,
   ⟨Wit.cfg [(HIF_EPRES_LOCKED, 1), (AUD_STAT_FULL, 0)], .svc 0, LOOP_GCFG 1, by decide +kernel⟩⟩

theorem test_premises_AccessesWithoutRegister :
    (∃ (s : State) (off : Nat), s.dev.Answers off ∧ off % 4 = 0 ∧ 0x460000 ≤ off ∧ off < 0x1000000) ∧
    (∃ (s : State), s.dev.awake) ∧
    (∃ (s : State) (off : Nat), s.dev.awake ∧ s.dev.gated off = true) ∧
    (∃ (s : State) (off : Nat), s.dev.awake ∧ s.dev.gated off = true ∧ off % 4 = 0 ∧ off < 0x1000000) :=
  ⟨⟨Wit.cfg [], 0x460000, by decide +kernel⟩,
   ⟨Wit.cfg [], by decide +kernel⟩,
   ⟨Wit.cfg [] fun d => d.setWord CLK_GATE1 0, ADC_SWSTART, by decide +kernel⟩,
   ⟨Wit.cfg [] fun d => d.setWord CLK_GATE1 0, ADC_SWSTART, by decide +kernel⟩⟩

theorem test_premises_WideValuesAndReads :
    (∃ (s : State) (o : Origin) (o' : Origin) (w : Fin 6161), s.dev.awake ∧ o' ≠ o ∧ s.dev.latchOf o (wideAt w).1 = none) ∧
    (∃ (s : State) (o : Origin) (o' : Origin), s.dev.awake ∧ o' ≠ o) ∧
    (∃ (s : State) (o : Origin) (o' : Origin) (r : Fin 6), s.dev.awake ∧ o' ≠ o ∧ s.Reaches o (HIF_RING_BASELO r)) ∧
    (∃ (s : State) (o : Origin) (o' : Origin) (r : Fin 6) (x : Word), s.dev.awake ∧ o' ≠ o ∧ s.Reaches o (HIF_RING_BASEHI r) ∧
      ((s.dev.wlatch.find? fun e => e.1 == (o, HIF_RING_BASELO r)) = some ((o, HIF_RING_BASELO r), x))) ∧
    (∃ (s : State) (o : Origin) (off : Nat), s.dev.Answers off ∧ off % 4 = 0 ∧ off < 0x400000 ∧ typeMask (· == .rc) off ≠ 0 ∧
      s.dev.latchOf o off = none) ∧
    (∃ (s : State) (o : Origin), s.dev.awake ∧ s.dev.latchOf o CYC_NUM = none) ∧
    (∃ (s : State) (o : Origin) (n : Fin 4), s.dev.awake ∧ s.dev.latchOf o (TIM_TB_NS n) = none) ∧
    (∃ (s : State) (o : Origin) (n : Fin 4), s.dev.awake ∧ n.val ≠ 2 ∧ s.dev.latchOf o (TIM_TB_NS n) = none) ∧
    (∃ (s : State) (o : Origin) (x : Fin 2) (i : Fin 32), s.dev.Answers (ADC_RES x i) ∧ s.dev.latchOf o (ADC_RES x i) = none) ∧
    (∃ (s : State) (o : Origin), s.Reaches o TOP_ATTN_EN) :=
  ⟨⟨Wit.cfg [], .svc 0, .uart, 6160, by decide +kernel⟩,
   ⟨Wit.cfg [], .svc 0, .uart, by decide +kernel⟩,
   ⟨Wit.cfg [], .svc 0, .uart, 0, by decide +kernel⟩,
   ⟨Wit.cfg [] fun d => { d with wlatch := [((.svc 0, HIF_RING_BASELO 0), 7)] }, .svc 0, .uart, 0, 7, by decide +kernel⟩,
   ⟨Wit.cfg [], .svc 0, CYC_OVRCNT, by decide +kernel⟩,
   ⟨Wit.cfg [], .svc 0, by decide +kernel⟩,
   ⟨Wit.cfg [], .svc 0, 0, by decide +kernel⟩,
   ⟨Wit.cfg [], .svc 0, 3, by decide +kernel⟩,
   ⟨Wit.cfg [], .svc 0, 0, 0, by decide +kernel⟩,
   ⟨Wit.cfg [], .svc 0, by decide +kernel⟩⟩

theorem test_premises_TimeBaseWrites :
    (∃ (s : State) (o : Origin), s.dev.awake ∧ s.dev.gated TIM_TB0SET = false ∧ o.mayWrite TIM_TB0SET = true ∧
      (s.dev.running = false ∧ (s.dev.role = .solo ∨ s.dev.role = .witness)) ∧ s.dev.withheld o = false) ∧
    (∃ (s : State) (o : Origin), s.dev.awake ∧ s.dev.gated TIM_TB0SET = false ∧ o.mayWrite TIM_TB0SET = true ∧
      (s.dev.running = false ∧ (s.dev.role = .solo ∨ s.dev.role = .witness)) ∧ s.dev.withheld o = true) ∧
    (∃ (s : State) (o : Origin), s.dev.awake ∧ s.dev.gated TIM_TB0SET = false ∧ o.mayWrite TIM_TB0SET = true ∧
      (s.dev.running = true ∨ s.dev.role = .active ∨ s.dev.role = .standby ∨ s.dev.role = .syncing ∨ s.dev.role = .faulted)) ∧
    (∃ (s : State) (o : Origin), s.dev.awake ∧ s.dev.gated TIM_TB0SET = false ∧ o.mayWrite TIM_TB0SET = true ∧
      s.dev.withheld o = true) ∧
    (∃ (s : State) (o : Origin), s.Lets o TIM_CTRL) ∧
    (∃ (s : State) (o : Origin), s.Lets o TIM_TB1STEP) ∧
    (∃ (s : State) (o : Origin), s.Lets o TIM_TB1SLEW ∧ o = .svc 0 ∧ s.dev.get TIM_STAT_TB1ST ≠ 3) ∧
    (∃ (s : State) (o : Origin), s.Lets o TIM_TB1SLEW ∧ (o ≠ .svc 0 ∨ s.dev.get TIM_STAT_TB1ST = 3)) ∧
    (∃ (s : State) (o : Origin), s.Lets o TIM_TB1RATE ∧ o = .svc 0) ∧
    (∃ (s : State) (o : Origin), s.Lets o TIM_TB1RATE ∧ o ≠ .svc 0) ∧
    (∃ (s : State) (o : Origin), s.Lets o TIM_TB3SET) ∧
    (∃ (s : State) (o : Origin), s.Lets o TIM_TB3STEP) ∧
    (∃ (s : State) (o : Origin), s.Lets o TIM_TB3RATE) :=
  ⟨⟨Wit.cfg [(CYC_STAT_RUNNING, 0)], .svc 0, by decide +kernel⟩,
   ⟨Wit.cfg [(AUD_STAT_FULL, 1), (CYC_STAT_RUNNING, 0)], .svc 0, by decide +kernel⟩,
   ⟨Wit.cfg [(CYC_STAT_RUNNING, 1)], .svc 0, by decide +kernel⟩,
   ⟨Wit.cfg [(AUD_STAT_FULL, 1)], .svc 0, by decide +kernel⟩,
   ⟨Wit.cfg [], .svc 0, by decide +kernel⟩,
   ⟨Wit.cfg [], .svc 0, by decide +kernel⟩,
   ⟨Wit.cfg [(TIM_STAT_TB1ST, 0)], .svc 0, by decide +kernel, rfl, by decide +kernel⟩,
   ⟨Wit.cfg [(TIM_STAT_TB1ST, 3)], .svc 0, by decide +kernel⟩,
   ⟨Wit.cfg [], .svc 0, by decide +kernel, rfl⟩,
   ⟨Wit.cfg [], .pcie, by decide +kernel⟩,
   ⟨Wit.cfg [], .svc 0, by decide +kernel⟩,
   ⟨Wit.cfg [], .svc 0, by decide +kernel⟩,
   ⟨Wit.cfg [], .svc 0, by decide +kernel⟩⟩

theorem test_premises_TimeBasesRun :
    (∃ (s : State), s.dev.held = false) :=
  ⟨Wit.cfg [], by decide +kernel⟩

theorem test_premises_PtpServoAndStates :
    (∃ (s : State) (port : Fin 2) (dom : Nat), s.dev.held = false ∧
      (s.dev.ptpOn port = false ∨ dom ≠ s.dev.get TIM_PTPCFG_DOMAIN ∨ s.dev.follows port = false)) ∧
    (∃ (s : State) (l : Int), s.dev.held = false ∧ (l < -4 ∨ 1 < l)) ∧
    (∃ (s : State) (port : Fin 2) (seq : Nat) (w : SyncWait), s.dev.held = false ∧
      (s.dev.ptp.sync = none ∨ s.dev.ptp.sync = some w ∧ (w.port ≠ port.val ∨ w.seq ≠ seq))) ∧
    (∃ (s : State) (port : Fin 2) (dom : Nat) (l : Int), s.dev.held = false ∧ s.dev.ptpOn port = true ∧
      dom = s.dev.get TIM_PTPCFG_DOMAIN ∧ s.dev.follows port = true ∧ -4 ≤ l ∧ l ≤ 1) ∧
    (∃ (s : State) (port : Fin 2) (dom : Nat) (seq : Nat) (t1 : Word) (corr : Int) (l : Int) (k : Int) (w : SyncWait) (c : Instr) (theta : Int), s.dev.held = false ∧ s.dev.ptpOn port = true ∧ dom = s.dev.get TIM_PTPCFG_DOMAIN ∧ s.dev.follows port = true ∧ (c = .ptpSyncReceive port dom seq false t1 corr l ∧ -4 ≤ l ∧ l ≤ 1 ∧ k = l ∧ theta = s.dev.offset port (s.dev.ingress port) t1 corr ∨ c = .followUpReceive port dom seq t1 corr ∧ s.dev.ptp.sync = some w ∧ w.port = port.val ∧ w.seq = seq ∧ k = w.logInt ∧ theta = s.dev.offset port w.t2 t1 (w.corr + corr)) ∧ s.dev.get TIM_PTPTH_STEPTH * 1000 < theta.natAbs ∧ s.dev.get AUD_STAT_FULL = 0) ∧
    (∃ (s : State) (port : Fin 2) (dom : Nat) (seq : Nat) (t1 : Word) (corr : Int) (l : Int) (k : Int) (w : SyncWait) (c : Instr) (theta : Int), s.dev.held = false ∧ s.dev.ptpOn port = true ∧ dom = s.dev.get TIM_PTPCFG_DOMAIN ∧ s.dev.follows port = true ∧ (c = .ptpSyncReceive port dom seq false t1 corr l ∧ -4 ≤ l ∧ l ≤ 1 ∧ k = l ∧ theta = s.dev.offset port (s.dev.ingress port) t1 corr ∨ c = .followUpReceive port dom seq t1 corr ∧ s.dev.ptp.sync = some w ∧ w.port = port.val ∧ w.seq = seq ∧ k = w.logInt ∧ theta = s.dev.offset port w.t2 t1 (w.corr + corr)) ∧ s.dev.get TIM_PTPTH_STEPTH * 1000 < theta.natAbs ∧ s.dev.get AUD_STAT_FULL = 1) ∧
    (∃ (s : State) (port : Fin 2) (dom : Nat) (seq : Nat) (t1 : Word) (corr : Int) (l : Int) (k : Int) (w : SyncWait) (c : Instr) (theta : Int), s.dev.held = false ∧ s.dev.ptpOn port = true ∧ dom = s.dev.get TIM_PTPCFG_DOMAIN ∧ s.dev.follows port = true ∧ (c = .ptpSyncReceive port dom seq false t1 corr l ∧ -4 ≤ l ∧ l ≤ 1 ∧ k = l ∧ theta = s.dev.offset port (s.dev.ingress port) t1 corr ∨ c = .followUpReceive port dom seq t1 corr ∧ s.dev.ptp.sync = some w ∧ w.port = port.val ∧ w.seq = seq ∧ k = w.logInt ∧ theta = s.dev.offset port w.t2 t1 (w.corr + corr)) ∧ theta.natAbs ≤ s.dev.get TIM_PTPTH_STEPTH * 1000) ∧
    (∃ (s : State) (port : Fin 2) (dom : Nat), s.dev.held = false ∧
      (s.dev.ptpOn port = false ∨ dom ≠ s.dev.get TIM_PTPCFG_DOMAIN)) ∧
    (∃ (s : State) (port : Fin 2) (dom : Nat), s.dev.held = false ∧ s.dev.ptpOn port = true ∧
      dom = s.dev.get TIM_PTPCFG_DOMAIN) ∧
    (∃ (s : State) (port : Fin 2) (dom : Nat) (ago : Nat) (k : Nat), s.dev.held = false ∧ s.dev.ptpOn port = true ∧
      dom = s.dev.get TIM_PTPCFG_DOMAIN ∧
      ((if port.val = 0 then s.dev.ptp.changed0 else s.dev.ptp.changed1) = none ∨ (if port.val = 0 then s.dev.ptp.changed0 else s.dev.ptp.changed1) = some k ∧ k + ago < s.dev.time.up)) ∧
    (∃ (s : State) (port : Fin 2) (dom : Nat) (ago : Nat) (k : Nat), s.dev.held = false ∧ s.dev.ptpOn port = true ∧
      dom = s.dev.get TIM_PTPCFG_DOMAIN ∧ (if port.val = 0 then s.dev.ptp.changed0 else s.dev.ptp.changed1) = some k ∧
      s.dev.time.up ≤ k + ago) ∧
    (∃ (s : State), s.dev.held = false) ∧
    (∃ (s : State) (port : Fin 2) (m : Announce), s.dev.held = false ∧
      (s.dev.ptpOn port = false ∨ m.domain ≠ s.dev.get TIM_PTPCFG_DOMAIN ∨ m.logInt < -3 ∨ 2 < m.logInt)) ∧
    (∃ (s : State) (port : Fin 2) (m : Announce), s.dev.held = false ∧ s.dev.ptpOn port = true ∧
      m.domain = s.dev.get TIM_PTPCFG_DOMAIN ∧ -3 ≤ m.logInt ∧ m.logInt ≤ 2 ∧ s.dev.ptp.heard0 = none ∧
      s.dev.ptp.heard1 = none ∧ s.dev.get TIM_STAT_TB1ST = 0) ∧
    (∃ (s : State) (port : Fin 2) (m : Announce), s.dev.held = false ∧ s.dev.ptpOn port = true ∧
      m.domain = s.dev.get TIM_PTPCFG_DOMAIN ∧ -3 ≤ m.logInt ∧ m.logInt ≤ 2 ∧ s.dev.ptp.heard0 = none ∧
      s.dev.ptp.heard1 = none ∧ s.dev.get TIM_STAT_TB1ST = 2 ∧ s.dev.gmid ≠ m.gmid) ∧
    (∃ (s : State) (port : Fin 2) (m : Announce), s.dev.held = false ∧ s.dev.ptpOn port = true ∧
      m.domain = s.dev.get TIM_PTPCFG_DOMAIN ∧ -3 ≤ m.logInt ∧ m.logInt ≤ 2 ∧ s.dev.ptp.heard0 = none ∧
      s.dev.ptp.heard1 = none ∧ s.dev.get TIM_STAT_TB1ST = 1 ∧ s.dev.gmid ≠ m.gmid) ∧
    (∃ (s : State) (port : Fin 2) (m : Announce), s.dev.held = false ∧ s.dev.ptpOn port = true ∧
      m.domain = s.dev.get TIM_PTPCFG_DOMAIN ∧ -3 ≤ m.logInt ∧ m.logInt ≤ 2 ∧ s.dev.ptp.heard0 = none ∧
      s.dev.ptp.heard1 = none ∧ s.dev.get TIM_STAT_TB1ST = 3) ∧
    (∃ (s : State) (port : Fin 2) (c : Instr), s.dev.held = false ∧ c ∈ [Instr.announceTimeout port, .receivingPortDown,
      .syncTimeout] ∧ s.dev.get TIM_STAT_RXPORT = port.val ∧ (s.dev.get TIM_STAT_TB1ST = 2 ∨ s.dev.get TIM_STAT_TB1ST = 1 ∧
      s.dev.ptp.everLocked = true)) ∧
    (∃ (s : State) (port : Fin 2) (c : Instr), s.dev.held = false ∧ c ∈ [Instr.announceTimeout port, .receivingPortDown,
      .syncTimeout] ∧ s.dev.get TIM_STAT_RXPORT = port.val ∧ s.dev.get TIM_STAT_TB1ST = 1 ∧ s.dev.ptp.everLocked = false) ∧
    (∃ (s : State) (port : Fin 2) (c : Instr), s.dev.held = false ∧ c ∈ [Instr.announceTimeout port, .receivingPortDown,
      .syncTimeout] ∧ s.dev.get TIM_STAT_RXPORT = port.val ∧ (s.dev.get TIM_STAT_TB1ST = 0 ∨ s.dev.get TIM_STAT_TB1ST = 3)) ∧
    (∃ (s : State) (port : Fin 2), s.dev.held = false ∧ s.dev.get TIM_STAT_RXPORT ≠ port.val) ∧
    (∃ (s : State) (t : Nat), s.dev.held = false ∧ s.dev.ptp.holdFrom = some t) ∧
    (∃ (s : State), s.dev.held = false ∧ s.dev.ptp.holdFrom = none) :=
  ⟨⟨Wit.cfg [], 0, 0, by decide +kernel⟩,
   ⟨Wit.cfg [], 1 + 1, by decide +kernel⟩,
   ⟨Wit.cfg [] fun d => { d with ptp := { d.ptp with sync := none } }, 0, 0, ⟨0, 0, 0, 0, 0⟩, by decide +kernel⟩,
   ⟨Wit.cfg [(TIM_PTPCFG_EN1, 1), (TIM_STAT_TB1ST, 1), (TIM_STAT_RXPORT, 1)], 1, (Wit.cfg [(TIM_PTPCFG_EN1, 1),
     (TIM_STAT_TB1ST, 1), (TIM_STAT_RXPORT, 1)]).dev.get TIM_PTPCFG_DOMAIN, 1, by decide +kernel, by decide +kernel, rfl,
     by decide +kernel, by decide +kernel, by decide +kernel⟩,
   ⟨Wit.cfg [(TIM_PTPCFG_EN1, 1), (TIM_STAT_TB1ST, 1), (TIM_STAT_RXPORT, 1), (AUD_STAT_FULL, 0)], 1,
     (Wit.cfg [(TIM_PTPCFG_EN1, 1), (TIM_STAT_TB1ST, 1), (TIM_STAT_RXPORT, 1), (AUD_STAT_FULL, 0)]).dev.get TIM_PTPCFG_DOMAIN,
     0, 0x10000000, 0, 1, 1, ⟨0, 0, 0, 0, 0⟩, .ptpSyncReceive 1 ((Wit.cfg [(TIM_PTPCFG_EN1, 1), (TIM_STAT_TB1ST, 1),
     (TIM_STAT_RXPORT, 1), (AUD_STAT_FULL, 0)]).dev.get TIM_PTPCFG_DOMAIN) 0 false 0x10000000 0 1, (Wit.cfg [(TIM_PTPCFG_EN1,
     1), (TIM_STAT_TB1ST, 1), (TIM_STAT_RXPORT, 1), (AUD_STAT_FULL, 0)]).dev.offset 1 ((Wit.cfg [(TIM_PTPCFG_EN1, 1),
     (TIM_STAT_TB1ST, 1), (TIM_STAT_RXPORT, 1), (AUD_STAT_FULL, 0)]).dev.ingress 1) 0x10000000 0, by decide +kernel,
     by decide +kernel, rfl, by decide +kernel, by decide +kernel, by decide +kernel, by decide +kernel⟩,
   ⟨Wit.cfg [(TIM_PTPCFG_EN1, 1), (TIM_STAT_TB1ST, 1), (TIM_STAT_RXPORT, 1), (AUD_STAT_FULL, 1)], 1,
     (Wit.cfg [(TIM_PTPCFG_EN1, 1), (TIM_STAT_TB1ST, 1), (TIM_STAT_RXPORT, 1), (AUD_STAT_FULL, 1)]).dev.get TIM_PTPCFG_DOMAIN,
     0, 0x10000000, 0, 1, 1, ⟨0, 0, 0, 0, 0⟩, .ptpSyncReceive 1 ((Wit.cfg [(TIM_PTPCFG_EN1, 1), (TIM_STAT_TB1ST, 1),
     (TIM_STAT_RXPORT, 1), (AUD_STAT_FULL, 1)]).dev.get TIM_PTPCFG_DOMAIN) 0 false 0x10000000 0 1, (Wit.cfg [(TIM_PTPCFG_EN1,
     1), (TIM_STAT_TB1ST, 1), (TIM_STAT_RXPORT, 1), (AUD_STAT_FULL, 1)]).dev.offset 1 ((Wit.cfg [(TIM_PTPCFG_EN1, 1),
     (TIM_STAT_TB1ST, 1), (TIM_STAT_RXPORT, 1), (AUD_STAT_FULL, 1)]).dev.ingress 1) 0x10000000 0, by decide +kernel,
     by decide +kernel, rfl, by decide +kernel, by decide +kernel, by decide +kernel, by decide +kernel⟩,
   ⟨Wit.cfg [(TIM_PTPCFG_EN1, 1), (TIM_STAT_TB1ST, 1), (TIM_STAT_RXPORT, 1)], 1, (Wit.cfg [(TIM_PTPCFG_EN1, 1),
     (TIM_STAT_TB1ST, 1), (TIM_STAT_RXPORT, 1)]).dev.get TIM_PTPCFG_DOMAIN, 0, 0, 0, 1, 1, ⟨0, 0, 0, 0, 0⟩,
     .ptpSyncReceive 1 ((Wit.cfg [(TIM_PTPCFG_EN1, 1), (TIM_STAT_TB1ST, 1), (TIM_STAT_RXPORT,
     1)]).dev.get TIM_PTPCFG_DOMAIN) 0 false 0 0 1, (Wit.cfg [(TIM_PTPCFG_EN1, 1), (TIM_STAT_TB1ST, 1), (TIM_STAT_RXPORT,
     1)]).dev.offset 1 ((Wit.cfg [(TIM_PTPCFG_EN1, 1), (TIM_STAT_TB1ST, 1), (TIM_STAT_RXPORT, 1)]).dev.ingress 1) 0 0,
     by decide +kernel, by decide +kernel, rfl, by decide +kernel, by decide +kernel, by decide +kernel⟩,
   ⟨Wit.cfg [], 0, 0, by decide +kernel⟩,
   ⟨Wit.cfg [(TIM_PTPCFG_EN0, 1)], 0, (Wit.cfg [(TIM_PTPCFG_EN0, 1)]).dev.get TIM_PTPCFG_DOMAIN, by decide +kernel,
     by decide +kernel, rfl⟩,
   ⟨Wit.cfg [(TIM_PTPCFG_EN0, 1)], 0, (Wit.cfg [(TIM_PTPCFG_EN0, 1)]).dev.get TIM_PTPCFG_DOMAIN, 0, 0, by decide +kernel,
     by decide +kernel, rfl, by decide +kernel⟩,
   ⟨Wit.cfg [(TIM_PTPCFG_EN0, 1)] fun d => { d with ptp := { d.ptp with changed0 := some 0 } }, 0, (Wit.cfg [(TIM_PTPCFG_EN0,
     1)] fun d => { d with ptp := { d.ptp with changed0 := some 0 } }).dev.get TIM_PTPCFG_DOMAIN, 0, 0, by decide +kernel,
     by decide +kernel, rfl, by decide +kernel, by decide +kernel⟩,
   ⟨Wit.cfg [], by decide +kernel⟩,
   ⟨Wit.cfg [], 0, ⟨0, 0, 128, 6, 0x21, 0, 0, 0, 0, 0⟩, by decide +kernel⟩,
   ⟨Wit.cfg [(TIM_PTPCFG_EN0, 1), (TIM_STAT_TB1ST,
     0)] fun d => let d := ({ d with ptp := { d.ptp with heard0 := none } } : Dev);
     let d := ({ d with ptp := { d.ptp with heard1 := none } } : Dev); d, 0, ⟨0, 0, 128, 6, 0x21, 0, 0, 0, 0, 0⟩,
     by decide +kernel⟩,
   ⟨Wit.cfg [(TIM_PTPCFG_EN0, 1), (TIM_STAT_TB1ST,
     2)] fun d => { d with ptp := { d.ptp with heard0 := none, heard1 := none } }, 0, ⟨0, 128, 6, 0x21, 0, 128, 7, 0, 0, 0⟩,
     by decide +kernel⟩,
   ⟨Wit.cfg [(TIM_PTPCFG_EN0, 1), (TIM_STAT_TB1ST,
     1)] fun d => { d with ptp := { d.ptp with heard0 := none, heard1 := none } }, 0, ⟨0, 128, 6, 0x21, 0, 128, 7, 0, 0, 0⟩,
     by decide +kernel⟩,
   ⟨Wit.cfg [(TIM_PTPCFG_EN0, 1), (TIM_STAT_TB1ST,
     3)] fun d => let d := ({ d with ptp := { d.ptp with heard0 := none } } : Dev);
     let d := ({ d with ptp := { d.ptp with heard1 := none } } : Dev); d, 0, ⟨0, 0, 128, 6, 0x21, 0, 0, 0, 0, 0⟩,
     by decide +kernel⟩,
   ⟨Wit.cfg [(TIM_STAT_TB1ST, 2)], 0, Instr.syncTimeout, by decide +kernel, by simp, by decide +kernel, by decide +kernel⟩,
   ⟨Wit.cfg [(TIM_STAT_TB1ST, 1)] fun d => { d with ptp := { d.ptp with everLocked := false } }, 0, Instr.syncTimeout,
     by decide +kernel, by simp, by decide +kernel, by decide +kernel, by decide +kernel⟩,
   ⟨Wit.cfg [(TIM_STAT_TB1ST, 0)], 0, Instr.syncTimeout, by decide +kernel, by simp, by decide +kernel, by decide +kernel⟩,
   ⟨Wit.cfg [], 1, by decide +kernel⟩,
   ⟨Wit.cfg [(TIM_STAT_TB1ST, 3)] fun d => { d with ptp := { d.ptp with holdFrom := some (0) } }, 0, by decide +kernel⟩,
   ⟨Wit.cfg [] fun d => { d with ptp := { d.ptp with holdFrom := none } }, by decide +kernel⟩⟩

theorem test_premises_ArmStates :
    (∃ (s : State) (o : Origin), s.Lets o SCH_ARMCMD) ∧
    (∃ (s : State) (o : Origin) (mask : BitVec 12) (a : Fin 12) (r : Nat), s.Lets o SCH_ARMCMD ∧
      mask = BitVec.ofNat 12 (2 ^ a.val) ∧ s.dev.deblockRefusal a = some r) ∧
    (∃ (s : State) (o : Origin), s.Lets o SCH_ARMCMD) ∧
    (∃ (s : State) (o : Origin) (a : Fin 12), s.Lets o (SCH_ACTL a) ∧ s.dev.get (SCH_ACTL_EN a) = 1 ∧
      (s.dev.arm a = .running ∨ s.dev.arm a = .deblocking)) ∧
    (∃ (s : State) (o : Origin) (a : Fin 12), s.Lets o (SCH_ACTL a) ∧ s.dev.get (SCH_ACTL_EN a) = 1 ∧
      (s.dev.arm a = .blocked ∨ s.dev.arm a = .blocking)) ∧
    (∃ (s : State) (o : Origin) (a : Fin 12), s.Lets o (SCH_ACTL a) ∧ s.dev.get (SCH_ACTL_EN a) = 0) :=
  ⟨⟨Wit.cfg [], .svc 0, by decide +kernel⟩,
   ⟨Wit.cfg [], .svc 0, BitVec.ofNat 12 (2 ^ 11), 11, 0x30, by decide +kernel, rfl, by decide +kernel⟩,
   ⟨Wit.cfg [], .svc 0, by decide +kernel⟩,
   ⟨Wit.cfg [(SCH_ACTL_EN 0, 1), (SCH_ASTAT_ST 0, 2)], .svc 0, 0, by decide +kernel⟩,
   ⟨Wit.cfg [(SCH_ACTL_EN 0, 1), (SCH_ASTAT_ST 0, 0)], .svc 0, 0, by decide +kernel⟩,
   ⟨Wit.cfg [(SCH_ACTL_EN 0, 0)], .svc 0, 0, by decide +kernel⟩⟩

theorem test_premises_AclkStops :
    (∃ (s : State), s.dev.held = false ∧ s.dev.sch.aclkStopped = false) ∧
    (∃ (s : State), s.dev.held = false ∧ s.dev.sch.aclkStopped = true) :=
  ⟨⟨Wit.cfg [] fun d => { d with sch := { d.sch with aclkStopped := false } }, by decide +kernel⟩,
   ⟨Wit.cfg [] fun d => { d with sch := { d.sch with aclkStopped := true } }, by decide +kernel⟩⟩

theorem test_premises_SetsAndCalibration :
    (∃ (s : State) (o : Origin) (a : Fin 12), s.Lets o (SCH_VREF a) ∧ s.dev.get (SCH_ACTL_VSRC a) = 1) ∧
    (∃ (s : State) (o : Origin) (a : Fin 12), s.Lets o (SCH_VREF a) ∧ s.dev.get (SCH_ACTL_VSRC a) = 0) ∧
    (∃ (s : State) (o : Origin) (a : Fin 12), s.Lets o (SCH_PCFG a)) ∧
    (∃ (s : State) (meas : List Nat), s.dev.held = false ∧ 32 ≤ medianOf s.dev.free meas ∧ medianOf s.dev.free meas ≤ 120) ∧
    (∃ (s : State) (meas : List Nat), s.dev.held = false ∧ (medianOf s.dev.free meas < 32 ∨ 120 < medianOf s.dev.free meas)) ∧
    (∃ (s : State) (g : Fin 25) (t : Nat), s.dev.held = false ∧ s.dev.time.on = true ∧
      (nth s.dev.sch.interps g Interp.init).last = some t) ∧
    (∃ (s : State) (cyc : Word) (b : List Byte), s.dev.held = false ∧ s.dev.get (HIF_RING_CTL_EN 3) = 1 ∧
      s.dev.get HIF_STAT_BME = 1 ∧ s.dev.running = true ∧ BitVec.ofNat 32 (leAt b 0 4) = cyc ∧
      (cyc = s.dev.word CYC_NUM + 1 ∨ cyc = s.dev.word CYC_NUM ∧ s.dev.cyc.looped = false ∧
      s.dev.phaseNs < s.dev.cyc.tm0.tret + s.dev.cyc.tm0.sort)) ∧
    (∃ (s : State) (cyc : Word) (b : List Byte), s.dev.held = false ∧
      (s.dev.get (HIF_RING_CTL_EN 3) = 0 ∨ s.dev.get HIF_STAT_BME = 0 ∨ s.dev.running = false ∨ BitVec.ofNat 32 (leAt b 0 4) ≠ cyc ∨ (cyc ≠ s.dev.word CYC_NUM + 1 ∧ (cyc ≠ s.dev.word CYC_NUM ∨ s.dev.cyc.looped = true ∨ s.dev.cyc.tm0.tret + s.dev.cyc.tm0.sort ≤ s.dev.phaseNs)))) :=
  ⟨⟨Wit.cfg [(SCH_ACTL_VSRC 0, 1)], .svc 0, 0, by decide +kernel⟩,
   ⟨Wit.cfg [(SCH_ACTL_VSRC 0, 0)], .svc 0, 0, by decide +kernel⟩,
   ⟨Wit.cfg [], .svc 0, 0, by decide +kernel⟩,
   ⟨Wit.cfg [], List.replicate 16 120, by decide +kernel, by rw [Wit.median_high] <;> decide,
     by rw [Wit.median_high] <;> decide⟩,
   ⟨Wit.cfg [], List.replicate 16 31, by decide +kernel, by rw [Wit.median_low] <;> decide⟩,
   ⟨Wit.cfg [] fun d => let d := ({ d with time := { d.time with on := true }, sch := { d.sch with interps := [{ Interp.init with last := some 5 }] } } : Dev); let d := ({ d with time := { d.time with on := true } } : Dev); d, 0, 5, by decide +kernel⟩,
   ⟨Wit.cfg [(HIF_RING_CTL_EN 3, 1), (HIF_STAT_BME, 1), (CYC_STAT_RUNNING,
     1)] fun d => { d with cyc := { d.cyc with looped := false } }, (Wit.cfg [(HIF_RING_CTL_EN 3, 1), (HIF_STAT_BME, 1),
     (CYC_STAT_RUNNING, 1)] fun d => { d with cyc := { d.cyc with looped := false } }).dev.word CYC_NUM, [], by decide +kernel⟩,
   ⟨Wit.cfg [(HIF_RING_CTL_EN 3, 0)], 0, [], by decide +kernel⟩⟩

theorem test_premises_AnalogInputs :
    (∃ (s : State), s.dev.held = false ∧ s.dev.running = true ∧ s.dev.cyc.inCycle = true ∧ s.dev.get ADC_HOLD_MASK ≠ 0) ∧
    (∃ (s : State), s.dev.held = false ∧ (s.dev.running = false ∨ s.dev.cyc.inCycle = false ∨ s.dev.get ADC_HOLD_MASK = 0)) ∧
    (∃ (s : State) (x : Fin 2), s.dev.held = false ∧ s.dev.get (ADC_SCTL_EN x) = 1 ∧ s.dev.get (ADC_SCTL_MODE x) = 0 ∧
      s.dev.running = true ∧ s.dev.cyc.inCycle = true ∧ (s.dev.conv x).run = none) ∧
    (∃ (s : State) (x : Fin 2), s.dev.held = false ∧ s.dev.get (ADC_SCTL_EN x) = 1 ∧ s.dev.get (ADC_SCTL_MODE x) = 0 ∧
      s.dev.running = true ∧ s.dev.cyc.inCycle = true ∧ (s.dev.conv x).run.isSome = true) ∧
    (∃ (s : State) (x : Fin 2), s.dev.held = false ∧
      (s.dev.get (ADC_SCTL_EN x) = 0 ∨ s.dev.get (ADC_SCTL_MODE x) ≠ 0 ∨ s.dev.running = false ∨ s.dev.cyc.inCycle = false)) ∧
    (∃ (s : State) (o : Origin) (x : Fin 2) (mask : BitVec 2), s.Lets o ADC_SWSTART ∧ mask.getLsbD x = true ∧
      s.dev.get (ADC_SCTL_EN x) = 1 ∧ s.dev.get (ADC_SCTL_MODE x) = 1 ∧ (s.dev.conv x).run = none) ∧
    (∃ (s : State) (o : Origin) (x : Fin 2) (mask : BitVec 2), s.Lets o ADC_SWSTART ∧ mask.getLsbD x = true ∧
      s.dev.get (ADC_SCTL_EN x) = 1 ∧ s.dev.get (ADC_SCTL_MODE x) = 1 ∧ (s.dev.conv x).run.isSome = true) ∧
    (∃ (s : State) (o : Origin) (x : Fin 2) (mask : BitVec 2), s.Lets o ADC_SWSTART ∧ mask.getLsbD x = true ∧
      (s.dev.get (ADC_SCTL_EN x) = 0 ∨ s.dev.get (ADC_SCTL_MODE x) = 0)) ∧
    (∃ (s : State) (o : Origin) (x : Fin 2) (mask : BitVec 2), s.Lets o ADC_SWSTART ∧ mask.getLsbD x = false) ∧
    (∃ (s : State) (x : Fin 2) (r : AdcRun) (e : AdcEntry), s.dev.held = false ∧ (s.dev.conv x).run = some r ∧ r.i < 32 ∧
      e = (s.dev.conv x).entry r.i ∧ r.i + 1 < r.len) ∧
    (∃ (s : State) (x : Fin 2) (r : AdcRun) (e : AdcEntry), s.dev.held = false ∧ (s.dev.conv x).run = some r ∧ r.i < 32 ∧
      e = (s.dev.conv x).entry r.i ∧ r.len ≤ r.i + 1) ∧
    (∃ (s : State) (x : Fin 2) (r : AdcRun) (e : AdcEntry), s.dev.held = false ∧ (s.dev.conv x).run = some r ∧ r.i < 32 ∧
      e = (s.dev.conv x).entry r.i ∧ 2 ^ adcAvg r.cfg x r.i ≤ e.n + 1) ∧
    (∃ (s : State) (x : Fin 2) (r : AdcRun) (e : AdcEntry), s.dev.held = false ∧ (s.dev.conv x).run = some r ∧ r.i < 32 ∧
      e = (s.dev.conv x).entry r.i ∧ e.n + 1 < 2 ^ adcAvg r.cfg x r.i) ∧
    (∃ (s : State) (x : Fin 2), s.dev.held = false ∧ (s.dev.conv x).run = none) ∧
    (∃ (s : State) (o : Origin), s.Lets o ADC_OW0) ∧
    (∃ (s : State) (o : Origin), s.Lets o ADC_OW1) :=
  ⟨⟨Wit.cfg [(CYC_STAT_RUNNING, 1), (ADC_HOLD_MASK, 1)] fun d => { d with cyc := { d.cyc with inCycle := true } },
    by decide +kernel⟩,
   ⟨Wit.cfg [(CYC_STAT_RUNNING, 0)], by decide +kernel⟩,
   ⟨Wit.cfg [(ADC_SCTL_EN 0, 1), (ADC_SCTL_MODE 0, 0), (CYC_STAT_RUNNING,
     1)] fun d => { d with cyc := { d.cyc with inCycle := true } }, 0, by decide +kernel⟩,
   ⟨Wit.run [(ADC_SCTL_EN 0, 1), (ADC_SCTL_MODE 0, 0), (CYC_STAT_RUNNING, 1)] fun d => let d := (Wit.converting d : Dev);
     let d := ({ d with cyc := { d.cyc with inCycle := true } } : Dev); d, 0, by decide +kernel⟩,
   ⟨Wit.cfg [(ADC_SCTL_EN 0, 0)], 0, by decide +kernel⟩,
   ⟨Wit.cfg [(ADC_SCTL_EN 1, 1), (ADC_SCTL_MODE 1, 1)], .svc 0, 1, 2, by decide +kernel⟩,
   ⟨Wit.run [(ADC_SCTL_EN 0, 1), (ADC_SCTL_MODE 0, 1)] fun d => Wit.converting d, .svc 0, 0, 1, by decide +kernel⟩,
   ⟨Wit.cfg [(ADC_SCTL_EN 1, 0), (ADC_SCTL_MODE 1, 1)], .svc 0, 1, 2, by decide +kernel⟩,
   ⟨Wit.cfg [], .svc 0, 0, 0, by decide +kernel⟩,
   ⟨Wit.cfg [] fun d => Wit.converting d, 0, Wit.arun, ((Wit.cfg [] fun d => Wit.converting d).dev.conv 0).entry Wit.arun.i,
     by decide +kernel, by decide +kernel, by decide +kernel, rfl, by decide +kernel⟩,
   ⟨Wit.cfg [] fun d => { d with adc := { d.adc with conv := d.adc.conv.set 0 { d.conv 0 with run := some Wit.last } } }, 0,
     Wit.last, ((Wit.cfg [] fun d => { d with adc := { d.adc with conv := d.adc.conv.set 0 { d.conv 0 with run := some Wit.last } } }).dev.conv 0).entry Wit.last.i, by decide +kernel, by decide +kernel, by decide +kernel, rfl, by decide +kernel⟩,
   ⟨Wit.cfg [] fun d => Wit.converting d, 0, Wit.arun, ((Wit.cfg [] fun d => Wit.converting d).dev.conv 0).entry Wit.arun.i,
     by decide +kernel, by decide +kernel, by decide +kernel, rfl, by decide +kernel⟩,
   ⟨Wit.cfg [] fun d => Wit.averaging d, 0, Wit.avg, ((Wit.cfg [] fun d => Wit.averaging d).dev.conv 0).entry Wit.avg.i,
     by decide +kernel, by decide +kernel, by decide +kernel, rfl, by decide +kernel⟩,
   ⟨Wit.cfg [], 0, by decide +kernel⟩,
   ⟨Wit.cfg [], .svc 0, by decide +kernel⟩,
   ⟨Wit.cfg [], .svc 0, by decide +kernel⟩⟩

theorem test_premises_Recorder :
    (∃ (s : State) (o : Origin) (n : Fin 4), s.Lets o (REC_CTRL n) ∧
      (s.dev.get (REC_STAT_STATE n) = 0 ∨ s.dev.get (REC_STAT_STATE n) = 4) ∧ s.dev.recRefusal n (s.dev.recConfig n) = none) ∧
    (∃ (s : State) (o : Origin) (n : Fin 4) (c : Nat), s.Lets o (REC_CTRL n) ∧
      (s.dev.get (REC_STAT_STATE n) = 0 ∨ s.dev.get (REC_STAT_STATE n) = 4) ∧ s.dev.recRefusal n (s.dev.recConfig n) = some c) ∧
    (∃ (s : State) (o : Origin) (n : Fin 4), s.Lets o (REC_CTRL n) ∧
      (s.dev.get (REC_STAT_STATE n) = 1 ∨ s.dev.get (REC_STAT_STATE n) = 2 ∨ s.dev.get (REC_STAT_STATE n) = 3)) ∧
    (∃ (s : State) (o : Origin) (n : Fin 4), s.Lets o (REC_CTRL n) ∧ s.dev.get (REC_STAT_STATE n) = 4 ∧
      s.dev.get (REC_STAT_RDBUSY n) = 1) ∧
    (∃ (s : State) (o : Origin) (n : Fin 4), s.Lets o (REC_CTRL n) ∧ s.dev.get (REC_STAT_STATE n) = 0) ∧
    (∃ (s : State) (o : Origin) (n : Fin 4), s.Lets o (REC_CTRL n) ∧ s.dev.get (REC_STAT_STATE n) = 4 ∧
      s.dev.get (REC_STAT_RDBUSY n) = 0) ∧
    (∃ (s : State) (o : Origin) (n : Fin 4), s.Lets o (REC_CTRL n) ∧
      (s.dev.get (REC_STAT_STATE n) ≠ 4 ∨ s.dev.get (REC_STAT_RDBUSY n) = 1)) ∧
    (∃ (s : State) (o : Origin) (n : Fin 4), s.Lets o (REC_CTRL n) ∧
      (s.dev.get (REC_STAT_STATE n) = 1 ∨ s.dev.get (REC_STAT_STATE n) = 2)) ∧
    (∃ (s : State) (o : Origin) (n : Fin 4), s.Lets o (REC_CTRL n) ∧
      (s.dev.get (REC_STAT_STATE n) = 0 ∨ s.dev.get (REC_STAT_STATE n) = 4)) ∧
    (∃ (s : State) (n : Fin 4), s.dev.held = false ∧ (s.dev.get (REC_STAT_STATE n) = 1 ∨ s.dev.get (REC_STAT_STATE n) = 2) ∧
      (s.dev.recInst n).get (REC_CTRL_AUTO n) = 1 ∧ (s.dev.recInst n).get (REC_AUTOTO_AUTOTO n) ≤ (s.dev.recInst n).age) ∧
    (∃ (s : State) (n : Fin 4), s.dev.held = false ∧
      (s.dev.get (REC_STAT_STATE n) = 0 ∨ s.dev.get (REC_STAT_STATE n) = 4 ∨ (s.dev.recInst n).get (REC_CTRL_AUTO n) = 0 ∨ (s.dev.recInst n).age < (s.dev.recInst n).get (REC_AUTOTO_AUTOTO n))) ∧
    (∃ (s : State) (n : Fin 4), s.dev.held = false ∧ s.dev.recNext = some n.val ∧ s.dev.get (HIF_RING_CTL_EN 5) = 1 ∧
      s.dev.get HIF_STAT_BME = 1 ∧ s.dev.ringFill 5 < s.dev.ringSize 5) ∧
    (∃ (s : State), s.dev.held = false ∧
      (s.dev.recNext = none ∨ s.dev.get (HIF_RING_CTL_EN 5) = 0 ∨ s.dev.get HIF_STAT_BME = 0 ∨ s.dev.ringSize 5 ≤ s.dev.ringFill 5)) ∧
    (∃ (s : State), s.dev.held = false ∧ s.dev.rcd.low = none) ∧
    (∃ (s : State), s.dev.held = false ∧ s.dev.rcd.low.isSome = true) ∧
    (∃ (s : State), s.dev.held = false ∧ (s.dev.rcd.low = none ∨ s.dev.rcd.drive.isSome = true)) ∧
    (∃ (s : State) (f : BitVec 48), s.dev.held = false ∧ s.dev.rcd.low = some f ∧ s.dev.rcd.drive = none ∧
      s.dev.rcd.heard = false) ∧
    (∃ (s : State) (t : BitVec 48) (f : BitVec 48) (q : Nat), s.dev.held = false ∧ s.dev.get REC_IOCFG_LINEEN = 1 ∧
      s.dev.rcd.low = some f ∧ s.dev.rcd.drive = none ∧ s.dev.rcd.heard = true ∧ q = (((t >>> 14) <<< 14) - f).toNat / 16384 ∧
      (q < 400 ∨ (8000 < q ∧ q < 16000))) ∧
    (∃ (s : State) (t : BitVec 48) (f : BitVec 48) (q : Nat), s.dev.held = false ∧ s.dev.get REC_IOCFG_LINEEN = 1 ∧
      s.dev.rcd.low = some f ∧ s.dev.rcd.drive = none ∧ s.dev.rcd.heard = true ∧ q = (((t >>> 14) <<< 14) - f).toNat / 16384 ∧
      400 ≤ q ∧ q ≤ 8000) ∧
    (∃ (s : State) (t : BitVec 48) (f : BitVec 48) (q : Nat), s.dev.held = false ∧ s.dev.get REC_IOCFG_LINEEN = 1 ∧
      s.dev.rcd.low = some f ∧ s.dev.rcd.drive = none ∧ s.dev.rcd.heard = true ∧ q = (((t >>> 14) <<< 14) - f).toNat / 16384 ∧
      16000 ≤ q ∧ q ≤ 64000) ∧
    (∃ (s : State) (f : BitVec 48), s.dev.held = false ∧ s.dev.get REC_IOCFG_LINEEN = 1 ∧ s.dev.rcd.low = some f ∧
      s.dev.rcd.heard = true ∧ s.dev.rcd.stuck = false) ∧
    (∃ (s : State), s.dev.held = false ∧
      (s.dev.rcd.low = none ∨ s.dev.rcd.heard = false ∨ s.dev.rcd.stuck = true ∨ s.dev.get REC_IOCFG_LINEEN = 0)) ∧
    (∃ (s : State), s.dev.held = false ∧ s.dev.get REC_IOCFG_LINEEN = 1 ∧ s.dev.rcd.low = none ∧ s.dev.rcd.dueFire ≠ []) ∧
    (∃ (s : State), s.dev.held = false ∧ s.dev.get REC_IOCFG_LINEEN = 1 ∧ s.dev.rcd.low = none ∧ s.dev.rcd.dueFire = [] ∧
      s.dev.rcd.dueArm = true) ∧
    (∃ (s : State), s.dev.held = false ∧
      (s.dev.get REC_IOCFG_LINEEN = 0 ∨ s.dev.rcd.low.isSome = true ∨ (s.dev.rcd.dueFire = [] ∧ s.dev.rcd.dueArm = false))) ∧
    (∃ (s : State) (u : Nat), s.dev.held = false ∧ s.dev.rcd.drive = some u) ∧
    (∃ (s : State), s.dev.held = false ∧ s.dev.rcd.drive = none) ∧
    (∃ (s : State) (o : Origin), s.Lets o REC_IOCMD ∧ s.dev.get REC_IOCFG_LINEEN = 1 ∧ s.dev.rcd.low = none) ∧
    (∃ (s : State) (o : Origin), s.Lets o REC_IOCMD ∧ s.dev.get REC_IOCFG_LINEEN = 1 ∧ s.dev.rcd.low.isSome = true) ∧
    (∃ (s : State) (o : Origin), s.Lets o REC_IOCMD ∧ s.dev.get REC_IOCFG_LINEEN = 0) :=
  ⟨⟨Wit.cfg [(TOP_CAP1_DDRSZ, 1), (REC_SIZE_SIZE 0, 1000), (REC_POST_POST 0, 10), (REC_PRE_PRE 0, 1), (REC_CFG_BULKEN 0, 1),
    (REC_BULK_COUNT 0, 1), (REC_STAT_STATE 0, 0)], .svc 0, 0, by decide +kernel⟩,
   ⟨Wit.cfg [(REC_STAT_STATE 0, 0)], .svc 0, 0, 1, by decide +kernel⟩,
   ⟨Wit.cfg [(REC_STAT_STATE 0, 1)], .svc 0, 0, by decide +kernel⟩,
   ⟨Wit.cfg [(REC_STAT_STATE 0, 4), (REC_STAT_RDBUSY 0, 1)], .svc 0, 0, by decide +kernel⟩,
   ⟨Wit.cfg [(REC_STAT_STATE 0, 0)], .svc 0, 0, by decide +kernel⟩,
   ⟨Wit.cfg [(REC_STAT_STATE 0, 4), (REC_STAT_RDBUSY 0, 0)], .svc 0, 0, by decide +kernel⟩,
   ⟨Wit.cfg [(REC_STAT_STATE 0, 0)], .svc 0, 0, by decide +kernel⟩,
   ⟨Wit.cfg [(REC_STAT_STATE 0, 1)], .svc 0, 0, by decide +kernel⟩,
   ⟨Wit.cfg [(REC_STAT_STATE 0, 0)], .svc 0, 0, by decide +kernel⟩,
   ⟨Wit.cfg [(REC_STAT_STATE 0, 1), (REC_CTRL_AUTO 0, 1)] fun d => Wit.armed d, 0, by decide +kernel⟩,
   ⟨Wit.cfg [(REC_STAT_STATE 0, 0)], 0, by decide +kernel⟩,
   ⟨Wit.cfg [(REC_STAT_RDBUSY 3, 1), (HIF_RING_CTL_EN 5, 1), (HIF_STAT_BME, 1)], 3, by decide +kernel⟩,
   ⟨Wit.cfg [], by decide +kernel⟩,
   ⟨Wit.cfg [] fun d => { d with rcd := { d.rcd with low := none } }, by decide +kernel⟩,
   ⟨Wit.cfg [(REC_IOCFG_LINEEN, 1)] fun d => { d with rcd := { d.rcd with low := some 0 } }, by decide +kernel⟩,
   ⟨Wit.cfg [] fun d => { d with rcd := { d.rcd with low := none } }, by decide +kernel⟩,
   ⟨Wit.cfg [] fun d => let d := ({ d with rcd := { d.rcd with low := some (0) } } : Dev);
     let d := ({ d with rcd := { d.rcd with drive := none } } : Dev);
     let d := ({ d with rcd := { d.rcd with heard := false } } : Dev); d, 0, by decide +kernel⟩,
   ⟨Wit.cfg [(REC_IOCFG_LINEEN, 1)] fun d => let d := ({ d with rcd := { d.rcd with low := some 0 } } : Dev);
     let d := ({ d with rcd := { d.rcd with low := some (0) } } : Dev);
     let d := ({ d with rcd := { d.rcd with drive := none } } : Dev);
     let d := ({ d with rcd := { d.rcd with heard := true } } : Dev); d, 6553599, 0, 399, by decide +kernel⟩,
   ⟨Wit.cfg [(REC_IOCFG_LINEEN, 1)] fun d => let d := ({ d with rcd := { d.rcd with low := some 0 } } : Dev);
     let d := ({ d with rcd := { d.rcd with low := some (0) } } : Dev);
     let d := ({ d with rcd := { d.rcd with drive := none } } : Dev);
     let d := ({ d with rcd := { d.rcd with heard := true } } : Dev); d, 131072000, 0, 8000, by decide +kernel⟩,
   ⟨Wit.cfg [(REC_IOCFG_LINEEN, 1)] fun d => { d with rcd := { d.rcd with low := some 0, heard := true } }, 262160384, 0,
     16001, by decide +kernel⟩,
   ⟨Wit.cfg [(REC_IOCFG_LINEEN, 1)] fun d => let d := ({ d with rcd := { d.rcd with low := some (0) } } : Dev);
     let d := ({ d with rcd := { d.rcd with heard := true } } : Dev);
     let d := ({ d with rcd := { d.rcd with stuck := false } } : Dev); d, 0, by decide +kernel⟩,
   ⟨Wit.cfg [] fun d => { d with rcd := { d.rcd with low := none } }, by decide +kernel⟩,
   ⟨Wit.cfg [(REC_IOCFG_LINEEN, 1)] fun d => let d := ({ d with rcd := { d.rcd with dueFire := [0] } } : Dev);
     let d := ({ d with rcd := { d.rcd with low := none } } : Dev); d, by decide +kernel⟩,
   ⟨Wit.cfg [(REC_IOCFG_LINEEN, 1)] fun d => let d := ({ d with rcd := { d.rcd with low := none } } : Dev);
     let d := ({ d with rcd := { d.rcd with dueFire := [] } } : Dev);
     let d := ({ d with rcd := { d.rcd with dueArm := true } } : Dev); d, by decide +kernel⟩,
   ⟨Wit.cfg [(REC_IOCFG_LINEEN, 0)], by decide +kernel⟩,
   ⟨Wit.cfg [] fun d => { d with rcd := { d.rcd with drive := some (0) } }, 0, by decide +kernel⟩,
   ⟨Wit.cfg [] fun d => { d with rcd := { d.rcd with drive := none } }, by decide +kernel⟩,
   ⟨Wit.cfg [(REC_IOCFG_LINEEN, 1)] fun d => { d with rcd := { d.rcd with low := none } }, .svc 0, by decide +kernel⟩,
   ⟨Wit.cfg [(REC_IOCFG_LINEEN, 1)] fun d => { d with rcd := { d.rcd with low := some 0 } }, .svc 0, by decide +kernel⟩,
   ⟨Wit.cfg [(REC_IOCFG_LINEEN, 0)], .svc 0, by decide +kernel⟩⟩

theorem test_premises_SafetyInputs :
    (∃ (s : State) (held : Nat), s.dev.held = false ∧ held < 1000 * s.dev.get SAF_TIM_FILT) ∧
    (∃ (s : State) (held : Nat), s.dev.held = false ∧ 1000 * s.dev.get SAF_TIM_FILT ≤ held) ∧
    (∃ (s : State) (ch : Fin 4) (lvl : Bool) (held : Nat), s.dev.held = false ∧ 1000 * s.dev.get SAF_TIM_FILT ≤ held ∧
      ch.val < 2 ∧ lvl = true ∧ s.dev.inputIs (1 - ch.val) true = true ∧ s.dev.saf.gtOpen = true ∧ s.dev.saf.gtBad = false ∧
      lasted (nth s.dev.saf.differ 0 none) s.dev.time.cio (s.dev.tdisc + 1) = false) ∧
    (∃ (s : State) (pair : Fin 2), s.dev.held = false ∧ (nth s.dev.saf.differ pair none).isSome = true) ∧
    (∃ (s : State) (pair : Fin 2), s.dev.held = false ∧ nth s.dev.saf.differ pair none = none) ∧
    (∃ (s : State) (x : Option Bool), s.dev.held = false ∧ x = some (!s.dev.is SAF_STAT_SAFEOK)) ∧
    (∃ (s : State) (x : Option Bool), s.dev.held = false ∧ x ≠ some (!s.dev.is SAF_STAT_SAFEOK)) :=
  ⟨⟨Wit.cfg [], 0, by decide +kernel⟩,
   ⟨Wit.cfg [], 1000000, by decide +kernel⟩,
   ⟨Wit.cfg [(SAF_PIN_PINS,
     15)] fun d => let d := ({ d with saf := { d.saf with settled := [true, true, true, true], gtOpen := true } } : Dev);
     let d := ({ d with saf := { d.saf with gtOpen := true } } : Dev);
     let d := ({ d with saf := { d.saf with gtBad := false } } : Dev); d, 1, true, 1000000, by decide +kernel,
     by decide +kernel, by decide +kernel, rfl, by decide +kernel, by decide +kernel, by decide +kernel, by decide +kernel⟩,
   ⟨Wit.cfg [] fun d => { d with saf := { d.saf with differ := [some 0, some 0] } }, 0, by decide +kernel⟩,
   ⟨Wit.cfg [], 0, by decide +kernel⟩,
   ⟨Wit.cfg [], some (!(Wit.cfg []).dev.is SAF_STAT_SAFEOK), by decide +kernel, rfl⟩,
   ⟨Wit.cfg [], none, by decide +kernel⟩⟩

theorem test_premises_SafetyFaults :
    (∃ (s : State), s.dev.held = false) ∧
    (∃ (s : State) (ppm : Nat) (ns : Nat), s.dev.held = false ∧ s.dev.get CLK_STAT_SRC = 1 ∧ s.dev.get CLK_STAT_MDLLRDY = 1 ∧
      50000 < ppm ∧ 1000000 ≤ ns) ∧
    (∃ (s : State) (ppm : Nat) (ns : Nat), s.dev.held = false ∧
      (s.dev.get CLK_STAT_SRC = 0 ∨ s.dev.get CLK_STAT_MDLLRDY = 0 ∨ ppm ≤ 50000 ∨ ns < 1000000)) ∧
    (∃ (s : State) (a : Fin 12) (b : Bool), s.dev.held = false ∧ s.dev.get (SAF_SOVCFG_EN a) = 1 ∧ s.dev.running = true ∧
      4 < (if b then (s.dev.sov a).b else (s.dev.sov a).a).quiet) ∧
    (∃ (s : State) (a : Fin 12) (b : Bool), s.dev.held = false ∧
      (s.dev.get (SAF_SOVCFG_EN a) = 0 ∨ s.dev.running = false ∨ (if b then (s.dev.sov a).b else (s.dev.sov a).a).quiet ≤ 4)) ∧
    (∃ (s : State) (a : Fin 12), s.dev.held = false ∧ s.dev.get (SAF_SOVCFG_EN a) = 1 ∧ (s.dev.sov a).since.isSome = true) ∧
    (∃ (s : State) (a : Fin 12), s.dev.held = false ∧ (s.dev.get (SAF_SOVCFG_EN a) = 0 ∨ (s.dev.sov a).since = none)) :=
  ⟨⟨Wit.cfg [], by decide +kernel⟩,
   ⟨Wit.cfg [(CLK_STAT_SRC, 1), (CLK_STAT_MDLLRDY, 1)], 50000 + 1, 1000000, by decide +kernel⟩,
   ⟨Wit.cfg [(CLK_STAT_SRC, 0)], 0, 0, by decide +kernel⟩,
   ⟨Wit.cfg [(SAF_SOVCFG_EN 0, 1), (CYC_STAT_RUNNING,
     1)] fun d => { d with saf := { d.saf with sov := [{ d.sov 0 with a := { (d.sov 0).a with quiet := 5 }, b := { (d.sov 0).b with quiet := 5 }, since := some 0 }] } }, 0, true, by decide +kernel⟩,
   ⟨Wit.cfg [(SAF_SOVCFG_EN 0, 0)], 0, true, by decide +kernel⟩,
   ⟨Wit.cfg [(SAF_SOVCFG_EN 0, 1), (CYC_STAT_RUNNING,
     1)] fun d => { d with saf := { d.saf with sov := [{ d.sov 0 with a := { (d.sov 0).a with quiet := 5 }, b := { (d.sov 0).b with quiet := 5 }, since := some 0 }] } }, 0, by decide +kernel⟩,
   ⟨Wit.cfg [(SAF_SOVCFG_EN 0, 0)], 0, by decide +kernel⟩⟩

theorem test_premises_DemandsAndDegradedModes :
    (∃ (s : State) (o : Origin), s.Lets o SAF_CTRL) ∧
    (∃ (s : State) (k : Deg), s.dev.held = false ∧ (s.dev.degTimer k).on = true ∧ (s.dev.degTimer k).since.isSome = true ∧
      (s.dev.degTimer k).expired = false) ∧
    (∃ (s : State) (k : Deg), s.dev.held = false ∧
      ((s.dev.degTimer k).on = false ∨ (s.dev.degTimer k).expired = true ∨ ((s.dev.degTimer k).since = none ∧
      (s.dev.degTimer k).clear ≠ some s.dev.time.cio))) ∧
    (∃ (s : State) (k : Deg), s.dev.held = false ∧ (s.dev.degTimer k).on = true ∧ (s.dev.degTimer k).clear.isSome = true ∧
      (k = .saf ∨ k = .clk)) ∧
    (∃ (s : State) (k : Deg), s.dev.held = false ∧ (s.dev.degTimer k).on = true ∧ (s.dev.degTimer k).clear.isSome = true ∧
      k ≠ .saf ∧ k ≠ .clk) ∧
    (∃ (s : State) (k : Deg), s.dev.held = false ∧ ((s.dev.degTimer k).on = false ∨ (s.dev.degTimer k).clear = none)) :=
  ⟨⟨Wit.cfg [], .svc 0, by decide +kernel⟩,
   ⟨Wit.cfg [] fun d => { d with saf := { d.saf with sc := { d.saf.sc with on := true, since := some 0 } } }, .saf,
     by decide +kernel⟩,
   ⟨Wit.cfg [], .saf, by decide +kernel⟩,
   ⟨Wit.cfg [] fun d => { d with saf := { d.saf with ck := { d.saf.ck with on := true, clear := some 0 } } }, .clk,
     by decide +kernel⟩,
   ⟨Wit.cfg [] fun d => { d with saf := { d.saf with ring := d.saf.ring.set 47 ⟨true, 0, some 0, some 0, false, 0⟩ } },
     .ring 47, by decide +kernel⟩,
   ⟨Wit.cfg [], .saf, by decide +kernel⟩⟩

set_option maxRecDepth 1000000 in
theorem test_premises_StationTelegrams :
    (∃ (s : State) (u : Nat), s.dev.held = false ∧ s.dev.saf.lockUntil = some u) ∧
    (∃ (s : State), s.dev.held = false ∧ s.dev.saf.lockUntil = none) ∧
    (∃ (s : State) (src : BitVec 48) (f : List Byte) (b : List Byte) (t : TelCopy), s.dev.held = false ∧
      ethTelegram f = some (src, b) ∧ s.dev.telValid b = true ∧ (s.dev.saf.tel = none ∨ (s.dev.saf.tel = some t ∧
      newer32 (BitVec.ofNat 32 (leAt b 8 4)) t.seq = true))) ∧
    (∃ (s : State) (port : Fin 2) (src : BitVec 48) (f : List Byte) (b : List Byte) (t : TelCopy), s.dev.held = false ∧
      ethTelegram f = some (src, b) ∧ s.dev.telValid b = true ∧ s.dev.saf.tel = some t ∧
      newer32 (BitVec.ofNat 32 (leAt b 8 4)) t.seq = false ∧ (BitVec.ofNat 32 (leAt b 8 4) ≠ t.seq ∨ port.val = t.port)) ∧
    (∃ (s : State) (port : Fin 2) (src : BitVec 48) (f : List Byte) (b : List Byte) (t : TelCopy), s.dev.held = false ∧
      ethTelegram f = some (src, b) ∧ s.dev.telValid b = true ∧ s.dev.saf.tel = some t ∧
      newer32 (BitVec.ofNat 32 (leAt b 8 4)) t.seq = false ∧ BitVec.ofNat 32 (leAt b 8 4) = t.seq ∧ port.val ≠ t.port ∧
      b.take 28 ≠ t.bytes) ∧
    (∃ (s : State) (port : Fin 2) (src : BitVec 48) (f : List Byte) (b : List Byte) (t : TelCopy), s.dev.held = false ∧
      ethTelegram f = some (src, b) ∧ s.dev.telValid b = true ∧ s.dev.saf.tel = some t ∧
      newer32 (BitVec.ofNat 32 (leAt b 8 4)) t.seq = false ∧ BitVec.ofNat 32 (leAt b 8 4) = t.seq ∧ port.val ≠ t.port ∧
      b.take 28 = t.bytes) ∧
    (∃ (s : State) (src : BitVec 48) (f : List Byte) (b : List Byte), s.dev.held = false ∧
      (ethTelegram f = none ∨ (ethTelegram f = some (src, b) ∧ s.dev.telValid b = false))) ∧
    (∃ (s : State) (port : Fin 2), s.dev.held = false ∧ s.dev.get SAF_CFG_STEN = 1 ∧
      s.dev.bit SAF_SCCAUSE_SC (4 + port) = false) ∧
    (∃ (s : State) (port : Fin 2), s.dev.held = false ∧
      (s.dev.get SAF_CFG_STEN = 0 ∨ s.dev.bit SAF_SCCAUSE_SC (4 + port) = true)) ∧
    (∃ (s : State), s.dev.held = false ∧ s.dev.saf.mismAt.isSome = true) ∧
    (∃ (s : State), s.dev.held = false ∧ s.dev.saf.mismAt = none) ∧
    (∃ (s : State), s.dev.held = false ∧ s.dev.dstate ≠ .boot ∧ s.dev.time.on = true) ∧
    (∃ (s : State), s.dev.held = false ∧ (s.dev.dstate = .boot ∨ s.dev.time.on = false)) :=
  ⟨⟨Wit.cfg [] fun d => { d with saf := { d.saf with lockUntil := some (0) } }, 0, by decide +kernel⟩,
   ⟨Wit.cfg [] fun d => { d with saf := { d.saf with lockUntil := none } }, by decide +kernel⟩,
   ⟨Wit.cfg [(SAF_CFG_STEN, 1)] fun d => let d := ({ d with saf := { d.saf with tel := some Wit.tel } } : Dev);
     let d := ({ d with saf := { d.saf with tel := none } } : Dev); d, 7, Wit.ether (Wit.telegram 1), Wit.telegram 1, Wit.tel,
     by decide +kernel⟩,
   ⟨Wit.cfg [(SAF_CFG_STEN, 1)] fun d => let d := ({ d with saf := { d.saf with tel := some Wit.tel } } : Dev);
     let d := ({ d with saf := { d.saf with tel := some (Wit.tel) } } : Dev); d, 0, 7, Wit.ether (Wit.telegram 1),
     Wit.telegram 1, Wit.tel, by decide +kernel⟩,
   ⟨Wit.cfg [(SAF_CFG_STEN, 1)] fun d => let d := ({ d with saf := { d.saf with tel := some Wit.tel } } : Dev);
     let d := ({ d with saf := { d.saf with tel := some (Wit.tel) } } : Dev); d, 0, 7, Wit.ether (Wit.telegram 7),
     Wit.telegram 7, Wit.tel, by decide +kernel⟩,
   ⟨Wit.cfg [(SAF_CFG_STEN,
     1)] fun d => let d := ({ d with saf := { d.saf with tel := some { Wit.tel with bytes := (Wit.telegram 7).take 28 } } } : Dev); let d := ({ d with saf := { d.saf with tel := some ({ Wit.tel with bytes := (Wit.telegram 7).take 28 }) } } : Dev); d, 0, 7, Wit.ether (Wit.telegram 7), Wit.telegram 7, { Wit.tel with bytes := (Wit.telegram 7).take 28 }, by decide +kernel⟩,
   ⟨Wit.cfg [], 0, [], [], by decide +kernel⟩,
   ⟨Wit.cfg [(SAF_CFG_STEN, 1)], 0, by decide +kernel⟩,
   ⟨Wit.cfg [(SAF_CFG_STEN, 0)], 0, by decide +kernel⟩,
   ⟨Wit.cfg [(SAF_CFG_STEN, 1)] fun d => { d with saf := { d.saf with mismAt := some 5 } }, by decide +kernel⟩,
   ⟨Wit.cfg [] fun d => { d with saf := { d.saf with mismAt := none } }, by decide +kernel⟩,
   ⟨Wit.cfg [] fun d => { d with time := { d.time with on := true } }, by decide +kernel⟩,
   ⟨Wit.cfg [(RST_STAT_DSTATE, 1)], by decide +kernel⟩⟩

theorem test_premises_HostRings :
    (∃ (s : State) (idx : Nat), s.dev.awake ∧ s.dev.get (HIF_RING_CTL_EN 0) = 1 ∧
      (idx % (2 * s.dev.ringSize 0) + 2 * s.dev.ringSize 0 - s.dev.get (HIF_RING_DIDX_DIDX 0)) % (2 * s.dev.ringSize 0) ≤ s.dev.ringSize 0) ∧
    (∃ (s : State) (idx : Nat), s.dev.awake ∧ s.dev.get (HIF_RING_CTL_EN 0) = 1 ∧
      s.dev.ringSize 0 < (idx % (2 * s.dev.ringSize 0) + 2 * s.dev.ringSize 0 - s.dev.get (HIF_RING_DIDX_DIDX 0)) % (2 * s.dev.ringSize 0)) ∧
    (∃ (s : State), s.dev.awake ∧ s.dev.get (HIF_RING_CTL_EN 0) = 0) ∧
    (∃ (s : State) (r : Fin 6), s.dev.awake ∧ s.dev.get (HIF_RING_CTL_EN r) = 1 ∧
      (r.val = 1 ∨ r.val = 2 ∨ r.val = 4 ∨ r.val = 5)) ∧
    (∃ (s : State) (r : Fin 6), s.dev.awake ∧ (s.dev.get (HIF_RING_CTL_EN r) = 0 ∨ r.val = 0 ∨ r.val = 3)) ∧
    (∃ (s : State) (b : List Byte), s.dev.held = false ∧ s.dev.mayFetch = true ∧ entryOk b = true ∧ leAt b 0 1 = 0) ∧
    (∃ (s : State) (b : List Byte) (a : Fin 12), s.dev.held = false ∧ s.dev.mayFetch = true ∧ entryOk b = true ∧
      leAt b 0 1 = 1 ∧ (leAt b 8 8).testBit a = true) ∧
    (∃ (s : State) (b : List Byte), s.dev.held = false ∧ s.dev.mayFetch = true ∧ entryOk b = false) ∧
    (∃ (s : State), s.dev.held = false ∧ s.dev.mayFetch = true) ∧
    (∃ (s : State), s.dev.held = false ∧ s.dev.mayFetch = false) ∧
    (∃ (s : State) (x : Cmd), s.dev.held = false ∧ s.dev.hif.serial = [x] ∧ x.reads = true ∧ s.dev.hif.serialBusy = false) ∧
    (∃ (s : State), s.dev.held = false ∧ (s.dev.hif.serial = [] ∨ s.dev.hif.serialBusy = true)) ∧
    (∃ (s : State), s.dev.held = false ∧ s.dev.get (HIF_RING_CTL_EN 3) = 1 ∧ s.dev.get HIF_STAT_BME = 1) ∧
    (∃ (s : State), s.dev.held = false ∧ (s.dev.get (HIF_RING_CTL_EN 3) = 0 ∨ s.dev.get HIF_STAT_BME = 0)) ∧
    (∃ (s : State) (r : Fin 6), s.dev.held = false ∧ s.dev.get (HIF_RING_CTL_COAL r) ≠ 0 ∧ nth s.dev.hif.unsig r 0 ≠ 0) ∧
    (∃ (s : State) (r : Fin 6), s.dev.held = false ∧ (s.dev.get (HIF_RING_CTL_COAL r) = 0 ∨ nth s.dev.hif.unsig r 0 = 0)) ∧
    (∃ (s : State) (o : Origin) (r : Fin 6), s.Lets o (HIF_RING_CTL r)) ∧
    (∃ (s : State), s.dev.held = false) :=
  ⟨⟨Wit.cfg [(HIF_RING_CTL_EN 0, 1)], 0, by decide +kernel⟩,
   ⟨Wit.cfg [(HIF_RING_CTL_EN 0, 1), (HIF_RING_CTL_SIZE 0, 4)], 17, by decide +kernel⟩,
   ⟨Wit.cfg [(HIF_RING_CTL_EN 0, 0)], by decide +kernel⟩,
   ⟨Wit.cfg [(HIF_RING_CTL_EN 5, 1)], 5, by decide +kernel⟩,
   ⟨Wit.cfg [(HIF_RING_CTL_EN 0, 0)], 0, by decide +kernel⟩,
   ⟨Wit.cfg [(HIF_RING_CTL_EN 0, 1), (HIF_RING_CTL_SIZE 0, 4), (HIF_RING_HIDX_HIDX 0, 1), (HIF_STAT_BME, 1)],
     List.replicate 64 0, by decide +kernel⟩,
   ⟨Wit.cfg [(HIF_RING_CTL_EN 0, 1), (HIF_RING_CTL_SIZE 0, 4), (HIF_RING_HIDX_HIDX 0, 1), (HIF_STAT_BME, 1)], [1, 0, 0, 0, 0,
     0, 0, 0, 1] ++ List.replicate 55 0, 0, by decide +kernel⟩,
   ⟨Wit.cfg [(HIF_RING_CTL_EN 0, 1), (HIF_RING_CTL_SIZE 0, 4), (HIF_RING_HIDX_HIDX 0, 1), (HIF_STAT_BME, 1)],
     List.replicate 64 255, by decide +kernel⟩,
   ⟨Wit.cfg [(HIF_RING_CTL_EN 0, 1), (HIF_RING_CTL_SIZE 0, 4), (HIF_RING_HIDX_HIDX 0, 1), (HIF_STAT_BME, 1)],
     by decide +kernel⟩,
   ⟨Wit.cfg [], by decide +kernel⟩,
   ⟨Wit.cfg [] fun d => let d := ({ d with hif := { d.hif with serial := [⟨0x11, 0, groupParams 0 24⟩] } } : Dev);
     let d := ({ d with hif := { d.hif with serialBusy := false } } : Dev); d, ⟨0x11, 0, groupParams 0 24⟩, by decide +kernel⟩,
   ⟨Wit.cfg [] fun d => { d with hif := { d.hif with serial := [] } }, by decide +kernel⟩,
   ⟨Wit.cfg [(HIF_RING_CTL_EN 3, 1), (HIF_STAT_BME, 1)], by decide +kernel⟩,
   ⟨Wit.cfg [(HIF_RING_CTL_EN 3, 0)], by decide +kernel⟩,
   ⟨Wit.cfg [(HIF_RING_CTL_COAL 1, 1)] fun d => { d with hif := { d.hif with unsig := [0, 3, 0, 0, 0, 0] } }, 1,
     by decide +kernel⟩,
   ⟨Wit.cfg [(HIF_RING_CTL_COAL 0, 0)], 0, by decide +kernel⟩,
   ⟨Wit.cfg [], .svc 0, 0, by decide +kernel⟩,
   ⟨Wit.cfg [], by decide +kernel⟩⟩

theorem test_premises_ImmediateCommands :
    (∃ (s : State), s.dev.held = false) ∧
    (∃ (s : State) (v : BitVec 64), s.dev.held = false ∧ s.dev.epState = .idle ∧ s.dev.allBlocked = true ∧
      s.dev.saf.lockUntil = none ∧ v = s.dev.ccv) ∧
    (∃ (s : State) (v : BitVec 64), s.dev.held = false ∧ s.dev.epState = .idle ∧ s.dev.allBlocked = true ∧
      s.dev.saf.lockUntil = none ∧ v ≠ s.dev.ccv) ∧
    (∃ (s : State), s.dev.held = false ∧
      (s.dev.epState ≠ .idle ∨ s.dev.allBlocked = false ∨ s.dev.saf.lockUntil.isSome = true)) ∧
    (∃ (s : State) (n : Fin 4), s.dev.held = false ∧ s.dev.gated (REC_CTRL n) = false ∧ s.dev.get (REC_STAT_STATE n) = 4 ∧
      s.dev.get (REC_STAT_RDBUSY n) = 0) ∧
    (∃ (s : State) (n : Fin 4), s.dev.held = false ∧ s.dev.gated (REC_CTRL n) = false ∧
      (s.dev.get (REC_STAT_STATE n) ≠ 4 ∨ s.dev.get (REC_STAT_RDBUSY n) = 1)) :=
  ⟨⟨Wit.cfg [], by decide +kernel⟩,
   ⟨Wit.cfg [(HIF_EPRES_STATE, 0)] fun d => { d with saf := { d.saf with lockUntil := none } }, (Wit.cfg [(HIF_EPRES_STATE,
     0)] fun d => { d with saf := { d.saf with lockUntil := none } }).dev.ccv, by decide +kernel, by decide +kernel,
     by decide +kernel, by decide +kernel, rfl⟩,
   ⟨Wit.cfg [(HIF_EPRES_STATE, 0)] fun d => { d with saf := { d.saf with lockUntil := none } }, (Wit.cfg [(HIF_EPRES_STATE,
     0)] fun d => { d with saf := { d.saf with lockUntil := none } }).dev.ccv + 1, by decide +kernel⟩,
   ⟨Wit.cfg [(HIF_EPRES_STATE, 1)], by decide +kernel⟩,
   ⟨Wit.cfg [(REC_STAT_STATE 0, 4), (REC_STAT_RDBUSY 0, 0)], 0, by decide +kernel⟩,
   ⟨Wit.cfg [(REC_STAT_STATE 0, 0)], 0, by decide +kernel⟩⟩

theorem test_premises_ManagementUart :
    (∃ (s : State) (b : List Byte) (op : Nat) (n : Nat), s.dev.awake ∧ s.dev.get CLK_LSEN_UARTEN = 1 ∧ leAt b 0 1 = 0x7E ∧
      leAt b 1 1 = op ∧ ((op = 1 ∧ n = 6) ∨ (op = 2 ∧ n = 10)) ∧ b.length = n + 2 ∧
      leAt b n 2 = (crc16Bytes ((b.take n).drop 1)).toNat ∧ op = 1) ∧
    (∃ (s : State) (b : List Byte) (op : Nat) (n : Nat), s.dev.awake ∧ s.dev.get CLK_LSEN_UARTEN = 1 ∧ leAt b 0 1 = 0x7E ∧
      leAt b 1 1 = op ∧ ((op = 1 ∧ n = 6) ∨ (op = 2 ∧ n = 10)) ∧ b.length = n + 2 ∧
      leAt b n 2 = (crc16Bytes ((b.take n).drop 1)).toNat ∧ op = 2) ∧
    (∃ (s : State) (b : List Byte) (op : Nat) (n : Nat), s.dev.awake ∧ s.dev.get CLK_LSEN_UARTEN = 1 ∧ leAt b 0 1 = 0x7E ∧
      leAt b 1 1 = op ∧ ((op = 1 ∧ n = 6) ∨ (op = 2 ∧ n = 10)) ∧ b.length = n + 2 ∧
      leAt b n 2 = (crc16Bytes ((b.take n).drop 1)).toNat ∧ op = 1 ∧ leAt b 2 4 = TOP_SCRATCH ∧
      s.dev.latchOf .uart TOP_SCRATCH = none) ∧
    (∃ (s : State) (b : List Byte) (op : Nat) (n : Nat), s.dev.awake ∧ s.dev.get CLK_LSEN_UARTEN = 1 ∧ leAt b 0 1 = 0x7E ∧
      leAt b 1 1 = op ∧ ((op = 1 ∧ n = 6) ∨ (op = 2 ∧ n = 10)) ∧ b.length = n + 2 ∧
      leAt b n 2 = (crc16Bytes ((b.take n).drop 1)).toNat ∧ op = 2 ∧ leAt b 2 4 = TOP_SCRATCH ∧ s.dev.get AUD_STAT_FULL = 0) ∧
    (∃ (s : State) (b : List Byte) (op : Nat) (n : Nat), s.dev.awake ∧ s.dev.get CLK_LSEN_UARTEN = 1 ∧ leAt b 0 1 = 0x7E ∧
      leAt b 1 1 = op ∧ ((op = 1 ∧ n = 6) ∨ (op = 2 ∧ n = 10)) ∧ b.length = n + 2 ∧
      leAt b n 2 ≠ (crc16Bytes ((b.take n).drop 1)).toNat) ∧
    (∃ (s : State) (b : List Byte), s.dev.held = false ∧ (s.dev.get CLK_LSEN_UARTEN = 0 ∨ leAt b 0 1 ≠ 0x7E ∨ (leAt b 1 1 ≠ 1 ∧
      leAt b 1 1 ≠ 2) ∨ (leAt b 1 1 = 1 ∧ b.length ≠ 8) ∨ (leAt b 1 1 = 2 ∧ b.length ≠ 12))) :=
  ⟨⟨Wit.cfg [(CLK_LSEN_UARTEN, 1)], Wit.uartRead, 1, 6, by decide +kernel, by decide +kernel, by decide +kernel,
    by decide +kernel, by decide +kernel, by decide +kernel, by decide +kernel, rfl⟩,
   ⟨Wit.cfg [(CLK_LSEN_UARTEN, 1)], Wit.uartWrite, 2, 10, by decide +kernel, by decide +kernel, by decide +kernel,
     by decide +kernel, by decide +kernel, by decide +kernel, by decide +kernel, rfl⟩,
   ⟨Wit.cfg [(CLK_LSEN_UARTEN, 1)], Wit.uartRead, 1, 6, by decide +kernel, by decide +kernel, by decide +kernel,
     by decide +kernel, by decide +kernel, by decide +kernel, by decide +kernel, rfl, by decide +kernel, by decide +kernel⟩,
   ⟨Wit.cfg [(CLK_LSEN_UARTEN, 1), (AUD_STAT_FULL, 0)], Wit.uartWrite, 2, 10, by decide +kernel, by decide +kernel,
     by decide +kernel, by decide +kernel, by decide +kernel, by decide +kernel, by decide +kernel, rfl, by decide +kernel,
     by decide +kernel⟩,
   ⟨Wit.cfg [(CLK_LSEN_UARTEN, 1)], Wit.uartRead.take 7 ++ [0], 1, 6, by decide +kernel⟩,
   ⟨Wit.cfg [(CLK_LSEN_UARTEN, 0)], [], by decide +kernel⟩⟩

theorem test_premises_EpochPreparation :
    (∃ (s : State), s.dev.held = false ∧ s.dev.SerialFree ∧ s.dev.epState = .idle ∧ s.dev.locked = true ∧
      (s.dev.role = .solo ∨ s.dev.role = .active ∨ s.dev.role = .witness)) ∧
    (∃ (s : State), s.dev.held = false ∧ s.dev.SerialFree ∧
      (s.dev.epState ≠ .idle ∨ s.dev.role = .faulted ∨ (s.dev.locked = false ∧ s.dev.role ≠ .standby ∧
      s.dev.role ≠ .syncing))) ∧
    (∃ (s : State), s.dev.held = false ∧ s.dev.SerialFree ∧ s.dev.epState = .idle ∧
      (s.dev.role = .standby ∨ s.dev.role = .syncing)) ∧
    (∃ (s : State) (len : Word) (b : List Byte), s.dev.held = false ∧ s.dev.SerialFree ∧ s.dev.epState = .staging ∧
      groupForm b s.dev.ep.groups.length len.toNat = true ∧ s.dev.ep.groups.length < 128 ∧
      ((groupRecs b).all (fun r => recNames r.off) = true)) ∧
    (∃ (s : State) (len : Word) (b : List Byte), s.dev.held = false ∧ s.dev.SerialFree ∧ s.dev.epState = .staging ∧
      (groupForm b s.dev.ep.groups.length len.toNat = false ∨ 128 ≤ s.dev.ep.groups.length)) ∧
    (∃ (s : State) (len : Word) (b : List Byte), s.dev.held = false ∧ s.dev.SerialFree ∧ s.dev.epState = .staging ∧
      groupForm b s.dev.ep.groups.length len.toNat = true ∧ s.dev.ep.groups.length < 128 ∧
      ((groupRecs b).all (fun r => recNames r.off) = false)) ∧
    (∃ (s : State), s.dev.held = false ∧ s.dev.SerialFree ∧ s.dev.epState = .staging) ∧
    (∃ (s : State), s.dev.held = false ∧ s.dev.SerialFree ∧ s.dev.epState ≠ .staging) ∧
    (∃ (s : State), s.dev.held = false ∧ (s.dev.hif.serial ≠ [] ∨ s.dev.hif.serialBusy = true)) ∧
    (∃ (s : State), s.dev.held = false ∧ (s.dev.hif.serial ≠ [] ∨ s.dev.hif.serialBusy = true) ∧ s.dev.hif.serialBusy = true) ∧
    (∃ (s : State), s.dev.held = false ∧ s.dev.hif.serial = [] ∧
      (s.dev.epState = .staging ∨ s.dev.epState = .valid ∨ s.dev.epState = .validating) ∧ s.dev.ep.validTag = none) ∧
    (∃ (s : State) (t : BitVec 16), s.dev.held = false ∧ s.dev.hif.serial = [] ∧
      (s.dev.epState = .staging ∨ s.dev.epState = .valid ∨ s.dev.epState = .validating) ∧ s.dev.ep.validTag = some t) ∧
    (∃ (s : State), s.dev.held = false ∧ s.dev.hif.serial = [] ∧ (s.dev.epState = .idle ∨ s.dev.epState = .applying)) ∧
    (∃ (s : State), s.dev.held = false) ∧
    (∃ (s : State) (tag : BitVec 16), s.dev.held = false ∧ s.dev.ep.validTag = some tag ∧ s.dev.hif.serial = [] ∧
      s.dev.judged.validateGroups s.dev.judged 0 false s.dev.ep.groups = none) ∧
    (∃ (s : State) (tag : BitVec 16) (reason : Nat) (detail : Nat), s.dev.held = false ∧ s.dev.ep.validTag = some tag ∧
      s.dev.hif.serial = [] ∧ s.dev.judged.validateGroups s.dev.judged 0 false s.dev.ep.groups = some (reason, detail)) ∧
    (∃ (s : State) (tag : BitVec 16), s.dev.held = false ∧ s.dev.ep.validTag = some tag) ∧
    (∃ (s : State), s.dev.held = false ∧ s.dev.ep.validTag = none) :=
  ⟨⟨Wit.cfg [(HIF_EPRES_STATE, 0), (HIF_EPRES_LOCKED, 1), (DPX_STAT_ROLE, 0)], by decide +kernel⟩,
   ⟨Wit.cfg [(HIF_EPRES_STATE, 1)], by decide +kernel⟩,
   ⟨Wit.cfg [(HIF_EPRES_STATE, 0), (DPX_STAT_ROLE, 2)], by decide +kernel⟩,
   ⟨Wit.cfg [(HIF_EPRES_LOCKED, 1), (HIF_EPRES_STATE, 1)], 24, Wit.group, by decide +kernel⟩,
   ⟨Wit.cfg [(HIF_EPRES_STATE, 1)], 0, [], by decide +kernel⟩,
   ⟨Wit.cfg [(HIF_EPRES_LOCKED, 1), (HIF_EPRES_STATE, 1)], 24, Wit.badGroup, by decide +kernel⟩,
   ⟨Wit.cfg [(HIF_EPRES_STATE, 1)], by decide +kernel⟩,
   ⟨Wit.cfg [(HIF_EPRES_STATE, 0)], by decide +kernel⟩,
   ⟨Wit.cfg [] fun d => { d with hif := { d.hif with serialBusy := true } }, by decide +kernel⟩,
   ⟨Wit.cfg [] fun d => { d with hif := { d.hif with serialBusy := true } }, by decide +kernel⟩,
   ⟨Wit.cfg [(HIF_EPRES_STATE, 1)] fun d => let d := ({ d with hif := { d.hif with serial := [] } } : Dev);
     let d := ({ d with ep := { d.ep with validTag := none } } : Dev); d, by decide +kernel⟩,
   ⟨Wit.cfg [(HIF_EPRES_STATE, 1)] fun d => let d := ({ d with hif := { d.hif with serial := [] } } : Dev);
     let d := ({ d with ep := { d.ep with validTag := some (0) } } : Dev); d, 0, by decide +kernel⟩,
   ⟨Wit.cfg [(HIF_EPRES_STATE, 0)] fun d => { d with hif := { d.hif with serial := [] } }, by decide +kernel⟩,
   ⟨Wit.cfg [], by decide +kernel⟩,
   ⟨Wit.cfg [] fun d => let d := ({ d with ep := { d.ep with validTag := some (0) } } : Dev);
     let d := ({ d with hif := { d.hif with serial := [] } } : Dev); d, 0, by decide +kernel⟩,
   ⟨Wit.cfg [(HIF_EPRES_LOCKED, 1), (HIF_EPRES_STATE,
     2)] fun d => let d := ({ d with ep := { d.ep with validTag := some 0, groups := [[⟨CYC_DTX, 5⟩, ⟨CYC_PERIOD, 2⟩]] } } : Dev); let d := ({ d with ep := { d.ep with validTag := some (0) } } : Dev); let d := ({ d with hif := { d.hif with serial := [] } } : Dev); d, 0, 1, 0, by decide +kernel⟩,
   ⟨Wit.cfg [] fun d => { d with ep := { d.ep with validTag := some (0) } }, 0, by decide +kernel⟩,
   ⟨Wit.cfg [] fun d => { d with ep := { d.ep with validTag := none } }, by decide +kernel⟩⟩

theorem test_premises_EpochApplies :
    (∃ (s : State), s.dev.held = false ∧ s.dev.SerialFree ∧ s.dev.epState = .idle ∧ s.dev.locked = false ∧
      (s.dev.reportLoopMin s.dev).ruleFailure (s.dev.reportLoopMin s.dev) = none) ∧
    (∃ (s : State) (reason : Nat) (detail : Nat), s.dev.held = false ∧ s.dev.SerialFree ∧ s.dev.epState = .idle ∧
      s.dev.locked = false ∧ (s.dev.reportLoopMin s.dev).ruleFailure (s.dev.reportLoopMin s.dev) = some (reason, detail)) ∧
    (∃ (s : State) (cyc : Word), s.dev.held = false ∧ s.dev.SerialFree ∧ s.dev.epState = .valid ∧ s.dev.running = true ∧
      cyc = 0) ∧
    (∃ (s : State) (cyc : Word), s.dev.held = false ∧ s.dev.SerialFree ∧ s.dev.epState = .valid ∧ s.dev.running = true ∧
      cyc ≠ 0 ∧ applyCycleOk cyc s.dev.earliestApply = true) ∧
    (∃ (s : State) (cyc : Word), s.dev.held = false ∧ s.dev.SerialFree ∧ s.dev.epState = .valid ∧ s.dev.running = false ∧
      cyc = 0) ∧
    (∃ (s : State) (cyc : Word), s.dev.held = false ∧ s.dev.SerialFree ∧ s.dev.epState = .valid ∧ cyc ≠ 0 ∧
      (s.dev.running = false ∨ applyCycleOk cyc s.dev.earliestApply = false)) ∧
    (∃ (s : State), s.dev.held = false ∧ s.dev.SerialFree ∧ (s.dev.epState = .idle ∧
      s.dev.locked = true ∨ s.dev.epState = .staging ∨ s.dev.epState = .validating ∨ s.dev.epState = .applying)) ∧
    (∃ (s : State), s.dev.held = false ∧ (s.dev.hif.serial ≠ [] ∨ s.dev.hif.serialBusy = true)) ∧
    (∃ (s : State) (g : List EpRec) (j : Word) (a0 : BitVec 48), s.dev.held = false ∧ s.dev.epState = .applying ∧
      s.dev.ep.groups[s.dev.ep.next]? = some g ∧ (s.dev.ep.applyAt = some j ∧
      s.dev.applyDue j = true ∨ s.dev.ep.applyAt = none ∧ s.dev.ep.applyTime = some a0 ∧ s.dev.running = false)) ∧
    (∃ (s : State) (g : List EpRec) (j : Word), s.dev.held = false ∧
      (s.dev.epState ≠ .applying ∨ s.dev.ep.groups[s.dev.ep.next]? = some g ∧ s.dev.ep.applyAt = some j ∧
      s.dev.applyDue j = false)) ∧
    (∃ (s : State), s.dev.held = false ∧ s.dev.epState = .applying ∧ s.dev.ep.groups[s.dev.ep.next]? = none) ∧
    (∃ (s : State) (g : List EpRec) (r : EpRec) (j : Word), s.dev.held = false ∧ s.dev.epState = .applying ∧
      s.dev.ep.groups[s.dev.ep.next]? = some g ∧ s.dev.ep.applyAt = some j ∧ s.dev.applyDue j = true ∧ g = [r] ∧
      InAny [bLOOP] r.off ∧ r.off % 4 = 0 ∧ r.off ≠ LOOP_GCLR ∧
      (s.dev.special s.nv s.dev.ep.origin r.off (r.value &&& typeMask (fun t => t == .rw || t == .rwl) r.off) = none) ∧
      typeMask (· == .w1c) r.off = 0 ∧ (∀ n : Fin 256, r.off ≠ LOOP_PROG n) ∧ (∀ n : Fin 128, r.off ≠ LOOP_CCFG n)) ∧
    (∃ (s : State) (g : List EpRec) (r : EpRec) (j : Word) (i : Fin 128), s.dev.held = false ∧ s.dev.epState = .applying ∧
      s.dev.ep.groups[s.dev.ep.next]? = some g ∧ s.dev.ep.applyAt = some j ∧ s.dev.applyDue j = true ∧ g = [r] ∧
      r.off = LOOP_CCFG i ∧ r.value.toNat % 4 = s.dev.get (LOOP_CCFG_FORM i)) ∧
    (∃ (s : State) (g : List EpRec) (r : EpRec) (j : Word) (i : Fin 128), s.dev.held = false ∧ s.dev.epState = .applying ∧
      s.dev.ep.groups[s.dev.ep.next]? = some g ∧ s.dev.ep.applyAt = some j ∧ s.dev.applyDue j = true ∧ g = [r] ∧
      r.off = LOOP_CCFG i ∧ r.value.toNat % 4 ≠ s.dev.get (LOOP_CCFG_FORM i)) ∧
    (∃ (s : State) (g : List EpRec) (r : EpRec) (j : Word) (e : Fin 256) (i : Fin 128), s.dev.held = false ∧
      s.dev.epState = .applying ∧ s.dev.ep.groups[s.dev.ep.next]? = some g ∧ s.dev.ep.applyAt = some j ∧
      s.dev.applyDue j = true ∧ g = [r] ∧ r.off = LOOP_PROG e ∧ r.value = BitVec.ofNat 32 (256 + i) ∧ s.dev.entry e = (1,
      i.val)) ∧
    (∃ (s : State) (g : List EpRec) (r : EpRec) (j : Word) (e : Fin 256) (i : Fin 128), s.dev.held = false ∧
      s.dev.epState = .applying ∧ s.dev.ep.groups[s.dev.ep.next]? = some g ∧ s.dev.ep.applyAt = some j ∧
      s.dev.applyDue j = true ∧ g = [r] ∧ r.off = LOOP_PROG e ∧ r.value = BitVec.ofNat 32 (256 + i) ∧ (∀ n : Fin 256,
      s.dev.entry n ≠ (1, i.val))) :=
  ⟨⟨Wit.cfg [(HIF_EPRES_STATE, 0), (HIF_EPRES_LOCKED, 0)], by decide +kernel⟩,
   ⟨Wit.cfg [(CYC_PERIOD_PERIOD, 2), (HIF_EPRES_STATE, 0), (HIF_EPRES_LOCKED, 0)], 1, 0, by decide +kernel⟩,
   ⟨Wit.cfg [(HIF_EPRES_STATE, 3), (CYC_STAT_RUNNING, 1)], 0, by decide +kernel, by decide +kernel, by decide +kernel,
     by decide +kernel, rfl⟩,
   ⟨Wit.cfg [(HIF_EPRES_STATE, 3), (CYC_STAT_RUNNING, 1)], 1, by decide +kernel⟩,
   ⟨Wit.cfg [(HIF_EPRES_STATE, 3), (CYC_STAT_RUNNING, 0)], 0, by decide +kernel, by decide +kernel, by decide +kernel,
     by decide +kernel, rfl⟩,
   ⟨Wit.cfg [(HIF_EPRES_STATE, 3), (CYC_STAT_RUNNING, 0)], 1, by decide +kernel⟩,
   ⟨Wit.cfg [(HIF_EPRES_STATE, 0), (HIF_EPRES_LOCKED, 1)], by decide +kernel⟩,
   ⟨Wit.cfg [] fun d => { d with hif := { d.hif with serialBusy := true } }, by decide +kernel⟩,
   ⟨Wit.run [(HIF_EPRES_LOCKED, 1), (HIF_EPRES_STATE,
     4)] fun d => let d := ({ d with ep := { d.ep with groups := [[⟨LOOP_GCFG 1, 3⟩]], applyAt := some 0 } } : Dev);
     let d := ({ d with ep := { d.ep with applyAt := some (0) } } : Dev); d, [⟨LOOP_GCFG 1, 3⟩], 0, 0, by decide +kernel⟩,
   ⟨Wit.cfg [(HIF_EPRES_STATE, 0)], [], 0, by decide +kernel⟩,
   ⟨Wit.cfg [(HIF_EPRES_STATE, 4)], by decide +kernel⟩,
   ⟨Wit.run [(HIF_EPRES_LOCKED, 1), (HIF_EPRES_STATE,
     4)] fun d => let d := ({ d with ep := { d.ep with groups := [[⟨LOOP_GCFG 1, 3⟩]], applyAt := some 0 } } : Dev);
     let d := ({ d with ep := { d.ep with applyAt := some (0) } } : Dev); d, [(⟨LOOP_GCFG 1, 3⟩)], ⟨LOOP_GCFG 1, 3⟩, 0,
     by decide +kernel, by decide +kernel, by decide +kernel, by decide +kernel, by decide +kernel, rfl, by decide +kernel,
     by decide +kernel, by decide +kernel, by decide +kernel, by decide +kernel, by decide +kernel, by decide +kernel⟩,
   ⟨Wit.run [(HIF_EPRES_LOCKED, 1), (HIF_EPRES_STATE,
     4)] fun d => let d := ({ d with ep := { d.ep with groups := [[⟨LOOP_CCFG 127, 0⟩]], applyAt := some 0 } } : Dev);
     let d := ({ d with ep := { d.ep with applyAt := some (0) } } : Dev); d, [(⟨LOOP_CCFG 127, 0⟩)], ⟨LOOP_CCFG 127, 0⟩, 0,
     127, by decide +kernel, by decide +kernel, by decide +kernel, by decide +kernel, by decide +kernel, rfl,
     by decide +kernel, by decide +kernel⟩,
   ⟨Wit.run [(HIF_EPRES_LOCKED, 1), (HIF_EPRES_STATE,
     4)] fun d => let d := ({ d with ep := { d.ep with groups := [[⟨LOOP_CCFG 0, 1⟩]], applyAt := some 0 } } : Dev);
     let d := ({ d with ep := { d.ep with applyAt := some (0) } } : Dev); d, [(⟨LOOP_CCFG 0, 1⟩)], ⟨LOOP_CCFG 0, 1⟩, 0, 0,
     by decide +kernel, by decide +kernel, by decide +kernel, by decide +kernel, by decide +kernel, rfl, by decide +kernel,
     by decide +kernel⟩,
   ⟨Wit.run [(HIF_EPRES_LOCKED, 1), (HIF_EPRES_STATE, 4), (LOOP_PROG_TYPE 255, 1), (LOOP_PROG_IDX 255,
     127)] fun d => let d := ({ d with ep := { d.ep with groups := [[⟨LOOP_PROG 255, 383⟩]], applyAt := some 0 } } : Dev);
     let d := ({ d with ep := { d.ep with applyAt := some (0) } } : Dev); d, [(⟨LOOP_PROG 255, 383⟩)], ⟨LOOP_PROG 255, 383⟩,
     0, 255, 127, by decide +kernel, by decide +kernel, by decide +kernel, by decide +kernel, by decide +kernel, rfl,
     by decide +kernel, by decide +kernel, by decide +kernel⟩,
   ⟨Wit.run [(HIF_EPRES_LOCKED, 1), (HIF_EPRES_STATE,
     4)] fun d => let d := ({ d with ep := { d.ep with groups := [[⟨LOOP_PROG 0, 256⟩]], applyAt := some 0 } } : Dev);
     let d := ({ d with ep := { d.ep with applyAt := some (0) } } : Dev); d, [(⟨LOOP_PROG 0, 256⟩)], ⟨LOOP_PROG 0, 256⟩, 0, 0,
     0, by decide +kernel, by decide +kernel, by decide +kernel, by decide +kernel, by decide +kernel, rfl, by decide +kernel,
     by decide +kernel, by decide +kernel⟩⟩

theorem test_premises_AuditLog :
    (∃ (s : State) (e : AudItem) (rest : List AudItem), s.dev.held = false ∧ s.dev.aud.queue = e :: rest) ∧
    (∃ (s : State), s.dev.held = false ∧ s.dev.aud.queue = []) ∧
    (∃ (s : State) (o : Origin) (e : AudItem) (seq : Word) (x : AudEntry), s.Lets o AUD_RDSEQ ∧
      (s.nv.mram.log.find? (fun e => e.seq == seq) = some x)) ∧
    (∃ (s : State) (o : Origin) (e : AudItem) (seq : Word), s.Lets o AUD_RDSEQ ∧
      (s.nv.mram.log.find? (fun e => e.seq == seq) = none)) :=
  ⟨⟨Wit.cfg [] fun d => { d with aud := { d.aud with queue := [Wit.item] } }, Wit.item, [], by decide +kernel⟩,
   ⟨Wit.cfg [] fun d => { d with aud := { d.aud with queue := [] } }, by decide +kernel⟩,
   ⟨{ Wit.cfg [] with nv := { Nonvol.new with mram := { Mram.new with log := [Wit.entry] } } }, .svc 0, Wit.item, 0,
     Wit.entry, by decide +kernel⟩,
   ⟨Wit.cfg [], .svc 0, Wit.item, 0, by decide +kernel⟩⟩

theorem test_premises_Attestation :
    (∃ (s : State) (len : Word), s.dev.held = false ∧ s.dev.SerialFree ∧ 5861 ≤ len.toNat ∧ s.nv.mram.attIdx < 2 ^ 40 ∧
      s.nv.mram.attOk = true ∧ s.dev.sec.op = none) ∧
    (∃ (s : State) (len : Word), s.dev.held = false ∧ s.dev.SerialFree ∧ 5861 ≤ len.toNat ∧ s.nv.mram.attIdx < 2 ^ 40 ∧
      s.nv.mram.attOk = true ∧ s.dev.sec.op.isSome = true) ∧
    (∃ (s : State) (len : Word), s.dev.held = false ∧ s.dev.SerialFree ∧ len.toNat < 5861) ∧
    (∃ (s : State) (len : Word), s.dev.held = false ∧ s.dev.SerialFree ∧ 5861 ≤ len.toNat ∧ 2 ^ 40 ≤ s.nv.mram.attIdx) ∧
    (∃ (s : State) (len : Word), s.dev.held = false ∧ s.dev.SerialFree ∧ 5861 ≤ len.toNat ∧ s.nv.mram.attIdx < 2 ^ 40 ∧
      s.nv.mram.attOk = false) ∧
    (∃ (s : State), s.dev.held = false ∧ (s.dev.hif.serial ≠ [] ∨ s.dev.hif.serialBusy = true)) ∧
    (∃ (s : State) (ok : Bool) (c : Cmd) (i : Nat), s.dev.held = false ∧ s.dev.hif.serial = [] ∧ s.dev.sec.attest = some (c,
      some i) ∧ ok = true ∧ s.dev.get HIF_STAT_BME = 1) ∧
    (∃ (s : State) (ok : Bool) (c : Cmd) (i : Nat), s.dev.held = false ∧ s.dev.hif.serial = [] ∧ s.dev.sec.attest = some (c,
      some i) ∧ (ok = false ∨ s.dev.get HIF_STAT_BME = 0)) ∧
    (∃ (s : State) (c : Cmd) (i : Nat), s.dev.held = false ∧ s.dev.sec.attest = some (c, some i)) ∧
    (∃ (s : State) (c : Cmd), s.dev.held = false ∧ (s.dev.sec.attest = none ∨ s.dev.sec.attest = some (c, none))) :=
  ⟨⟨Wit.cfg [] fun d => { d with sec := { d.sec with op := none } }, 5861, by decide +kernel⟩,
   ⟨Wit.cfg [] fun d => { d with sec := { d.sec with op := some (1, .pcie) } }, 5861, by decide +kernel⟩,
   ⟨Wit.cfg [], 0, by decide +kernel⟩,
   ⟨{ Wit.cfg [] with nv := { Nonvol.new with mram := { Mram.new with attIdx := 2 ^ 40 } } }, 5861, by decide +kernel⟩,
   ⟨{ Wit.cfg [] with nv := { Nonvol.new with mram := { Mram.new with attOk := false } } }, 5861, by decide +kernel⟩,
   ⟨Wit.cfg [] fun d => { d with hif := { d.hif with serialBusy := true } }, by decide +kernel⟩,
   ⟨Wit.cfg [(HIF_STAT_BME,
     1)] fun d => let d := ({ d with sec := { d.sec with attest := some (⟨0x20, 0, []⟩, some 0) } } : Dev);
     let d := ({ d with hif := { d.hif with serial := [] } } : Dev); d, true, ⟨0x20, 0, []⟩, 0, by decide +kernel,
     by decide +kernel, by decide +kernel, rfl, by decide +kernel⟩,
   ⟨Wit.cfg [(HIF_STAT_BME,
     1)] fun d => let d := ({ d with sec := { d.sec with attest := some (⟨0x20, 0, []⟩, some 0) } } : Dev);
     let d := ({ d with hif := { d.hif with serial := [] } } : Dev); d, false, ⟨0x20, 0, []⟩, 0, by decide +kernel⟩,
   ⟨Wit.cfg [(HIF_STAT_BME, 1)] fun d => { d with sec := { d.sec with attest := some (⟨0x20, 0, []⟩, some 0) } }, ⟨0x20, 0,
     []⟩, 0, by decide +kernel⟩,
   ⟨Wit.cfg [] fun d => { d with sec := { d.sec with attest := none } }, ⟨0x20, 0, []⟩, by decide +kernel⟩⟩

set_option maxRecDepth 1000000 in
theorem test_premises_VerdictsAndRoles :
    (∃ (s : State) (gs : List (BitVec 10)), s.dev.held = false ∧ witnessBytes gs = none) ∧
    (∃ (s : State) (gs : List (BitVec 10)) (b : List Byte), s.dev.held = false ∧ witnessBytes gs = some b ∧
      (verdictOf b = none ∨ s.dev.duplex = false)) ∧
    (∃ (s : State) (gs : List (BitVec 10)) (b : List Byte) (v : Verdict), s.dev.held = false ∧ witnessBytes gs = some b ∧
      verdictOf b = some v ∧ s.dev.duplex = true) ∧
    (∃ (s : State) (gs : List (BitVec 10)) (b : List Byte) (v : Verdict), s.dev.held = false ∧ witnessBytes gs = some b ∧
      verdictOf b = some v ∧ s.dev.duplex = true ∧ newerTerm v.term s.dev.term = true ∧ ¬ s.dev.Resyncs v ∧
      v.named = s.dev.get DPX_CFG_UNIT ∧ s.dev.role = .standby) ∧
    (∃ (s : State) (gs : List (BitVec 10)) (b : List Byte) (v : Verdict), s.dev.held = false ∧ witnessBytes gs = some b ∧
      verdictOf b = some v ∧ s.dev.duplex = true ∧ newerTerm v.term s.dev.term = true ∧ ¬ s.dev.Resyncs v ∧
      v.named ≠ s.dev.get DPX_CFG_UNIT ∧ (s.dev.role = .standby ∨ s.dev.role = .syncing)) ∧
    (∃ (s : State) (gs : List (BitVec 10)) (b : List Byte) (v : Verdict), s.dev.held = false ∧ witnessBytes gs = some b ∧
      verdictOf b = some v ∧ s.dev.duplex = true ∧ newerTerm v.term s.dev.term = true ∧ ¬ s.dev.Resyncs v ∧
      v.named = s.dev.get DPX_CFG_UNIT ∧ s.dev.role = .syncing ∧ s.dev.allBlocked = true ∧ s.dev.partnerRole ≠ some .active) ∧
    (∃ (s : State) (gs : List (BitVec 10)) (b : List Byte) (v : Verdict), s.dev.held = false ∧ witnessBytes gs = some b ∧
      verdictOf b = some v ∧ s.dev.duplex = true ∧ newerTerm v.term s.dev.term = true ∧ ¬ s.dev.Resyncs v ∧
      v.named = s.dev.get DPX_CFG_UNIT ∧ s.dev.role = .syncing ∧
      (s.dev.allBlocked = false ∨ s.dev.partnerRole = some .active)) ∧
    (∃ (s : State) (gs : List (BitVec 10)) (b : List Byte) (v : Verdict), s.dev.held = false ∧ witnessBytes gs = some b ∧
      verdictOf b = some v ∧ s.dev.duplex = true ∧ newerTerm v.term s.dev.term = true ∧ ¬ s.dev.Resyncs v ∧
      v.named ≠ 1 - s.dev.get DPX_CFG_UNIT ∧ s.dev.role = .active) ∧
    (∃ (s : State) (gs : List (BitVec 10)) (b : List Byte) (v : Verdict), s.dev.held = false ∧ witnessBytes gs = some b ∧
      verdictOf b = some v ∧ s.dev.duplex = true ∧ newerTerm v.term s.dev.term = true ∧ ¬ s.dev.Resyncs v ∧
      v.named = 1 - s.dev.get DPX_CFG_UNIT ∧ s.dev.role = .active) ∧
    (∃ (s : State) (gs : List (BitVec 10)) (b : List Byte) (v : Verdict), s.dev.held = false ∧ witnessBytes gs = some b ∧
      verdictOf b = some v ∧ s.dev.duplex = true ∧ newerTerm v.term s.dev.term = true ∧ ¬ s.dev.Resyncs v ∧
      (s.dev.role = .solo ∨ s.dev.role = .witness ∨ s.dev.role = .faulted)) ∧
    (∃ (s : State) (gs : List (BitVec 10)) (b : List Byte) (v : Verdict), s.dev.held = false ∧ witnessBytes gs = some b ∧
      verdictOf b = some v ∧ s.dev.duplex = true ∧ (newerTerm v.term s.dev.term = true ∨ v.term = s.dev.term) ∧
      s.dev.Resyncs v) ∧
    (∃ (s : State) (gs : List (BitVec 10)) (b : List Byte) (v : Verdict), s.dev.held = false ∧ witnessBytes gs = some b ∧
      verdictOf b = some v ∧ s.dev.duplex = true ∧ newerTerm v.term s.dev.term = false ∧
      (v.term ≠ s.dev.term ∨ ¬ s.dev.Resyncs v)) ∧
    (∃ (s : State), s.dev.held = false ∧ s.dev.Adopts) ∧
    (∃ (s : State), s.dev.held = false ∧ s.dev.Adopts ∧ (s.dev.toPhase (s.dev.cyc.tm0.tret - 200)).adoptedIngot = none) ∧
    (∃ (s : State) (g : Ingot), s.dev.held = false ∧ s.dev.Adopts ∧
      (s.dev.toPhase (s.dev.cyc.tm0.tret - 200)).adoptedIngot = some g ∧ 0x4C0 ≤ g.bytes.length) ∧
    (∃ (s : State), s.dev.held = false ∧ ¬ s.dev.Adopts) ∧
    (∃ (s : State), s.dev.held = false ∧ s.dev.role = .standby ∧ s.dev.dpx.takeover = false ∧ 8 ≤ s.dev.dpx.linkRun) ∧
    (∃ (s : State), s.dev.held = false ∧ (s.dev.role ≠ .standby ∨ s.dev.dpx.takeover = true ∨ s.dev.dpx.linkRun < 8)) ∧
    (∃ (s : State) (o : Origin), s.dev.held = false ∧ s.Lets o DPX_CTRL ∧ s.dev.dstate ≠ .boot ∧ s.dev.dstate ≠ .halt) ∧
    (∃ (s : State) (o : Origin), s.dev.held = false ∧ s.Lets o DPX_CTRL ∧ (s.dev.dstate = .boot ∨ s.dev.dstate = .halt)) :=
  ⟨⟨Wit.cfg [], [], by decide +kernel⟩,
   ⟨Wit.run [(DPX_CFG_MODE, 0), (DPX_STAT_SDLUP, 1), (DPX_STAT_ROLE, 2)], witnessGroups true (Wit.verdict 0 0),
     Wit.verdict 0 0, by decide +kernel⟩,
   ⟨Wit.run [(DPX_CFG_MODE, 1), (DPX_STAT_SDLUP, 1), (DPX_STAT_ROLE, 2)], witnessGroups true (Wit.verdict 0 0),
     Wit.verdict 0 0, ⟨0, 0, 5, 1, 0⟩, by decide +kernel⟩,
   ⟨Wit.run [(DPX_CFG_MODE, 1), (DPX_STAT_SDLUP, 1), (DPX_STAT_ROLE, 2)], witnessGroups true (Wit.verdict 0 0),
     Wit.verdict 0 0, ⟨0, 0, 5, 1, 0⟩, by decide +kernel⟩,
   ⟨Wit.run [(DPX_CFG_MODE, 1), (DPX_STAT_SDLUP, 1), (DPX_STAT_ROLE, 2)], witnessGroups true (Wit.verdict 15 0),
     Wit.verdict 15 0, ⟨15, 0, 5, 1, 0⟩, by decide +kernel⟩,
   ⟨Wit.run [(DPX_CFG_MODE, 1), (DPX_STAT_SDLUP, 1), (DPX_STAT_ROLE, 3)], witnessGroups true (Wit.verdict 0 0),
     Wit.verdict 0 0, ⟨0, 0, 5, 1, 0⟩, by decide +kernel⟩,
   ⟨Wit.run [(DPX_CFG_MODE, 1), (DPX_STAT_SDLUP, 1), (DPX_STAT_ROLE, 3), (SCH_ASTAT_ST 11, 2)],
     witnessGroups true (Wit.verdict 0 0), Wit.verdict 0 0, ⟨0, 0, 5, 1, 0⟩, by decide +kernel⟩,
   ⟨Wit.run [(DPX_CFG_MODE, 1), (DPX_STAT_SDLUP, 1), (DPX_STAT_ROLE, 1)], witnessGroups true (Wit.verdict 0 0),
     Wit.verdict 0 0, ⟨0, 0, 5, 1, 0⟩, by decide +kernel⟩,
   ⟨Wit.run [(DPX_CFG_MODE, 1), (DPX_STAT_SDLUP, 1), (DPX_STAT_ROLE, 1)], witnessGroups true (Wit.verdict 1 0),
     Wit.verdict 1 0, ⟨1, 0, 5, 1, 0⟩, by decide +kernel⟩,
   ⟨Wit.run [(DPX_CFG_MODE, 1), (DPX_STAT_SDLUP, 1), (DPX_STAT_ROLE, 0)], witnessGroups true (Wit.verdict 0 0),
     Wit.verdict 0 0, ⟨0, 0, 5, 1, 0⟩, by decide +kernel⟩,
   ⟨Wit.run [(DPX_CFG_MODE, 1), (DPX_STAT_SDLUP, 1), (DPX_STAT_ROLE, 2)], witnessGroups true (Wit.verdict 1 1),
     Wit.verdict 1 1, ⟨1, 1, 5, 1, 0⟩, by decide +kernel⟩,
   ⟨Wit.run [(DPX_CFG_MODE, 1), (DPX_STAT_SDLUP, 1), (DPX_STAT_ROLE, 2), (DPX_TERM_TERM, 6)],
     witnessGroups true (Wit.verdict 0 0), Wit.verdict 0 0, ⟨0, 0, 5, 1, 0⟩, by decide +kernel⟩,
   ⟨Wit.run [(DPX_CFG_MODE, 1), (DPX_STAT_SDLUP, 1), (DPX_STAT_ROLE,
     2)] fun d => { d with dpx := { d.dpx with takeover := true } }, by decide +kernel⟩,
   ⟨Wit.run [(DPX_CFG_MODE, 1), (DPX_STAT_SDLUP, 1), (DPX_STAT_ROLE,
     2)] fun d => { d with dpx := { d.dpx with takeover := true } }, by decide +kernel⟩,
   ⟨Wit.run [(DPX_CFG_MODE, 1), (DPX_STAT_SDLUP, 1), (DPX_STAT_ROLE,
     2)] fun d => { d with dpx := { d.dpx with takeover := true, comm := some Wit.ingot } }, Wit.ingot, by decide +kernel⟩,
   ⟨Wit.cfg [], by decide +kernel⟩,
   ⟨Wit.cfg [(DPX_STAT_ROLE, 2)] fun d => let d := ({ d with dpx := { d.dpx with takeover := false } } : Dev);
     let d := ({ d with dpx := { d.dpx with linkRun := 9 } } : Dev); d, by decide +kernel⟩,
   ⟨Wit.cfg [(DPX_STAT_ROLE, 1)], by decide +kernel⟩,
   ⟨Wit.cfg [], .svc 0, by decide +kernel⟩,
   ⟨Wit.cfg [(RST_STAT_DSTATE, 1)], .svc 0, by decide +kernel⟩⟩

set_option maxRecDepth 1000000 in
theorem test_premises_Witness :
    (∃ (s : State), s.dev.held = false ∧ s.dev.duplex = true ∧ s.dev.role ≠ .witness ∧ s.dev.role ≠ .solo ∧
      s.dev.perturbed .hb = false) ∧
    (∃ (s : State) (e : Dev), s.dev.held = false ∧ s.dev.duplex = true ∧ s.dev.role ≠ .witness ∧ s.dev.role ≠ .solo ∧
      s.dev.perturbed .hb = true ∧ s.dev.get DIAG_PHB_DELAY ≠ 0xFFFF ∧ (e = (if s.dev.running ∧
      s.dev.cyc.inCycle then s.dev.toPhase (s.dev.get DIAG_PHB_DELAY) else s.dev.elapse (s.dev.get DIAG_PHB_DELAY)))) ∧
    (∃ (s : State), s.dev.held = false ∧
      (s.dev.duplex = false ∨ s.dev.role = .witness ∨ s.dev.role = .solo ∨ (s.dev.perturbed .hb = true ∧
      s.dev.get DIAG_PHB_DELAY = 0xFFFF))) ∧
    (∃ (s : State), s.dev.held = false ∧ s.dev.get DPX_HEALTH_WITOK = 1 ∧ 4 ≤ s.dev.dpx.unanswered) ∧
    (∃ (s : State), s.dev.held = false ∧ (s.dev.get DPX_HEALTH_WITOK = 0 ∨ s.dev.dpx.unanswered < 4)) ∧
    (∃ (s : State) (gs : List (BitVec 10)), s.dev.held = false ∧ witnessBytes gs = none) ∧
    (∃ (s : State) (gs : List (BitVec 10)) (b : List Byte), s.dev.held = false ∧ witnessBytes gs = some b) ∧
    (∃ (s : State) (e : Dev), s.dev.held = false ∧ s.dev.role = .witness ∧ s.dev.dpx.wit.started = false ∧
      e = s.dev.elapse (s.dev.dpx.wit.since + 3 * s.dev.get DPX_WTO_WTO - s.dev.time.cio)) ∧
    (∃ (s : State) (u : Fin 2) (e : Dev), s.dev.held = false ∧ s.dev.role = .witness ∧ s.dev.dpx.wit.started = false ∧
      e = s.dev.elapse (s.dev.dpx.wit.since + 3 * s.dev.get DPX_WTO_WTO - s.dev.time.cio) ∧ e.reports u .active = true ∧
      e.reports (1 - u.val) .active = false) ∧
    (∃ (s : State) (e : Dev), s.dev.held = false ∧ s.dev.role = .witness ∧ s.dev.dpx.wit.started = false ∧
      e = s.dev.elapse (s.dev.dpx.wit.since + 3 * s.dev.get DPX_WTO_WTO - s.dev.time.cio) ∧ e.reports 0 .active = true ∧
      e.reports 1 .active = true) ∧
    (∃ (s : State) (e : Dev), s.dev.held = false ∧ s.dev.role = .witness ∧ s.dev.dpx.wit.started = false ∧
      e = s.dev.elapse (s.dev.dpx.wit.since + 3 * s.dev.get DPX_WTO_WTO - s.dev.time.cio) ∧ e.reports 0 .active = false ∧
      e.reports 1 .active = false ∧ 1 < s.dev.named ∧ e.qualifies 0 = false ∧ e.qualifies 1 = false) ∧
    (∃ (s : State), s.dev.held = false ∧ (s.dev.role ≠ .witness ∨ s.dev.dpx.wit.started = true)) ∧
    (∃ (s : State) (gs : List (BitVec 10)), s.dev.held = false ∧ witnessBytes gs = none) ∧
    (∃ (s : State) (gs : List (BitVec 10)) (b : List Byte), s.dev.held = false ∧ witnessBytes gs = some b ∧
      s.dev.role ≠ .witness) ∧
    (∃ (s : State) (u : Fin 2) (gs : List (BitVec 10)) (b : List Byte), s.dev.held = false ∧ witnessBytes gs = some b ∧
      s.dev.role = .witness ∧ beatForm u b = false) ∧
    (∃ (s : State) (u : Fin 2) (gs : List (BitVec 10)) (b : List Byte), s.dev.held = false ∧ witnessBytes gs = some b ∧
      s.dev.role = .witness ∧ beatForm u b = true ∧ s.dev.dpx.wit.started = false) ∧
    (∃ (s : State) (u : Fin 2) (gs : List (BitVec 10)) (b : List Byte) (e : Dev), s.dev.held = false ∧
      witnessBytes gs = some b ∧ s.dev.role = .witness ∧ beatForm u b = true ∧ s.dev.dpx.wit.started = true ∧
      (e = s.dev.setWit (fun w => w.setUnit u ((w.unit u).heard b s.dev.time.cio)))) ∧
    (∃ (s : State) (u : Fin 2) (gs : List (BitVec 10)) (b : List Byte) (e : Dev), s.dev.held = false ∧
      witnessBytes gs = some b ∧ s.dev.role = .witness ∧ beatForm u b = true ∧ s.dev.dpx.wit.started = true ∧
      (e = s.dev.setWit (fun w => w.setUnit u ((w.unit u).heard b s.dev.time.cio))) ∧ s.dev.named = u.val ∧
      e.reports u .faulted = true ∧ e.reports (1 - u.val) .standby = true ∧ e.beat (1 - u) 2 = true) ∧
    (∃ (s : State), s.dev.held = false ∧ (s.dev.role ≠ .witness ∨ s.dev.dpx.wit.started = false)) ∧
    (∃ (s : State) (u : Fin 2) (e : Dev), s.dev.held = false ∧ s.dev.role = .witness ∧ s.dev.dpx.wit.started = true ∧
      e = s.dev.elapse (((s.dev.dpx.wit.unit u).at_.getD s.dev.dpx.wit.since) + s.dev.get DPX_WTO_WTO - s.dev.time.cio)) ∧
    (∃ (s : State) (u : Fin 2) (e : Dev), s.dev.held = false ∧ s.dev.role = .witness ∧ s.dev.dpx.wit.started = true ∧
      e = s.dev.elapse (((s.dev.dpx.wit.unit u).at_.getD s.dev.dpx.wit.since) + s.dev.get DPX_WTO_WTO - s.dev.time.cio) ∧
      s.dev.named = u.val ∧ e.reports u .faulted = false ∧ e.silent u = true ∧ e.reports (1 - u.val) .standby = true ∧
      e.beat (1 - u) 2 = true ∧ e.beat (1 - u) 3 = true) ∧
    (∃ (s : State) (u : Fin 2) (e : Dev), s.dev.held = false ∧ s.dev.role = .witness ∧ s.dev.dpx.wit.started = true ∧
      e = s.dev.elapse (((s.dev.dpx.wit.unit u).at_.getD s.dev.dpx.wit.since) + s.dev.get DPX_WTO_WTO - s.dev.time.cio) ∧
      1 < s.dev.named ∧ e.qualifies (s.dev.get DPX_CFG_PREF) = true) :=
  ⟨⟨Wit.cfg [(DPX_CFG_MODE, 1), (DPX_STAT_ROLE, 1)], by decide +kernel⟩,
   ⟨Wit.cfg [(DPX_CFG_MODE, 1), (DPX_STAT_SDLUP, 1), (DPX_STAT_ROLE, 1), (DIAG_PHB_DELAY,
     0)] fun d => { d with diag := { d.diag with active := [(.hb, 0)] } }, (if (Wit.cfg [(DPX_CFG_MODE, 1), (DPX_STAT_SDLUP,
     1), (DPX_STAT_ROLE, 1), (DIAG_PHB_DELAY,
     0)] fun d => { d with diag := { d.diag with active := [(.hb, 0)] } }).dev.running ∧ (Wit.cfg [(DPX_CFG_MODE, 1),
     (DPX_STAT_SDLUP, 1), (DPX_STAT_ROLE, 1), (DIAG_PHB_DELAY,
     0)] fun d => { d with diag := { d.diag with active := [(.hb, 0)] } }).dev.cyc.inCycle then (Wit.cfg [(DPX_CFG_MODE, 1),
     (DPX_STAT_SDLUP, 1), (DPX_STAT_ROLE, 1), (DIAG_PHB_DELAY,
     0)] fun d => { d with diag := { d.diag with active := [(.hb, 0)] } }).dev.toPhase ((Wit.cfg [(DPX_CFG_MODE, 1),
     (DPX_STAT_SDLUP, 1), (DPX_STAT_ROLE, 1), (DIAG_PHB_DELAY,
     0)] fun d => { d with diag := { d.diag with active := [(.hb, 0)] } }).dev.get DIAG_PHB_DELAY) else (Wit.cfg [(DPX_CFG_MODE, 1), (DPX_STAT_SDLUP, 1), (DPX_STAT_ROLE, 1), (DIAG_PHB_DELAY, 0)] fun d => { d with diag := { d.diag with active := [(.hb, 0)] } }).dev.elapse ((Wit.cfg [(DPX_CFG_MODE, 1), (DPX_STAT_SDLUP, 1), (DPX_STAT_ROLE, 1), (DIAG_PHB_DELAY, 0)] fun d => { d with diag := { d.diag with active := [(.hb, 0)] } }).dev.get DIAG_PHB_DELAY)), by decide +kernel, by decide +kernel, by decide +kernel, by decide +kernel, by decide +kernel, by decide +kernel, rfl⟩,
   ⟨Wit.cfg [(DPX_CFG_MODE, 0)], by decide +kernel⟩,
   ⟨Wit.cfg [(DPX_HEALTH_WITOK, 1)] fun d => { d with dpx := { d.dpx with unanswered := 5 } }, by decide +kernel⟩,
   ⟨Wit.cfg [(DPX_HEALTH_WITOK, 0)], by decide +kernel⟩,
   ⟨Wit.cfg [], [], by decide +kernel⟩,
   ⟨Wit.cfg [], witnessGroups true (List.replicate 16 0), List.replicate 16 0, by decide +kernel⟩,
   ⟨Wit.cfg [(DPX_STAT_ROLE, 4)] fun d => { d with dpx := { d.dpx with wit := { d.dpx.wit with started := false } } },
     (Wit.cfg [(DPX_STAT_ROLE,
     4)] fun d => { d with dpx := { d.dpx with wit := { d.dpx.wit with started := false } } }).dev.elapse ((Wit.cfg [(DPX_STAT_ROLE, 4)] fun d => { d with dpx := { d.dpx with wit := { d.dpx.wit with started := false } } }).dev.dpx.wit.since + 3 * (Wit.cfg [(DPX_STAT_ROLE, 4)] fun d => { d with dpx := { d.dpx with wit := { d.dpx.wit with started := false } } }).dev.get DPX_WTO_WTO - (Wit.cfg [(DPX_STAT_ROLE, 4)] fun d => { d with dpx := { d.dpx with wit := { d.dpx.wit with started := false } } }).dev.time.cio), by decide +kernel, by decide +kernel, by decide +kernel, rfl⟩,
   ⟨Wit.cfg [(DPX_CFG_MODE, 2), (DPX_STAT_ROLE, 4), (DPX_WTO_WTO, 2000), (DPX_WSTAT_ACTU,
     0)] fun d => let d := ({ d with time := { d.time with up := 10000 }, dpx := { d.dpx with wit := { d.dpx.wit with started := true, a := ⟨some 7000, 1, 0, 0, 0⟩, b := ⟨some 9500, 2, 0, 12, 0⟩ } } } : Dev); let d := ({ d with dpx := { d.dpx with wit := { d.dpx.wit with started := false } } } : Dev); d, 0, (Wit.cfg [(DPX_CFG_MODE, 2), (DPX_STAT_ROLE, 4), (DPX_WTO_WTO, 2000), (DPX_WSTAT_ACTU, 0)] fun d => let d := ({ d with time := { d.time with up := 10000 }, dpx := { d.dpx with wit := { d.dpx.wit with started := true, a := ⟨some 7000, 1, 0, 0, 0⟩, b := ⟨some 9500, 2, 0, 12, 0⟩ } } } : Dev); let d := ({ d with dpx := { d.dpx with wit := { d.dpx.wit with started := false } } } : Dev); d).dev.elapse ((Wit.cfg [(DPX_CFG_MODE, 2), (DPX_STAT_ROLE, 4), (DPX_WTO_WTO, 2000), (DPX_WSTAT_ACTU, 0)] fun d => let d := ({ d with time := { d.time with up := 10000 }, dpx := { d.dpx with wit := { d.dpx.wit with started := true, a := ⟨some 7000, 1, 0, 0, 0⟩, b := ⟨some 9500, 2, 0, 12, 0⟩ } } } : Dev); let d := ({ d with dpx := { d.dpx with wit := { d.dpx.wit with started := false } } } : Dev); d).dev.dpx.wit.since + 3 * (Wit.cfg [(DPX_CFG_MODE, 2), (DPX_STAT_ROLE, 4), (DPX_WTO_WTO, 2000), (DPX_WSTAT_ACTU, 0)] fun d => let d := ({ d with time := { d.time with up := 10000 }, dpx := { d.dpx with wit := { d.dpx.wit with started := true, a := ⟨some 7000, 1, 0, 0, 0⟩, b := ⟨some 9500, 2, 0, 12, 0⟩ } } } : Dev); let d := ({ d with dpx := { d.dpx with wit := { d.dpx.wit with started := false } } } : Dev); d).dev.get DPX_WTO_WTO - (Wit.cfg [(DPX_CFG_MODE, 2), (DPX_STAT_ROLE, 4), (DPX_WTO_WTO, 2000), (DPX_WSTAT_ACTU, 0)] fun d => let d := ({ d with time := { d.time with up := 10000 }, dpx := { d.dpx with wit := { d.dpx.wit with started := true, a := ⟨some 7000, 1, 0, 0, 0⟩, b := ⟨some 9500, 2, 0, 12, 0⟩ } } } : Dev); let d := ({ d with dpx := { d.dpx with wit := { d.dpx.wit with started := false } } } : Dev); d).dev.time.cio), by decide +kernel, by decide +kernel, by decide +kernel, rfl, by decide +kernel, by decide +kernel⟩,
   ⟨Wit.cfg [(DPX_CFG_MODE, 2), (DPX_STAT_ROLE, 4), (DPX_WTO_WTO, 2000), (DPX_WSTAT_ACTU,
     15)] fun d => let d := ({ d with time := { d.time with cio := 10000, up := 10000 }, dpx := { d.dpx with wit := { d.dpx.wit with since := 4000, a := ⟨some 9000, 1, 0, 0, 0⟩, b := ⟨some 9000, 1, 0, 0, 0⟩ } } } : Dev); let d := ({ d with dpx := { d.dpx with wit := { d.dpx.wit with started := false } } } : Dev); d, (Wit.cfg [(DPX_CFG_MODE, 2), (DPX_STAT_ROLE, 4), (DPX_WTO_WTO, 2000), (DPX_WSTAT_ACTU, 15)] fun d => let d := ({ d with time := { d.time with cio := 10000, up := 10000 }, dpx := { d.dpx with wit := { d.dpx.wit with since := 4000, a := ⟨some 9000, 1, 0, 0, 0⟩, b := ⟨some 9000, 1, 0, 0, 0⟩ } } } : Dev); let d := ({ d with dpx := { d.dpx with wit := { d.dpx.wit with started := false } } } : Dev); d).dev.elapse ((Wit.cfg [(DPX_CFG_MODE, 2), (DPX_STAT_ROLE, 4), (DPX_WTO_WTO, 2000), (DPX_WSTAT_ACTU, 15)] fun d => let d := ({ d with time := { d.time with cio := 10000, up := 10000 }, dpx := { d.dpx with wit := { d.dpx.wit with since := 4000, a := ⟨some 9000, 1, 0, 0, 0⟩, b := ⟨some 9000, 1, 0, 0, 0⟩ } } } : Dev); let d := ({ d with dpx := { d.dpx with wit := { d.dpx.wit with started := false } } } : Dev); d).dev.dpx.wit.since + 3 * (Wit.cfg [(DPX_CFG_MODE, 2), (DPX_STAT_ROLE, 4), (DPX_WTO_WTO, 2000), (DPX_WSTAT_ACTU, 15)] fun d => let d := ({ d with time := { d.time with cio := 10000, up := 10000 }, dpx := { d.dpx with wit := { d.dpx.wit with since := 4000, a := ⟨some 9000, 1, 0, 0, 0⟩, b := ⟨some 9000, 1, 0, 0, 0⟩ } } } : Dev); let d := ({ d with dpx := { d.dpx with wit := { d.dpx.wit with started := false } } } : Dev); d).dev.get DPX_WTO_WTO - (Wit.cfg [(DPX_CFG_MODE, 2), (DPX_STAT_ROLE, 4), (DPX_WTO_WTO, 2000), (DPX_WSTAT_ACTU, 15)] fun d => let d := ({ d with time := { d.time with cio := 10000, up := 10000 }, dpx := { d.dpx with wit := { d.dpx.wit with since := 4000, a := ⟨some 9000, 1, 0, 0, 0⟩, b := ⟨some 9000, 1, 0, 0, 0⟩ } } } : Dev); let d := ({ d with dpx := { d.dpx with wit := { d.dpx.wit with started := false } } } : Dev); d).dev.time.cio), by decide +kernel, by decide +kernel, by decide +kernel, rfl, by decide +kernel, by decide +kernel⟩,
   ⟨Wit.cfg [(DPX_STAT_ROLE, 4)] fun d => { d with dpx := { d.dpx with wit := { d.dpx.wit with started := false } } },
     (Wit.cfg [(DPX_STAT_ROLE,
     4)] fun d => { d with dpx := { d.dpx with wit := { d.dpx.wit with started := false } } }).dev.elapse ((Wit.cfg [(DPX_STAT_ROLE, 4)] fun d => { d with dpx := { d.dpx with wit := { d.dpx.wit with started := false } } }).dev.dpx.wit.since + 3 * (Wit.cfg [(DPX_STAT_ROLE, 4)] fun d => { d with dpx := { d.dpx with wit := { d.dpx.wit with started := false } } }).dev.get DPX_WTO_WTO - (Wit.cfg [(DPX_STAT_ROLE, 4)] fun d => { d with dpx := { d.dpx with wit := { d.dpx.wit with started := false } } }).dev.time.cio), by decide +kernel, by decide +kernel, by decide +kernel, rfl, by decide +kernel, by decide +kernel, by decide +kernel, by decide +kernel, by decide +kernel⟩,
   ⟨Wit.cfg [(DPX_STAT_ROLE, 1)], by decide +kernel⟩,
   ⟨Wit.cfg [], [], by decide +kernel⟩,
   ⟨Wit.cfg [(DPX_CFG_MODE, 2), (DPX_STAT_ROLE, 1), (DPX_WTO_WTO, 2000), (DPX_WSTAT_ACTU,
     15)] fun d => { d with time := { d.time with cio := 10000, up := 10000 }, dpx := { d.dpx with wit := { d.dpx.wit with started := true, b := ⟨some 9500, 2, 0, 12, 0⟩ } } }, witnessGroups true (Wit.beat 0 2 5), Wit.beat 0 2 5, by decide +kernel⟩,
   ⟨Wit.cfg [(DPX_CFG_MODE, 2), (DPX_STAT_ROLE, 4), (DPX_WTO_WTO, 2000), (DPX_WSTAT_ACTU,
     15)] fun d => { d with time := { d.time with cio := 10000, up := 10000 }, dpx := { d.dpx with wit := { d.dpx.wit with started := true, b := ⟨some 9500, 2, 0, 12, 0⟩ } } }, 0, witnessGroups true (List.replicate 16 0), List.replicate 16 0, by decide +kernel⟩,
   ⟨Wit.cfg [(DPX_CFG_MODE, 2), (DPX_STAT_ROLE, 4), (DPX_WTO_WTO, 2000), (DPX_WSTAT_ACTU,
     15)] fun d => let d := ({ d with time := { d.time with cio := 10000, up := 10000 }, dpx := { d.dpx with wit := { d.dpx.wit with started := true, b := ⟨some 9500, 2, 0, 12, 0⟩ } } } : Dev); let d := ({ d with dpx := { d.dpx with wit := { d.dpx.wit with started := false } } } : Dev); d, 0, witnessGroups true (Wit.beat 0 2 5), Wit.beat 0 2 5, by decide +kernel⟩,
   ⟨Wit.cfg [(DPX_CFG_MODE, 2), (DPX_STAT_ROLE, 4), (DPX_WTO_WTO, 2000), (DPX_WSTAT_ACTU,
     15)] fun d => let d := ({ d with time := { d.time with cio := 10000, up := 10000 }, dpx := { d.dpx with wit := { d.dpx.wit with started := true, b := ⟨some 9500, 2, 0, 12, 0⟩ } } } : Dev); let d := ({ d with dpx := { d.dpx with wit := { d.dpx.wit with started := true } } } : Dev); d, 0, witnessGroups true (Wit.beat 0 2 5), Wit.beat 0 2 5, (Wit.cfg [(DPX_CFG_MODE, 2), (DPX_STAT_ROLE, 4), (DPX_WTO_WTO, 2000), (DPX_WSTAT_ACTU, 15)] fun d => let d := ({ d with time := { d.time with cio := 10000, up := 10000 }, dpx := { d.dpx with wit := { d.dpx.wit with started := true, b := ⟨some 9500, 2, 0, 12, 0⟩ } } } : Dev); let d := ({ d with dpx := { d.dpx with wit := { d.dpx.wit with started := true } } } : Dev); d).dev.setWit (fun w => w.setUnit 0 ((w.unit 0).heard (Wit.beat 0 2 5) (Wit.cfg [(DPX_CFG_MODE, 2), (DPX_STAT_ROLE, 4), (DPX_WTO_WTO, 2000), (DPX_WSTAT_ACTU, 15)] fun d => let d := ({ d with time := { d.time with cio := 10000, up := 10000 }, dpx := { d.dpx with wit := { d.dpx.wit with started := true, b := ⟨some 9500, 2, 0, 12, 0⟩ } } } : Dev); let d := ({ d with dpx := { d.dpx with wit := { d.dpx.wit with started := true } } } : Dev); d).dev.time.cio)), by decide +kernel, by decide +kernel, by decide +kernel, by decide +kernel, by decide +kernel, rfl⟩,
   ⟨Wit.cfg [(DPX_CFG_MODE, 2), (DPX_STAT_ROLE, 4), (DPX_WTO_WTO, 2000), (DPX_WSTAT_ACTU,
     0)] fun d => let d := ({ d with time := { d.time with cio := 10000, up := 10000 }, dpx := { d.dpx with wit := { d.dpx.wit with started := true, b := ⟨some 9500, 2, 0, 12, 0⟩ } } } : Dev); let d := ({ d with dpx := { d.dpx with wit := { d.dpx.wit with started := true } } } : Dev); d, 0, witnessGroups true (Wit.beat 0 5 5), Wit.beat 0 5 5, (Wit.cfg [(DPX_CFG_MODE, 2), (DPX_STAT_ROLE, 4), (DPX_WTO_WTO, 2000), (DPX_WSTAT_ACTU, 0)] fun d => let d := ({ d with time := { d.time with cio := 10000, up := 10000 }, dpx := { d.dpx with wit := { d.dpx.wit with started := true, b := ⟨some 9500, 2, 0, 12, 0⟩ } } } : Dev); let d := ({ d with dpx := { d.dpx with wit := { d.dpx.wit with started := true } } } : Dev); d).dev.setWit (fun w => w.setUnit 0 ((w.unit 0).heard (Wit.beat 0 5 5) (Wit.cfg [(DPX_CFG_MODE, 2), (DPX_STAT_ROLE, 4), (DPX_WTO_WTO, 2000), (DPX_WSTAT_ACTU, 0)] fun d => let d := ({ d with time := { d.time with cio := 10000, up := 10000 }, dpx := { d.dpx with wit := { d.dpx.wit with started := true, b := ⟨some 9500, 2, 0, 12, 0⟩ } } } : Dev); let d := ({ d with dpx := { d.dpx with wit := { d.dpx.wit with started := true } } } : Dev); d).dev.time.cio)), by decide +kernel, by decide +kernel, by decide +kernel, by decide +kernel, by decide +kernel, rfl, by decide +kernel, by decide +kernel, by decide +kernel, by decide +kernel⟩,
   ⟨Wit.cfg [(DPX_STAT_ROLE, 1)], by decide +kernel⟩,
   ⟨Wit.cfg [(DPX_STAT_ROLE, 4)] fun d => { d with dpx := { d.dpx with wit := { d.dpx.wit with started := true } } }, 0,
     (Wit.cfg [(DPX_STAT_ROLE,
     4)] fun d => { d with dpx := { d.dpx with wit := { d.dpx.wit with started := true } } }).dev.elapse ((((Wit.cfg [(DPX_STAT_ROLE, 4)] fun d => { d with dpx := { d.dpx with wit := { d.dpx.wit with started := true } } }).dev.dpx.wit.unit 0).at_.getD (Wit.cfg [(DPX_STAT_ROLE, 4)] fun d => { d with dpx := { d.dpx with wit := { d.dpx.wit with started := true } } }).dev.dpx.wit.since) + (Wit.cfg [(DPX_STAT_ROLE, 4)] fun d => { d with dpx := { d.dpx with wit := { d.dpx.wit with started := true } } }).dev.get DPX_WTO_WTO - (Wit.cfg [(DPX_STAT_ROLE, 4)] fun d => { d with dpx := { d.dpx with wit := { d.dpx.wit with started := true } } }).dev.time.cio), by decide +kernel, by decide +kernel, by decide +kernel, rfl⟩,
   ⟨Wit.cfg [(DPX_CFG_MODE, 2), (DPX_STAT_ROLE, 4), (DPX_WTO_WTO, 2000), (DPX_WSTAT_ACTU,
     0)] fun d => let d := ({ d with time := { d.time with up := 10000 }, dpx := { d.dpx with wit := { d.dpx.wit with started := true, a := ⟨some 7000, 1, 0, 0, 0⟩, b := ⟨some 9500, 2, 0, 12, 0⟩ } } } : Dev); let d := ({ d with dpx := { d.dpx with wit := { d.dpx.wit with started := true } } } : Dev); d, 0, (Wit.cfg [(DPX_CFG_MODE, 2), (DPX_STAT_ROLE, 4), (DPX_WTO_WTO, 2000), (DPX_WSTAT_ACTU, 0)] fun d => let d := ({ d with time := { d.time with up := 10000 }, dpx := { d.dpx with wit := { d.dpx.wit with started := true, a := ⟨some 7000, 1, 0, 0, 0⟩, b := ⟨some 9500, 2, 0, 12, 0⟩ } } } : Dev); let d := ({ d with dpx := { d.dpx with wit := { d.dpx.wit with started := true } } } : Dev); d).dev.elapse ((((Wit.cfg [(DPX_CFG_MODE, 2), (DPX_STAT_ROLE, 4), (DPX_WTO_WTO, 2000), (DPX_WSTAT_ACTU, 0)] fun d => let d := ({ d with time := { d.time with up := 10000 }, dpx := { d.dpx with wit := { d.dpx.wit with started := true, a := ⟨some 7000, 1, 0, 0, 0⟩, b := ⟨some 9500, 2, 0, 12, 0⟩ } } } : Dev); let d := ({ d with dpx := { d.dpx with wit := { d.dpx.wit with started := true } } } : Dev); d).dev.dpx.wit.unit 0).at_.getD (Wit.cfg [(DPX_CFG_MODE, 2), (DPX_STAT_ROLE, 4), (DPX_WTO_WTO, 2000), (DPX_WSTAT_ACTU, 0)] fun d => let d := ({ d with time := { d.time with up := 10000 }, dpx := { d.dpx with wit := { d.dpx.wit with started := true, a := ⟨some 7000, 1, 0, 0, 0⟩, b := ⟨some 9500, 2, 0, 12, 0⟩ } } } : Dev); let d := ({ d with dpx := { d.dpx with wit := { d.dpx.wit with started := true } } } : Dev); d).dev.dpx.wit.since) + (Wit.cfg [(DPX_CFG_MODE, 2), (DPX_STAT_ROLE, 4), (DPX_WTO_WTO, 2000), (DPX_WSTAT_ACTU, 0)] fun d => let d := ({ d with time := { d.time with up := 10000 }, dpx := { d.dpx with wit := { d.dpx.wit with started := true, a := ⟨some 7000, 1, 0, 0, 0⟩, b := ⟨some 9500, 2, 0, 12, 0⟩ } } } : Dev); let d := ({ d with dpx := { d.dpx with wit := { d.dpx.wit with started := true } } } : Dev); d).dev.get DPX_WTO_WTO - (Wit.cfg [(DPX_CFG_MODE, 2), (DPX_STAT_ROLE, 4), (DPX_WTO_WTO, 2000), (DPX_WSTAT_ACTU, 0)] fun d => let d := ({ d with time := { d.time with up := 10000 }, dpx := { d.dpx with wit := { d.dpx.wit with started := true, a := ⟨some 7000, 1, 0, 0, 0⟩, b := ⟨some 9500, 2, 0, 12, 0⟩ } } } : Dev); let d := ({ d with dpx := { d.dpx with wit := { d.dpx.wit with started := true } } } : Dev); d).dev.time.cio), by decide +kernel, by decide +kernel, by decide +kernel, rfl, by decide +kernel, by decide +kernel, by decide +kernel, by decide +kernel, by decide +kernel, by decide +kernel⟩,
   ⟨Wit.cfg [(DPX_CFG_MODE, 2), (DPX_STAT_ROLE, 4), (DPX_WTO_WTO, 2000), (DPX_WSTAT_ACTU,
     15)] fun d => let d := ({ d with time := { d.time with up := 10000 }, dpx := { d.dpx with wit := { d.dpx.wit with started := true, a := ⟨some 9500, 3, 0, 65, 0⟩ } } } : Dev); let d := ({ d with dpx := { d.dpx with wit := { d.dpx.wit with started := true } } } : Dev); d, 1, (Wit.cfg [(DPX_CFG_MODE, 2), (DPX_STAT_ROLE, 4), (DPX_WTO_WTO, 2000), (DPX_WSTAT_ACTU, 15)] fun d => let d := ({ d with time := { d.time with up := 10000 }, dpx := { d.dpx with wit := { d.dpx.wit with started := true, a := ⟨some 9500, 3, 0, 65, 0⟩ } } } : Dev); let d := ({ d with dpx := { d.dpx with wit := { d.dpx.wit with started := true } } } : Dev); d).dev.elapse ((((Wit.cfg [(DPX_CFG_MODE, 2), (DPX_STAT_ROLE, 4), (DPX_WTO_WTO, 2000), (DPX_WSTAT_ACTU, 15)] fun d => let d := ({ d with time := { d.time with up := 10000 }, dpx := { d.dpx with wit := { d.dpx.wit with started := true, a := ⟨some 9500, 3, 0, 65, 0⟩ } } } : Dev); let d := ({ d with dpx := { d.dpx with wit := { d.dpx.wit with started := true } } } : Dev); d).dev.dpx.wit.unit 1).at_.getD (Wit.cfg [(DPX_CFG_MODE, 2), (DPX_STAT_ROLE, 4), (DPX_WTO_WTO, 2000), (DPX_WSTAT_ACTU, 15)] fun d => let d := ({ d with time := { d.time with up := 10000 }, dpx := { d.dpx with wit := { d.dpx.wit with started := true, a := ⟨some 9500, 3, 0, 65, 0⟩ } } } : Dev); let d := ({ d with dpx := { d.dpx with wit := { d.dpx.wit with started := true } } } : Dev); d).dev.dpx.wit.since) + (Wit.cfg [(DPX_CFG_MODE, 2), (DPX_STAT_ROLE, 4), (DPX_WTO_WTO, 2000), (DPX_WSTAT_ACTU, 15)] fun d => let d := ({ d with time := { d.time with up := 10000 }, dpx := { d.dpx with wit := { d.dpx.wit with started := true, a := ⟨some 9500, 3, 0, 65, 0⟩ } } } : Dev); let d := ({ d with dpx := { d.dpx with wit := { d.dpx.wit with started := true } } } : Dev); d).dev.get DPX_WTO_WTO - (Wit.cfg [(DPX_CFG_MODE, 2), (DPX_STAT_ROLE, 4), (DPX_WTO_WTO, 2000), (DPX_WSTAT_ACTU, 15)] fun d => let d := ({ d with time := { d.time with up := 10000 }, dpx := { d.dpx with wit := { d.dpx.wit with started := true, a := ⟨some 9500, 3, 0, 65, 0⟩ } } } : Dev); let d := ({ d with dpx := { d.dpx with wit := { d.dpx.wit with started := true } } } : Dev); d).dev.time.cio), by decide +kernel, by decide +kernel, by decide +kernel, rfl, by decide +kernel, by decide +kernel⟩⟩

def Wit.cycleMessages2 : State := Wit.run [(DPX_CFG_MODE, 1), (DPX_STAT_SDLUP, 1), (LANE_STAT_STATE 96, 6),
    (LANE_STAT_STATE 97, 6), (LANE_STAT_STATE 98, 6), (LANE_STAT_STATE 99, 6), (DPX_STAT_ROLE, 2)]
def Wit.cycleMessages2Lines : List (List Int) := Wit.message Wit.cycleMessages2.dev 2 0 (leBytes 4 7 ++ leBytes 4 8
    ++ leBytes 8 9)

set_option maxRecDepth 1000000 in
theorem test_premises_CycleMessages_2 :
    ∃ (s : State) (lines : List (List Int)) (x : SolderIn) (e : Dev), s.dev.held = false ∧ s.dev.solderTake 2 lines 0 = ([x],
      e) ∧ s.dev.shadowing = true :=
  ⟨Wit.cycleMessages2, Wit.cycleMessages2Lines, (⟨2, 1, [7, 0, 0, 0, 8, 0, 0, 0, 9] ++ List.replicate 7 0, 0, 77,
    0⟩ : SolderIn), (Wit.cycleMessages2.dev.solderTake 2 Wit.cycleMessages2Lines 0).2, by decide +kernel,
    Wit.taken_eq (by decide +kernel), by decide +kernel⟩

def Wit.cycleMessages3 : State := Wit.run [(DPX_CFG_MODE, 1), (DPX_STAT_SDLUP, 1), (LANE_STAT_STATE 96, 6),
    (LANE_STAT_STATE 97, 6), (LANE_STAT_STATE 98, 6), (LANE_STAT_STATE 99, 6)]
def Wit.cycleMessages3Lines : List (List Int) := Wit.message Wit.cycleMessages3.dev 2 0 (leBytes 4 7 ++ leBytes 4 8
    ++ leBytes 8 9)

set_option maxRecDepth 1000000 in
theorem test_premises_CycleMessages_3 :
    ∃ (s : State) (lines : List (List Int)) (x : SolderIn) (e : Dev), s.dev.held = false ∧ s.dev.solderTake 2 lines 0 = ([x],
      e) ∧ s.dev.shadowing = false :=
  ⟨Wit.cycleMessages3, Wit.cycleMessages3Lines, (⟨2, 1, [7, 0, 0, 0, 8, 0, 0, 0, 9] ++ List.replicate 7 0, 0, 77,
    0⟩ : SolderIn), (Wit.cycleMessages3.dev.solderTake 2 Wit.cycleMessages3Lines 0).2, by decide +kernel,
    Wit.taken_eq (by decide +kernel), by decide +kernel⟩

def Wit.cycleMessages4 : State := Wit.run [(DPX_CFG_MODE, 1), (DPX_STAT_SDLUP, 1), (LANE_STAT_STATE 96, 6),
    (LANE_STAT_STATE 97, 6), (LANE_STAT_STATE 98, 6), (LANE_STAT_STATE 99, 6), (SCH_ASTAT_ST 0, 2), (DPX_STAT_ROLE, 1)]
def Wit.cycleMessages4Lines : List (List Int) := Wit.message Wit.cycleMessages4.dev 1 0 (leBytes 2 1)

set_option maxRecDepth 1000000 in
theorem test_premises_CycleMessages_4 :
    ∃ (s : State) (lines : List (List Int)) (x : SolderIn) (e : Dev), s.dev.held = false ∧ s.dev.solderTake 1 lines 0 = ([x],
      e) ∧ s.dev.role = .active :=
  ⟨Wit.cycleMessages4, Wit.cycleMessages4Lines, (⟨1, 1, [1] ++ List.replicate 15 0, 0, 77, 0⟩ : SolderIn),
    (Wit.cycleMessages4.dev.solderTake 1 Wit.cycleMessages4Lines 0).2, by decide +kernel, Wit.taken_eq (by decide +kernel),
    by decide +kernel⟩

def Wit.cycleMessages5 : State := Wit.run [(DPX_CFG_MODE, 1), (DPX_STAT_SDLUP, 1), (LANE_STAT_STATE 96, 6),
    (LANE_STAT_STATE 97, 6), (LANE_STAT_STATE 98, 6), (LANE_STAT_STATE 99, 6), (SCH_ASTAT_ST 0, 2), (DPX_STAT_ROLE, 2)]
def Wit.cycleMessages5Lines : List (List Int) := Wit.message Wit.cycleMessages5.dev 1 0 (leBytes 2 1)

set_option maxRecDepth 1000000 in
theorem test_premises_CycleMessages_5 :
    ∃ (s : State) (lines : List (List Int)) (x : SolderIn) (e : Dev), s.dev.held = false ∧ s.dev.solderTake 1 lines 0 = ([x],
      e) ∧ (s.dev.role = .standby ∨ s.dev.role = .syncing) :=
  ⟨Wit.cycleMessages5, Wit.cycleMessages5Lines, (⟨1, 1, [1] ++ List.replicate 15 0, 0, 77, 0⟩ : SolderIn),
    (Wit.cycleMessages5.dev.solderTake 1 Wit.cycleMessages5Lines 0).2, by decide +kernel, Wit.taken_eq (by decide +kernel),
    by decide +kernel⟩

def Wit.cycleMessages6 : State := Wit.run [(DPX_CFG_MODE, 1), (DPX_STAT_SDLUP, 1), (LANE_STAT_STATE 96, 6),
    (LANE_STAT_STATE 97, 6), (LANE_STAT_STATE 98, 6), (LANE_STAT_STATE 99, 6), (SCH_ASTAT_ST 0, 2), (DPX_STAT_ROLE, 0)]
def Wit.cycleMessages6Lines : List (List Int) := Wit.message Wit.cycleMessages6.dev 1 0 (leBytes 2 1)

set_option maxRecDepth 1000000 in
theorem test_premises_CycleMessages_6 :
    ∃ (s : State) (lines : List (List Int)) (x : SolderIn) (e : Dev), s.dev.held = false ∧ s.dev.solderTake 1 lines 0 = ([x],
      e) ∧ (s.dev.role = .solo ∨ s.dev.role = .witness ∨ s.dev.role = .faulted) :=
  ⟨Wit.cycleMessages6, Wit.cycleMessages6Lines, (⟨1, 1, [1] ++ List.replicate 15 0, 0, 77, 0⟩ : SolderIn),
    (Wit.cycleMessages6.dev.solderTake 1 Wit.cycleMessages6Lines 0).2, by decide +kernel, Wit.taken_eq (by decide +kernel),
    by decide +kernel⟩

def Wit.cycleMessages7 : State := Wit.run [(DPX_CFG_MODE, 1), (DPX_STAT_SDLUP, 1), (LANE_STAT_STATE 96, 6),
    (LANE_STAT_STATE 97, 6), (LANE_STAT_STATE 98, 6), (LANE_STAT_STATE 99, 6), (DPX_STAT_ROLE, 1), (CYC_STAT_RUNNING,
    1)] fun d => let d := ({ d with cyc := { d.cyc with inCycle := true } } : Dev);
    let d := ({ d with cyc := { d.cyc with closed := false } } : Dev); d
def Wit.cycleMessages7Lines : List (List Int) := Wit.message Wit.cycleMessages7.dev 3 0 (SolderMsg.payload (.relay 0 0 1 3 [(1, 5, 6, 0x8007, 8)]))

set_option maxRecDepth 1000000 in
theorem test_premises_CycleMessages_7 :
    ∃ (s : State) (lines : List (List Int)) (x : SolderIn) (e : Dev) (p : Fin 48), s.dev.held = false ∧
      s.dev.solderTake 3 lines 0 = ([x], e) ∧ leAt x.bytes 0 1 = p.val ∧ s.dev.portActive p = true ∧ s.dev.running = true ∧
      s.dev.cyc.inCycle = true ∧ s.dev.cyc.closed = false ∧ leAt x.bytes 8 4 = s.dev.cycle.toNat ∧
      s.dev.phaseNs ≤ s.dev.closesAt p :=
  ⟨Wit.cycleMessages7, Wit.cycleMessages7Lines, (⟨3, 1, [0, 1, 3, 1, 1] ++ List.replicate 11 0 ++ [5, 0, 6, 0, 7, 128, 8]
    ++ List.replicate 9 0, 0, 77, 0⟩ : SolderIn), (Wit.cycleMessages7.dev.solderTake 3 Wit.cycleMessages7Lines 0).2, 0,
    by decide +kernel, Wit.taken_eq (by decide +kernel), by decide +kernel, by decide +kernel, by decide +kernel,
    by decide +kernel, by decide +kernel, by decide +kernel, by decide +kernel⟩

def Wit.cycleMessages8 : State := Wit.run [(DPX_CFG_MODE, 1), (DPX_STAT_SDLUP, 1), (LANE_STAT_STATE 96, 6),
    (LANE_STAT_STATE 97, 6), (LANE_STAT_STATE 98, 6), (LANE_STAT_STATE 99, 6), (DPX_STAT_ROLE, 1), (CYC_STAT_RUNNING,
    1)] fun d => let d := ({ d with cyc := { d.cyc with inCycle := true } } : Dev);
    let d := ({ d with cyc := { d.cyc with closed := false } } : Dev); d
def Wit.cycleMessages8Lines : List (List Int) := Wit.message Wit.cycleMessages8.dev 3 0 (SolderMsg.payload (.relay 0 0 1 3 [(1, 5, 6, 0x8007, 8)]))

set_option maxRecDepth 1000000 in
theorem test_premises_CycleMessages_8 :
    ∃ (s : State) (lines : List (List Int)) (x : SolderIn) (e : Dev) (p : Fin 48) (n : Fin 128) (u : Nat × Nat × Nat × Nat),
      s.dev.held = false ∧ s.dev.solderTake 3 lines 0 = ([x], e) ∧ leAt x.bytes 0 1 = p.val ∧ s.dev.portActive p = true ∧
      s.dev.running = true ∧ s.dev.cyc.inCycle = true ∧ s.dev.cyc.closed = false ∧ leAt x.bytes 8 4 = s.dev.cycle.toNat ∧
      s.dev.phaseNs ≤ s.dev.closesAt p ∧ (n.val, u) ∈ relaySlots x.bytes ∧ n.val < (s.dev.port p).discovered ∧
      s.dev.isFresh p n = false :=
  ⟨Wit.cycleMessages8, Wit.cycleMessages8Lines, (⟨3, 1, [0, 1, 3, 1, 1] ++ List.replicate 11 0 ++ [5, 0, 6, 0, 7, 128, 8]
    ++ List.replicate 9 0, 0, 77, 0⟩ : SolderIn), (Wit.cycleMessages8.dev.solderTake 3 Wit.cycleMessages8Lines 0).2, 0, 1, (5,
    6, 0x8007, 8), by decide +kernel, Wit.taken_eq (by decide +kernel), by decide +kernel, by decide +kernel,
    by decide +kernel, by decide +kernel, by decide +kernel, by decide +kernel, by decide +kernel, by decide +kernel,
    by decide +kernel, by decide +kernel⟩

def Wit.cycleMessages9 : State := Wit.run [(DPX_CFG_MODE, 1), (DPX_STAT_SDLUP, 1), (LANE_STAT_STATE 96, 6),
    (LANE_STAT_STATE 97, 6), (LANE_STAT_STATE 98, 6), (LANE_STAT_STATE 99, 6), (DPX_STAT_ROLE, 1), (CYC_STAT_RUNNING, 0)]
def Wit.cycleMessages9Lines : List (List Int) := Wit.message Wit.cycleMessages9.dev 3 0 (SolderMsg.payload (.relay 0 0 1 3 [(1, 5, 6, 0x8007, 8)]))

set_option maxRecDepth 1000000 in
theorem test_premises_CycleMessages_9 :
    ∃ (s : State) (lines : List (List Int)) (x : SolderIn) (e : Dev), s.dev.held = false ∧ s.dev.solderTake 3 lines 0 = ([x],
      e) ∧ (48 ≤ leAt x.bytes 0 1 ∨ s.dev.portActive (leAt x.bytes 0 1) = false ∨ s.dev.running = false ∨ s.dev.cyc.inCycle = false ∨ s.dev.cyc.closed = true ∨ leAt x.bytes 8 4 ≠ s.dev.cycle.toNat ∨ s.dev.closesAt (leAt x.bytes 0 1) < s.dev.phaseNs) :=
  ⟨Wit.cycleMessages9, Wit.cycleMessages9Lines, (⟨3, 1, [0, 1, 3, 1, 1] ++ List.replicate 11 0 ++ [5, 0, 6, 0, 7, 128, 8]
    ++ List.replicate 9 0, 0, 77, 0⟩ : SolderIn), (Wit.cycleMessages9.dev.solderTake 3 Wit.cycleMessages9Lines 0).2,
    by decide +kernel, Wit.taken_eq (by decide +kernel), by decide +kernel⟩

def Wit.cycleMessages10 : State := Wit.run [(DPX_CFG_MODE, 1), (DPX_STAT_SDLUP, 1), (LANE_STAT_STATE 96, 6),
    (LANE_STAT_STATE 97, 6), (LANE_STAT_STATE 98, 6), (LANE_STAT_STATE 99, 6), (DPX_STAT_ROLE, 2), (CYC_STAT_RUNNING,
    1)] fun d => { d with cyc := { d.cyc with inCycle := true } }
def Wit.cycleMessages10Lines : List (List Int) := Wit.message Wit.cycleMessages10.dev 4 0 (leBytes 4 1 ++ leBytes 4 2)

set_option maxRecDepth 1000000 in
theorem test_premises_CycleMessages_10 :
    ∃ (s : State) (lines : List (List Int)) (x : SolderIn) (e : Dev) (a : Fin 12) (y : Word × Word), s.dev.held = false ∧
      s.dev.solderTake 4 lines 0 = ([x], e) ∧ s.dev.shadowing = true ∧ s.dev.running = true ∧ s.dev.cyc.inCycle = true ∧
      x.cyc = s.dev.cycle ∧ (pairsOf (leWords x.bytes))[a.val]? = some y :=
  ⟨Wit.cycleMessages10, Wit.cycleMessages10Lines, (⟨4, 1, [1, 0, 0, 0, 2] ++ List.replicate 11 0, 0, 77, 0⟩ : SolderIn),
    (Wit.cycleMessages10.dev.solderTake 4 Wit.cycleMessages10Lines 0).2, 0, (1, 2), by decide +kernel,
    Wit.taken_eq (by decide +kernel), by decide +kernel, by decide +kernel, by decide +kernel, by decide +kernel,
    by decide +kernel⟩

def Wit.cycleMessages11 : State := Wit.run [(DPX_CFG_MODE, 1), (DPX_STAT_SDLUP, 1), (LANE_STAT_STATE 96, 6),
    (LANE_STAT_STATE 97, 6), (LANE_STAT_STATE 98, 6), (LANE_STAT_STATE 99, 6), (DPX_STAT_ROLE, 2), (CYC_STAT_RUNNING, 0)]
def Wit.cycleMessages11Lines : List (List Int) := Wit.message Wit.cycleMessages11.dev 4 0 (leBytes 4 1 ++ leBytes 4 2)

set_option maxRecDepth 1000000 in
theorem test_premises_CycleMessages_11 :
    ∃ (s : State) (lines : List (List Int)) (x : SolderIn) (e : Dev), s.dev.held = false ∧ s.dev.solderTake 4 lines 0 = ([x],
      e) ∧ (s.dev.shadowing = false ∨ s.dev.running = false ∨ s.dev.cyc.inCycle = false ∨ x.cyc ≠ s.dev.cycle) :=
  ⟨Wit.cycleMessages11, Wit.cycleMessages11Lines, (⟨4, 1, [1, 0, 0, 0, 2] ++ List.replicate 11 0, 0, 77, 0⟩ : SolderIn),
    (Wit.cycleMessages11.dev.solderTake 4 Wit.cycleMessages11Lines 0).2, by decide +kernel, Wit.taken_eq (by decide +kernel),
    by decide +kernel⟩

def Wit.cycleMessages12 : State := Wit.run [(DPX_CFG_MODE, 1), (DPX_STAT_SDLUP, 1), (LANE_STAT_STATE 96, 6),
    (LANE_STAT_STATE 97, 6), (LANE_STAT_STATE 98, 6), (LANE_STAT_STATE 99, 6), (DPX_STAT_ROLE,
    1)] fun d => { d with cyc := { d.cyc with tm0 := { d.cyc.tm0 with dtx := 100 } } }
def Wit.cycleMessages12Lines : List (List Int) := Wit.message Wit.cycleMessages12.dev 5 0 (Cmds.bytes ⟨0, 5000, 0, 1, 0, 0, 7,
    [], [(0, plainCmd 3), (1, plainCmd 3)]⟩)

set_option maxRecDepth 1000000 in
theorem test_premises_CycleMessages_12 :
    ∃ (s : State) (lines : List (List Int)) (t : BitVec 40) (x : SolderIn) (e : Dev) (m : Cmds), s.dev.held = false ∧
      s.dev.solderTake 5 lines t = ([x], e) ∧ m = Cmds.of s.dev.mappedCells x.dep x.bytes ∧ s.dev.follower = false :=
  ⟨Wit.cycleMessages12, Wit.cycleMessages12Lines, 3, (⟨5, 1, List.replicate 4 0 ++ [136, 19] ++ List.replicate 14 0 ++ [1, 0,
    0, 0, 7] ++ List.replicate 215 0 ++ [51] ++ List.replicate 15 0, 0, 77, 3⟩ : SolderIn),
    (Wit.cycleMessages12.dev.solderTake 5 Wit.cycleMessages12Lines 3).2, Cmds.of Wit.cycleMessages12.dev.mappedCells ((⟨5, 1,
    List.replicate 4 0 ++ [136, 19] ++ List.replicate 14 0 ++ [1, 0, 0, 0, 7] ++ List.replicate 215 0 ++ [51]
    ++ List.replicate 15 0, 0, 77, 3⟩ : SolderIn)).dep ((⟨5, 1, List.replicate 4 0 ++ [136, 19] ++ List.replicate 14 0 ++ [1,
    0, 0, 0, 7] ++ List.replicate 215 0 ++ [51] ++ List.replicate 15 0, 0, 77, 3⟩ : SolderIn)).bytes, by decide +kernel,
    Wit.taken_eq (by decide +kernel), rfl, by decide +kernel⟩

def Wit.cycleMessages13 : State := Wit.run [(DPX_CFG_MODE, 1), (DPX_STAT_SDLUP, 1), (LANE_STAT_STATE 96, 6),
    (LANE_STAT_STATE 97, 6), (LANE_STAT_STATE 98, 6), (LANE_STAT_STATE 99, 6), (DPX_STAT_ROLE, 2), (CYC_STAT_RUNNING,
    1)] fun d => let d := ({ d with cyc := { d.cyc with tm0 := { d.cyc.tm0 with dtx := 100 } } } : Dev);
    let d := ({ d with cyc := { d.cyc with inCycle := true } } : Dev); d
def Wit.cycleMessages13Lines : List (List Int) := Wit.message Wit.cycleMessages13.dev 5 1 (Cmds.bytes ⟨1, 5000, 0, 1, 0, 0, 7,
    [], [(0, plainCmd 3), (1, plainCmd 3)]⟩)

set_option maxRecDepth 1000000 in
theorem test_premises_CycleMessages_13 :
    ∃ (s : State) (lines : List (List Int)) (t : BitVec 40) (x : SolderIn) (e : Dev) (m : Cmds), s.dev.held = false ∧
      s.dev.solderTake 5 lines t = ([x], e) ∧ m = Cmds.of s.dev.mappedCells x.dep x.bytes ∧ s.dev.follower = true ∧
      s.dev.Steady m.t4 ∧ s.dev.running = true ∧ s.dev.cyc.inCycle = true ∧ m.cyc = s.dev.cycle + 1 :=
  ⟨Wit.cycleMessages13, Wit.cycleMessages13Lines, 3, (⟨5, 1, [1, 0, 0, 0, 136, 19] ++ List.replicate 14 0 ++ [1, 0, 0, 0, 7]
    ++ List.replicate 215 0 ++ [51] ++ List.replicate 15 0, 1, 77, 3⟩ : SolderIn),
    (Wit.cycleMessages13.dev.solderTake 5 Wit.cycleMessages13Lines 3).2, Cmds.of Wit.cycleMessages13.dev.mappedCells ((⟨5, 1,
    [1, 0, 0, 0, 136, 19] ++ List.replicate 14 0 ++ [1, 0, 0, 0, 7] ++ List.replicate 215 0 ++ [51] ++ List.replicate 15 0, 1,
    77, 3⟩ : SolderIn)).dep ((⟨5, 1, [1, 0, 0, 0, 136, 19] ++ List.replicate 14 0 ++ [1, 0, 0, 0, 7] ++ List.replicate 215 0
    ++ [51] ++ List.replicate 15 0, 1, 77, 3⟩ : SolderIn)).bytes, by decide +kernel, Wit.taken_eq (by decide +kernel), rfl,
    by decide +kernel, by decide +kernel, by decide +kernel, by decide +kernel, by decide +kernel⟩

def Wit.cycleMessages14 : State := Wit.run [(DPX_CFG_MODE, 1), (DPX_STAT_SDLUP, 1), (LANE_STAT_STATE 96, 6),
    (LANE_STAT_STATE 97, 6), (LANE_STAT_STATE 98, 6), (LANE_STAT_STATE 99, 6), (DPX_STAT_ROLE, 2), (CYC_STAT_RUNNING,
    1)] fun d => let d := ({ d with cyc := { d.cyc with tm0 := { d.cyc.tm0 with dtx := 100 } } } : Dev);
    let d := ({ d with cyc := { d.cyc with inCycle := true } } : Dev);
    let d := ({ d with cyc := { d.cyc with departed := false } } : Dev); d
def Wit.cycleMessages14Lines : List (List Int) := Wit.message Wit.cycleMessages14.dev 5 0 (Cmds.bytes ⟨0, 5000, 0, 1, 0, 0, 7,
    [], [(0, plainCmd 3), (1, plainCmd 3)]⟩)

set_option maxRecDepth 1000000 in
theorem test_premises_CycleMessages_14 :
    ∃ (s : State) (lines : List (List Int)) (t : BitVec 40) (x : SolderIn) (e : Dev) (m : Cmds), s.dev.held = false ∧
      s.dev.solderTake 5 lines t = ([x], e) ∧ m = Cmds.of s.dev.mappedCells x.dep x.bytes ∧ s.dev.follower = true ∧
      s.dev.Steady m.t4 ∧ s.dev.running = true ∧ s.dev.cyc.inCycle = true ∧ m.cyc = s.dev.cycle ∧ s.dev.cyc.departed = false ∧
      s.dev.phaseNs + 50 ≤ s.dev.cyc.tm0.dtx :=
  ⟨Wit.cycleMessages14, Wit.cycleMessages14Lines, 3, (⟨5, 1, List.replicate 4 0 ++ [136, 19] ++ List.replicate 14 0 ++ [1, 0,
    0, 0, 7] ++ List.replicate 215 0 ++ [51] ++ List.replicate 15 0, 0, 77, 3⟩ : SolderIn),
    (Wit.cycleMessages14.dev.solderTake 5 Wit.cycleMessages14Lines 3).2, Cmds.of Wit.cycleMessages14.dev.mappedCells ((⟨5, 1,
    List.replicate 4 0 ++ [136, 19] ++ List.replicate 14 0 ++ [1, 0, 0, 0, 7] ++ List.replicate 215 0 ++ [51]
    ++ List.replicate 15 0, 0, 77, 3⟩ : SolderIn)).dep ((⟨5, 1, List.replicate 4 0 ++ [136, 19] ++ List.replicate 14 0 ++ [1,
    0, 0, 0, 7] ++ List.replicate 215 0 ++ [51] ++ List.replicate 15 0, 0, 77, 3⟩ : SolderIn)).bytes, by decide +kernel,
    Wit.taken_eq (by decide +kernel), rfl, by decide +kernel, by decide +kernel, by decide +kernel, by decide +kernel,
    by decide +kernel, by decide +kernel, by decide +kernel⟩

def Wit.cycleMessages15 : State := Wit.run [(DPX_CFG_MODE, 1), (DPX_STAT_SDLUP, 1), (LANE_STAT_STATE 96, 6),
    (LANE_STAT_STATE 97, 6), (LANE_STAT_STATE 98, 6), (LANE_STAT_STATE 99, 6), (DPX_STAT_ROLE, 2), (CYC_STAT_RUNNING,
    1)] fun d => let d := ({ d with cyc := { d.cyc with tm0 := { d.cyc.tm0 with dtx := 100 } } } : Dev);
    let d := ({ d with cyc := { d.cyc with inCycle := true } } : Dev); d
def Wit.cycleMessages15Lines : List (List Int) := Wit.message Wit.cycleMessages15.dev 5 0 (Cmds.bytes ⟨0, 5000, 0, 1, 0, 0, 7,
    [], [(0, plainCmd 3), (1, plainCmd 3)]⟩)

set_option maxRecDepth 1000000 in
theorem test_premises_CycleMessages_15 :
    ∃ (s : State) (lines : List (List Int)) (t : BitVec 40) (x : SolderIn) (e : Dev) (m : Cmds), s.dev.held = false ∧
      s.dev.solderTake 5 lines t = ([x], e) ∧ m = Cmds.of s.dev.mappedCells x.dep x.bytes ∧ s.dev.follower = true ∧
      s.dev.Steady m.t4 ∧ s.dev.running = true ∧ s.dev.cyc.inCycle = true ∧ (m.cyc = s.dev.cycle + 1 ∨ (m.cyc = s.dev.cycle ∧
      s.dev.cyc.departed = false ∧ s.dev.phaseNs + 50 ≤ s.dev.cyc.tm0.dtx)) :=
  ⟨Wit.cycleMessages15, Wit.cycleMessages15Lines, 3, (⟨5, 1, List.replicate 4 0 ++ [136, 19] ++ List.replicate 14 0 ++ [1, 0,
    0, 0, 7] ++ List.replicate 215 0 ++ [51] ++ List.replicate 15 0, 0, 77, 3⟩ : SolderIn),
    (Wit.cycleMessages15.dev.solderTake 5 Wit.cycleMessages15Lines 3).2, Cmds.of Wit.cycleMessages15.dev.mappedCells ((⟨5, 1,
    List.replicate 4 0 ++ [136, 19] ++ List.replicate 14 0 ++ [1, 0, 0, 0, 7] ++ List.replicate 215 0 ++ [51]
    ++ List.replicate 15 0, 0, 77, 3⟩ : SolderIn)).dep ((⟨5, 1, List.replicate 4 0 ++ [136, 19] ++ List.replicate 14 0 ++ [1,
    0, 0, 0, 7] ++ List.replicate 215 0 ++ [51] ++ List.replicate 15 0, 0, 77, 3⟩ : SolderIn)).bytes, by decide +kernel,
    Wit.taken_eq (by decide +kernel), rfl, by decide +kernel, by decide +kernel, by decide +kernel, by decide +kernel,
    by decide +kernel⟩

def Wit.cycleMessages16 : State := Wit.run [(DPX_CFG_MODE, 1), (DPX_STAT_SDLUP, 1), (LANE_STAT_STATE 96, 6),
    (LANE_STAT_STATE 97, 6), (LANE_STAT_STATE 98, 6), (LANE_STAT_STATE 99, 6), (DPX_STAT_ROLE, 2), (CYC_STAT_RUNNING,
    0)] fun d => { d with cyc := { d.cyc with tm0 := { d.cyc.tm0 with dtx := 100 } } }
def Wit.cycleMessages16Lines : List (List Int) := Wit.message Wit.cycleMessages16.dev 5 0 (Cmds.bytes ⟨0, 5000, 0, 1, 0, 0, 7,
    [], [(0, plainCmd 3), (1, plainCmd 3)]⟩)

set_option maxRecDepth 1000000 in
theorem test_premises_CycleMessages_16 :
    ∃ (s : State) (lines : List (List Int)) (t : BitVec 40) (x : SolderIn) (e : Dev) (m : Cmds), s.dev.held = false ∧
      s.dev.solderTake 5 lines t = ([x], e) ∧ m = Cmds.of s.dev.mappedCells x.dep x.bytes ∧ s.dev.follower = true ∧
      s.dev.Steady m.t4 ∧ (s.dev.running = false ∨ s.dev.cyc.inCycle = false ∨ (m.cyc ≠ s.dev.cycle + 1 ∧
      (m.cyc ≠ s.dev.cycle ∨ s.dev.cyc.departed = true ∨ s.dev.cyc.tm0.dtx < s.dev.phaseNs + 50))) :=
  ⟨Wit.cycleMessages16, Wit.cycleMessages16Lines, 3, (⟨5, 1, List.replicate 4 0 ++ [136, 19] ++ List.replicate 14 0 ++ [1, 0,
    0, 0, 7] ++ List.replicate 215 0 ++ [51] ++ List.replicate 15 0, 0, 77, 3⟩ : SolderIn),
    (Wit.cycleMessages16.dev.solderTake 5 Wit.cycleMessages16Lines 3).2, Cmds.of Wit.cycleMessages16.dev.mappedCells ((⟨5, 1,
    List.replicate 4 0 ++ [136, 19] ++ List.replicate 14 0 ++ [1, 0, 0, 0, 7] ++ List.replicate 215 0 ++ [51]
    ++ List.replicate 15 0, 0, 77, 3⟩ : SolderIn)).dep ((⟨5, 1, List.replicate 4 0 ++ [136, 19] ++ List.replicate 14 0 ++ [1,
    0, 0, 0, 7] ++ List.replicate 215 0 ++ [51] ++ List.replicate 15 0, 0, 77, 3⟩ : SolderIn)).bytes, by decide +kernel,
    Wit.taken_eq (by decide +kernel), rfl, by decide +kernel, by decide +kernel, by decide +kernel⟩


theorem test_premises_CycleMessages :
    (∃ (s : State), s.dev.held = false ∧ s.dev.inCycle = true ∧ s.dev.role = .active ∧ s.dev.cyc.closed = false) ∧
    (∃ (s : State), s.dev.held = false ∧ (s.dev.inCycle = false ∨ s.dev.role ≠ .active ∨ s.dev.cyc.closed = true)) :=
  ⟨⟨Wit.run [(DPX_STAT_ROLE, 1)] fun d => { d with cyc := { d.cyc with closed := false } }, by decide +kernel⟩,
   ⟨Wit.cfg [] fun d => { d with cyc := { d.cyc with inCycle := false } }, by decide +kernel⟩⟩

def Wit.linkMessages0 : State := Wit.run [(DPX_CFG_MODE, 1), (DPX_STAT_SDLUP, 1), (LANE_STAT_STATE 96, 6),
    (LANE_STAT_STATE 97, 6), (LANE_STAT_STATE 98, 6), (LANE_STAT_STATE 99, 6)]

set_option maxRecDepth 1000000 in
theorem test_premises_PartnerData_LinkMessages_0 :
    ∃ (s : State) (lines : List (List Int)) (t : BitVec 40) (l : List SolderIn) (e : Dev) (y : Nat × BitVec 40 × Instr × (SolderIn → Dev → Dev)), s.dev.held = false ∧ (y ∈ [(11, t, Instr.pairReceive lines t, fun x d => Dev.pairReceive d (.of x.bytes) x.stamp),
      (1, 0, .blkReceive lines, fun x d => d.blkReceive (leAt x.bytes 0 2)),
      (2, 0, .islotReceive lines, fun x d => d.islotReceive x.cyc (leWords x.bytes)),
      (3, 0, .relayReceive lines, fun x d => d.relayReceive (leAt x.bytes 0 1) (dw (leAt x.bytes 8 4)) (relaySlots x.bytes)),
      (4, 0, .refReceive lines, fun x d => d.refReceive x.cyc (pairsOf (leWords x.bytes))),
      (5, t, .cmdsReceive lines t, fun x d => d.cmdsReceive (.of d.mappedCells x.dep x.bytes) x.stamp),
      (6, t, .statReceive lines t, fun x d => d.statReceive (.of x.bytes) x.stamp),
      (7, 0, .ingotSegmentReceive lines, fun x d => d.ingReceive x.cyc x.bytes),
      (8, 0, .castSegmentReceive lines, fun x d => d.castReceive x.cyc.toNat x.bytes),
      (9, 0, .discresReceive lines, fun x d => d.discresMessage x.bytes)]) ∧ s.dev.solderTake y.1 lines y.2.1 = (l, e) :=
  ⟨Wit.linkMessages0, [], 0, (Wit.linkMessages0.dev.solderTake 1 ([]) 0).1, (Wit.linkMessages0.dev.solderTake 1 ([]) 0).2, (1,
    (0 : BitVec 40), Instr.blkReceive ([]), fun (z : SolderIn) (w : Dev) => w.blkReceive (leAt z.bytes 0 2)),
    by decide +kernel, List.mem_cons_of_mem _ List.mem_cons_self, (Prod.eta _).symm⟩

def Wit.linkMessages1 : State := Wit.run [(DPX_CFG_MODE, 1), (DPX_STAT_SDLUP, 1), (LANE_STAT_STATE 96, 6),
    (LANE_STAT_STATE 97, 6), (LANE_STAT_STATE 98, 6), (LANE_STAT_STATE 99, 6)]

set_option maxRecDepth 1000000 in
theorem test_premises_PartnerData_LinkMessages_1 :
    ∃ (s : State) (lines : List (List Int)) (t : BitVec 40) (l : List SolderIn) (e : Dev) (y : Nat × BitVec 40 × Instr × (SolderIn → Dev → Dev)), s.dev.held = false ∧ (y ∈ [(11, t, Instr.pairReceive lines t, fun x d => Dev.pairReceive d (.of x.bytes) x.stamp),
      (1, 0, .blkReceive lines, fun x d => d.blkReceive (leAt x.bytes 0 2)),
      (2, 0, .islotReceive lines, fun x d => d.islotReceive x.cyc (leWords x.bytes)),
      (3, 0, .relayReceive lines, fun x d => d.relayReceive (leAt x.bytes 0 1) (dw (leAt x.bytes 8 4)) (relaySlots x.bytes)),
      (4, 0, .refReceive lines, fun x d => d.refReceive x.cyc (pairsOf (leWords x.bytes))),
      (5, t, .cmdsReceive lines t, fun x d => d.cmdsReceive (.of d.mappedCells x.dep x.bytes) x.stamp),
      (6, t, .statReceive lines t, fun x d => d.statReceive (.of x.bytes) x.stamp),
      (7, 0, .ingotSegmentReceive lines, fun x d => d.ingReceive x.cyc x.bytes),
      (8, 0, .castSegmentReceive lines, fun x d => d.castReceive x.cyc.toNat x.bytes),
      (9, 0, .discresReceive lines, fun x d => d.discresMessage x.bytes)]) ∧ s.dev.solderTake y.1 lines y.2.1 = (l, e) ∧
        (y.1 ≠ 8 ∨ s.dev.role ≠ .syncing) :=
  ⟨Wit.linkMessages1, [], 0, (Wit.linkMessages1.dev.solderTake 1 ([]) 0).1, (Wit.linkMessages1.dev.solderTake 1 ([]) 0).2, (1,
    (0 : BitVec 40), Instr.blkReceive ([]), fun (z : SolderIn) (w : Dev) => w.blkReceive (leAt z.bytes 0 2)),
    by decide +kernel, List.mem_cons_of_mem _ List.mem_cons_self, (Prod.eta _).symm, by decide +kernel⟩

def Wit.linkMessages2 : State := Wit.cfg [(HIF_EPRES_STATE, 1)]

set_option maxRecDepth 1000000 in
theorem test_premises_PartnerData_LinkMessages_2 :
    ∃ (s : State) (lines : List (List Int)) (t : BitVec 40) (l : List SolderIn) (e : Dev) (y : Nat × BitVec 40 × Instr × (SolderIn → Dev → Dev)), s.dev.held = false ∧ (y ∈ [(11, t, Instr.pairReceive lines t, fun x d => Dev.pairReceive d (.of x.bytes) x.stamp),
      (1, 0, .blkReceive lines, fun x d => d.blkReceive (leAt x.bytes 0 2)),
      (2, 0, .islotReceive lines, fun x d => d.islotReceive x.cyc (leWords x.bytes)),
      (3, 0, .relayReceive lines, fun x d => d.relayReceive (leAt x.bytes 0 1) (dw (leAt x.bytes 8 4)) (relaySlots x.bytes)),
      (4, 0, .refReceive lines, fun x d => d.refReceive x.cyc (pairsOf (leWords x.bytes))),
      (5, t, .cmdsReceive lines t, fun x d => d.cmdsReceive (.of d.mappedCells x.dep x.bytes) x.stamp),
      (6, t, .statReceive lines t, fun x d => d.statReceive (.of x.bytes) x.stamp),
      (7, 0, .ingotSegmentReceive lines, fun x d => d.ingReceive x.cyc x.bytes),
      (8, 0, .castSegmentReceive lines, fun x d => d.castReceive x.cyc.toNat x.bytes),
      (9, 0, .discresReceive lines, fun x d => d.discresMessage x.bytes)]) ∧ s.dev.solderTake y.1 lines y.2.1 = (l, e) ∧
        s.dev.paired = false :=
  ⟨Wit.linkMessages2, [], 0, [], Wit.linkMessages2.dev, (1, (0 : BitVec 40), Instr.blkReceive ([]),
    fun (z : SolderIn) (w : Dev) => w.blkReceive (leAt z.bytes 0 2)), by decide +kernel,
    List.mem_cons_of_mem _ List.mem_cons_self, (Prod.eta _).symm, by decide +kernel⟩

def Wit.linkMessages3 : State := Wit.run [(DPX_CFG_MODE, 1), (DPX_STAT_SDLUP, 1), (LANE_STAT_STATE 96, 6),
    (LANE_STAT_STATE 97, 6), (LANE_STAT_STATE 98, 6), (LANE_STAT_STATE 99, 6)]
def Wit.linkMessages3Lines : List (List Int) := Wit.message Wit.linkMessages3.dev 1 0 (leBytes 2 1)

set_option maxRecDepth 1000000 in
theorem test_premises_PartnerData_LinkMessages_3 :
    ∃ (s : State) (lines : List (List Int)) (t : BitVec 40) (l : List SolderIn) (e : Dev) (y : Nat × BitVec 40 × Instr × (SolderIn → Dev → Dev)) (x : SolderIn), s.dev.held = false ∧ (y ∈ [(11, t, Instr.pairReceive lines t, fun x d => Dev.pairReceive d (.of x.bytes) x.stamp),
      (1, 0, .blkReceive lines, fun x d => d.blkReceive (leAt x.bytes 0 2)),
      (2, 0, .islotReceive lines, fun x d => d.islotReceive x.cyc (leWords x.bytes)),
      (3, 0, .relayReceive lines, fun x d => d.relayReceive (leAt x.bytes 0 1) (dw (leAt x.bytes 8 4)) (relaySlots x.bytes)),
      (4, 0, .refReceive lines, fun x d => d.refReceive x.cyc (pairsOf (leWords x.bytes))),
      (5, t, .cmdsReceive lines t, fun x d => d.cmdsReceive (.of d.mappedCells x.dep x.bytes) x.stamp),
      (6, t, .statReceive lines t, fun x d => d.statReceive (.of x.bytes) x.stamp),
      (7, 0, .ingotSegmentReceive lines, fun x d => d.ingReceive x.cyc x.bytes),
      (8, 0, .castSegmentReceive lines, fun x d => d.castReceive x.cyc.toNat x.bytes),
      (9, 0, .discresReceive lines, fun x d => d.discresMessage x.bytes)]) ∧ s.dev.solderTake y.1 lines y.2.1 = (l, e) ∧
        x ∈ l :=
  ⟨Wit.linkMessages3, Wit.linkMessages3Lines, 0, (Wit.linkMessages3.dev.solderTake 1 Wit.linkMessages3Lines 0).1,
    (Wit.linkMessages3.dev.solderTake 1 Wit.linkMessages3Lines 0).2, (1, (0 : BitVec 40),
    Instr.blkReceive Wit.linkMessages3Lines, fun (z : SolderIn) (w : Dev) => w.blkReceive (leAt z.bytes 0 2)), (⟨1, 1, [1]
    ++ List.replicate 15 0, 0, 77, 0⟩ : SolderIn), by decide +kernel, List.mem_cons_of_mem _ List.mem_cons_self,
    (Prod.eta _).symm, by decide +kernel⟩

def Wit.linkMessages4 : State := Wit.cfg []

set_option maxRecDepth 1000000 in
theorem test_premises_PartnerData_LinkMessages_4 :
    ∃ (s : State) (lines : List (List Int)) (l : List SolderIn) (e : Dev), s.dev.held = false ∧
      s.dev.solderTake 10 lines 0 = (l, e) :=
  ⟨Wit.linkMessages4, [], [], Wit.linkMessages4.dev, by decide +kernel, (Prod.eta _).symm⟩

def Wit.partnerData2 : State := Wit.run [(DPX_CFG_MODE, 1), (DPX_STAT_SDLUP, 1), (LANE_STAT_STATE 96, 6), (LANE_STAT_STATE 97,
    6), (LANE_STAT_STATE 98, 6), (LANE_STAT_STATE 99, 6), (DPX_STAT_ROLE, 1)]
def Wit.partnerData2Lines : List (List Int) := Wit.message Wit.partnerData2.dev 11 0 (PairMsg.bytes ⟨0, .standby, 0,
    List.replicate 16 0, 0, 0, 0, true, 0, 0, true, 0, 0⟩)

set_option maxRecDepth 1000000 in
theorem test_premises_PartnerData_2 :
    ∃ (s : State) (lines : List (List Int)) (t : BitVec 40) (x : SolderIn) (e : Dev) (m : PairMsg), s.dev.held = false ∧
      s.dev.solderTake 11 lines t = ([x], e) ∧ m = PairMsg.of x.bytes :=
  ⟨Wit.partnerData2, Wit.partnerData2Lines, 3, (⟨11, 1, [0, 2, 3] ++ List.replicate 189 0, 0, 77, 3⟩ : SolderIn),
    (Wit.partnerData2.dev.solderTake 11 Wit.partnerData2Lines 3).2, PairMsg.of ((⟨11, 1, [0, 2, 3] ++ List.replicate 189 0, 0,
    77, 3⟩ : SolderIn)).bytes, by decide +kernel, Wit.taken_eq (by decide +kernel), rfl⟩

def Wit.partnerData3 : State := Wit.run [(DPX_CFG_MODE, 1), (DPX_STAT_SDLUP, 1), (LANE_STAT_STATE 96, 6), (LANE_STAT_STATE 97,
    6), (LANE_STAT_STATE 98, 6), (LANE_STAT_STATE 99, 6), (DPX_STAT_ROLE, 1)]
def Wit.partnerData3Lines : List (List Int) := Wit.message Wit.partnerData3.dev 11 0 (PairMsg.bytes ⟨0, .standby, 0,
    List.replicate 16 0, 0, 0, 0, true, 0, 0, true, 0, 0⟩)

set_option maxRecDepth 1000000 in
theorem test_premises_PartnerData_3 :
    ∃ (s : State) (lines : List (List Int)) (t : BitVec 40) (x : SolderIn) (e : Dev) (m : PairMsg), s.dev.held = false ∧
      s.dev.solderTake 11 lines t = ([x], e) ∧ m = PairMsg.of x.bytes ∧ m.unit = s.dev.get DPX_CFG_UNIT ∧
      s.dev.role = .active :=
  ⟨Wit.partnerData3, Wit.partnerData3Lines, 3, (⟨11, 1, [0, 2, 3] ++ List.replicate 189 0, 0, 77, 3⟩ : SolderIn),
    (Wit.partnerData3.dev.solderTake 11 Wit.partnerData3Lines 3).2, PairMsg.of ((⟨11, 1, [0, 2, 3] ++ List.replicate 189 0, 0,
    77, 3⟩ : SolderIn)).bytes, by decide +kernel, Wit.taken_eq (by decide +kernel), rfl, by decide +kernel, by decide +kernel⟩

def Wit.partnerData4 : State := Wit.run [(DPX_CFG_MODE, 1), (DPX_STAT_SDLUP, 1), (LANE_STAT_STATE 96, 6), (LANE_STAT_STATE 97,
    6), (LANE_STAT_STATE 98, 6), (LANE_STAT_STATE 99, 6), (DPX_STAT_ROLE, 3)]
def Wit.partnerData4Lines : List (List Int) := Wit.message Wit.partnerData4.dev 11 0 (PairMsg.bytes ⟨0, .standby, 0,
    List.replicate 16 0, 0, 0, 0, true, 0, 0, true, 0, 0⟩)

set_option maxRecDepth 1000000 in
theorem test_premises_PartnerData_4 :
    ∃ (s : State) (lines : List (List Int)) (t : BitVec 40) (x : SolderIn) (e : Dev) (m : PairMsg), s.dev.held = false ∧
      s.dev.solderTake 11 lines t = ([x], e) ∧ m = PairMsg.of x.bytes ∧ m.unit = s.dev.get DPX_CFG_UNIT ∧
      s.dev.role = .syncing ∧ s.dev.Steady m.t4 :=
  ⟨Wit.partnerData4, Wit.partnerData4Lines, 3, (⟨11, 1, [0, 2, 3] ++ List.replicate 189 0, 0, 77, 3⟩ : SolderIn),
    (Wit.partnerData4.dev.solderTake 11 Wit.partnerData4Lines 3).2, PairMsg.of ((⟨11, 1, [0, 2, 3] ++ List.replicate 189 0, 0,
    77, 3⟩ : SolderIn)).bytes, by decide +kernel, Wit.taken_eq (by decide +kernel), rfl, by decide +kernel, by decide +kernel,
    by decide +kernel⟩

def Wit.partnerData5 : State := Wit.run [(DPX_CFG_MODE, 1), (DPX_STAT_SDLUP, 1), (LANE_STAT_STATE 96, 6), (LANE_STAT_STATE 97,
    6), (LANE_STAT_STATE 98, 6), (LANE_STAT_STATE 99, 6), (DPX_STAT_ROLE, 2)]
def Wit.partnerData5Lines : List (List Int) := Wit.message Wit.partnerData5.dev 11 0 (PairMsg.bytes ⟨0, .standby, 0,
    List.replicate 16 0, 0, 0, 0, true, 0, 0, true, 0, 0⟩)

set_option maxRecDepth 1000000 in
theorem test_premises_PartnerData_5 :
    ∃ (s : State) (lines : List (List Int)) (t : BitVec 40) (x : SolderIn) (e : Dev) (m : PairMsg), s.dev.held = false ∧
      s.dev.solderTake 11 lines t = ([x], e) ∧ m = PairMsg.of x.bytes ∧ m.unit = s.dev.get DPX_CFG_UNIT ∧
      s.dev.role = .standby ∧ s.dev.Steady m.t4 :=
  ⟨Wit.partnerData5, Wit.partnerData5Lines, 3, (⟨11, 1, [0, 2, 3] ++ List.replicate 189 0, 0, 77, 3⟩ : SolderIn),
    (Wit.partnerData5.dev.solderTake 11 Wit.partnerData5Lines 3).2, PairMsg.of ((⟨11, 1, [0, 2, 3] ++ List.replicate 189 0, 0,
    77, 3⟩ : SolderIn)).bytes, by decide +kernel, Wit.taken_eq (by decide +kernel), rfl, by decide +kernel, by decide +kernel,
    by decide +kernel⟩

def Wit.partnerData6 : State := Wit.run [(DPX_CFG_MODE, 1), (DPX_STAT_SDLUP, 1), (LANE_STAT_STATE 96, 6), (LANE_STAT_STATE 97,
    6), (LANE_STAT_STATE 98, 6), (LANE_STAT_STATE 99, 6), (DPX_STAT_ROLE, 1)]
def Wit.partnerData6Lines : List (List Int) := Wit.message Wit.partnerData6.dev 11 0 (PairMsg.bytes ⟨1, .standby, 0,
    List.replicate 16 0, 0, 0, 0xcf11998c6e9f3af1, true, 0, 0, true, 0, 0⟩)

set_option maxRecDepth 1000000 in
theorem test_premises_PartnerData_6 :
    ∃ (s : State) (lines : List (List Int)) (t : BitVec 40) (x : SolderIn) (e : Dev) (m : PairMsg), s.dev.held = false ∧
      s.dev.solderTake 11 lines t = ([x], e) ∧ m = PairMsg.of x.bytes ∧ m.unit ≠ s.dev.get DPX_CFG_UNIT ∧
      m.fwver = s.dev.word SEC_FWVER ∧ m.digests = s.dev.imageDigests ∧ m.ccv = s.dev.ccv ∧
      m.epoch = s.dev.word HIF_EPOCH &&& 0xFFFF ∧ m.config = s.dev.configDigest ∧ s.dev.role = .active ∧
      (m.role = .standby ∨ m.role = .syncing) :=
  ⟨Wit.partnerData6, Wit.partnerData6Lines, 3, (⟨11, 1, [1, 2, 3] ++ List.replicate 81 0 ++ [241, 58, 159, 110, 140, 153, 17,
    207] ++ List.replicate 100 0, 0, 77, 3⟩ : SolderIn), (Wit.partnerData6.dev.solderTake 11 Wit.partnerData6Lines 3).2,
    PairMsg.of ((⟨11, 1, [1, 2, 3] ++ List.replicate 81 0 ++ [241, 58, 159, 110, 140, 153, 17, 207] ++ List.replicate 100 0,
    0, 77, 3⟩ : SolderIn)).bytes, by decide +kernel, Wit.taken_eq (by decide +kernel), rfl, by decide +kernel,
    by decide +kernel, by decide +kernel, by decide +kernel, by decide +kernel, by decide +kernel, by decide +kernel,
    by decide +kernel⟩

def Wit.partnerData7 : State := Wit.run [(DPX_CFG_MODE, 1), (DPX_STAT_SDLUP, 1), (LANE_STAT_STATE 96, 6), (LANE_STAT_STATE 97,
    6), (LANE_STAT_STATE 98, 6), (LANE_STAT_STATE 99, 6)]
def Wit.partnerData7Lines : List (List Int) := Wit.message Wit.partnerData7.dev 6 0 (Stat.bytes ⟨1, 2, 3, 4, 5⟩)

set_option maxRecDepth 1000000 in
theorem test_premises_PartnerData_7 :
    ∃ (s : State) (lines : List (List Int)) (t : BitVec 40) (x : SolderIn) (e : Dev), s.dev.held = false ∧
      s.dev.solderTake 6 lines t = ([x], e) :=
  ⟨Wit.partnerData7, Wit.partnerData7Lines, 3, (⟨6, 1, [1, 0, 0, 0, 2] ++ List.replicate 4 0 ++ [3] ++ List.replicate 4 0
    ++ [5, 0, 4] ++ List.replicate 15 0, 0, 77, 3⟩ : SolderIn), (Wit.partnerData7.dev.solderTake 6 Wit.partnerData7Lines 3).2,
    by decide +kernel, Wit.taken_eq (by decide +kernel)⟩

def Wit.partnerData11 : State := Wit.run [(DPX_CFG_MODE, 1), (DPX_STAT_SDLUP, 1), (LANE_STAT_STATE 96, 6),
    (LANE_STAT_STATE 97, 6), (LANE_STAT_STATE 98, 6), (LANE_STAT_STATE 99, 6), (DPX_STAT_ROLE, 1)]
def Wit.partnerData11Lines : List (List Int) := Wit.message Wit.partnerData11.dev 7 0xFFFFFFFF (List.replicate 16 0)

set_option maxRecDepth 1000000 in
theorem test_premises_PartnerData_11 :
    ∃ (s : State) (lines : List (List Int)) (x : SolderIn) (e : Dev) (g : List Byte), s.dev.held = false ∧
      s.dev.solderTake 7 lines 0 = ([x], e) ∧ g = s.dev.filled x.cyc x.bytes ∧ ¬ s.dev.TakesIngot x.cyc :=
  ⟨Wit.partnerData11, Wit.partnerData11Lines, (⟨7, 1, List.replicate 16 0, 4294967295, 77, 0⟩ : SolderIn),
    (Wit.partnerData11.dev.solderTake 7 Wit.partnerData11Lines 0).2, Wit.partnerData11.dev.filled ((⟨7, 1,
    List.replicate 16 0, 4294967295, 77, 0⟩ : SolderIn)).cyc ((⟨7, 1, List.replicate 16 0, 4294967295, 77,
    0⟩ : SolderIn)).bytes, by decide +kernel, Wit.taken_eq (by decide +kernel), rfl, by decide +kernel⟩

def Wit.partnerData12 : State := Wit.run [(DPX_CFG_MODE, 1), (DPX_STAT_SDLUP, 1), (LANE_STAT_STATE 96, 6),
    (LANE_STAT_STATE 97, 6), (LANE_STAT_STATE 98, 6), (LANE_STAT_STATE 99, 6), (DPX_STAT_ROLE, 2)]
def Wit.partnerData12Lines : List (List Int) := Wit.message Wit.partnerData12.dev 7 0xFFFFFFFF (List.replicate 16 0)

set_option maxRecDepth 1000000 in
theorem test_premises_PartnerData_12 :
    ∃ (s : State) (lines : List (List Int)) (x : SolderIn) (e : Dev) (g : List Byte), s.dev.held = false ∧
      s.dev.solderTake 7 lines 0 = ([x], e) ∧ g = s.dev.filled x.cyc x.bytes ∧ s.dev.TakesIngot x.cyc ∧
      (g.length < s.dev.ingotLen ∨ commitOk x.cyc s.dev.ingotLen g = false) :=
  ⟨Wit.partnerData12, Wit.partnerData12Lines, (⟨7, 1, List.replicate 16 0, 4294967295, 77, 0⟩ : SolderIn),
    (Wit.partnerData12.dev.solderTake 7 Wit.partnerData12Lines 0).2, Wit.partnerData12.dev.filled ((⟨7, 1,
    List.replicate 16 0, 4294967295, 77, 0⟩ : SolderIn)).cyc ((⟨7, 1, List.replicate 16 0, 4294967295, 77,
    0⟩ : SolderIn)).bytes, by decide +kernel, Wit.taken_eq (by decide +kernel), rfl, by decide +kernel, by decide +kernel⟩

def Wit.partnerData14 : State := Wit.run [(DPX_CFG_MODE, 1), (DPX_STAT_SDLUP, 1), (LANE_STAT_STATE 96, 6),
    (LANE_STAT_STATE 97, 6), (LANE_STAT_STATE 98, 6), (LANE_STAT_STATE 99, 6), (DPX_STAT_ROLE, 1)]
def Wit.partnerData14Lines : List (List Int) := Wit.message Wit.partnerData14.dev 8 1 (List.replicate 16 0)

set_option maxRecDepth 1000000 in
theorem test_premises_PartnerData_14 :
    ∃ (s : State) (lines : List (List Int)) (x : SolderIn) (e : Dev), s.dev.held = false ∧ s.dev.solderTake 8 lines 0 = ([x],
      e) ∧ s.dev.role ≠ .syncing :=
  ⟨Wit.partnerData14, Wit.partnerData14Lines, (⟨8, 1, List.replicate 16 0, 1, 77, 0⟩ : SolderIn),
    (Wit.partnerData14.dev.solderTake 8 Wit.partnerData14Lines 0).2, by decide +kernel, Wit.taken_eq (by decide +kernel),
    by decide +kernel⟩

def Wit.partnerData15 : State := Wit.run [(DPX_CFG_MODE, 1), (DPX_STAT_SDLUP, 1), (LANE_STAT_STATE 96, 6),
    (LANE_STAT_STATE 97, 6), (LANE_STAT_STATE 98, 6), (LANE_STAT_STATE 99, 6), (DPX_STAT_ROLE, 3)]
def Wit.partnerData15Lines : List (List Int) := Wit.message Wit.partnerData15.dev 8 1 (List.replicate 16 0)

set_option maxRecDepth 1000000 in
theorem test_premises_PartnerData_15 :
    ∃ (s : State) (lines : List (List Int)) (x : SolderIn) (e : Dev), s.dev.held = false ∧ s.dev.solderTake 8 lines 0 = ([x],
      e) ∧ s.dev.role = .syncing :=
  ⟨Wit.partnerData15, Wit.partnerData15Lines, (⟨8, 1, List.replicate 16 0, 1, 77, 0⟩ : SolderIn),
    (Wit.partnerData15.dev.solderTake 8 Wit.partnerData15Lines 0).2, by decide +kernel, Wit.taken_eq (by decide +kernel),
    by decide +kernel⟩

def Wit.partnerData16 : State := Wit.run [(DPX_CFG_MODE, 1), (DPX_STAT_SDLUP, 1), (LANE_STAT_STATE 96, 6),
    (LANE_STAT_STATE 97, 6), (LANE_STAT_STATE 98, 6), (LANE_STAT_STATE 99, 6), (DPX_STAT_ROLE, 3)]
def Wit.partnerData16Lines : List (List Int) := Wit.message Wit.partnerData16.dev 8 1 (List.replicate 16 0)

set_option maxRecDepth 1000000 in
theorem test_premises_PartnerData_16 :
    ∃ (s : State) (lines : List (List Int)) (x : SolderIn) (e : Dev), s.dev.held = false ∧ s.dev.solderTake 8 lines 0 = ([x],
      e) ∧ s.dev.role = .syncing ∧ 0 < x.cyc.toNat ∧ s.dev.dpx.castIn.contains (x.cyc.toNat - 1) = false :=
  ⟨Wit.partnerData16, Wit.partnerData16Lines, (⟨8, 1, List.replicate 16 0, 1, 77, 0⟩ : SolderIn),
    (Wit.partnerData16.dev.solderTake 8 Wit.partnerData16Lines 0).2, by decide +kernel, Wit.taken_eq (by decide +kernel),
    by decide +kernel, by decide +kernel, by decide +kernel⟩

def Wit.partnerData17 : State := Wit.run [(DPX_CFG_MODE, 1), (DPX_STAT_SDLUP, 1), (LANE_STAT_STATE 96, 6),
    (LANE_STAT_STATE 97, 6), (LANE_STAT_STATE 98, 6), (LANE_STAT_STATE 99, 6), (DPX_STAT_ROLE, 3), (DPX_CASTSTAT_SEGTOT,
    1)] fun d => { d with dpx := { d.dpx with castIn := [0] } }
def Wit.partnerData17Lines : List (List Int) := Wit.message Wit.partnerData17.dev 8 1 (leBytes 8 0 ++ leBytes 8 0)

set_option maxRecDepth 1000000 in
theorem test_premises_PartnerData_17 :
    ∃ (s : State) (lines : List (List Int)) (x : SolderIn) (e : Dev), s.dev.held = false ∧ s.dev.solderTake 8 lines 0 = ([x],
      e) ∧ s.dev.role = .syncing ∧ 0 < x.cyc.toNat ∧ s.dev.dpx.castIn.contains 0 = true :=
  ⟨Wit.partnerData17, Wit.partnerData17Lines, (⟨8, 1, List.replicate 16 0, 1, 77, 0⟩ : SolderIn),
    (Wit.partnerData17.dev.solderTake 8 Wit.partnerData17Lines 0).2, by decide +kernel, Wit.taken_eq (by decide +kernel),
    by decide +kernel, by decide +kernel, by decide +kernel⟩

def Wit.partnerData18 : State := Wit.run [(DPX_CFG_MODE, 1), (DPX_STAT_SDLUP, 1), (LANE_STAT_STATE 96, 6),
    (LANE_STAT_STATE 97, 6), (LANE_STAT_STATE 98, 6), (LANE_STAT_STATE 99, 6), (DPX_STAT_ROLE, 3)]
def Wit.partnerData18Lines : List (List Int) := Wit.message Wit.partnerData18.dev 8 1 (List.replicate 16 0)

set_option maxRecDepth 1000000 in
theorem test_premises_PartnerData_18 :
    ∃ (s : State) (lines : List (List Int)) (x : SolderIn) (e : Dev), s.dev.held = false ∧ s.dev.solderTake 8 lines 0 = ([x],
      e) ∧ s.dev.role = .syncing ∧ 0 < x.cyc.toNat ∧ s.dev.dpx.castIn.contains 0 = false :=
  ⟨Wit.partnerData18, Wit.partnerData18Lines, (⟨8, 1, List.replicate 16 0, 1, 77, 0⟩ : SolderIn),
    (Wit.partnerData18.dev.solderTake 8 Wit.partnerData18Lines 0).2, by decide +kernel, Wit.taken_eq (by decide +kernel),
    by decide +kernel, by decide +kernel, by decide +kernel⟩

def Wit.partnerData19 : State := Wit.run [(DPX_CFG_MODE, 1), (DPX_STAT_SDLUP, 1), (LANE_STAT_STATE 96, 6),
    (LANE_STAT_STATE 97, 6), (LANE_STAT_STATE 98, 6), (LANE_STAT_STATE 99, 6), (DPX_STAT_ROLE, 1)]
def Wit.partnerData19Lines : List (List Int) := Wit.message Wit.partnerData19.dev 9 0 ([0, 1, 2, 0] ++ List.replicate 12 0)

set_option maxRecDepth 1000000 in
theorem test_premises_PartnerData_19 :
    ∃ (s : State) (lines : List (List Int)) (x : SolderIn) (e : Dev), s.dev.held = false ∧ s.dev.solderTake 9 lines 0 = ([x],
      e) ∧ (s.dev.timeRef = true ∨ 48 ≤ leAt x.bytes 0 1) :=
  ⟨Wit.partnerData19, Wit.partnerData19Lines, (⟨9, 1, [0, 1, 2] ++ List.replicate 13 0, 0, 77, 0⟩ : SolderIn),
    (Wit.partnerData19.dev.solderTake 9 Wit.partnerData19Lines 0).2, by decide +kernel, Wit.taken_eq (by decide +kernel),
    by decide +kernel⟩

def Wit.partnerData20 : State := Wit.run [(DPX_CFG_MODE, 1), (DPX_STAT_SDLUP, 1), (LANE_STAT_STATE 96, 6),
    (LANE_STAT_STATE 97, 6), (LANE_STAT_STATE 98, 6), (LANE_STAT_STATE 99, 6), (DPX_STAT_ROLE, 2), (DPX_CFG_UNIT, 1)]
def Wit.partnerData20Lines : List (List Int) := Wit.message Wit.partnerData20.dev 9 0 ([0, 1, 2, 0] ++ List.replicate 12 0)

set_option maxRecDepth 1000000 in
theorem test_premises_PartnerData_20 :
    ∃ (s : State) (lines : List (List Int)) (x : SolderIn) (e : Dev) (p : Fin 48), s.dev.held = false ∧
      s.dev.solderTake 9 lines 0 = ([x], e) ∧ s.dev.timeRef = false ∧ leAt x.bytes 0 1 = p.val ∧ leAt x.bytes 1 1 = 1 :=
  ⟨Wit.partnerData20, Wit.partnerData20Lines, (⟨9, 1, [0, 1, 2] ++ List.replicate 13 0, 0, 77, 0⟩ : SolderIn),
    (Wit.partnerData20.dev.solderTake 9 Wit.partnerData20Lines 0).2, 0, by decide +kernel, Wit.taken_eq (by decide +kernel),
    by decide +kernel, by decide +kernel, by decide +kernel⟩

def Wit.partnerData21 : State := Wit.run [(DPX_CFG_MODE, 1), (DPX_STAT_SDLUP, 1), (LANE_STAT_STATE 96, 6),
    (LANE_STAT_STATE 97, 6), (LANE_STAT_STATE 98, 6), (LANE_STAT_STATE 99, 6), (DPX_STAT_ROLE, 2), (DPX_CFG_UNIT, 1)]
def Wit.partnerData21Lines : List (List Int) := Wit.message Wit.partnerData21.dev 9 0 ([0, 2, 2, 0] ++ List.replicate 12 0)

set_option maxRecDepth 1000000 in
theorem test_premises_PartnerData_21 :
    ∃ (s : State) (lines : List (List Int)) (x : SolderIn) (e : Dev) (p : Fin 48), s.dev.held = false ∧
      s.dev.solderTake 9 lines 0 = ([x], e) ∧ s.dev.timeRef = false ∧ leAt x.bytes 0 1 = p.val ∧ leAt x.bytes 1 1 ≠ 1 :=
  ⟨Wit.partnerData21, Wit.partnerData21Lines, (⟨9, 1, [0, 2, 2] ++ List.replicate 13 0, 0, 77, 0⟩ : SolderIn),
    (Wit.partnerData21.dev.solderTake 9 Wit.partnerData21Lines 0).2, 0, by decide +kernel, Wit.taken_eq (by decide +kernel),
    by decide +kernel, by decide +kernel, by decide +kernel⟩

def Wit.partnerData22 : State := Wit.run [(DPX_CFG_MODE, 1), (DPX_STAT_SDLUP, 1), (LANE_STAT_STATE 96, 6),
    (LANE_STAT_STATE 97, 6), (LANE_STAT_STATE 98, 6), (LANE_STAT_STATE 99, 6)]
def Wit.partnerData22Lines : List (List Int) := Wit.message Wit.partnerData22.dev 10 0 (EpochMsg.bytes .abort)

set_option maxRecDepth 1000000 in
theorem test_premises_PartnerData_22 :
    ∃ (s : State) (lines : List (List Int)) (x : SolderIn) (e : Dev), s.dev.held = false ∧ s.dev.solderTake 10 lines 0 = ([x],
      e) ∧ (s.dev.follower = false ∨ s.dev.locked = false ∨ EpochMsg.of x.bytes = none) :=
  ⟨Wit.partnerData22, Wit.partnerData22Lines, (⟨10, 1, [3] ++ List.replicate 15 0, 0, 77, 0⟩ : SolderIn),
    (Wit.partnerData22.dev.solderTake 10 Wit.partnerData22Lines 0).2, by decide +kernel, Wit.taken_eq (by decide +kernel),
    by decide +kernel⟩

def Wit.partnerData23 : State := Wit.run [(DPX_CFG_MODE, 1), (DPX_STAT_SDLUP, 1), (LANE_STAT_STATE 96, 6),
    (LANE_STAT_STATE 97, 6), (LANE_STAT_STATE 98, 6), (LANE_STAT_STATE 99, 6), (DPX_STAT_ROLE, 2), (HIF_EPRES_LOCKED, 1),
    (HIF_EPRES_STATE, 3)] fun d => { d with ep := { d.ep with origin := .partner, groups := [[]] } }
def Wit.partnerData23Lines : List (List Int) := Wit.message Wit.partnerData23.dev 10 0 (EpochMsg.bytes (.group 0 2 []))

set_option maxRecDepth 1000000 in
theorem test_premises_PartnerData_23 :
    ∃ (s : State) (lines : List (List Int)) (x : SolderIn) (e : Dev) (recs : Words) (n : Nat), s.dev.held = false ∧
      s.dev.solderTake 10 lines 0 = ([x], e) ∧ s.dev.follower = true ∧ s.dev.locked = true ∧
      EpochMsg.of x.bytes = some (.group 0 n recs) ∧ 1 < n ∧ s.dev.epState ≠ .applying :=
  ⟨Wit.partnerData23, Wit.partnerData23Lines, (⟨10, 1, [1, 0, 0, 0, 2] ++ List.replicate 11 0, 0, 77, 0⟩ : SolderIn),
    (Wit.partnerData23.dev.solderTake 10 Wit.partnerData23Lines 0).2, [], 2, by decide +kernel,
    Wit.taken_eq (by decide +kernel), by decide +kernel, by decide +kernel, by decide +kernel, by decide +kernel,
    by decide +kernel⟩

def Wit.partnerData24 : State := Wit.run [(DPX_CFG_MODE, 1), (DPX_STAT_SDLUP, 1), (LANE_STAT_STATE 96, 6),
    (LANE_STAT_STATE 97, 6), (LANE_STAT_STATE 98, 6), (LANE_STAT_STATE 99, 6), (DPX_STAT_ROLE, 2), (HIF_EPRES_LOCKED, 1),
    (HIF_EPRES_STATE, 1)] fun d => { d with ep := { d.ep with origin := .partner, groups := [[]] } }
def Wit.partnerData24Lines : List (List Int) := Wit.message Wit.partnerData24.dev 10 0 (EpochMsg.bytes (.group 1 3 []))

set_option maxRecDepth 1000000 in
theorem test_premises_PartnerData_24 :
    ∃ (s : State) (lines : List (List Int)) (x : SolderIn) (e : Dev) (recs : Words) (i : Nat) (n : Nat), s.dev.held = false ∧
      s.dev.solderTake 10 lines 0 = ([x], e) ∧ s.dev.follower = true ∧ s.dev.locked = true ∧
      EpochMsg.of x.bytes = some (.group i n recs) ∧ 0 < i ∧ i + 1 < n ∧ s.dev.epState = .staging ∧
      s.dev.ep.origin = .partner ∧ s.dev.ep.groups.length = i :=
  ⟨Wit.partnerData24, Wit.partnerData24Lines, (⟨10, 1, [1, 0, 1, 0, 3] ++ List.replicate 11 0, 0, 77, 0⟩ : SolderIn),
    (Wit.partnerData24.dev.solderTake 10 Wit.partnerData24Lines 0).2, [], 1, 3, by decide +kernel,
    Wit.taken_eq (by decide +kernel), by decide +kernel, by decide +kernel, by decide +kernel, by decide +kernel,
    by decide +kernel, by decide +kernel, by decide +kernel, by decide +kernel⟩

def Wit.partnerData25 : State := Wit.run [(DPX_CFG_MODE, 1), (DPX_STAT_SDLUP, 1), (LANE_STAT_STATE 96, 6),
    (LANE_STAT_STATE 97, 6), (LANE_STAT_STATE 98, 6), (LANE_STAT_STATE 99, 6), (DPX_STAT_ROLE, 2), (HIF_EPRES_LOCKED, 1),
    (HIF_EPRES_STATE, 3), (HIF_EPRES_STATE, 3)] fun d => { d with ep := { d.ep with origin := .partner, groups := [[]] } }
def Wit.partnerData25Lines : List (List Int) := Wit.message Wit.partnerData25.dev 10 0 (EpochMsg.bytes (.commit none none))

set_option maxRecDepth 1000000 in
theorem test_premises_PartnerData_25 :
    ∃ (s : State) (lines : List (List Int)) (x : SolderIn) (e : Dev) (j : Option Word) (a0 : Option (BitVec 48)),
      s.dev.held = false ∧ s.dev.solderTake 10 lines 0 = ([x], e) ∧ s.dev.follower = true ∧ s.dev.locked = true ∧
      EpochMsg.of x.bytes = some (.commit j a0) ∧ s.dev.epState = .valid ∧ s.dev.ep.origin = .partner :=
  ⟨Wit.partnerData25, Wit.partnerData25Lines, (⟨10, 1, [2] ++ List.replicate 15 0, 0, 77, 0⟩ : SolderIn),
    (Wit.partnerData25.dev.solderTake 10 Wit.partnerData25Lines 0).2, none, none, by decide +kernel,
    Wit.taken_eq (by decide +kernel), by decide +kernel, by decide +kernel, by decide +kernel, by decide +kernel,
    by decide +kernel⟩

def Wit.partnerData26 : State := Wit.run [(DPX_CFG_MODE, 1), (DPX_STAT_SDLUP, 1), (LANE_STAT_STATE 96, 6),
    (LANE_STAT_STATE 97, 6), (LANE_STAT_STATE 98, 6), (LANE_STAT_STATE 99, 6), (DPX_STAT_ROLE, 2), (HIF_EPRES_LOCKED, 1),
    (HIF_EPRES_STATE, 3)] fun d => { d with ep := { d.ep with origin := .partner, groups := [[]] } }
def Wit.partnerData26Lines : List (List Int) := Wit.message Wit.partnerData26.dev 10 0 (EpochMsg.bytes .abort)

set_option maxRecDepth 1000000 in
theorem test_premises_PartnerData_26 :
    ∃ (s : State) (lines : List (List Int)) (x : SolderIn) (e : Dev), s.dev.held = false ∧ s.dev.solderTake 10 lines 0 = ([x],
      e) ∧ s.dev.follower = true ∧ s.dev.locked = true ∧ EpochMsg.of x.bytes = some .abort ∧ s.dev.epState ≠ .idle ∧
      s.dev.epState ≠ .applying :=
  ⟨Wit.partnerData26, Wit.partnerData26Lines, (⟨10, 1, [3] ++ List.replicate 15 0, 0, 77, 0⟩ : SolderIn),
    (Wit.partnerData26.dev.solderTake 10 Wit.partnerData26Lines 0).2, by decide +kernel, Wit.taken_eq (by decide +kernel),
    by decide +kernel, by decide +kernel, by decide +kernel, by decide +kernel, by decide +kernel⟩

def Wit.partnerData27 : State := Wit.run [(DPX_CFG_MODE, 1), (DPX_STAT_SDLUP, 1), (LANE_STAT_STATE 96, 6),
    (LANE_STAT_STATE 97, 6), (LANE_STAT_STATE 98, 6), (LANE_STAT_STATE 99, 6), (DPX_STAT_ROLE, 2), (HIF_EPRES_LOCKED, 1),
    (HIF_EPRES_STATE, 0)] fun d => { d with ep := { d.ep with origin := .partner, groups := [[]] } }
def Wit.partnerData27Lines : List (List Int) := Wit.message Wit.partnerData27.dev 10 0 (EpochMsg.bytes (.confirm Wit.partnerData27.dev.ccv))

set_option maxRecDepth 1000000 in
theorem test_premises_PartnerData_27 :
    ∃ (s : State) (lines : List (List Int)) (x : SolderIn) (e : Dev) (v : BitVec 64), s.dev.held = false ∧
      s.dev.solderTake 10 lines 0 = ([x], e) ∧ s.dev.follower = true ∧ s.dev.locked = true ∧
      EpochMsg.of x.bytes = some (.confirm v) ∧ s.dev.confirmRefusal v = none :=
  ⟨Wit.partnerData27, Wit.partnerData27Lines, (⟨10, 1, [4] ++ List.replicate 15 0, 0, 77, 0⟩ : SolderIn),
    (Wit.partnerData27.dev.solderTake 10 Wit.partnerData27Lines 0).2, Wit.partnerData27.dev.ccv, by decide +kernel,
    Wit.taken_eq (by decide +kernel), by decide +kernel, by decide +kernel, by decide +kernel, by decide +kernel⟩


set_option maxRecDepth 1000000 in
theorem test_premises_PartnerData :
    (∃ (s : State), s.dev.held = false ∧ s.dev.dpx.queue = []) ∧
    (∃ (s : State) (q : SolderQ) (rest : List SolderQ), s.dev.held = false ∧ s.dev.dpx.queue = q :: rest ∧
      s.dev.paired = false) ∧
    (∃ (s : State) (q : SolderQ) (rest : List SolderQ), s.dev.held = false ∧ s.dev.dpx.queue = q :: rest ∧
      s.dev.paired = true) ∧
    (∃ (s : State) (lines : List (List Int)) (e : Dev) (us : List (List Byte)), s.dev.held = false ∧
      s.dev.solderUnits lines = (us, e) ∧ s.dev.paired = false) ∧
    (∃ (s : State) (lines : List (List Int)) (e : Dev) (us : List (List Byte)), s.dev.held = false ∧
      s.dev.solderUnits lines = (us, e) ∧ s.dev.paired = true) ∧
    (∃ (s : State), s.dev.held = false ∧ s.dev.paired = true) ∧
    (∃ (s : State), s.dev.held = false ∧ s.dev.paired = false) ∧
    (∃ (s : State) (b : List Byte) (rest : List (List Byte)), s.dev.held = false ∧ s.dev.role = .active ∧
      s.dev.dpx.sending = b :: rest ∧ s.dev.perturbed .ing = false) ∧
    (∃ (s : State) (b : List Byte) (rest : List (List Byte)), s.dev.held = false ∧ s.dev.role = .active ∧
      s.dev.dpx.sending = b :: rest ∧ s.dev.perturbed .ing = true) ∧
    (∃ (s : State), s.dev.held = false ∧ (s.dev.role ≠ .active ∨ s.dev.dpx.sending = [])) :=
  ⟨⟨Wit.cfg [] fun d => { d with dpx := { d.dpx with queue := [] } }, by decide +kernel⟩,
   ⟨Wit.run [(DPX_CFG_MODE, 1), (DPX_STAT_SDLUP, 0), (DPX_STAT_ROLE,
     1)] fun d => { d with dpx := { d.dpx with queue := [Wit.sq] } }, Wit.sq, [], by decide +kernel⟩,
   ⟨Wit.run [(DPX_CFG_MODE, 1), (DPX_STAT_SDLUP, 1), (DPX_STAT_ROLE,
     1)] fun d => { d with dpx := { d.dpx with queue := [Wit.sq] } }, Wit.sq, [], by decide +kernel⟩,
   ⟨Wit.cfg [(DPX_STAT_SDLUP, 0)], [], (Wit.cfg [(DPX_STAT_SDLUP, 0)]).dev, [], by decide +kernel, (Prod.eta _).symm,
     by decide +kernel⟩,
   ⟨Wit.cfg [(DPX_CFG_MODE, 1), (DPX_STAT_SDLUP, 1)], [], (Wit.cfg [(DPX_CFG_MODE, 1), (DPX_STAT_SDLUP, 1)]).dev, [],
     by decide +kernel, (Prod.eta _).symm, by decide +kernel⟩,
   ⟨Wit.cfg [(DPX_CFG_MODE, 1), (DPX_STAT_SDLUP, 1)], by decide +kernel⟩,
   ⟨Wit.cfg [(DPX_STAT_SDLUP, 0)], by decide +kernel⟩,
   ⟨Wit.run [(DPX_CFG_MODE, 1), (DPX_STAT_SDLUP, 1), (LANE_STAT_STATE 96, 6), (LANE_STAT_STATE 97, 6), (LANE_STAT_STATE 98,
     6), (LANE_STAT_STATE 99, 6), (DPX_STAT_ROLE, 1)] fun d => { d with dpx := { d.dpx with sending := [[1], [2]] } }, [1],
     [[2]], by decide +kernel⟩,
   ⟨Wit.run [(DPX_CFG_MODE, 1), (DPX_STAT_SDLUP, 1), (LANE_STAT_STATE 96, 6), (LANE_STAT_STATE 97, 6), (LANE_STAT_STATE 98,
     6), (LANE_STAT_STATE 99, 6), (DPX_STAT_ROLE,
     1)] fun d => { d with dpx := { d.dpx with sending := [[1], [2]] }, diag := { d.diag with active := [(.ing, 0)] } }, [1],
     [[2]], by decide +kernel⟩,
   ⟨Wit.cfg [(DPX_STAT_ROLE, 2)], by decide +kernel⟩⟩

theorem test_premises_WorkItems :
    (∃ (s : State) (o : Origin) (f : Fin 256) (st : Nat), s.Lets o SVC_ENQCMD ∧
      leAt (wordBytes (s.dev.enqCopy o).words) 0 1 = f.val ∧ s.dev.enqRefusal o f = some st) ∧
    (∃ (s : State) (o : Origin) (v : Word) (f : Fin 256), s.Lets o SVC_ENQCMD ∧
      leAt (wordBytes (s.dev.enqCopy o).words) 0 1 = f.val ∧ s.dev.enqRefusal o f = none ∧ v = 0 ∧ s.dev.readyRoom f = true) ∧
    (∃ (s : State) (o : Origin) (v : Word) (f : Fin 256), s.Lets o SVC_ENQCMD ∧
      leAt (wordBytes (s.dev.enqCopy o).words) 0 1 = f.val ∧ s.dev.enqRefusal o f = none ∧ v = 0 ∧ s.dev.readyRoom f = false) ∧
    (∃ (s : State) (o : Origin) (v : Word) (f : Fin 256), s.Lets o SVC_ENQCMD ∧
      leAt (wordBytes (s.dev.enqCopy o).words) 0 1 = f.val ∧ s.dev.enqRefusal o f = none ∧ v ≠ 0 ∧ s.dev.svc.delayOn < 4096) ∧
    (∃ (s : State) (o : Origin) (v : Word), s.Lets o SVC_CANCEL ∧ (∃ e ∈ s.dev.svc.delays, e.handle = SVC_CANCEL_HANDLE.of v)) ∧
    (∃ (s : State) (o : Origin) (v : Word), s.Lets o SVC_CANCEL ∧ (∀ e ∈ s.dev.svc.delays, e.handle ≠ SVC_CANCEL_HANDLE.of v)) ∧
    (∃ (s : State) (n : Fin 4) (x : WorkItem), s.Lets (.svc n) SVC_DONE ∧ (s.dev.pair n).item = some x) ∧
    (∃ (s : State) (n : Fin 4), s.Lets (.svc n) SVC_DONE ∧ (s.dev.pair n).item = none) ∧
    (∃ (s : State) (n : Fin 4), s.dev.held = false ∧ (s.dev.pair n).cut = true) ∧
    (∃ (s : State) (n : Fin 4), s.dev.held = false ∧ (s.dev.pair n).cut = false) ∧
    (∃ (s : State) (cyc : Word) (k : Nat) (x : WorkItem) (i : Fin 16), s.dev.held = false ∧
      (s.dev.svc.due.find? (fun x => x.1 == i.val) = some (k, cyc)) ∧ s.dev.rst.deep = false ∧ s.dev.get (SVC_BIND_EN i) = 1 ∧
      1 ≤ s.dev.get (SVC_BIND_SRC i) ∧ s.dev.get (SVC_BIND_SRC i) ≤ 5 ∧ (∀ y ∈ s.dev.svc.ready, y.bind ≠ some i.val) ∧
      s.dev.enqRefusal .device (s.dev.get (SVC_BIND_FLOW i)) = none ∧ s.dev.readyRoom (s.dev.get (SVC_BIND_FLOW i)) = true) ∧
    (∃ (s : State) (cyc : Word) (k : Nat) (x : WorkItem) (i : Fin 16), s.dev.held = false ∧
      (s.dev.svc.due.find? (fun x => x.1 == i.val) = some (k, cyc)) ∧ s.dev.rst.deep = false ∧ s.dev.get (SVC_BIND_EN i) = 1 ∧
      1 ≤ s.dev.get (SVC_BIND_SRC i) ∧ s.dev.get (SVC_BIND_SRC i) ≤ 5 ∧ (∃ y ∈ s.dev.svc.ready, y.bind = some i.val)) ∧
    (∃ (s : State) (cyc : Word) (k : Nat) (x : WorkItem) (i : Fin 16), s.dev.held = false ∧
      (s.dev.svc.due.find? (fun x => x.1 == i.val) = some (k, cyc)) ∧ s.dev.get (SVC_BIND_EN i) = 0) ∧
    (∃ (s : State) (cyc : Word) (k : Nat) (x : WorkItem) (i : Fin 16), s.dev.held = false ∧
      (s.dev.svc.due.find? (fun x => x.1 == i.val) = some (k, cyc)) ∧ s.dev.rst.deep = true ∧ s.dev.get (SVC_BIND_EN i) = 1 ∧
      s.dev.flowWakes (s.dev.get (SVC_BIND_FLOW i)) = true) ∧
    (∃ (s : State) (x : WorkItem) (i : Fin 16), s.dev.held = false ∧ (s.dev.svc.due.find? (fun x => x.1 == i.val) = none)) :=
  ⟨⟨Wit.cfg [], .svc 0, 0, 1, by decide +kernel⟩,
   ⟨Wit.cfg [(SVC_FCFG_EN 0, 1)], .svc 0, 0, 0, by decide +kernel, by decide +kernel, by decide +kernel, rfl,
     by decide +kernel⟩,
   ⟨Wit.cfg [(SVC_FCFG_EN 0, 1)] fun d => Wit.full d, .svc 0, 0, 0, by decide +kernel, by decide +kernel, by decide +kernel,
     rfl, by decide +kernel⟩,
   ⟨Wit.cfg [(SVC_FCFG_EN 0, 1)], .svc 0, 1, 0, by decide +kernel⟩,
   ⟨Wit.cfg [] fun d => { d with svc := { d.svc with delays := [⟨Wit.witem, 50, 0⟩] } }, .svc 0, 0, by decide +kernel⟩,
   ⟨Wit.cfg [], .svc 0, 0, by decide +kernel⟩,
   ⟨Wit.cfg [] fun d => { d with svc := { d.svc with pairs := [⟨some Wit.witem, 0, none, false, true, []⟩] } }, 0, Wit.witem,
     by decide +kernel⟩,
   ⟨Wit.cfg [], 0, by decide +kernel⟩,
   ⟨Wit.cfg [] fun d => { d with svc := { d.svc with pairs := [⟨some Wit.witem, 0, none, false, true, []⟩] } }, 0,
     by decide +kernel⟩,
   ⟨Wit.cfg [], 0, by decide +kernel⟩,
   ⟨Wit.cfg [(SVC_FCFG_EN 0, 1), (SVC_BIND_EN 0, 1), (SVC_BIND_SRC 0, 5), (SVC_PSTAT_IMAGE 0, 1), (SVC_FCFG_PAIRS 0,
     3)] fun d => { d with svc := { d.svc with due := [(0, 5)] } }, 5, 0, Wit.witem, 0, by decide +kernel⟩,
   ⟨Wit.cfg [(SVC_FCFG_EN 0, 1), (SVC_BIND_EN 0, 1), (SVC_BIND_SRC 0, 5), (SVC_PSTAT_IMAGE 0, 1), (SVC_FCFG_PAIRS 0,
     3)] fun d => { d with svc := { d.svc with due := [(0, 5)], ready := [{ Wit.witem with bind := some 0 }] } }, 5, 0,
     Wit.witem, 0, by decide +kernel⟩,
   ⟨Wit.cfg [] fun d => { d with svc := { d.svc with due := [(0, 5)] } }, 5, 0, Wit.witem, 0, by decide +kernel⟩,
   ⟨Wit.cfg [(SVC_BIND_EN 0, 1)] fun d => let d := ({ d with svc := { d.svc with due := [(0, 5)] } } : Dev);
     let d := ({ d with rst := { d.rst with deep := true } } : Dev); d, 5, 0, Wit.witem, 0, by decide +kernel⟩,
   ⟨Wit.cfg [], Wit.witem, 0, by decide +kernel⟩⟩

theorem test_premises_SchedulerChoice :
    (∃ (s : State) (e : Dev) (n : Fin 4) (x : WorkItem), s.dev.held = false ∧ e.choose n 0 8 = some x) ∧
    (∃ (s : State) (e : Dev) (n : Fin 4) (q : Nat) (x : WorkItem) (q : Nat), s.dev.held = false ∧ e.choose n 0 8 = some x ∧
      q ∈ List.range (e.get (SVC_FCFG_PRIO x.flow))) ∧
    (∃ (s : State), s.dev.held = false ∧ max (s.dev.get SVC_CFG_TICK) 1 = s.dev.svc.tick) ∧
    (∃ (s : State), s.dev.held = false ∧ max (s.dev.get SVC_CFG_TICK) 1 ≠ s.dev.svc.tick) ∧
    (∃ (s : State) (e : Dev) (t : Nat) (ts : List Nat), s.dev.held = false ∧
      ((allPairs.filterMap s.dev.heldBack).map (fun y => y.since + 10 * s.dev.get SVC_AFF_AFFSTEAL) = t :: ts) ∧
      e = s.dev.elapse (ts.foldl min t - s.dev.time.up)) ∧
    (∃ (s : State), s.dev.held = false ∧ allPairs.filterMap s.dev.heldBack = []) ∧
    (∃ (s : State), s.dev.held = false) :=
  ⟨⟨Wit.cfg [(SVC_FCFG_EN 0, 1), (SVC_PSTAT_STATE 0, 3), (SVC_PSTAT_IMAGE 0, 1), (SVC_FCFG_PAIRS 0,
    3)] fun d => { d with svc := { d.svc with ready := [Wit.witem] } }, (Wit.cfg [(SVC_FCFG_EN 0, 1), (SVC_PSTAT_STATE 0, 3),
    (SVC_PSTAT_IMAGE 0, 1), (SVC_FCFG_PAIRS 0, 3)] fun d => { d with svc := { d.svc with ready := [Wit.witem] } }).dev, 0,
    Wit.witem, by decide +kernel⟩,
   ⟨Wit.cfg [(SVC_FCFG_EN 0, 1), (SVC_PSTAT_STATE 0, 3), (SVC_PSTAT_IMAGE 0, 1), (SVC_FCFG_PAIRS 0,
     3)] fun d => { d with svc := { d.svc with ready := [Wit.witem] } }, (Wit.cfg [(SVC_FCFG_EN 0, 1), (SVC_PSTAT_STATE 0, 3),
     (SVC_PSTAT_IMAGE 0, 1), (SVC_FCFG_PAIRS 0, 3)] fun d => { d with svc := { d.svc with ready := [Wit.witem] } }).dev, 0,
     (0 : Nat), Wit.witem, (0 : Nat), by decide +kernel⟩,
   ⟨Wit.cfg [], by decide +kernel⟩,
   ⟨Wit.cfg [] fun d => { d with svc := { d.svc with tick := 5 } }, by decide +kernel⟩,
   ⟨Wit.cfg [(SVC_FCFG_EN 0, 1), (SVC_PSTAT_STATE 0, 3), (SVC_PSTAT_IMAGE 0, 1), (SVC_FCFG_PAIRS 0, 3), (SVC_AFF_AFFSTEAL, 1),
     (SVC_FSTAT_LAST 0, 1), (SVC_PSTAT_IMAGE 1,
     1)] fun d => { d with svc := { d.svc with ready := [Wit.witem], pairs := [⟨none, 0, none, false, false, []⟩, ⟨some Wit.witem, 0, none, false, false, []⟩] } }, (Wit.cfg [(SVC_FCFG_EN 0, 1), (SVC_PSTAT_STATE 0, 3), (SVC_PSTAT_IMAGE 0, 1), (SVC_FCFG_PAIRS 0, 3), (SVC_AFF_AFFSTEAL, 1), (SVC_FSTAT_LAST 0, 1), (SVC_PSTAT_IMAGE 1, 1)] fun d => { d with svc := { d.svc with ready := [Wit.witem], pairs := [⟨none, 0, none, false, false, []⟩, ⟨some Wit.witem, 0, none, false, false, []⟩] } }).dev.elapse 10, 10, [], by decide +kernel, by decide +kernel, congrArg _ (by decide +kernel)⟩,
   ⟨Wit.cfg [], by decide +kernel⟩,
   ⟨Wit.cfg [], by decide +kernel⟩⟩

theorem test_premises_Semaphores :
    (∃ (s : State) (o : Origin) (i : Fin 64), s.Lets o (SVC_SEMCTL i) ∧ s.dev.get (SVC_SEMST_HELD i) = 0) ∧
    (∃ (s : State) (o : Origin) (i : Fin 64), s.Lets o (SVC_SEMCTL i) ∧ s.dev.get (SVC_SEMST_HELD i) = 1) ∧
    (∃ (s : State) (o : Origin) (i : Fin 64), s.Lets o (SVC_SEMCTL i)) ∧
    (∃ (s : State) (o : Origin) (i : Fin 64), s.Lets o (SVC_SEMCTL i) ∧ s.dev.semOwned o i = true) ∧
    (∃ (s : State) (o : Origin) (i : Fin 64), s.Lets o (SVC_SEMCTL i) ∧ s.dev.semOwned o i = false) ∧
    (∃ (s : State) (o : Origin) (i : Fin 64), s.Lets o (SVC_SEMCTL i) ∧ s.Lets o SVC_DONE) :=
  ⟨⟨Wit.cfg [(SVC_SEMST_HELD 0, 0)], .svc 0, 0, by decide +kernel⟩,
   ⟨Wit.cfg [(SVC_SEMST_HELD 0, 1)], .svc 0, 0, by decide +kernel⟩,
   ⟨Wit.cfg [], .svc 0, 0, by decide +kernel⟩,
   ⟨Wit.cfg [(SVC_SEMST_HELD 63, 1), (SVC_SEMST_ORIGIN 63, 3)], .svc 0, 63, by decide +kernel⟩,
   ⟨Wit.cfg [], .svc 0, 0, by decide +kernel⟩,
   ⟨Wit.cfg [], .svc 0, 0, by decide +kernel⟩⟩

theorem test_premises_Pairs :
    (∃ (s : State) (o : Origin) (n : Fin 4), s.Lets o (SVC_PCTL n) ∧ s.dev.get (SVC_PSTAT_STATE n) ≠ 4) ∧
    (∃ (s : State) (o : Origin) (n : Fin 4), s.Lets o (SVC_PCTL n) ∧ s.dev.get (SVC_PSTAT_STATE n) = 4) ∧
    (∃ (s : State) (n : Fin 4), s.dev.Answers (SVC_PCTL n) ∧ s.dev.get AUD_STAT_FULL = 0) ∧
    (∃ (s : State) (o : Origin) (n : Fin 4), s.Lets o (SVC_PCTL n) ∧ o ≠ .svc n) ∧
    (∃ (s : State) (o : Origin) (n : Fin 4), s.Lets o (SVC_PCTL n) ∧ s.dev.get (SVC_PCTL_HALT n) = 0 ∧
      (s.dev.pair n).item = none ∧ s.dev.pairRuns n = true) ∧
    (∃ (s : State) (o : Origin) (n : Fin 4) (x : WorkItem), s.Lets o (SVC_PCTL n) ∧
      (s.dev.get (SVC_PCTL_HALT n) = 1 ∨ (s.dev.pair n).item = some x ∨ s.dev.pairRuns n = false)) ∧
    (∃ (s : State) (o : Origin) (n : Fin 4), s.Lets o (SVC_PCTL n) ∧ s.dev.get (SVC_PCTL_HALT n) = 0) ∧
    (∃ (s : State) (o : Origin) (n : Fin 4), s.Lets o (SVC_PCTL n) ∧ s.dev.get (SVC_PCTL_HALT n) = 1) ∧
    (∃ (s : State) (n : Fin 4), s.dev.held = false ∧ s.dev.pairRuns n = true ∧ n.val < 2 ∧ s.dev.dstate ≠ .boot ∧
      s.dev.dstate ≠ .halt) ∧
    (∃ (s : State) (n : Fin 4), s.dev.held = false ∧ s.dev.pairRuns n = true ∧ n.val < 2 ∧
      (s.dev.dstate = .boot ∨ s.dev.dstate = .halt)) ∧
    (∃ (s : State) (n : Fin 4), s.dev.held = false ∧ s.dev.pairRuns n = true ∧ 2 ≤ n.val) ∧
    (∃ (s : State) (n : Fin 4), s.dev.held = false ∧ s.dev.pairRuns n = false) ∧
    (∃ (s : State) (n : Fin 4) (x : WorkItem), s.dev.held = false ∧ s.dev.get (SVC_MAXRUN_MAXRUN n) ≠ 0 ∧
      (s.dev.pair n).item = some x ∧ s.dev.diag.halted.testBit n = false ∧ s.dev.get (SVC_PSTAT_STATE n) ≠ 4) ∧
    (∃ (s : State) (n : Fin 4), s.dev.held = false ∧
      (s.dev.get (SVC_MAXRUN_MAXRUN n) = 0 ∨ (s.dev.pair n).item = none ∨ s.dev.diag.halted.testBit n = true ∨ s.dev.get (SVC_PSTAT_STATE n) = 4)) ∧
    (∃ (s : State) (n : Fin 4) (t : Nat), s.dev.held = false ∧ (s.dev.pair n).restartAt = some t) ∧
    (∃ (s : State) (n : Fin 4), s.dev.held = false ∧ (s.dev.pair n).restartAt = none) ∧
    (∃ (s : State) (n : Fin 4), s.dev.held = false ∧ s.dev.get (SVC_PSTAT_STATE n) = 3 ∧ (s.dev.pair n).item = none ∧
      (s.dev.choose n 0 8 = none ∨ s.dev.get (SVC_PCTL_HALT n) = 1)) ∧
    (∃ (s : State) (n : Fin 4) (x : WorkItem), s.dev.held = false ∧
      (s.dev.get (SVC_PSTAT_STATE n) ≠ 3 ∨ (s.dev.pair n).item = some x)) ∧
    (∃ (s : State) (n : Fin 4) (t : Nat), s.dev.held = false ∧ s.dev.get (SVC_PSTAT_STATE n) = 2 ∧ s.dev.tNext n = some t) ∧
    (∃ (s : State) (n : Fin 4), s.dev.held = false ∧ (s.dev.get (SVC_PSTAT_STATE n) ≠ 2 ∨ s.dev.tNext n = none)) :=
  ⟨⟨Wit.cfg [(SVC_PSTAT_STATE 0, 0)], .svc 0, 0, by decide +kernel⟩,
   ⟨Wit.cfg [(SVC_PSTAT_STATE 0, 4)], .svc 0, 0, by decide +kernel⟩,
   ⟨Wit.cfg [(AUD_STAT_FULL, 0)], 0, by decide +kernel⟩,
   ⟨Wit.cfg [], .pcie, 0, by decide +kernel⟩,
   ⟨Wit.cfg [(SVC_PSTAT_IMAGE 0, 1), (SVC_PSTAT_STATE 0, 3), (SVC_PCTL_HALT 0, 0)], .svc 0, 0, by decide +kernel⟩,
   ⟨Wit.cfg [(SVC_PSTAT_IMAGE 0, 1), (SVC_PCTL_HALT 0, 1)], .svc 0, 0, Wit.witem, by decide +kernel⟩,
   ⟨Wit.cfg [(SVC_PCTL_HALT 0, 0)], .svc 0, 0, by decide +kernel⟩,
   ⟨Wit.cfg [(SVC_PCTL_HALT 0, 1)], .svc 0, 0, by decide +kernel⟩,
   ⟨Wit.cfg [(SVC_PSTAT_STATE 1, 3)], 1, by decide +kernel⟩,
   ⟨Wit.cfg [(SVC_PSTAT_STATE 1, 3), (RST_STAT_DSTATE, 1)], 1, by decide +kernel⟩,
   ⟨Wit.cfg [(SVC_PSTAT_STATE 2, 3)], 2, by decide +kernel⟩,
   ⟨Wit.cfg [], 0, by decide +kernel⟩,
   ⟨Wit.cfg [(SVC_MAXRUN_MAXRUN 0,
     1)] fun d => { d with svc := { d.svc with pairs := [⟨some Wit.witem, 0, none, false, true, []⟩] } }, 0, Wit.witem,
     by decide +kernel⟩,
   ⟨Wit.cfg [(SVC_MAXRUN_MAXRUN 0, 0)], 0, by decide +kernel⟩,
   ⟨Wit.cfg [] fun d => { d with svc := { d.svc with pairs := [⟨none, 0, some 9, false, false, []⟩] } }, 0, 9,
     by decide +kernel⟩,
   ⟨Wit.cfg [], 0, by decide +kernel⟩,
   ⟨Wit.cfg [(SVC_PSTAT_STATE 0, 3)], 0, by decide +kernel⟩,
   ⟨Wit.cfg [(SVC_PSTAT_STATE 0, 0)], 0, Wit.witem, by decide +kernel⟩,
   ⟨Wit.cfg [(SVC_PSTAT_STATE 0, 2), (SVC_FCFG_PAIRS 0,
     3)] fun d => { d with svc := { d.svc with delays := [⟨Wit.witem, 50, 0⟩] } }, 0, 50, by decide +kernel⟩,
   ⟨Wit.cfg [(SVC_PSTAT_STATE 0, 0)], 0, by decide +kernel⟩⟩

theorem test_premises_Arbitration :
    (∃ (e : Dev) (l : List Nat) (t : Nat) (q : Nat) (n : Nat), e.arbFirst t n l = some q) ∧
    (∃ (e : Dev) (l : List Nat) (t : Nat) (q : Nat) (r : Nat) (n : Nat), e.arbFirst t n l = some q ∧ r ∈ l) ∧
    (∃ (s : State), s.dev.held = false) ∧
    (∃ (s : State), s.dev.held = false ∧ (∃ x ∈ s.dev.mem.targets, ∃ y ∈ x, y.since.isSome = true)) ∧
    (∃ (s : State), s.dev.held = false ∧ (∀ x ∈ s.dev.mem.targets, ∀ y ∈ x, y.since = none)) ∧
    (∃ (s : State) (o : Origin) (p : Fin 72) (v : Word), s.Lets o (ARB_PORT p) ∧
      s.dev.weightSum false p ((ARB_PORT_WEIGHT p).of v) ≤ 256) ∧
    (∃ (s : State) (o : Origin) (p : Fin 72) (v : Word), s.Lets o (ARB_PORT p) ∧
      256 < s.dev.weightSum false p ((ARB_PORT_WEIGHT p).of v)) ∧
    (∃ (s : State) (o : Origin) (p : Fin 72) (v : Word), s.Lets o (ARB_DDRW p) ∧ p.val < 9 ∧
      s.dev.weightSum true p ((ARB_DDRW_WEIGHT p).of v) ≤ 160) ∧
    (∃ (s : State) (o : Origin) (p : Fin 72) (v : Word), s.Lets o (ARB_DDRW p) ∧ p.val < 9 ∧
      160 < s.dev.weightSum true p ((ARB_DDRW_WEIGHT p).of v)) ∧
    (∃ (s : State) (o : Origin) (i : Fin 256), s.Lets o (ARB_SLOT i)) :=
  ⟨⟨(Wit.cfg []).dev, [1], 0, 1, 0, by decide +kernel⟩,
   ⟨(Wit.cfg []).dev, [1], 0, 1, 1, 0, by decide +kernel⟩,
   ⟨Wit.cfg [], by decide +kernel⟩,
   ⟨Wit.cfg [] fun d => { d with mem := { d.mem with targets := [[⟨0, 0, some 5, []⟩]] } }, by decide +kernel⟩,
   ⟨Wit.cfg [], by decide +kernel⟩,
   ⟨Wit.cfg [], .svc 0, 0, 0, by decide +kernel⟩,
   ⟨Wit.cfg [(ARB_PORT_WEIGHT 1, 255)], .svc 0, 0, 255, by decide +kernel⟩,
   ⟨Wit.cfg [], .svc 0, 8, 0, by decide +kernel⟩,
   ⟨Wit.cfg [(ARB_PORT_WEIGHT 1, 255)], .svc 0, 8, 255, by decide +kernel⟩,
   ⟨Wit.cfg [], .svc 0, 0, by decide +kernel⟩⟩

theorem test_premises_MemoryErrors :
    (∃ (s : State), s.dev.held = false) ∧
    (∃ (s : State) (p : Fin 72), s.dev.held = false ∧ (48 ≤ p.val ∧ p.val < 62 ∨ p.val = 66) ∧ s.dev.dstate ≠ .boot ∧
      s.dev.dstate ≠ .halt) ∧
    (∃ (s : State) (p : Fin 72), s.dev.held = false ∧ (48 ≤ p.val ∧ p.val < 62 ∨ p.val = 66) ∧
      (s.dev.dstate = .boot ∨ s.dev.dstate = .halt)) ∧
    (∃ (s : State) (p : Fin 72) (q : Fin 48) (a : Nat) (e : Nat) (i : Nat), s.dev.held = false ∧ p.val = q.val ∧
      bufferSlot a = some (q.val, e, i)) ∧
    (∃ (s : State) (p : Fin 72) (q : Fin 48) (a : Nat), s.dev.held = false ∧ p.val = q.val ∧
      (bufferSlot a).map (·.1) ≠ some q.val) ∧
    (∃ (s : State) (p : Fin 72) (n : Fin 4), s.dev.held = false ∧ p.val = 62 + n.val) ∧
    (∃ (s : State) (p : Fin 72) (n : Fin 4), s.dev.held = false ∧ (p.val = 67 ∨ p.val = 68 + n.val)) ∧
    (∃ (s : State), s.dev.held = false ∧ s.dev.dstate ≠ .boot ∧ s.dev.dstate ≠ .halt) ∧
    (∃ (s : State), s.dev.held = false ∧ (s.dev.dstate = .boot ∨ s.dev.dstate = .halt)) :=
  ⟨⟨Wit.cfg [], by decide +kernel⟩,
   ⟨Wit.cfg [], 61, by decide +kernel⟩,
   ⟨Wit.cfg [(RST_STAT_DSTATE, 1)], 61, by decide +kernel⟩,
   ⟨Wit.cfg [], 0, 0, 0x60020, 0, 0, by decide +kernel⟩,
   ⟨Wit.cfg [], 0, 0, 0, by decide +kernel⟩,
   ⟨Wit.cfg [], 65, 3, by decide +kernel⟩,
   ⟨Wit.cfg [], 67, 0, by decide +kernel⟩,
   ⟨Wit.cfg [], by decide +kernel⟩,
   ⟨Wit.cfg [(RST_STAT_DSTATE, 1)], by decide +kernel⟩⟩

theorem test_premises_Clocks :
    (∃ (s : State) (o : Origin), s.Lets o CLK_CTRL) ∧
    (∃ (s : State) (o : Origin) (v : Word), s.Lets o CLK_CTRL ∧ CLK_CTRL_SEL.of v = s.dev.get CLK_CTRL_SEL ∧
      CLK_CTRL_SEL.of v = s.dev.get CLK_STAT_SRC) ∧
    (∃ (s : State) (o : Origin) (v : Word), s.Lets o CLK_CTRL ∧ CLK_CTRL_SEL.of v ≠ s.dev.get CLK_STAT_SRC ∧ s.dev.mayRoot v) ∧
    (∃ (s : State) (o : Origin) (v : Word), s.Lets o CLK_CTRL ∧ CLK_CTRL_SEL.of v ≠ s.dev.get CLK_CTRL_SEL ∧
      CLK_CTRL_SEL.of v = s.dev.get CLK_STAT_SRC ∧ s.dev.mayRoot v) ∧
    (∃ (s : State) (o : Origin) (v : Word), s.Lets o CLK_CTRL ∧
      (CLK_CTRL_SEL.of v ≠ s.dev.get CLK_CTRL_SEL ∨ CLK_CTRL_SEL.of v ≠ s.dev.get CLK_STAT_SRC) ∧ ¬ s.dev.mayRoot v) ∧
    (∃ (s : State) (o : Origin), s.Reaches o CLK_MDLL ∧ s.dev.get CLK_CTRL_MDLLEN = 0) ∧
    (∃ (s : State) (o : Origin), s.Reaches o CLK_MDLL ∧ s.dev.get CLK_CTRL_MDLLEN = 1) ∧
    (∃ (s : State) (o : Origin) (v : Word), s.Reaches o CLK_DIV ∧ s.dev.mayDivide v) ∧
    (∃ (s : State) (o : Origin) (v : Word), s.Reaches o CLK_DIV ∧ ¬ s.dev.mayDivide v) ∧
    (∃ (s : State) (o : Origin) (v : Word), s.Lets o CLK_OUT ∧
      (CLK_OUT_EN.of v = 0 ∨ s.dev.clkoutSource (CLK_OUT_SRC.of v) ≤ 250000 * (CLK_OUT_DIV.of v + 1))) ∧
    (∃ (s : State) (o : Origin) (v : Word), s.Lets o CLK_OUT ∧ CLK_OUT_EN.of v = 1 ∧
      250000 * (CLK_OUT_DIV.of v + 1) < s.dev.clkoutSource (CLK_OUT_SRC.of v)) ∧
    (∃ (s : State) (o : Origin) (v : Word) (one : Bool), s.Lets o (if one then CLK_GATE1 else CLK_GATE0) ∧
      (if one then s.dev.gate1Refused (v.toNat % 2 ^ 26) else s.dev.gate0Refused (v.toNat % 2 ^ 23)) = false) ∧
    (∃ (s : State) (o : Origin) (v : Word) (one : Bool), s.Lets o (if one then CLK_GATE1 else CLK_GATE0) ∧
      (if one then s.dev.gate1Refused (v.toNat % 2 ^ 26) else s.dev.gate0Refused (v.toNat % 2 ^ 23)) = true) ∧
    (∃ (s : State) (o : Origin), s.Lets o CLK_LSEN) ∧
    (∃ (s : State), s.dev.held = false) ∧
    (∃ (s : State), s.dev.held = false ∧ s.dev.get CLK_STAT_REFOK = 1) ∧
    (∃ (s : State), s.dev.held = false ∧ s.dev.get CLK_STAT_REFOK = 0) ∧
    (∃ (s : State) (mon : Bool), s.dev.held = false ∧
      ((s.dev.get CLK_STAT_REFOK = 0 ∨ s.dev.get CLK_STAT_MDLLRDY = 0 ∨ mon = true) ∧ (s.dev.get CLK_STAT_SRC = 1 ∧
      s.dev.clk.switch ≠ some false ∨ s.dev.clk.switch = some true))) ∧
    (∃ (s : State) (mon : Bool), s.dev.held = false ∧ (s.dev.get CLK_STAT_REFOK = 1 ∧ s.dev.get CLK_STAT_MDLLRDY = 1 ∧
      mon = false ∨ s.dev.clk.switch ≠ some true ∧ (s.dev.get CLK_STAT_SRC = 0 ∨ s.dev.clk.switch = some false))) ∧
    (∃ (s : State) (b : Bool), s.dev.held = false ∧ s.dev.clk.switch = some b) ∧
    (∃ (s : State), s.dev.held = false ∧ s.dev.clk.switch = none) ∧
    (∃ (s : State) (t : Nat), s.dev.held = false ∧ s.dev.clk.retSince = some t ∧ s.dev.get CLK_CTRL_AUTORET = 1 ∧
      s.dev.get CLK_STAT_CLKDEG = 1 ∧ s.dev.clk.switch = none ∧ s.dev.get CLK_STAT_SRC = 0) ∧
    (∃ (s : State) (b : Bool), s.dev.held = false ∧
      (s.dev.clk.retSince = none ∨ s.dev.get CLK_CTRL_AUTORET = 0 ∨ s.dev.get CLK_STAT_CLKDEG = 0 ∨ s.dev.clk.switch = some b ∨ s.dev.get CLK_STAT_SRC = 1)) ∧
    (∃ (s : State), s.dev.held = false ∧ s.dev.get CLK_CTRL_TRIMEN = 1 ∧ s.dev.get CLK_STAT_REFOK = 1 ∧
      s.dev.clk.frozen = false ∧ s.dev.time.on = true) ∧
    (∃ (s : State), s.dev.held = false ∧
      (s.dev.get CLK_CTRL_TRIMEN = 0 ∨ s.dev.get CLK_STAT_REFOK = 0 ∨ s.dev.clk.frozen = true ∨ s.dev.time.on = false)) ∧
    (∃ (s : State), s.dev.held = false ∧ s.dev.get CLK_STAT_TRIMOK = 1) ∧
    (∃ (s : State), s.dev.held = false ∧ s.dev.get CLK_STAT_TRIMOK = 0) :=
  ⟨⟨Wit.cfg [], .svc 0, by decide +kernel⟩,
   ⟨Wit.cfg [], .svc 0, 0, by decide +kernel⟩,
   ⟨Wit.cfg [(CLK_CTRL_MDLLEN, 1), (CLK_STAT_REFOK, 1), (CLK_STAT_MDLLRDY, 1)], .svc 0, Wit.clk 1 1, by decide +kernel⟩,
   ⟨Wit.cfg [(CLK_CTRL_MDLLEN, 1), (CLK_STAT_REFOK, 1), (CLK_STAT_MDLLRDY, 1), (CLK_STAT_SRC, 1), (CLK_CTRL_SEL, 0)], .svc 0,
     Wit.clk 1 1, by decide +kernel⟩,
   ⟨Wit.cfg [], .svc 0, Wit.clk 1 0, by decide +kernel⟩,
   ⟨Wit.cfg [(CLK_CTRL_MDLLEN, 0)], .svc 0, by decide +kernel⟩,
   ⟨Wit.cfg [(CLK_CTRL_MDLLEN, 1)], .svc 0, by decide +kernel⟩,
   ⟨Wit.cfg [], .svc 0, resetWord CLK_DIV, by decide +kernel⟩,
   ⟨Wit.cfg [], .svc 0, 0, by decide +kernel⟩,
   ⟨Wit.cfg [], .svc 0, 0, by decide +kernel⟩,
   ⟨Wit.cfg [], .svc 0, 0x81000000, by decide +kernel⟩,
   ⟨Wit.cfg [], .svc 0, 0, true, by decide +kernel⟩,
   ⟨Wit.run [], .svc 0, 0, true, by decide +kernel⟩,
   ⟨Wit.cfg [], .svc 0, by decide +kernel⟩,
   ⟨Wit.cfg [], by decide +kernel⟩,
   ⟨Wit.cfg [(CLK_STAT_REFOK, 1)], by decide +kernel⟩,
   ⟨Wit.cfg [(CLK_STAT_REFOK, 0)], by decide +kernel⟩,
   ⟨Wit.cfg [(CLK_STAT_SRC, 1)], true, by decide +kernel⟩,
   ⟨Wit.cfg [(CLK_STAT_REFOK, 1), (CLK_STAT_MDLLRDY, 1)], false, by decide +kernel⟩,
   ⟨Wit.cfg [] fun d => { d with clk := { d.clk with switch := some (true) } }, true, by decide +kernel⟩,
   ⟨Wit.cfg [] fun d => { d with clk := { d.clk with switch := none } }, by decide +kernel⟩,
   ⟨Wit.cfg [(CLK_CTRL_AUTORET, 1), (CLK_STAT_CLKDEG, 1), (CLK_STAT_SRC,
     0)] fun d => let d := ({ d with clk := { d.clk with retSince := some (0) } } : Dev);
     let d := ({ d with clk := { d.clk with switch := none } } : Dev); d, 0, by decide +kernel⟩,
   ⟨Wit.cfg [] fun d => { d with clk := { d.clk with retSince := none } }, true, by decide +kernel⟩,
   ⟨Wit.cfg [(CLK_CTRL_TRIMEN, 1), (CLK_STAT_REFOK,
     1)] fun d => let d := ({ d with clk := { d.clk with frozen := false } } : Dev);
     let d := ({ d with time := { d.time with on := true } } : Dev); d, by decide +kernel⟩,
   ⟨Wit.cfg [(CLK_CTRL_TRIMEN, 0)], by decide +kernel⟩,
   ⟨Wit.cfg [(CLK_STAT_TRIMOK, 1)], by decide +kernel⟩,
   ⟨Wit.cfg [(CLK_STAT_TRIMOK, 0)], by decide +kernel⟩⟩

theorem test_premises_SecurityOperations :
    (∃ (s : State) (o : Origin) (y : Nat × Instr), s.Lets o SEC_CMD ∧ y ∈ [(1, Instr.secUnlock o), (2, .secKeyprog o), (3,
      .secKeyrev o)] ∧ s.dev.sec.op = none) ∧
    (∃ (s : State) (o : Origin) (y : Nat × Instr), s.Lets o SEC_CMD ∧ y ∈ [(1, Instr.secUnlock o), (2, .secKeyprog o), (3,
      .secKeyrev o)] ∧ s.dev.sec.op.isSome = true) ∧
    (∃ (s : State) (r : Origin) (op : Nat), s.dev.held = false ∧ s.dev.sec.op = some (op, r)) ∧
    (∃ (s : State), s.dev.held = false ∧ s.dev.sec.op = none) ∧
    (∃ (s : State) (o : Origin), s.Lets o SEC_CTRL ∧ s.dev.sec.unlocks = []) ∧
    (∃ (s : State) (o : Origin) (u : Nat × Nat × Nat) (us : List (Nat × Nat × Nat)), s.Lets o SEC_CTRL ∧
      s.dev.sec.unlocks = u :: us) ∧
    (∃ (s : State), s.dev.held = false ∧ s.dev.sec.unlocks = []) ∧
    (∃ (s : State) (t : Nat) (u : Nat × Nat × Nat) (us : List (Nat × Nat × Nat)), s.dev.held = false ∧
      s.dev.sec.unlocks = u :: us ∧ t = listMin (us.map (·.2.1)) u.2.1) :=
  ⟨⟨Wit.cfg [], .svc 0, (1, Instr.secUnlock (.svc 0)), by decide +kernel, by simp, by decide +kernel⟩,
   ⟨Wit.cfg [] fun d => { d with sec := { d.sec with op := some (1, .pcie) } }, .svc 0, (1, Instr.secUnlock (.svc 0)),
     by decide +kernel, by simp, by decide +kernel⟩,
   ⟨Wit.cfg [] fun d => { d with sec := { d.sec with op := some (3, .pcie) } }, .pcie, 3, by decide +kernel⟩,
   ⟨Wit.cfg [] fun d => { d with sec := { d.sec with op := none } }, by decide +kernel⟩,
   ⟨Wit.cfg [] fun d => { d with sec := { d.sec with unlocks := [] } }, .svc 0, by decide +kernel⟩,
   ⟨Wit.cfg [] fun d => { d with sec := { d.sec with unlocks := [(1, 9, 2)] } }, .svc 0, (1, 9, 2), [], by decide +kernel⟩,
   ⟨Wit.cfg [] fun d => { d with sec := { d.sec with unlocks := [] } }, by decide +kernel⟩,
   ⟨Wit.cfg [] fun d => { d with sec := { d.sec with unlocks := [(1, 9, 2)] } }, 9, (1, 9, 2), [], by decide +kernel⟩⟩

theorem test_premises_Perturbations :
    (∃ (s : State) (o : Origin) (k : Pert), s.Lets o k.off ∧ s.dev.unlocked 1 = false) ∧
    (∃ (s : State) (k : Pert), s.dev.awake ∧ s.dev.latchOf .jtag k.off = none) ∧
    (∃ (s : State) (o : Origin) (k : Pert), s.Lets o k.off ∧ s.dev.unlocked 1 = true) ∧
    (∃ (s : State) (k : Pert), s.dev.held = false ∧
      (s.dev.diag.active.any (fun x => x.1 == k && s.dev.get k.dur != 0 && decide (s.dev.get k.dur < x.2)) = true)) ∧
    (∃ (s : State) (k : Pert), s.dev.held = false ∧
      (s.dev.diag.active.any (fun x => x.1 == k && s.dev.get k.dur != 0 && decide (s.dev.get k.dur < x.2)) = false)) :=
  ⟨⟨Wit.cfg [], .svc 0, .slot, by decide +kernel⟩,
   ⟨Wit.cfg [], .slot, by decide +kernel⟩,
   ⟨Wit.cfg [] fun d => { d with sec := { d.sec with unlocks := [(1, 9, 2)] } }, .svc 0, .slot, by decide +kernel⟩,
   ⟨Wit.cfg [(DIAG_PSLOT_DUR, 2)] fun d => { d with diag := { d.diag with active := [(.slot, 3)] } }, .slot, by decide +kernel⟩,
   ⟨Wit.cfg [], .slot, by decide +kernel⟩⟩

theorem test_premises_TapInstructions :
    (∃ (s : State), s.dev.tapOn = true) ∧
    (∃ (s : State), s.dev.tapOn = true ∧ s.dev.scanOk = true) ∧
    (∃ (s : State) (cap : List Bool) (load : List Bool) (y : List Bool × Instr), s.dev.tapOn = true ∧ s.dev.scanOk = false ∧
      y ∈ [(load, Instr.extest cap load), ([], .highz), ([], .clamp)]) ∧
    (∃ (s : State), s.dev.held = false) ∧
    (∃ (s : State) (off : Nat) (v : Word), s.Reaches .jtag off ∧ off % 4 = 0 ∧ off < 0x400000 ∧ (regAt off).isSome = true ∧
      s.dev.special s.nv .jtag off v = none) ∧
    (∃ (s : State) (off : Nat), s.Reaches .jtag off ∧ off % 4 = 0 ∧ off < 0x400000 ∧ (regAt off).isSome = true ∧
      typeMask (· == .rc) off = 0 ∧ InAny [bTOP, bCYC, bLOOP] off ∧ latchedBy off = [] ∧ s.dev.rlatch = []) ∧
    (∃ (s : State) (m : BitVec 4), s.dev.held = false ∧ ((m.getLsbD 2 = true ∨ m.getLsbD 3 = true) ∧
      s.dev.unlocked 2 = false ∨ (m.getLsbD 0 = true ∨ m.getLsbD 1 = true) ∧ s.dev.unlocked 3 = false)) ∧
    (∃ (s : State) (m : BitVec 4), s.dev.held = false ∧ (m.getLsbD 2 = true ∨ m.getLsbD 3 = true → s.dev.unlocked 2 = true) ∧
      (m.getLsbD 0 = true ∨ m.getLsbD 1 = true → s.dev.unlocked 3 = true)) :=
  ⟨⟨Wit.cfg [], by decide +kernel⟩,
   ⟨Wit.cfg [], by decide +kernel⟩,
   ⟨Wit.run [(SCH_ASTAT_ST 3, 2)], [], [], (([]), Instr.extest ([]) ([])), by decide +kernel, by decide +kernel, by simp⟩,
   ⟨Wit.cfg [], by decide +kernel⟩,
   ⟨Wit.cfg [], 0, 0, by decide +kernel⟩,
   ⟨Wit.cfg [], 0, by decide +kernel⟩,
   ⟨Wit.cfg [], 1, by decide +kernel⟩,
   ⟨Wit.cfg [], 0, by decide +kernel⟩⟩

theorem test_premises_StepRunsFront :
    (∃ (s : State) (c : Instr) (rest : List Instr), s.pending = c :: rest) :=
  ⟨{ State.reset with pending := [.idcode] }, .idcode, [], by decide +kernel⟩

theorem test_premises_StepsWithoutEffect :
    (∃ (s : State), s.pending = []) ∧
    (∃ (c : Instr) (s : State), s.dev.held = true ∧ actsInReset c = false) :=
  ⟨⟨Wit.cfg [], by decide +kernel⟩,
   ⟨.boot ⟨none, 0, true, true, true⟩, Wit.cfg [] fun d => { d with rst := { d.rst with porstLow := true } },
     by decide +kernel⟩⟩

theorem test_premises_Consequences :
    (∃ (d : Dev), d.held = false ∧ d.rst.deep = false ∧ d.saf.stuckA = none ∧ d.saf.stuckB = none) :=
  ⟨(Wit.cfg [] fun d => let d := ({ d with rst := { d.rst with deep := false } } : Dev);
    let d := ({ d with saf := { d.saf with stuckA := none } } : Dev);
    let d := ({ d with saf := { d.saf with stuckB := none } } : Dev); d).dev, by decide +kernel⟩

def Wit.filledState : State :=
  Wit.run [(DPX_CFG_MODE, 1), (DPX_STAT_SDLUP, 1), (LANE_STAT_STATE 96, 6), (LANE_STAT_STATE 97, 6), (LANE_STAT_STATE 98, 6),
    (LANE_STAT_STATE 99, 6), (DPX_STAT_ROLE, 2), (DPX_INGCFG_NS,
      0)] fun d => { d with dpx := { d.dpx with fill := some ⟨0xFFFFFFFF, Wit.ingotBytes⟩ } }
def Wit.filledLines : List (List Int) := Wit.message Wit.filledState.dev 7 0xFFFFFFFF []

set_option maxRecDepth 1000000 in
theorem test_premises_PartnerData_13 :
    ∃ (s : State) (lines : List (List Int)) (x : SolderIn) (e : Dev) (g : List Byte), s.dev.held = false ∧
      s.dev.solderTake 7 lines 0 = ([x], e) ∧ g = s.dev.filled x.cyc x.bytes ∧ s.dev.TakesIngot x.cyc ∧
        s.dev.ingotLen ≤ g.length ∧
      commitOk x.cyc s.dev.ingotLen g = true := by
  have hl : Wit.filledState.dev.ingotLen = 9760 := by decide +kernel
  refine ⟨Wit.filledState, Wit.filledLines, ⟨7, 1, [], 0xFFFFFFFF, 77, 0⟩, _, Wit.ingotBytes, by decide +kernel,
    Wit.taken_eq (by decide +kernel), ?_, by decide +kernel, ?_, ?_⟩
  · exact (List.append_nil Wit.ingotBytes).symm
  · rw [hl]
    have := Wit.ingotBytes_ok
    simp only [commitOk, Bool.and_eq_true, beq_iff_eq] at this
    omega
  · rw [hl]
    exact Wit.ingotBytes_ok

/-! ### Premises of the invariants -/

/-- A log into which n entries have been written. -/
def Wit.logged : Nat → Nonvol
  | 0 => State.reset.nv
  | n + 1 => (Wit.logged n).append Wit.item

theorem logged_ok (n : Nat) : (Wit.logged n).LogOk := by
  induction n with
  | zero => exact ⟨trivial, by decide⟩
  | succ n ih => exact (Wit.logged n).append_logOk _ ih

theorem append_length (nv : Nonvol) (e : AudItem) (h : nv.mram.log.length < logCapacity) :
    (nv.append e).mram.log.length = nv.mram.log.length + 1 := by
  unfold Nonvol.append
  simp only []
  split
  · rename_i y hy
    have := (List.getElem?_eq_some_iff.mp hy).1
    simp only [List.length_cons] at this
    omega
  · rfl

theorem logged_length (n : Nat) (h : n ≤ logCapacity) : (Wit.logged n).mram.log.length = n := by
  induction n with
  | zero => rfl
  | succ n ih => rw [Wit.logged, append_length _ _ (by rw [ih (by omega)]; omega), ih (by omega)]

theorem append_log_ne (nv : Nonvol) (e : AudItem) (h : nv.LogOk) : (nv.append e).mram.log ≠ nv.mram.log := by
  obtain ⟨hc, -⟩ := h
  have key : ∀ l, l = (⟨nv.mram.nextSeq, e, chainNext nv.lastChain nv.mram.nextSeq e⟩ : AudEntry) :: nv.mram.log ∨
      l = ((⟨nv.mram.nextSeq, e, chainNext nv.lastChain nv.mram.nextSeq e⟩ : AudEntry) :: nv.mram.log).take logCapacity →
      l ≠ nv.mram.log := by
    rintro l hl rfl
    have hh : nv.mram.log.head? = some (⟨nv.mram.nextSeq, e, chainNext nv.lastChain nv.mram.nextSeq e⟩ : AudEntry) := by
      rcases hl with hl | hl <;> rw [hl] <;> rfl
    cases hm : nv.mram.log with
    | nil => rw [hm] at hh; cases hh
    | cons x l =>
      rw [hm] at hh hc
      cases hh
      have := hc.1
      bv_omega
  apply key
  unfold Nonvol.append
  simp only []
  split
  · exact .inr rfl
  · exact .inl rfl

/-- A state with a log, in which the entry in front of the queue is written. -/
def Wit.withLog (nv : Nonvol) : State := { State.reset with nv := nv, pending := [.auditEntryWrite] }

theorem withLog_writes (nv : Nonvol) (h : nv.LogOk) : ∃ t, step (Wit.withLog nv) = .next t ∧ t.nv.mram.log ≠ nv.mram.log := by
  have hh : State.reset.dev.held = false := by decide
  have hq : ∃ e rest, State.reset.dev.aud.queue = e :: rest := ⟨_, _, rfl⟩
  obtain ⟨e, rest, hq⟩ := hq
  refine ⟨_, rfl, ?_⟩
  simp only [State.withQueue, Wit.withLog, State.with_, hh, auditWrite, hq, Bool.false_eq_true, if_false]
  exact append_log_ne nv e h

theorem full_writes (nv : Nonvol) (h : nv.LogOk) (hn : 65535 < nv.mram.log.length) :
    ∃ (s t : State) (y : AudEntry), step s = .next t ∧ s.nv.LogOk ∧ s.nv.mram.log[65535]? = some y ∧
      t.nv.mram.log ≠ s.nv.mram.log := by
  obtain ⟨t, h1, h2⟩ := withLog_writes nv h
  exact ⟨Wit.withLog nv, t, _, h1, h, List.getElem?_eq_getElem hn, h2⟩

theorem test_premises_AuditLogKept :
    (∃ (s t : State), step s = .next t ∧ s.nv.LogOk) ∧
    (∃ (s t : State) (y : AudEntry), step s = .next t ∧ s.nv.LogOk ∧ s.nv.mram.log[65535]? = some y ∧
      t.nv.mram.log ≠ s.nv.mram.log) := by
  refine ⟨⟨State.reset, State.reset.idle, rfl, trivial, by decide⟩, full_writes _ (logged_ok logCapacity) ?_⟩
  rw [logged_length _ (Nat.le_refl _)]
  decide

theorem test_premises_FusesOnlyBurn :
    (∃ (s t : State) (n j : Nat), step s = .next t ∧ (s.nv.slot n).valid = true ∧ j < 4) ∧
    (∃ (s t : State) (n : Nat), step s = .next t ∧ (s.nv.slot n).revoked = true) := by
  refine ⟨⟨State.reset, State.reset.idle, 0, 0, rfl, by decide, by decide⟩, ?_⟩
  exact ⟨{ State.reset with nv := { State.reset.nv with fuses := { State.reset.nv.fuses with slots := [⟨1, true, true⟩] } } },
    _, 0,
    rfl, by decide⟩

end Sys2Proof.Tests
end

section
/-! The reads and writes of BAR0 that latch, hold or clear (R6, R8, R10 to R12, R32, R162, R164, R269). -/

namespace Sys2Proof.Machine

open Sys2Proof

/-! ### Lists of latches -/

/-- A latch of another key outlives the removal of one. -/
theorem find_filter_key_ne (l : List ((Origin × Nat) × Word)) {k k' : Origin × Nat} (h : k' ≠ k) :
    ((l.filter fun e => e.1 != k).find? fun e => e.1 == k') = l.find? fun e => e.1 == k' := by
  rw [List.find?_filter]
  congr 1
  funext e
  by_cases he : e.1 = k' <;> simp [he, h]

theorem find_filter_key_same (l : List ((Origin × Nat) × Word)) (k : Origin × Nat) :
    ((l.filter fun e => e.1 != k).find? fun e => e.1 == k) = none := by
  simp [List.find?_eq_none]

@[simp] theorem Dev.latchOf_setLatch_same (d : Dev) (o : Origin) (off : Nat) (w : Word) :
    (d.setLatch o off w).latchOf o off = some w := by
  simp [Dev.latchOf, Dev.setLatch]

theorem Dev.latchOf_setLatch_ne (d : Dev) (o o' : Origin) (off off' : Nat) (w : Word) (h : (o', off') ≠ (o, off)) :
    (d.setLatch o off w).latchOf o' off' = d.latchOf o' off' := by
  have hne : ((o, off) == (o', off')) = false := beq_eq_false_iff_ne.2 h.symm
  simp only [Dev.latchOf, Dev.setLatch, List.find?_cons, hne, find_filter_key_ne _ h]

@[simp] theorem Dev.latchOf_dropLatch_same (d : Dev) (o : Origin) (off : Nat) : (d.dropLatch o off).latchOf o off = none := by
  simp [Dev.latchOf, Dev.dropLatch]

theorem Dev.latchOf_dropLatch_ne (d : Dev) (o o' : Origin) (off off' : Nat) (h : (o', off') ≠ (o, off)) :
    (d.dropLatch o off).latchOf o' off' = d.latchOf o' off' := by
  simp only [Dev.latchOf, Dev.dropLatch, find_filter_key_ne _ h]

@[simp] theorem Dev.latchOf_emit (d : Dev) (e : Emission) (o : Origin) (off : Nat) : (d.emit e).latchOf o off = d.latchOf o off := rfl
@[simp] theorem Dev.latchOf_set (d : Dev) (f : Fld) (v : Nat) (o : Origin) (off : Nat) : (d.set f v).latchOf o off = d.latchOf o off := rfl

/-! ### What a register read does -/

/-- The latches that a read of an offset leaves: it sets those of R10 and R162 and consumes its own. -/
def Dev.latching (d : Dev) (nv : Nonvol) (o : Origin) (off : Nat) : Dev :=
  (d.each (latchedBy off) fun u d => d.setLatch o u (d.peek nv o u)).dropLatch o off

theorem Dev.latching_changes {S : Nat → Prop} (d : Dev) (nv : Nonvol) (o : Origin) (off : Nat) :
    Dev.Changes [.rlatch] S d (d.latching nv o off) :=
  .trans (.each d _ _ fun _ _ e => .rlatch_ e _ (by simp)) (.rlatch_ _ _ (by simp))

/-- A read latches nothing for another origin (R10). -/
theorem Dev.latchOf_latching_other (d : Dev) (nv : Nonvol) (o o' : Origin) (off u : Nat) (h : o' ≠ o) :
    (d.latching nv o off).latchOf o' u = d.latchOf o' u := by
  have hk : ∀ x, (o', u) ≠ (o, x) := fun x e => h (congrArg Prod.fst e)
  rw [Dev.latching, Dev.latchOf_dropLatch_ne _ _ _ _ _ (hk off), Dev.each]
  induction latchedBy off generalizing d with
  | nil => rfl
  | cons x l ih => rw [List.foldl_cons, ih, Dev.latchOf_setLatch_ne _ _ _ _ _ _ (hk x)]

/-- A read that latches one word, the upper one of a wide value, or a base's fraction. -/
theorem Dev.latchOf_latching_single (d : Dev) (nv : Nonvol) (o : Origin) (off u : Nat) (h : latchedBy off = [u]) (hu : u ≠ off) :
    (d.latching nv o off).latchOf o u = some (d.peek nv o u) := by
  rw [Dev.latching, Dev.latchOf_dropLatch_ne _ _ _ _ _ (by simpa using hu), h]
  exact Dev.latchOf_setLatch_same ..

/-- The device after a read of a register that answers, its answer included. -/
def Dev.afterRead (d : Dev) (nv : Nonvol) (o : Origin) (off be : Nat) (hw : Word) : Dev :=
  ((d.latching nv o off).readEffect off hw).emit
    (.answer o off (.data ((d.latchOf o off).getD (d.peek nv o off) &&& beMask be)))

/-- A read of an implemented register that answers. -/
theorem Dev.busRead_answers (d : Dev) (nv : Nonvol) (o : Origin) (off be : Nat) (hw : Word) (h : d.Answers off) (ha : off % 4 = 0)
    (hl : off < 0x460000) (hr : (regAt off).isSome = true) : d.busRead nv o off be hw = d.afterRead nv o off be hw := by
  obtain ⟨⟨-, hd⟩, hg⟩ := h
  have hm : isPairMem off = false := by
    simp [isPairMem]
    omega
  have hmap : d.mapRead nv o off hw = d.regRead nv o off hw := by
    rw [Dev.mapRead, if_neg (by omega), if_pos hr]
  unfold Dev.busRead
  rw [Dev.wake_awake _ hd]
  dsimp only
  rw [if_neg (by simp [hm]), if_neg (by omega), hg, if_neg (by simp), hmap]
  rfl

/-- A command that is a read of an implemented register comes to the device after that read. -/
theorem Comes.read {c : Instr} {o : Origin} {s : State} {P : Dev → Prop} {off be : Nat} {hw : Word}
    (hc : exec c s = s.access o fun nv d => d.busRead nv o off be hw) (h : s.dev.Answers off) (ha : off % 4 = 0)
    (hl : off < 0x460000) (hr : (regAt off).isSome = true) (hP : P (s.dev.afterRead s.nv o off be hw)) : Comes c o s P :=
  ⟨_, by rw [hc, State.access_next _ _ _ h.1.1, Dev.busRead_answers _ _ _ _ _ _ h ha hl hr], hP⟩

/-! ### Registers whose read changes nothing but latches -/

/-- The ranges of registers behind gates and enables (R451). -/
def gateRanges : List (Nat × Nat) :=
  [(0x0C0000, 0x0D9000), (0x100000, 0x130000), (0x1C0000, 0x1D0500), (SVC_PCTL 0, SVC_PCTL 4), (HIF_UART, HIF_GPIOFN + 4)]

theorem Dev.gated_outside (d : Dev) (off : Nat) (h : ¬ InAny gateRanges off) : d.gated off = false := by
  simp only [gateRanges, InAny, List.mem_cons, List.not_mem_nil, or_false, exists_eq_or_imp, exists_eq_left, SVC_PCTL, HIF_UART,
    HIF_GPIOFN] at h
  unfold Dev.gated
  simp only [within_iff, SVC_PCTL, HIF_UART, HIF_I2C, HIF_GPIODIR, HIF_GPIOFN]
  repeat rw [if_neg (by omega)]

/-- An implemented register behind no gate, without an RC field and not an ADC result. -/
abbrev PlainRead (off : Nat) : Prop :=
  off % 4 = 0 ∧ off < 0x460000 ∧ (regAt off).isSome = true ∧ ¬ InAny gateRanges off ∧ typeMask (· == .rc) off = 0 ∧
    ix (ADC_RES 0 0) 4 64 off = none

theorem Dev.readEffect_plain (d : Dev) (off : Nat) (hw : Word) (h : PlainRead off) : d.readEffect off hw = d := by
  obtain ⟨-, -, -, -, hrc, hadc⟩ := h
  simp [Dev.readEffect, hadc, hrc]

theorem Dev.afterRead_plain (d : Dev) (nv : Nonvol) (o : Origin) (off be : Nat) (hw : Word) (h : PlainRead off) :
    d.afterRead nv o off be hw =
      (d.latching nv o off).emit (.answer o off (.data ((d.latchOf o off).getD (d.peek nv o off) &&& beMask be))) := by
  rw [Dev.afterRead, Dev.readEffect_plain _ _ _ h]

/-- A read of such a register changes latches and answers. -/
theorem Dev.afterRead_changes (d : Dev) (nv : Nonvol) (o : Origin) (off be : Nat) (hw : Word) (h : PlainRead off) :
    Dev.Changes [.rlatch, .out] (At []) d (d.afterRead nv o off be hw) := by
  rw [Dev.afterRead_plain _ _ _ _ _ _ h]
  exact ((d.latching_changes nv o off).mono (by simp) fun _ x => x).trans (.out_ _ _ (by simp))

theorem Comes.plainRead {c : Instr} {o : Origin} {s : State} {P : Dev → Prop} {off be : Nat} {hw : Word}
    (hc : exec c s = s.access o fun nv d => d.busRead nv o off be hw) (h : s.dev.awake) (hp : PlainRead off)
    (hP : P (s.dev.afterRead s.nv o off be hw)) : Comes c o s P :=
  have ⟨ha, hl, hr, hg, _⟩ := hp
  .read hc ⟨h, Dev.gated_outside _ _ hg⟩ ha hl hr hP

/-! ### The places of wide values (R10, R97) -/

/-- A wide value: a read of its low word latches its upper word, and both words are plain registers. -/
abbrev WidePlace (p : Nat × Nat) : Prop :=
  p.2 ≠ p.1 ∧ PlainRead p.1 ∧ PlainRead p.2 ∧ latchedBy p.1 = [p.2]

theorem wideAt_register : ∀ w : Fin 17, WidePlace (wideAt w) := by decide

theorem wideAt_cell (w : Nat) (h : 17 ≤ w) : wideAt w = (CELL_W14 (w - 17), CELL_W10 (w - 17)) := by
  have hl : widePairs.length = 17 := rfl
  simp [wideAt, nth, List.getElem?_eq_none (hl ▸ h)]

theorem blockRegs_CELL (off : Nat) (h : 0x400000 ≤ off) : blockRegs off = regsCELL := by
  unfold blockRegs
  repeat rw [if_neg (by omega)]

/-- The cell table has no RC field. -/
theorem typeMask_rc_cell (off : Nat) (h : 0x400000 ≤ off) : typeMask (· == .rc) off = 0 := by
  have hall : ∀ r ∈ regsCELL, r.mask (· == .rc) = 0 := by decide
  unfold typeMask regAt
  rw [blockRegs_CELL _ h]
  split
  · next r hr => exact hall r (List.mem_of_find?_eq_some hr)
  · rfl

/-- A word of the cell table is a plain register. -/
theorem plainRead_cell (off k : Nat) (r : RDesc) (c : Nat) (hr : regsCELL[k]? = some r) (hb : r.base % 4 = 0)
    (hlo : 0x400000 ≤ r.base) (hhi : r.base < 0x400040) (hs : r.s1 = 0x40) (hn : r.n1 = 6144) (hj : 0 < r.n2) (hc : c < 6144)
    (ho : off = r.base + 0x40 * c) : PlainRead off := by
  refine ⟨by omega, by omega, ?_, ?_, typeMask_rc_cell _ (by omega), ?_⟩
  · exact regAt_copy off _ k r c (blockRegs_CELL _ (by omega)) hr (by omega) (by omega) hj (by rw [hs]; exact ho)
  · simp only [gateRanges, InAny, List.mem_cons, List.not_mem_nil, or_false, exists_eq_or_imp, exists_eq_left, SVC_PCTL, HIF_UART,
      HIF_GPIOFN]
    omega
  · unfold ix
    rw [if_neg (by simp only [ADC_RES]; omega)]

theorem latchedBy_CELL_W14 (c : Nat) (h : c < 6144) : latchedBy (CELL_W14 c) = [CELL_W10 c] := by
  have htb : ix (TIM_TB_NS 0) 8 4 (CELL_W14 c) = none := by
    unfold ix
    rw [if_neg (by simp only [TIM_TB_NS, CELL_W14]; omega)]
  have hcell : ix (CELL_W14 0) 0x40 6144 (CELL_W14 c) = some c := by
    rw [show CELL_W14 c = CELL_W14 0 + 0x40 * c by unfold CELL_W14; omega]
    exact ix_at _ _ _ _ (by decide) h
  unfold latchedBy
  rw [if_neg (by unfold CELL_W14 CYC_NUM; omega)]
  simp only [htb, hcell]

theorem wideAt_place (w : Fin 6161) : WidePlace (wideAt w) := by
  by_cases h : w.val < 17
  · exact wideAt_register ⟨w, h⟩
  · have hc : w.val - 17 < 6144 := by omega
    rw [wideAt_cell w (by omega)]
    refine ⟨by simp only [CELL_W10, CELL_W14]; omega, ?_, ?_, latchedBy_CELL_W14 _ hc⟩
    · exact plainRead_cell _ 5 _ _ rfl rfl (by decide) (by decide) rfl rfl (by decide) hc rfl
    · exact plainRead_cell _ 4 _ _ rfl rfl (by decide) (by decide) rfl rfl (by decide) hc rfl

/-! ### Reads of wide values (R10) -/

theorem wideLowRead_comes (s : State) (o o' : Origin) (w : Fin 6161) (off be : Nat) (h : s.dev.awake) (ho : o' ≠ o)
    (hl : s.dev.latchOf o (wideAt w).1 = none) : Comes (.wideLowRead o w be) o s fun d =>
      d.out = .answer o (wideAt w).1 (.data (s.dev.peek s.nv o (wideAt w).1 &&& beMask be)) :: s.dev.out ∧
      d.latchOf o (wideAt w).2 = some (s.dev.peek s.nv o (wideAt w).2) ∧ d.latchOf o' off = s.dev.latchOf o' off ∧
      s.dev.Changes [.rlatch, .out] (At []) d := by
  obtain ⟨hne, hlow, -, hlat⟩ := wideAt_place w
  refine .plainRead rfl h hlow ⟨?_, ?_, ?_, Dev.afterRead_changes _ _ _ _ _ _ hlow⟩ <;> rw [Dev.afterRead_plain _ _ _ _ _ _ hlow]
  · rw [hl]
    exact congrArg _ ((s.dev.latching_changes (S := At []) s.nv o _).1 .out (by simp))
  · exact Dev.latchOf_latching_single _ _ _ _ _ hlat hne
  · exact Dev.latchOf_latching_other _ _ _ _ _ _ ho

theorem wideUpperRead_comes (s : State) (o o' : Origin) (w : Fin 6161) (off be : Nat) (h : s.dev.awake) (ho : o' ≠ o) :
    Comes (.wideUpperRead o w be) o s fun d =>
      d.out = .answer o (wideAt w).2 (.data ((s.dev.latchOf o (wideAt w).2).getD (s.dev.peek s.nv o (wideAt w).2) &&& beMask be)) :: s.dev.out ∧
      d.latchOf o (wideAt w).2 = none ∧ d.latchOf o' off = s.dev.latchOf o' off ∧ s.dev.Changes [.rlatch, .out] (At []) d := by
  obtain ⟨-, -, hhigh, -⟩ := wideAt_place w
  refine .plainRead rfl h hhigh ⟨?_, ?_, ?_, Dev.afterRead_changes _ _ _ _ _ _ hhigh⟩ <;> rw [Dev.afterRead_plain _ _ _ _ _ _ hhigh]
  · exact congrArg _ ((s.dev.latching_changes (S := At []) s.nv o _).1 .out (by simp))
  · exact Dev.latchOf_dropLatch_same ..
  · exact Dev.latchOf_latching_other _ _ _ _ _ _ ho

end Sys2Proof.Machine
end

section
/-! Reads with an effect and writes of wide values (R6, R8, R11, R32, R162, R164, R269), and the statement of both. -/

namespace Sys2Proof.Machine

open Sys2Proof

/-! ### A read of an RC field (R8) -/

theorem regAt_isSome_of_typeMask {p : FTy → Bool} {off : Nat} (h : typeMask p off ≠ 0) : (regAt off).isSome = true := by
  unfold typeMask at h
  cases hr : regAt off with
  | some r => rfl
  | none => exact absurd (by rw [hr]) h

theorem ix_eq_some {base stride n off k : Nat} (h : ix base stride n off = some k) : off = base + stride * k ∧ k < n := by
  unfold ix at h
  split at h
  · next hc =>
    obtain ⟨hb, hm, hn⟩ := hc
    cases h
    have := Nat.div_add_mod (off - base) stride
    exact ⟨by omega, hn⟩
  · cases h

/-- No field of the ADC results is RC: a read clears NEW and OVR by R269 alone. -/
theorem typeMask_rc_ADC_RES : ∀ k : Fin 64, typeMask (· == .rc) (ADC_RES 0 0 + 4 * k) = 0 := by decide

theorem ix_ADC_RES_of_rc {off : Nat} (h : typeMask (· == .rc) off ≠ 0) : ix (ADC_RES 0 0) 4 64 off = none := by
  cases hx : ix (ADC_RES 0 0) 4 64 off with
  | none => rfl
  | some k =>
    obtain ⟨rfl, hk⟩ := ix_eq_some hx
    exact absurd (typeMask_rc_ADC_RES ⟨k, hk⟩) h

theorem Dev.readEffect_rc (d : Dev) (off : Nat) (hw : Word) (h : typeMask (· == .rc) off ≠ 0) :
    d.readEffect off hw =
      d.setWord off ((d.word off &&& ~~~ typeMask (· == .rc) off) ||| (hw &&& typeMask (· == .rc) off)) := by
  rw [Dev.readEffect, ix_ADC_RES_of_rc h]
  exact if_neg h

/-- Under the mask a merged word is the one, outside it the other. -/
theorem and_mask_merge (w v m : Word) : ((w &&& ~~~ m) ||| (v &&& m)) &&& m = v &&& m := by
  ext i
  simp only [BitVec.getElem_and, BitVec.getElem_or, BitVec.getElem_not]
  cases m[i] <;> simp

theorem and_not_mask_merge (w v m : Word) : ((w &&& ~~~ m) ||| (v &&& m)) &&& ~~~ m = w &&& ~~~ m := by
  ext i
  simp only [BitVec.getElem_and, BitVec.getElem_or, BitVec.getElem_not]
  cases m[i] <;> simp

theorem rcFieldRead_comes (s : State) (o : Origin) (off be : Nat) (hw : Word) (h : s.dev.Answers off) (ha : off % 4 = 0)
    (hl : off < 0x400000) (hrc : typeMask (· == .rc) off ≠ 0) (hlat : s.dev.latchOf o off = none) :
    Comes (.rcFieldRead o off be hw) o s fun d => d.out = .answer o off (.data (s.dev.peek s.nv o off &&& beMask be)) :: s.dev.out ∧
      d.word off &&& typeMask (· == .rc) off = hw &&& typeMask (· == .rc) off ∧
      d.word off &&& ~~~ typeMask (· == .rc) off = s.dev.word off &&& ~~~ typeMask (· == .rc) off ∧
      s.dev.Changes [.rlatch, .out] (At [off]) d := by
  have hlatch : s.dev.Changes [.rlatch] (At []) (s.dev.latching s.nv o off) := s.dev.latching_changes s.nv o off
  have hword : ((s.dev.latching s.nv o off).readEffect off hw).word off =
      (s.dev.word off &&& ~~~ typeMask (· == .rc) off) ||| (hw &&& typeMask (· == .rc) off) := by
    rw [Dev.readEffect_rc _ _ _ hrc, Dev.word_setWord_same, hlatch.word off (by simp)]
  refine .read rfl h ha (by omega) (regAt_isSome_of_typeMask hrc) ⟨?_, ?_, ?_, ?_⟩
  · rw [Dev.afterRead, hlat, Dev.readEffect_rc _ _ _ hrc]
    exact congrArg _ (hlatch.1 .out (by simp))
  · exact (congrArg (· &&& _) hword).trans (and_mask_merge ..)
  · exact (congrArg (· &&& _) hword).trans (and_not_mask_merge ..)
  · rw [Dev.afterRead, Dev.readEffect_rc _ _ _ hrc]
    exact ((hlatch.mono (by simp) (by simp)).trans (.setWord _ _ _ (by simp))).trans (.out_ _ _ (by simp))

/-! ### Reads of CYC_NUM and of the time bases (R162, R164) -/

theorem cycNumRead_comes (s : State) (o : Origin) (be : Nat) (h : s.dev.awake) (hlat : s.dev.latchOf o CYC_NUM = none) :
    Comes (.cycNumRead o be) o s fun d =>
      d.out = .answer o CYC_NUM (.data (s.dev.word CYC_NUM &&& beMask be)) :: s.dev.out ∧ d.latchOf o CYC_T0 = some (s.dev.word CYC_T0) ∧
      d.latchOf o CYC_PHASE = some (dw s.dev.phaseWord) ∧ s.dev.Changes [.rlatch, .out] (At []) d := by
  have hp : PlainRead CYC_NUM := by decide
  have hlatching : s.dev.latching s.nv o CYC_NUM =
      ((s.dev.setLatch o CYC_T0 (s.dev.word CYC_T0)).setLatch o CYC_PHASE (dw s.dev.phaseWord)).dropLatch o CYC_NUM := rfl
  refine .plainRead rfl h hp ⟨?_, ?_, ?_, Dev.afterRead_changes _ _ _ _ _ _ hp⟩ <;> rw [Dev.afterRead_plain _ _ _ _ _ _ hp, hlatching]
  · rw [hlat]
    rfl
  · rw [Dev.latchOf_emit, Dev.latchOf_dropLatch_ne _ _ _ _ _ (by simp [CYC_T0, CYC_NUM]),
      Dev.latchOf_setLatch_ne _ _ _ _ _ _ (by simp [CYC_T0, CYC_PHASE]), Dev.latchOf_setLatch_same]
  · rw [Dev.latchOf_emit, Dev.latchOf_dropLatch_ne _ _ _ _ _ (by simp [CYC_PHASE, CYC_NUM]), Dev.latchOf_setLatch_same]

theorem plainRead_TIM_TB_NS : ∀ n : Fin 4, PlainRead (TIM_TB_NS n) := by decide

theorem latchedBy_TIM_TB_NS : ∀ n : Fin 4, latchedBy (TIM_TB_NS n) = [TIM_TB_FRAC n] := by decide

theorem dw_toNat (w : Word) : dw w.toNat = w := by simp [dw]

theorem Dev.peek_TIM_TB_NS (d : Dev) (nv : Nonvol) (o : Origin) (n : Fin 4) : d.peek nv o (TIM_TB_NS n) = nsOf (d.tb n) := by
  have h : d.peek nv o (TIM_TB_NS n) = dw (nsOf (d.tb n)).toNat := by fin_cases n <;> rfl
  rw [h, dw_toNat]

theorem Dev.peek_TIM_TB_FRAC (d : Dev) (nv : Nonvol) (o : Origin) (n : Fin 4) : d.peek nv o (TIM_TB_FRAC n) = fracOf (d.tb n) := by
  have h : d.peek nv o (TIM_TB_FRAC n) = dw (fracOf (d.tb n)).toNat := by fin_cases n <;> rfl
  rw [h, dw_toNat]

/-- A read of a base's ns word answers it and latches its fraction (R162). -/
theorem Dev.afterRead_TIM_TB_NS (d : Dev) (nv : Nonvol) (o : Origin) (n : Fin 4) (be : Nat) (hlat : d.latchOf o (TIM_TB_NS n) = none) :
    (d.afterRead nv o (TIM_TB_NS n) be 0).out = .answer o (TIM_TB_NS n) (.data (nsOf (d.tb n) &&& beMask be)) :: d.out ∧
    (d.afterRead nv o (TIM_TB_NS n) be 0).latchOf o (TIM_TB_FRAC n) = some (fracOf (d.tb n)) := by
  have hne : TIM_TB_FRAC n ≠ TIM_TB_NS n := by
    unfold TIM_TB_FRAC TIM_TB_NS
    omega
  rw [Dev.afterRead_plain _ _ _ _ _ _ (plainRead_TIM_TB_NS n)]
  constructor
  · rw [hlat, Option.getD_none, Dev.peek_TIM_TB_NS]
    exact congrArg _ ((d.latching_changes (S := At []) nv o _).1 .out (by simp))
  · rw [Dev.latchOf_emit, Dev.latchOf_latching_single _ _ _ _ _ (latchedBy_TIM_TB_NS n) hne, Dev.peek_TIM_TB_FRAC]

/-- The device as an access finds it that ties with a set or step: the bases as they were before (R164). -/
def Dev.untied (d : Dev) : Dev :=
  { d with time := { d.time with tb0 := d.tbBefore 0, tb1 := d.tbBefore 1, tb3 := d.tbBefore 3 } }

/-- Only TB2 is never set or stepped. -/
theorem Dev.tb_untied (d : Dev) (n : Fin 4) (h : n.val ≠ 2) : d.untied.tb n = d.tbBefore n := by
  fin_cases n
  · rfl
  · rfl
  · exact absurd rfl h
  · rfl

theorem Dev.tied_out (d : Dev) (f : Dev → Dev) : (d.tied true f).out = (f d.untied).out := rfl

theorem Dev.latchOf_tied (d : Dev) (f : Dev → Dev) (o : Origin) (off : Nat) :
    (d.tied true f).latchOf o off = (f d.untied).latchOf o off := rfl

/-- A tie leaves the bases as the access found them. -/
theorem Dev.tied_changes {ps : List DevPart} {S : Nat → Prop} (d : Dev) (f : Dev → Dev) (ht : .time ∉ ps)
    (h : Dev.Changes ps S d.untied (f d.untied)) : Dev.Changes ps S d (d.tied true f) := by
  refine ⟨fun p hp => ?_, h.2⟩
  have hpart := h.1 p hp
  have htime : (f d.untied).time = d.untied.time := h.1 .time ht
  cases p
  case time =>
    show ({ (f d.untied).time with tb0 := d.time.tb0, tb1 := d.time.tb1, tb3 := d.time.tb3 } : TimeState) = d.time
    rw [htime]
    rfl
  all_goals exact hpart

theorem tbNsRead_comes (s : State) (o : Origin) (n : Fin 4) (be : Nat) (h : s.dev.awake)
    (hlat : s.dev.latchOf o (TIM_TB_NS n) = none) : Comes (.tbNsRead o n be false) o s fun d =>
      d.out = .answer o (TIM_TB_NS n) (.data (nsOf (s.dev.tb n) &&& beMask be)) :: s.dev.out ∧
      d.latchOf o (TIM_TB_FRAC n) = some (fracOf (s.dev.tb n)) ∧ s.dev.Changes [.rlatch, .out] (At []) d := by
  obtain ⟨hout, hfrac⟩ := s.dev.afterRead_TIM_TB_NS s.nv o n be hlat
  exact .plainRead rfl h (plainRead_TIM_TB_NS n) ⟨hout, hfrac, Dev.afterRead_changes _ _ _ _ _ _ (plainRead_TIM_TB_NS n)⟩

theorem tbNsRead_tie_comes (s : State) (o : Origin) (n : Fin 4) (be : Nat) (h : s.dev.awake) (hn : n.val ≠ 2)
    (hlat : s.dev.latchOf o (TIM_TB_NS n) = none) : Comes (.tbNsRead o n be true) o s fun d =>
      d.out = .answer o (TIM_TB_NS n) (.data (nsOf (s.dev.tbBefore n) &&& beMask be)) :: s.dev.out ∧
      d.latchOf o (TIM_TB_FRAC n) = some (fracOf (s.dev.tbBefore n)) ∧ s.dev.Changes [.rlatch, .out] (At []) d := by
  have hp := plainRead_TIM_TB_NS n
  obtain ⟨ha, hl, hr, hg, -⟩ := plainRead_TIM_TB_NS n
  have hread : s.dev.untied.readReg s.nv o (TIM_TB_NS n) be = s.dev.untied.afterRead s.nv o (TIM_TB_NS n) be 0 :=
    Dev.busRead_answers _ _ _ _ _ _ ⟨h, Dev.gated_outside _ _ hg⟩ ha hl hr
  obtain ⟨hout, hfrac⟩ := s.dev.untied.afterRead_TIM_TB_NS s.nv o n be hlat
  rw [Dev.tb_untied _ _ hn] at hout hfrac
  have hc : exec (.tbNsRead o n be true) s = s.access o fun nv d => d.tied true fun d => d.readReg nv o (TIM_TB_NS n) be := rfl
  refine ⟨s.dev.tied true fun d => d.readReg s.nv o (TIM_TB_NS n) be, hc.trans (State.access_next s o _ h.1), ?_, ?_, ?_⟩
  · rw [Dev.tied_out, hread]
    exact hout
  · rw [Dev.latchOf_tied, hread]
    exact hfrac
  · refine Dev.tied_changes _ _ (by decide) ?_
    rw [hread]
    exact Dev.afterRead_changes _ _ _ _ _ _ hp

/-! ### A read of an ADC result (R269) -/

theorem ADC_RES_place (x : Fin 2) (i : Fin 32) : ADC_RES x i = ADC_RES 0 0 + 4 * (32 * x.val + i) := by
  unfold ADC_RES
  omega

theorem regAt_ADC_RES : ∀ k : Fin 64, (regAt (ADC_RES 0 0 + 4 * k)).isSome = true := by decide

/-- A read of an ADC result clears its NEW and OVR. -/
theorem Dev.readEffect_ADC_RES (d : Dev) (x : Fin 2) (i : Fin 32) (hw : Word) :
    d.readEffect (ADC_RES x i) hw = (d.set (ADC_RES_NEW x i) 0).set (ADC_RES_OVR x i) 0 := by
  have hix : ix (ADC_RES 0 0) 4 64 (ADC_RES x i) = some (32 * x.val + i) := by
    rw [ADC_RES_place]
    exact ix_at _ _ _ _ (by decide) (by omega)
  have hx : (32 * x.val + i) / 32 = x := by omega
  have hi : (32 * x.val + i) % 32 = i := by omega
  simp only [Dev.readEffect, hix, Dev.adcResRead, hx, hi]

/-- No register of the ADC block follows other state. -/
theorem Dev.liveMid_ADC (d : Dev) (off : Nat) (hlo : 0x1C0000 ≤ off) (hhi : off < 0x1D0000) : d.liveMid off = none := by
  unfold Dev.liveMid
  iterate 10 refine (if_neg (by
    simp only [CLK_GUSE0, CLK_GUSE1, RST_STAT, CYC_PHASE, TIM_TB_NS, TIM_STAT, SCH_STAT, SCH_ICAL, DPX_INGLEN, DPX_WSTAT]
    omega)).trans ?_
  rfl

theorem Dev.peek_ADC_RES (d : Dev) (nv : Nonvol) (o : Origin) (x : Fin 2) (i : Fin 32) :
    d.peek nv o (ADC_RES x i) = d.word (ADC_RES x i) := by
  have hlo : 0x1C0000 ≤ ADC_RES x i := by unfold ADC_RES; omega
  have hhi : ADC_RES x i < 0x1D0000 := by unfold ADC_RES; omega
  unfold Dev.peek
  dsimp only
  rw [if_neg (by omega), if_pos (by omega), Dev.liveMid_ADC _ _ hlo hhi]

/-- What is left in an ADC result whose NEW and OVR are cleared. -/
theorem Dev.get_ADC_RES_read (d : Dev) (x i : Nat) :
    ((d.set (ADC_RES_NEW x i) 0).set (ADC_RES_OVR x i) 0).get (ADC_RES_NEW x i) = 0 ∧
    ((d.set (ADC_RES_NEW x i) 0).set (ADC_RES_OVR x i) 0).get (ADC_RES_OVR x i) = 0 ∧
    ((d.set (ADC_RES_NEW x i) 0).set (ADC_RES_OVR x i) 0).get (ADC_RES_RES x i) = d.get (ADC_RES_RES x i) := by
  have hnew : (ADC_RES_NEW x i).hi < 32 := show 31 < 32 by decide
  have hovr : (ADC_RES_OVR x i).hi < 32 := show 28 < 32 by decide
  have hres : (ADC_RES_RES x i).hi < 32 := show 19 < 32 by decide
  refine ⟨?_, ?_, ?_⟩
  · rw [Dev.get_set_disjoint _ (ADC_RES_OVR x i) (ADC_RES_NEW x i) 0 hovr hnew rfl (.inr (show 28 < 31 by decide)),
      Dev.get_set_same _ _ _ hnew, Nat.zero_mod]
  · rw [Dev.get_set_same _ _ _ hovr, Nat.zero_mod]
  · rw [Dev.get_set_disjoint _ (ADC_RES_OVR x i) (ADC_RES_RES x i) 0 hovr hres rfl (.inl (show 19 < 28 by decide)),
      Dev.get_set_disjoint _ (ADC_RES_NEW x i) (ADC_RES_RES x i) 0 hnew hres rfl (.inl (show 19 < 31 by decide))]

theorem adcResRead_comes (s : State) (o : Origin) (x : Fin 2) (i : Fin 32) (be : Nat) (h : s.dev.Answers (ADC_RES x i))
    (hlat : s.dev.latchOf o (ADC_RES x i) = none) : Comes (.adcResRead o x i be) o s fun d =>
      d.out = .answer o (ADC_RES x i) (.data (s.dev.word (ADC_RES x i) &&& beMask be)) :: s.dev.out ∧ d.get (ADC_RES_NEW x i) = 0 ∧
      d.get (ADC_RES_OVR x i) = 0 ∧ d.get (ADC_RES_RES x i) = s.dev.get (ADC_RES_RES x i) ∧
      s.dev.Changes [.rlatch, .out] (At [ADC_RES x i]) d := by
  have hlatch : s.dev.Changes [.rlatch] (At []) (s.dev.latching s.nv o (ADC_RES x i)) := s.dev.latching_changes s.nv o _
  have hr : (regAt (ADC_RES x i)).isSome = true := by
    rw [ADC_RES_place]
    exact regAt_ADC_RES ⟨32 * x.val + i, by omega⟩
  refine .read rfl h (by unfold ADC_RES; omega) (by unfold ADC_RES; omega) hr ?_
  rw [Dev.afterRead, hlat, Option.getD_none, Dev.peek_ADC_RES, Dev.readEffect_ADC_RES]
  generalize s.dev.latching s.nv o (ADC_RES x i) = l at hlatch
  obtain ⟨hnew, hovr, hres⟩ := l.get_ADC_RES_read x i
  have hset : l.Changes [.rlatch, .out] (At [ADC_RES x i]) ((l.set (ADC_RES_NEW x i) 0).set (ADC_RES_OVR x i) 0) :=
    .trans (.set _ _ _ (by simp [ADC_RES_NEW])) (.set _ _ _ (by simp [ADC_RES_OVR]))
  exact ⟨congrArg _ (hlatch.1 .out (by simp)), hnew, hovr, hres.trans (hlatch.get _ (by simp)),
    ((hlatch.mono (by simp) (by simp)).trans hset).trans (.out_ _ _ (by simp))⟩

/-! ### Writes -/

/-- A field's value is a part of the word as a number. -/
theorem Fld.of_eq_div_mod (f : Fld) (w : Word) (h : f.hi < 32) : f.of w = w.toNat / 2 ^ f.lo % 2 ^ (f.hi + 1 - f.lo) := by
  apply Nat.eq_of_testBit_eq
  intro i
  rw [Fld.of, BitVec.testBit_toNat, BitVec.getLsbD_ushiftRight, BitVec.getLsbD_and, Fld.mask_bit f h, Nat.testBit_mod_two_pow,
    Nat.testBit_div_two_pow, BitVec.testBit_toNat, Nat.add_comm i]
  by_cases hi : f.lo + i ≤ f.hi
  · simp [hi, show i < f.hi + 1 - f.lo by omega]
  · simp [hi, show ¬ i < f.hi + 1 - f.lo by omega]

/-- A write of a register whose writable bits are those of one field, without flags. -/
theorem Dev.word_plainWrite (d : Dev) (f : Fld) (v : Word) (hs : typeMask (fun t => t == .rw || t == .rwl) f.off = f.mask)
    (hf : typeMask (· == .w1c) f.off = 0) : (d.plainWrite f.off v 0).word f.off = (d.word f.off &&& ~~~ f.mask) ||| (v &&& f.mask) := by
  simp only [Dev.plainWrite, hs, hf, Dev.word_setWord_same, BitVec.ofNat_eq_ofNat, BitVec.and_zero, BitVec.not_zero, BitVec.and_allOnes,
    BitVec.or_zero]

theorem Dev.get_plainWrite (d : Dev) (f : Fld) (v : Word) (hs : typeMask (fun t => t == .rw || t == .rwl) f.off = f.mask)
    (hf : typeMask (· == .w1c) f.off = 0) : (d.plainWrite f.off v 0).get f = f.of v := by
  show f.of ((d.plainWrite f.off v 0).word f.off) = f.of v
  rw [Dev.word_plainWrite _ _ _ hs hf, Fld.of, and_mask_merge, Fld.of]

theorem attnEnWrite_comes (s : State) (o : Origin) (v : Word) (h : s.Reaches o TOP_ATTN_EN) : Comes (.attnEnWrite o v) o s fun d =>
    d.get TOP_ATTN_EN_EN = v.toNat % 256 ∧ s.dev.Changes [.out] (At [TOP_ATTN_EN]) d := by
  refine ⟨_, State.write_reaches s o TOP_ATTN_EN v h (by decide) (by decide) regAt_TOP_ATTN_EN, ?_, ?_⟩ <;>
    rw [Dev.special_TOP_ATTN_EN, Option.getD_none]
  · calc (s.dev.plainWrite TOP_ATTN_EN v 0).get TOP_ATTN_EN_EN
      _ = TOP_ATTN_EN_EN.of v := s.dev.get_plainWrite TOP_ATTN_EN_EN v (by decide) (by decide)
      _ = v.toNat % 256 := by simp [Fld.of_eq_div_mod, TOP_ATTN_EN_EN]
  · exact .trans (.setWord _ _ _ (by simp)) (.out_ _ _ (by simp))

theorem HIF_RING_BASELO_writable : ∀ r : Fin 6,
    typeMask (fun t => t == .rw || t == .rwl) (HIF_RING_BASELO r) = (HIF_RING_BASELO_BASE_LO r).mask ∧
      typeMask (· == .w1c) (HIF_RING_BASELO r) = 0 := by decide

theorem HIF_RING_BASEHI_writable : ∀ r : Fin 6,
    typeMask (fun t => t == .rw || t == .rwl) (HIF_RING_BASEHI r) = (HIF_RING_BASEHI_BASE_HI r).mask ∧
      typeMask (· == .w1c) (HIF_RING_BASEHI r) = 0 := by decide

theorem wideLowWrite_comes (s : State) (o o' : Origin) (r : Fin 6) (v : Word) (off : Nat) (ho : o' ≠ o)
    (h : s.Reaches o (HIF_RING_BASELO r)) : Comes (.wideLowWrite o r v) o s fun d =>
      (d.wlatch.find? fun e => e.1 == (o, HIF_RING_BASELO r)) = some ((o, HIF_RING_BASELO r), v) ∧
      (d.wlatch.find? fun e => e.1 == (o', off)) = (s.dev.wlatch.find? fun e => e.1 == (o', off)) ∧
      s.dev.Changes [.wlatch, .out] (At []) d := by
  have hk : (o', off) ≠ (o, HIF_RING_BASELO r) := fun e => ho (congrArg Prod.fst e)
  have hb : ((o, HIF_RING_BASELO r) == (o', off)) = false := beq_eq_false_iff_ne.2 hk.symm
  refine ⟨_, State.write_reaches s o _ v h (by unfold HIF_RING_BASELO; omega) (by unfold HIF_RING_BASELO; omega)
    (regAt_HIF_RING_BASELO r), ?_⟩
  rw [Dev.special_HIF_RING_BASELO, Option.getD_some]
  refine ⟨by simp [Dev.emit, Dev.wideLow], ?_, .trans (.wlatch_ _ _ (by simp)) (.out_ _ _ (by simp))⟩
  simp only [Dev.emit, Dev.wideLow, List.find?_cons, hb, find_filter_key_ne _ hk]

/-- A write of the high word applies the low word that waits for it (R11). -/
theorem Dev.wideHigh_held (d : Dev) (o : Origin) (lo hi : Nat) (v x : Word)
    (h : (d.wlatch.find? fun e => e.1 == (o, lo)) = some ((o, lo), x)) :
    d.wideHigh o lo hi v =
      { (d.plainWrite lo x 0).plainWrite hi v 0 with wlatch := d.wlatch.filter fun e => e.1 != (o, lo) } := by
  simp only [Dev.wideHigh, h]
  rfl

theorem wideUpperWrite_comes (s : State) (o : Origin) (r : Fin 6) (v x : Word) (h : s.Reaches o (HIF_RING_BASEHI r))
    (hx : (s.dev.wlatch.find? fun e => e.1 == (o, HIF_RING_BASELO r)) = some ((o, HIF_RING_BASELO r), x)) :
    Comes (.wideUpperWrite o r v) o s fun d => d.get (HIF_RING_BASELO_BASE_LO r) = x.toNat / 2 ^ 12 ∧
      d.word (HIF_RING_BASEHI r) = v ∧ (d.wlatch.find? fun e => e.1 == (o, HIF_RING_BASELO r)) = none ∧
      s.dev.Changes [.wlatch, .out] (At [HIF_RING_BASELO r, HIF_RING_BASEHI r]) d := by
  obtain ⟨hlo, hlof⟩ := HIF_RING_BASELO_writable r
  obtain ⟨hhi, hhif⟩ := HIF_RING_BASEHI_writable r
  have hne : HIF_RING_BASELO r ≠ HIF_RING_BASEHI r := by
    unfold HIF_RING_BASELO HIF_RING_BASEHI
    omega
  refine ⟨_, State.write_reaches s o _ v h (by unfold HIF_RING_BASEHI; omega) (by unfold HIF_RING_BASEHI; omega)
    (regAt_HIF_RING_BASEHI r), ?_⟩
  rw [Dev.special_HIF_RING_BASEHI, Option.getD_some, Dev.wideHigh_held _ _ _ _ _ _ hx]
  refine ⟨?_, ?_, find_filter_key_same _ _, ?_⟩
  · calc ((s.dev.plainWrite (HIF_RING_BASELO r) x 0).plainWrite (HIF_RING_BASEHI r) v 0).get (HIF_RING_BASELO_BASE_LO r)
      _ = (s.dev.plainWrite (HIF_RING_BASELO r) x 0).get (HIF_RING_BASELO_BASE_LO r) := Dev.get_setWord_off _ _ _ _ hne
      _ = (HIF_RING_BASELO_BASE_LO r).of x := s.dev.get_plainWrite (HIF_RING_BASELO_BASE_LO r) x hlo hlof
      _ = x.toNat / 2 ^ 12 := by
        rw [Fld.of_eq_div_mod _ _ (show 31 < 32 by decide)]
        exact Nat.mod_eq_of_lt (by simp only [HIF_RING_BASELO_BASE_LO]; omega)
  · have hall : (HIF_RING_BASEHI_BASE_HI r).mask = BitVec.allOnes 32 := by
      simp only [Fld.mask, HIF_RING_BASEHI_BASE_HI]
      decide
    refine (Dev.word_plainWrite _ (HIF_RING_BASEHI_BASE_HI r) v hhi hhif).trans ?_
    rw [hall, BitVec.not_allOnes, BitVec.and_allOnes, BitVec.and_zero, BitVec.zero_or]
  · exact .trans (.trans (.trans (.setWord _ _ _ (by simp)) (.setWord _ _ _ (by simp))) (.wlatch_ _ _ (by simp))) (.out_ _ _ (by simp))

/-! ### The statement -/

/-- Settles O20: it holds, clause by clause, each by the rule of its access. -/
theorem wideValuesAndReads : Obligations.WideValuesAndReads := by
  refine ⟨fun s o o' w r v x off be h ho => ⟨?_, ?_, ?_, ?_⟩, fun s o off be v hw n x i => ⟨?_, ?_, ?_, ?_, ?_, ?_⟩⟩
  · exact wideLowRead_comes s o o' w off be h ho
  · exact wideUpperRead_comes s o o' w off be h ho
  · exact wideLowWrite_comes s o o' r v off ho
  · exact wideUpperWrite_comes s o r v x
  · exact rcFieldRead_comes s o off be hw
  · exact cycNumRead_comes s o be
  · exact tbNsRead_comes s o n be
  · exact tbNsRead_tie_comes s o n be
  · exact adcResRead_comes s o x i be
  · exact attnEnWrite_comes s o v

end Sys2Proof.Machine
end

section
/-! Following SYNC_IN (R58 to R62): what an edge does to a timer that follows, what SYNCLOSS does, and the statement of both. -/

namespace Sys2Proof.Machine

open Sys2Proof

/-! ### Signed fields -/

/-- A field's value fits its width. -/
theorem Dev.get_lt (d : Dev) (f : Fld) (h : f.hi < 32) : d.get f < 2 ^ f.width := by
  rw [Dev.get, Store.getF, Fld.of_eq_div_mod f _ h]
  exact Nat.mod_lt _ (Nat.two_pow_pos _)

/-- A signed number that fits a field's width is read back. -/
theorem Dev.getS_setS_same (d : Dev) (f : Fld) (v : Int) (h : f.hi < 32) (hlo : -2 ^ f.width ≤ v * 2) (hhi : v * 2 < 2 ^ f.width) :
    (d.setS f v).getS f = v := by
  have hget : (d.setS f v).get f = (BitVec.ofInt f.width v).toNat :=
    (d.get_set_same f _ h).trans (Nat.mod_eq_of_lt (BitVec.isLt _))
  rw [Dev.getS, toSigned, hget, BitVec.ofNat_toNat, BitVec.setWidth_eq, BitVec.toInt_ofInt]
  exact Int.bmod_eq_of_le_mul_two (by exact_mod_cast hlo) (by exact_mod_cast hhi)

/-! ### How a command runs -/

/-- A command that is a function of the device runs out of reset. -/
theorem Runs.act {c : Instr} {o : Origin} {s : State} {P : Dev → Prop} (f : Dev → Dev) (hc : exec c s = s.act o f)
    (h : s.dev.held = false) (hP : P (f s.dev)) : Runs c o s P :=
  ⟨_, hc.trans (State.act_next s o f h), hP⟩

/-! ### Time that passes until an edge -/

theorem Dev.advanceTo_changes (d : Dev) (t : BitVec 48) : Dev.Changes [.time] (At [TIM_WRAP]) d (d.advanceTo t) :=
  d.elapse_changes _

@[simp] theorem Dev.advanceTo_cyc (d : Dev) (t : BitVec 48) : (d.advanceTo t).cyc = d.cyc :=
  (d.advanceTo_changes t).1 .cyc (by simp)

theorem Dev.advanceTo_get (d : Dev) (t : BitVec 48) (g : Fld) (h : g.off ≠ TIM_WRAP) : (d.advanceTo t).get g = d.get g :=
  (d.advanceTo_changes t).get g (by simpa using h)

@[simp] theorem Dev.advanceTo_following (d : Dev) (t : BitVec 48) : (d.advanceTo t).following = d.following := by
  simp (disch := decide) only [Dev.following, Dev.running, Dev.role, Dev.is, Dev.advanceTo_get]

@[simp] theorem Dev.advanceTo_timing (d : Dev) (t : BitVec 48) : (d.advanceTo t).timing = d.timing := by
  simp (disch := decide) only [Dev.timing, Dev.advanceTo_get]

/-! ### An edge of SYNC_IN -/

theorem Dev.setCyc_changes {ps : List DevPart} {S : Nat → Prop} (d : Dev) (f : CycState → CycState) (h : DevPart.cyc ∈ ps) :
    Dev.Changes ps S d (d.setCyc f) := .cyc_ d _ h

/-- The time of an edge at an instant of TB0, in whole ns and less the delay of the input (R58). -/
def Dev.correctedEdge (d : Dev) (t : BitVec 48) : BitVec 48 :=
  ((t >>> 16) <<< 16) - BitVec.ofNat 48 (d.get CYC_SYNCIN_INDLY * 2 ^ 16)

theorem Dev.correctedEdge_advanceTo (d : Dev) (t u : BitVec 48) :
    ((t >>> 16) <<< 16) - BitVec.ofNat 48 ((d.advanceTo u).get CYC_SYNCIN_INDLY * 2 ^ 16) = d.correctedEdge t := by
  rw [Dev.advanceTo_get _ _ _ (by decide), Dev.correctedEdge]

/-- An edge for which the timer waits fixes its first boundary (R59). -/
theorem Dev.syncEdge_waiting (d : Dev) (t : BitVec 48) (hf : d.following = true) (hw : d.cyc.waitEdge = true) :
    d.syncEdge t = (d.advanceTo t).setCyc fun c =>
      { c with waitEdge := false, start := some (plusNs (d.correctedEdge t) d.timing.tcyc) } := by
  refine (if_neg (by simp [hf])).trans ((if_pos (by simp [hw])).trans ?_)
  rw [Dev.correctedEdge_advanceTo, Dev.advanceTo_timing]

/-- An edge within the window of the current boundary has its phase error to that boundary. -/
theorem Dev.edgeError_inWindow (d : Dev) (edge : BitVec 48) (h : (nsBetween edge d.cyc.t0).natAbs ≤ d.get CYC_SYNCCFG_WIN) :
    d.edgeError edge = some (nsBetween edge d.cyc.t0) := by
  simp [Dev.edgeError, h]

theorem Dev.advanceTo_edgeError (d : Dev) (t edge : BitVec 48) : (d.advanceTo t).edgeError edge = d.edgeError edge := by
  rw [Dev.edgeError, Dev.advanceTo_cyc, Dev.advanceTo_get _ _ CYC_SYNCCFG_WIN (by decide), Dev.edgeError]

/-- The first edge within the window of the current boundary is accepted with its phase error (R60). -/
theorem Dev.syncEdge_inWindow (d : Dev) (t : BitVec 48) (hf : d.following = true) (hw : d.cyc.waitEdge = false)
    (hc : d.cyc.inCycle = true) (he : d.cyc.edge = false)
    (h : (nsBetween (d.correctedEdge t) d.cyc.t0).natAbs ≤ d.get CYC_SYNCCFG_WIN) :
    d.syncEdge t = (d.advanceTo t).steer (nsBetween (d.correctedEdge t) d.cyc.t0) := by
  refine (if_neg (by simp [hf])).trans ((if_neg (by simp [hw])).trans ((if_neg (by simp [hc])).trans ?_))
  rw [Dev.correctedEdge_advanceTo, Dev.advanceTo_edgeError, Dev.edgeError_inWindow _ _ h]
  exact if_neg (by simp [he])

/-! ### What an accepted edge leaves (R60, R61) -/

@[simp] theorem Dev.steer_edge (d : Dev) (e : Int) : (d.steer e).cyc.edge = true := rfl

@[simp] theorem Dev.steer_missrun (d : Dev) (e : Int) : (d.steer e).get CYC_SYNCERR_MISSRUN = 0 := by
  rw [Dev.steer, Dev.setB, Dev.get_set_off _ _ _ _ (by decide), Dev.get_set_same _ _ _ (by decide), Nat.zero_mod]

/-- The phase error recorded is that of the edge, if the field holds it. -/
theorem Dev.steer_err (d : Dev) (e : Int) (hlo : -2 ^ 15 ≤ e) (hhi : e < 2 ^ 15) : (d.steer e).getS CYC_SYNCERR_ERR = e := by
  have hget : ∀ x : Dev, ∀ v b, ((x.set CYC_SYNCERR_MISSRUN v).setB CYC_STAT_SYNCLOCK b).getS CYC_SYNCERR_ERR = x.getS CYC_SYNCERR_ERR := by
    intro x v b
    rw [Dev.getS, Dev.setB, Dev.get_set_off _ _ _ _ (by decide),
      Dev.get_set_disjoint _ CYC_SYNCERR_MISSRUN CYC_SYNCERR_ERR _ (by decide) (by decide) rfl (.inl (by decide)), Dev.getS]
  have hw : CYC_SYNCERR_ERR.width = 16 := rfl
  rw [Dev.steer, hget]
  exact Dev.getS_setS_same _ _ _ (by decide) (by rw [hw]; omega) (by rw [hw]; omega)

theorem Dev.steer_changes (d : Dev) (e : Int) : Dev.Changes [.cyc] (At [CYC_SYNCERR, CYC_STAT]) d (d.steer e) := by
  refine Dev.Chg.changes ?_
  unfold Dev.steer Dev.setB Dev.setS Dev.setCyc
  repeat' constructor

/-- No window is wider than what the error's field holds. -/
theorem Dev.window_lt (d : Dev) : d.get CYC_SYNCCFG_WIN < 2 ^ 12 := d.get_lt CYC_SYNCCFG_WIN (by decide)

/-! ### SYNCLOSS (R62) -/

theorem Dev.syncLoss_changes (d : Dev) : Dev.Changes [] (At [CYC_STAT]) d d.syncLoss := by
  refine Dev.Chg.changes ?_
  unfold Dev.syncLoss
  repeat' constructor

theorem Dev.syncLoss_flag (d : Dev) (hf : d.following = true) (h : 8 ≤ d.get CYC_SYNCERR_MISSRUN) :
    d.syncLoss.get CYC_STAT_SYNCLOSS = 1 := by
  have hset : (d.set CYC_STAT_SYNCLOSS 1).get CYC_STAT_SYNCLOSS = 1 := d.get_set_same CYC_STAT_SYNCLOSS 1 (by decide)
  rw [Dev.syncLoss, if_pos ⟨hf, h⟩]
  dsimp only
  split
  · rwa [Dev.get_set_disjoint _ CYC_STAT_SYNCFAR CYC_STAT_SYNCLOSS _ (by decide) (by decide) rfl (.inl (by decide))]
  · exact hset

theorem Dev.syncLoss_none (d : Dev) (h : d.get CYC_SYNCERR_MISSRUN < 8) : d.syncLoss = d :=
  if_neg fun ⟨_, h8⟩ => Nat.not_le_of_lt h h8

/-! ### The statement -/

theorem syncInEdge_waiting_runs (s : State) (t : BitVec 48) (h : s.dev.held = false) (hf : s.dev.following = true)
    (hw : s.dev.cyc.waitEdge = true) : Runs (.syncInEdge t) .device s fun d =>
      d.cyc.waitEdge = false ∧ d.cyc.start = some (plusNs (s.dev.correctedEdge t) s.dev.timing.tcyc) ∧
      s.dev.Changes [.time, .cyc] (At [TIM_WRAP]) d := by
  refine .act (·.syncEdge t) rfl h ?_
  rw [Dev.syncEdge_waiting _ _ hf hw]
  exact ⟨rfl, rfl, ((s.dev.advanceTo_changes t).mono (by simp) fun _ h => h).trans (Dev.setCyc_changes _ _ (by simp))⟩

theorem syncInEdge_accepted_runs (s : State) (t : BitVec 48) (h : s.dev.held = false) (hf : s.dev.following = true)
    (hw : s.dev.cyc.waitEdge = false) (hc : s.dev.cyc.inCycle = true) (he : s.dev.cyc.edge = false)
    (hwin : (nsBetween (s.dev.correctedEdge t) s.dev.cyc.t0).natAbs ≤ s.dev.get CYC_SYNCCFG_WIN) :
    Runs (.syncInEdge t) .device s fun d => d.cyc.edge = true ∧ d.get CYC_SYNCERR_MISSRUN = 0 ∧
      d.getS CYC_SYNCERR_ERR = nsBetween (s.dev.correctedEdge t) s.dev.cyc.t0 ∧
      s.dev.Changes [.time, .cyc] (At [TIM_WRAP, CYC_SYNCERR, CYC_STAT]) d := by
  have hlt := s.dev.window_lt
  refine .act (·.syncEdge t) rfl h ?_
  rw [Dev.syncEdge_inWindow _ _ hf hw hc he hwin]
  refine ⟨Dev.steer_edge _ _, Dev.steer_missrun _ _, Dev.steer_err _ _ (by omega) (by omega), ?_⟩
  exact ((s.dev.advanceTo_changes t).mono (by simp) (by simp)).trans ((Dev.steer_changes _ _).mono (by simp) (by simp))

theorem syncloss_runs (s : State) (h : s.dev.held = false) (hf : s.dev.following = true) (h8 : 8 ≤ s.dev.get CYC_SYNCERR_MISSRUN) :
    Runs .syncloss .device s fun d => d.get CYC_STAT_SYNCLOSS = 1 ∧ s.dev.Changes [] (At [CYC_STAT]) d :=
  .act (·.syncLoss) rfl h ⟨s.dev.syncLoss_flag hf h8, s.dev.syncLoss_changes⟩

theorem syncloss_early_runs (s : State) (h : s.dev.held = false) (h8 : s.dev.get CYC_SYNCERR_MISSRUN < 8) :
    Runs .syncloss .device s fun d => d = s.dev :=
  .act (·.syncLoss) rfl h (s.dev.syncLoss_none h8)

/-- Settles O7: it holds, an edge by what the timer waits for, SYNCLOSS by the run of cycles without an accepted edge. -/
theorem syncInFollowing : Obligations.SyncInFollowing := by
  intro s t h hf
  refine ⟨?_, ?_, ?_, ?_⟩
  · exact syncInEdge_waiting_runs s t h hf
  · exact syncInEdge_accepted_runs s t h hf
  · exact syncloss_runs s h hf
  · exact syncloss_early_runs s h

end Sys2Proof.Machine
end

section
/-! What follows from a command (`Dev.after`) writes only registers of BAR0 (R26), the last of which ends at 0x460000. -/

namespace Sys2Proof.Machine

open Sys2Proof

/-! ### The frame -/

/-- The parts of the device that may change in what follows from a command; the reset state is not among them. -/
abbrev settleParts : List DevPart := [.hif, .aud, .ports, .arms, .saf, .svc, .adc, .rcd, .dpx, .out]

/-- The offsets before the end of the cell table, the last block of BAR0. -/
abbrev InBar0 (off : Nat) : Prop := off < 0x460000

/-- From d to e, only those parts and registers of BAR0 differ. -/
def Dev.Settles (d e : Dev) : Prop := Dev.Changes settleParts InBar0 d e

theorem Dev.Changes.settles {ps : List DevPart} {l : List Nat} {d e : Dev} (h : Dev.Changes ps (At l) d e)
    (hp : ∀ p ∈ ps, p ∈ settleParts := by decide) (hl : ∀ off ∈ l, InBar0 off := by decide) : d.Settles e := h.mono hp hl

namespace Dev.Settles

variable {d e : Dev}

theorem refl (d : Dev) : d.Settles d := Changes.refl d

/-- What an operation does after what came before it. -/
theorem after {x : Dev} (k : e.Settles x) (h : d.Settles e) : d.Settles x := Changes.trans h k

theorem each {α : Type} {l : List α} {f : α → Dev → Dev} (h : d.Settles e) (hf : ∀ x ∈ l, ∀ y : Dev, y.Settles (f x y)) :
    d.Settles (e.each l f) := after (Changes.each e l f hf) h

theorem ite {a b : Dev} {c : Prop} [Decidable c] (h : d.Settles a) (k : d.Settles b) : d.Settles (if c then a else b) := by
  split <;> assumption

theorem set {f : Fld} {v : Nat} (h : d.Settles e) (ho : InBar0 f.off := by decide) : d.Settles (e.set f v) :=
  after (Changes.set e f v ho) h

theorem setB {f : Fld} {b : Bool} (h : d.Settles e) (ho : InBar0 f.off := by decide) : d.Settles (e.setB f b) := h.set ho

theorem setBit {f : Fld} {n : Nat} {b : Bool} (h : d.Settles e) (ho : InBar0 f.off := by decide) : d.Settles (e.setBit f n b) :=
  after (e.setBit_changes f n b ho) h

theorem raise {f : Fld} {n : Nat} (h : d.Settles e) (ho : InBar0 f.off := by decide) : d.Settles (e.raise f n) := h.set ho

theorem emit {m : Emission} (h : d.Settles e) : d.Settles (e.emit m) := after (Changes.out_ e _ (by decide)) h

theorem setPort {p : Nat} {f : PortState → PortState} (h : d.Settles e) : d.Settles (e.setPort p f) :=
  after (Changes.ports_ e _ (by decide)) h

theorem setArm {a : Nat} {f : ArmCtl → ArmCtl} (h : d.Settles e) : d.Settles (e.setArm a f) :=
  after (Changes.arms_ e _ (by decide)) h

theorem setSaf {f : SafState → SafState} (h : d.Settles e) : d.Settles (e.setSaf f) := after (Changes.saf_ e _ (by decide)) h

theorem setDpx {f : DpxState → DpxState} (h : d.Settles e) : d.Settles (e.setDpx f) := after (Changes.dpx_ e _ (by decide)) h

theorem setHif {f : HifState → HifState} (h : d.Settles e) : d.Settles (e.setHif f) := after (Changes.hif_ e _ (by decide)) h

theorem setIo {f : RecState → RecState} (h : d.Settles e) : d.Settles (e.setIo f) := after (Changes.rcd_ e _ (by decide)) h

theorem recNote {n : Nat} (h : d.Settles e) : d.Settles (e.recNote n) := after (e.recNote_changes n).settles h

theorem audit {kind code a0 a1 : Nat} {o : Origin} (h : d.Settles e) : d.Settles (e.audit kind code a0 a1 o) :=
  after (e.audit_changes kind code a0 a1 o).settles h

theorem demand {kind key : Nat} {m : Option Nat} (h : d.Settles e) : d.Settles (e.demand kind key m) :=
  after (e.demand_changes kind key m).settles h

theorem demandIf {b : Bool} {kind key mask : Nat} (h : d.Settles e) : d.Settles (e.demandIf b kind key mask) := h.demand

theorem scCause {n : Nat} {b : Bool} (h : d.Settles e) : d.Settles (e.scCause n b) := after (e.scCause_changes n b).settles h

end Dev.Settles

/-! ### Discoveries that end by themselves (R92, R93, R327) -/

theorem Store.find_filter (st : Store) (q : Nat × Word → Bool) (off : Nat) (h : ∀ e ∈ st, e.1 = off → q e = true) :
    Store.find (st.filter q) off = st.find off := by
  induction st with
  | nil => rfl
  | cons e rest ih =>
    have hrest := ih fun x hx => h x (List.mem_cons_of_mem _ hx)
    by_cases he : e.1 = off
    · simp [h e List.mem_cons_self he, Store.find, he]
    · by_cases hq : q e = true <;> simp [hq, Store.find, he, hrest]

theorem RING_DISC_inBar0 {p : Nat} (h : p < 48) : InBar0 (RING_DISC p) := by simp only [InBar0, RING_DISC]; omega
theorem RING_STAT_inBar0 {p : Nat} (h : p < 48) : InBar0 (RING_STAT p) := by simp only [InBar0, RING_STAT]; omega
theorem RING_EVT_inBar0 {p : Nat} (h : p < 48) : InBar0 (RING_EVT p) := by simp only [InBar0, RING_EVT]; omega
theorem SCH_ASTAT_inBar0 {a : Nat} (h : a < 12) : InBar0 (SCH_ASTAT a) := by simp only [InBar0, SCH_ASTAT]; omega
theorem SCH_AEVT_inBar0 {a : Nat} (h : a < 12) : InBar0 (SCH_AEVT a) := by simp only [InBar0, SCH_AEVT]; omega

/-- Clearing the entries of a port's cells leaves what lies past them. -/
theorem Dev.clearCells_settles (d : Dev) (p : Nat) (h : p < 48) : d.Settles (d.clearCells p) := by
  have hfilter : d.Settles { d with regs := d.regs.filter (fun e => e.1 < CELL_W00 (128 * p) || CELL_W00 (128 * p) + 0x2000 ≤ e.1) } := by
    refine ⟨fun q _ => by cases q <;> rfl, fun off ho => congrArg (·.getD (resetWord off)) (Store.find_filter _ _ _ ?_)⟩
    rintro e - rfl
    have hend : CELL_W00 (128 * p) + 0x2000 ≤ e.1 := by
      simp only [InBar0] at ho
      simp only [CELL_W00]
      omega
    simp [hend]
  exact .set (.setPort hfilter) (RING_STAT_inBar0 h)

theorem Dev.idleArms_settles (d : Dev) : d.Settles d.idleArms := .each (.refl d) fun _ _ e => .setArm (.refl e)

theorem Dev.discCounts_settles (d : Dev) (p : Nat) (h : p < 48) : d.Settles (d.discCounts p) := by
  have ho := RING_DISC_inBar0 h
  unfold Dev.discCounts
  split
  · exact .set (.set (.set (.refl d) ho) ho) ho
  · exact .refl d

theorem Dev.discEnd_settles (d : Dev) (p res : Nat) (h : p < 48) : d.Settles (d.discEnd p res) := by
  have hevt := RING_EVT_inBar0 h
  have hended : d.Settles ((((d.discCounts p).set (RING_DISC_RES p) res).set (RING_STAT_DISCBUSY p) 0).setPort p
      fun x => { x with disc := none }) :=
    .setPort (.set (.set (d.discCounts_settles p h) (RING_DISC_inBar0 h)) (RING_STAT_inBar0 h))
  unfold Dev.discEnd
  exact .ite (.set hended hevt) (.set (.after (idleArms_settles _) (.after (clearCells_settles _ p h) (.setPort hended))) hevt)

theorem Dev.discFailed_settles (d : Dev) (p : Nat) (x : Disc) (h : p < 48) : d.Settles (d.discFailed p x) :=
  .ite (.setPort (.refl d)) (d.discEnd_settles p _ h)

theorem Dev.discDue_settles (d : Dev) (p : Nat) (h : p < 48) : d.Settles (d.discDue p) := by
  unfold Dev.discDue
  split
  · exact .refl d
  · refine .ite (.ite (d.discEnd_settles p _ h) (.setPort (.refl d))) ?_
    split
    · exact .ite (d.discFailed_settles p _ h) (.refl d)
    · exact .refl d

theorem Dev.discsDue_settles (d : Dev) : d.Settles d.discsDue :=
  .each (.refl d) fun p hp e => e.discDue_settles p (List.mem_range.1 (List.mem_of_mem_filter hp))

theorem Dev.toPartner_settles (d : Dev) (m : SolderMsg) : d.Settles (d.toPartner m) :=
  .ite (Changes.dpx_ d _ (by decide)) (.refl d)

theorem Dev.discEnded_settles (d old : Dev) : d.Settles (d.discEnded old) :=
  .ite (.each (.refl d) fun _ _ e => .ite (e.toPartner_settles _) (.refl e)) (.refl d)

/-! ### What the blocks have due -/

theorem Dev.adcRefresh_settles (d : Dev) : d.Settles d.adcRefresh := by
  have hrelease : d.Settles d.releaseHolds := .ite (.refl d) (Changes.adc_ d _ (by decide))
  exact .each hrelease fun _ _ e => .ite (.refl e) (Changes.adc_ e _ (by decide))

theorem Dev.castRestart_settles (d : Dev) : d.Settles d.castRestart := by
  unfold Dev.castRestart Dev.setCastDone Dev.setReady
  exact .setDpx (.set (.set (.setB (.setB (.setB (.setB (.refl d)))))))

theorem Dev.linkLost_settles (d : Dev) : d.Settles d.linkLost := by
  unfold Dev.linkLost Dev.setPaired
  refine .ite ?_ (.refl d)
  extract_lets queued asked cast paired
  have hqueued : d.Settles queued := .ite (.refl d) (.setDpx (.refl d))
  have hasked : d.Settles asked := .ite (.setDpx hqueued) hqueued
  have hcast : d.Settles cast := .ite (.after (castRestart_settles _) hasked) hasked
  have hpaired : d.Settles paired := .ite (.setB (.setB hcast)) hcast
  exact .ite (.set hpaired) hpaired

theorem Dev.holdDue_settles (d : Dev) : d.Settles d.holdDue := by
  unfold Dev.holdDue
  split
  · exact .ite (.raise (.set (.set (.refl d)))) (.set (.refl d))
  · exact .refl d

theorem Dev.ioDue_settles (d : Dev) : d.Settles d.ioDue := by
  unfold Dev.ioDue
  split
  · exact .refl d
  · exact .ite (.refl d) (.ite (.setIo (.refl d)) (.ite (.refl d) (.setIo (.raise (.refl d)))))

/-! ### What SAF has due (R331, R332, R341, R345, R348, R354) -/

theorem Dev.pairDue_settles (d : Dev) (pair : Nat) : d.Settles (d.pairDue pair) := .ite (.scCause (.refl d)) (.refl d)

theorem Dev.readbackDue_settles (d : Dev) : d.Settles d.readbackDue := .ite (.scCause (.refl d)) (.refl d)

theorem Dev.pathDue_settles (d : Dev) (port : Nat) : d.Settles (d.pathDue port) := by
  unfold Dev.pathDue
  refine .ite (.demandIf (.scCause (.set (.refl d) ?_))) (.refl d)
  split <;> decide

theorem Dev.mismDue_settles (d : Dev) : d.Settles d.mismDue := .ite (.scCause (.setSaf (.refl d))) (.refl d)

theorem Dev.sovIdle_settles (d : Dev) : d.Settles d.sovIdle :=
  .ite (.refl d) (.scCause (.each (.refl d) fun _ _ e => .setSaf (.refl e)))

theorem Dev.sovDue_settles (d : Dev) (a : Nat) : d.Settles (d.sovDue a) := .ite (.refl d) (.demandIf (.setSaf (.refl d)))

theorem Dev.degDue_settles (d : Dev) (k : Deg) : d.Settles (d.degDue k) := .ite (.demand (.setSaf (.refl d))) (.refl d)

theorem Dev.degPast_settles (d : Dev) (k : Deg) : d.Settles (d.degPast k) := by
  unfold Dev.degPast Dev.degOver
  refine .ite ?_ (.refl d)
  have hended : d.Settles ((d.setDegTimer k .init).demand kEXP k.key none) := .demand (.setSaf (.refl d))
  cases k with
  | saf => exact hended
  | clk => exact hended
  | ring p => exact .after (Dev.ringCause_changes _ _).settles hended

theorem Dev.safDue_settles (d : Dev) : d.Settles d.safDue := by
  unfold Dev.safDue
  extract_lets inputs sov modes
  have hinputs : d.Settles inputs :=
    .after (sovIdle_settles _) (.after (mismDue_settles _) (.after (pathDue_settles _ _) (.after (pathDue_settles _ _)
      (.after (readbackDue_settles _) (.after (pairDue_settles _ _) (d.pairDue_settles 0))))))
  have hsov : d.Settles sov := .scCause (.each hinputs fun a _ e => e.sovDue_settles a)
  have hmodes : d.Settles modes := .each hsov fun k _ e => .after (degPast_settles _ k) (e.degDue_settles k)
  exact .ite (.setSaf (.set (.set hmodes))) hmodes

/-! ### Demands, blocks and the device state (R211, R334, R347, R460) -/

theorem Dev.deviceCauses_settles (d : Dev) : d.Settles d.deviceCauses := by
  unfold Dev.deviceCauses
  exact .setB (.setB (.setSaf (.each (.refl d) fun _ _ e => .demandIf (.refl e))))

theorem Dev.blockArm_settles (d : Dev) (a : Nat) (c : BlockCause) (o : Origin) (h : a < 12) : d.Settles (d.blockArm a c o) := by
  unfold Dev.blockArm Dev.armTo Dev.setArmSt Dev.when
  refine .ite (.audit (.set ?_ (SCH_ASTAT_inBar0 h))) (.refl d)
  exact .ite (.set (.setArm (.recNote (.refl d))) (SCH_AEVT_inBar0 h)) (.setArm (.recNote (.refl d)))

theorem Dev.block_settles (d : Dev) (m : Nat) (c : BlockCause) (o : Origin) : d.Settles (d.block m c o) := by
  have hblocked : d.Settles (d.each (maskArms m) fun a d => d.blockArm a c o) :=
    .each (.refl d) fun a ha e => e.blockArm_settles a c o (List.mem_range.1 (List.mem_of_mem_filter ha))
  unfold Dev.block Dev.when
  exact .ite (.refl d) (.after (toPartner_settles _ _) (.ite (.each hblocked fun _ _ e => .setArm (.refl e)) hblocked))

theorem Dev.safPublish_settles (d : Dev) (o : Origin) : d.Settles (d.safPublish o) := by
  unfold Dev.safPublish
  exact .each (.setSaf (.after (block_settles _ _ _ _) (.set (.set (.ite (.refl d) (.recNote (.refl d))))))) fun _ _ e => .audit (.refl e)

theorem Dev.stateStep_settles (d : Dev) (o : Origin) : d.Settles (d.stateStep o) :=
  have step (e : Dev) : e.Settles (e.enter e.nextState o) := (e.enter_changes _ o).settles
  .after (step _) (.after (step _) (.after (step _) (step d)))

theorem Dev.follow_settles (d : Dev) (o : Origin) : d.Settles (d.follow o) :=
  .after (stateStep_settles _ o) (.after (safPublish_settles _ o) d.deviceCauses_settles)

/-! ### Balls and the attention interrupt (R30, R32, R332, R513) -/

theorem Dev.driveSafeOk_settles (d : Dev) : d.Settles d.driveSafeOk := by
  unfold Dev.driveSafeOk
  extract_lets ok driven a b shown timed
  have hdriven : d.Settles driven := .ite (.refl d) (.emit (.emit (.setB (.refl d))))
  have htimed : d.Settles timed := .setSaf (.setBit (.setBit (.setBit (.setBit hdriven))))
  exact .ite (.scCause htimed) htimed

theorem Dev.attention_settles (d : Dev) : d.Settles d.attention :=
  .ite (.refl d) (.ite (.emit (.setHif (.refl d))) (.setHif (.refl d)))

theorem Dev.gpioDrive_settles (d : Dev) : d.Settles d.gpioDrive :=
  .ite (.refl d) (.setHif (.each (.refl d) fun _ _ e => .emit (.refl e)))

/-! ### What follows from a command -/

theorem Dev.settle_settles (d : Dev) (o : Origin) : d.Settles (d.settle o) := by
  have hdue : d.Settles d.adcRefresh.linkLost.holdDue.discsDue.ioDue.safDue :=
    .after (safDue_settles _) (.after (ioDue_settles _) (.after (discsDue_settles _) (.after (holdDue_settles _)
      (.after (linkLost_settles _) d.adcRefresh_settles))))
  unfold Dev.settle
  exact .ite (.refl d) (.after (gpioDrive_settles _) (.after (attention_settles _) (.after (deviceCauses_settles _)
    (.after (driveSafeOk_settles _) (.after (follow_settles _ o) (.after (follow_settles _ o) hdue))))))

theorem Dev.telConfig_settles (d : Dev) : d.Settles d.telConfig :=
  have heard (e : Dev) (port : Nat) : e.Settles (e.heardOn port) := .scCause (.setSaf (.refl e))
  .demandIf (.after (heard _ 1) (heard d 0))

theorem Dev.configEntered_settles (d old : Dev) (o : Origin) : d.Settles (d.configEntered old o) :=
  .ite (.after (settle_settles _ o) d.telConfig_settles) (.refl d)

theorem Dev.noteFirings_settles (d old : Dev) : d.Settles (d.noteFirings old) := .ite (.refl d) (Changes.svc_ d _ (by decide))

/-- Outside DEEP, what follows from a command leaves every offset past BAR0 as the command's own effect left it. -/
theorem Dev.after_settles (d old : Dev) (o : Origin) (h : d.rst.deep = false) : d.Settles (d.after old o) := by
  have hsettled : d.Settles (((d.discEnded old).settle o).configEntered old o) :=
    .after (configEntered_settles _ old o) (.after (settle_settles _ o) (d.discEnded_settles old))
  have hrst : (((d.discEnded old).settle o).configEntered old o).rst = d.rst := hsettled.1 .rst (by decide)
  have hawake : (((d.discEnded old).settle o).configEntered old o).safWake old = ((d.discEnded old).settle o).configEntered old o :=
    if_neg fun hw => by simp [hrst, h] at hw
  rw [Dev.after, hawake]
  exact .after (noteFirings_settles _ old) hsettled

end Sys2Proof.Machine
end

section
/-! The relay clause of `SampleCommits` fails: nothing bounds the discovered cells of a port by the 128 entries that the cell table
has for it, and a relay that names a position beyond them writes another entry. -/

namespace Sys2Proof.Machine

open Sys2Proof

/-! ### A relay that runs past the entries of its port -/

/-- A unit of a pair in cycle 0, whose port 47 has discovered 129 cells, with the Solder lanes UP. -/
def relayedState : State :=
  let d := State.reset.dev.set CYC_STAT_RUNNING 1 |>.set (RING_CTRL_EN 47) 1 |>.set DPX_CFG_MODE 1 |>.set DPX_STAT_SDLUP 1
  let d := (d.each solderLanes fun n d => d.set (LANE_STAT_STATE n) 6).setCyc (fun c => { c with inCycle := true })
  { State.reset with dev := d.setPort 47 (fun x => { x with discovered := 129 }) }

/-- A RELAY of cycle 0 for port 47 (R304): valid slots at positions 127 and 128. -/
def overlongRelay : List Byte := SolderMsg.payload (.relay 47 0 0 127 [(127, 5, 6, 0x8007, 8), (128, 5, 6, 0x8007, 8)])

def overlongRelayIn : SolderIn := ⟨3, 1, overlongRelay, 0, 0, 0⟩

/-- The levels that bring blocks to a lane, as a transmitter makes them whose scrambler and precoder stand where the lane's receiver
stands. -/
def Dev.levelsFor (d : Dev) (n : Nat) (bs : List Block) : List Int :=
  ({ d.line n with txPrev := (d.line n).rxPrev, txSr := (d.line n).rxSr }.transmit (d.is (LANE_CTRL_RXPRE n)) (d.is (LANE_CTRL_RXINV n)) bs).1

/-- The levels that bring that RELAY to the four Solder lanes. -/
def overlongRelayLines : List (List Int) :=
  (solderBlocks (messageBytes ⟨3, 0, true, overlongRelay.length / 16, 0, 0, 0⟩ overlongRelay)).zipIdx.map fun x =>
    relayedState.dev.levelsFor (96 + x.2) x.1

/-- The effect of RELAY_RECEIVE (R82, R304). -/
def Dev.relayTaken (lines : List (List Int)) (d : Dev) : Dev :=
  d.onSolder 3 lines 0 fun x d => d.relayReceive (leAt x.bytes 0 1) (dw (leAt x.bytes 8 4)) (relaySlots x.bytes)

theorem exec_relayReceive (lines : List (List Int)) (s : State) : exec (.relayReceive lines) s = s.act .partner (Dev.relayTaken lines) :=
  rfl

/-- The lanes bring that message whole. -/
theorem overlongRelay_taken : ∃ y, relayedState.dev.solderTake 3 overlongRelayLines 0 = ([overlongRelayIn], y) := by
  have hmessage : (relayedState.dev.solderTake 3 overlongRelayLines 0).1 = [overlongRelayIn] := by decide +kernel
  exact ⟨(relayedState.dev.solderTake 3 overlongRelayLines 0).2, by rw [← hmessage]⟩

/-- It names a fresh sample of cell 127 of port 47, and comes in time. -/
theorem overlongRelay_inTime : relayedState.dev.isFresh 47 127 = false ∧ dw (leAt overlongRelayIn.bytes 8 4) = relayedState.dev.cycle ∧
    (127, 5, 6, 0x8007, 8) ∈ relaySlots overlongRelayIn.bytes ∧ relayedState.dev.portActive 47 = true ∧
    relayedState.dev.phaseNs ≤ relayedState.dev.closesAt 47 := by decide +kernel

/-- The record of position 128 stands past the cell table, where nothing stood. -/
theorem overlongRelayed_word : (relayedState.dev.relayTaken overlongRelayLines).word 0x460000 = 0x60005 ∧
    relayedState.dev.word 0x460000 = 0 := by decide +kernel

theorem overlongRelayed_awake : (relayedState.dev.relayTaken overlongRelayLines).rst.deep = false ∧
    relayedState.dev.rst.deep = false := by decide +kernel

/-! ### What a claim about a command says of the offsets past BAR0 -/

/-- What a command's own effect writes past BAR0 stands after the command, so a device that `Runs` asserts holds the same there. -/
theorem Runs.word_pastBar0 {c : Instr} {o : Origin} {s : State} {P : Dev → Prop} {f : Dev → Dev} {off : Nat} (hr : Runs c o s P)
    (hc : exec c s = s.act o f) (h : s.dev.held = false) (hf : (f s.dev).rst.deep = false)
    (hP : ∀ d, P d → d.rst.deep = false) (ho : ¬ InBar0 off) : ∃ d, P d ∧ d.word off = (f s.dev).word off := by
  obtain ⟨d, hd, hp⟩ := hr
  rw [hc, State.act_next s o f h] at hd
  have hafter : d.after s.dev o = (f s.dev).after s.dev o := by
    injection hd with hd
    exact congrArg State.dev hd.symm
  refine ⟨d, hp, ?_⟩
  calc d.word off
    _ = (d.after s.dev o).word off := ((d.after_settles s.dev o (hP d hp)).2 off ho).symm
    _ = ((f s.dev).after s.dev o).word off := by rw [hafter]
    _ = (f s.dev).word off := ((f s.dev).after_settles s.dev o hf).2 off ho

/-- The registers that the relay clause names end with the cell table. -/
theorem relayRegs_inBar0 {p off : Nat} (hp : p < 48) (h : Either (At solderRegs) (Each (List.range 128) fun i =>
    [CELL_W00 (128 * p + i), CELL_W04 (128 * p + i), CELL_W08 (128 * p + i), CELL_W0C (128 * p + i)]) off) : InBar0 off := by
  rcases h with h | ⟨i, hi, h⟩
  · have hall : ∀ r ∈ solderRegs, InBar0 r := by decide
    exact hall off h
  · simp only [List.mem_range, List.mem_cons, List.not_mem_nil, or_false, CELL_W00, CELL_W04, CELL_W08, CELL_W0C] at hi h
    simp only [InBar0]
    omega

/-! ### The statement -/

/-- Refutes O8: its relay clause lets `discovered` be any number. With 129 cells discovered on port 47, a relay of positions 127 and
128 commits the second one past the 128 entries of the port, where the clause says that nothing changes. -/
theorem not_sampleCommits : ¬ Obligations.SampleCommits := by
  unfold Obligations.SampleCommits
  intro h
  have hheld : relayedState.dev.held = false := by decide +kernel
  obtain ⟨y, htaken⟩ := overlongRelay_taken
  obtain ⟨hfresh, hcyc, hslot, hactive, htime⟩ := overlongRelay_inTime
  obtain ⟨hwrote, hnothing⟩ := overlongRelayed_word
  obtain ⟨hdeep, hdeep0⟩ := overlongRelayed_awake
  have hrelay := (h relayedState 47 0 [] ⟨0, [], 0, true⟩ y 0 127 0 overlongRelayLines _ (5, 6, 0x8007, 8) hheld hfresh).2
    htaken (by decide +kernel) hcyc hslot hactive (by decide +kernel) (by decide +kernel) (by decide +kernel) htime
    (by decide +kernel)
  obtain ⟨d, ⟨-, -, hframe⟩, hword⟩ := hrelay.word_pastBar0 (off := 0x460000) (exec_relayReceive _ _) hheld hdeep
    (fun d ⟨_, _, hd⟩ => (congrArg RstState.deep (hd.1 .rst (by decide))).trans hdeep0) (by decide)
  have hkept : d.word 0x460000 = relayedState.dev.word 0x460000 :=
    hframe.2 _ fun hin => absurd (relayRegs_inBar0 (by decide) hin) (by decide)
  have hclash : (0x60005 : Word) = 0 :=
    calc (0x60005 : Word)
      _ = d.word 0x460000 := (hword.trans hwrote).symm
      _ = 0 := hkept.trans hnothing
  exact absurd hclash (by decide)

end Sys2Proof.Machine
end

section
/-! The ranking of an arm's cells (R197, R199): the order is a sort by class, key and arm-local index, and each cell's entry takes its
class and its place in that order. -/

namespace Sys2Proof.Machine

open Sys2Proof

/-! ### The order of R197 and its sort -/

theorem RankKey.le_iff (x y : RankKey) : x.le y = true ↔
    x.cls < y.cls ∨ x.cls = y.cls ∧ (x.key < y.key ∨ x.key = y.key ∧ x.lidx ≤ y.lidx) := by
  unfold RankKey.le
  split
  · simp
    omega
  · split <;> simp <;> omega

theorem RankKey.le_total (x y : RankKey) : x.le y = true ∨ y.le x = true := by
  simp only [RankKey.le_iff]
  omega

theorem RankKey.le_trans {x y z : RankKey} (h : x.le y = true) (k : y.le z = true) : x.le z = true := by
  simp only [RankKey.le_iff] at *
  omega

/-- The model's insertion is the library's. -/
theorem rankInsert_eq_orderedInsert (x : RankKey) (l : List RankKey) : rankInsert x l = l.orderedInsert (fun x y => x.le y = true) x := by
  induction l with
  | nil => rfl
  | cons y l ih => rw [rankInsert, List.orderedInsert_cons, ih]

theorem rankSort_eq_insertionSort (l : List RankKey) : rankSort l = l.insertionSort (fun x y => x.le y = true) := by
  induction l with
  | nil => rfl
  | cons x l ih => rw [List.insertionSort_cons, ← ih, ← rankInsert_eq_orderedInsert, rankSort, List.foldr_cons, rankSort]

theorem rankSort_perm (l : List RankKey) : (rankSort l).Perm l :=
  rankSort_eq_insertionSort l ▸ List.perm_insertionSort _ l

theorem rankSort_pairwise (l : List RankKey) : (rankSort l).Pairwise (fun x y => x.le y = true) := by
  have : Std.Total (fun x y : RankKey => x.le y = true) := ⟨RankKey.le_total⟩
  have : IsTrans RankKey (fun x y => x.le y = true) := ⟨fun _ _ _ => RankKey.le_trans⟩
  exact rankSort_eq_insertionSort l ▸ List.pairwise_insertionSort _ l

/-- An element that another one precedes strictly stands behind it in the sorted order. -/
theorem rankSort_lt_of_not_le {l : List RankKey} {x y : RankKey} {i j : Nat} (hi : (rankSort l)[i]? = some x)
    (hj : (rankSort l)[j]? = some y) (h : ¬ y.le x = true) : i < j := by
  obtain ⟨hil, rfl⟩ := List.getElem?_eq_some_iff.1 hi
  obtain ⟨hjl, rfl⟩ := List.getElem?_eq_some_iff.1 hj
  rcases Nat.lt_trichotomy i j with hlt | rfl | hgt
  · exact hlt
  · exact absurd ((RankKey.le_total _ _).elim id id) h
  · exact absurd (List.pairwise_iff_getElem.1 (rankSort_pairwise l) j i hjl hil hgt) h

/-! ### The entries of the ranked cells -/

/-- The cells' entries take their classes and their places in an order (R197). -/
def Dev.putRanks (d : Dev) (order : List RankKey) (n : Nat) : Dev :=
  d.each (order.zipIdx n) fun (x, r) d => d.set (CELL_W3C_CLS x.cell) x.cls |>.set (CELL_W3C_RANK x.cell) r

theorem Dev.putRanks_cons (d : Dev) (x : RankKey) (l : List RankKey) (n : Nat) :
    d.putRanks (x :: l) n = (d.set (CELL_W3C_CLS x.cell) x.cls |>.set (CELL_W3C_RANK x.cell) n).putRanks l (n + 1) := rfl

theorem Dev.putRanks_changes (d : Dev) (l : List RankKey) (n : Nat) :
    Dev.Changes [] (Each (l.map (·.cell)) fun c => [CELL_W3C c]) d (d.putRanks l n) := by
  refine .each _ _ _ fun ⟨x, r⟩ hx e => ?_
  have hcell : Each (l.map (·.cell)) (fun c => [CELL_W3C c]) (CELL_W3C x.cell) :=
    ⟨x.cell, List.mem_map_of_mem (List.fst_mem_of_mem_zipIdx hx), List.mem_singleton_self _⟩
  exact .trans (.set e _ _ hcell) (.set _ _ _ hcell)

/-- A field of a cell's word 0x3C outlives the ranks of other cells. -/
theorem Dev.putRanks_get_other (d : Dev) (l : List RankKey) (n c : Nat) (g : Fld) (hg : g.off = CELL_W3C c)
    (h : c ∉ l.map (·.cell)) : (d.putRanks l n).get g = d.get g := by
  refine (d.putRanks_changes l n).get g fun ⟨c', hc', hoff⟩ => h ?_
  have hcc : c = c' := by
    simp only [hg, List.mem_singleton, CELL_W3C] at hoff
    omega
  exact hcc ▸ hc'

/-- What one cell's entry holds after its rank was set. -/
theorem Dev.rankSet_get (d : Dev) (c k r : Nat) :
    ((d.set (CELL_W3C_CLS c) k).set (CELL_W3C_RANK c) r).get (CELL_W3C_CLS c) = k % 4 ∧
      ((d.set (CELL_W3C_CLS c) k).set (CELL_W3C_RANK c) r).get (CELL_W3C_RANK c) = r % 1024 := by
  rw [Dev.get_set_disjoint _ (CELL_W3C_RANK c) (CELL_W3C_CLS c) _ (by simp [CELL_W3C_RANK]) (by simp [CELL_W3C_CLS]) rfl
    (.inr (by simp [CELL_W3C_RANK, CELL_W3C_CLS])), Dev.get_set_same _ _ _ (by simp [CELL_W3C_CLS]),
    Dev.get_set_same _ _ _ (by simp [CELL_W3C_RANK])]
  simp [CELL_W3C_CLS, CELL_W3C_RANK]

theorem Dev.putRanks_get {l : List RankKey} (hl : (l.map (·.cell)).Nodup) {i : Nat} {x : RankKey} (hx : l[i]? = some x) (d : Dev)
    (n : Nat) : (d.putRanks l n).get (CELL_W3C_CLS x.cell) = x.cls % 4 ∧ (d.putRanks l n).get (CELL_W3C_RANK x.cell) = (n + i) % 1024 := by
  induction l generalizing d n i with
  | nil => simp at hx
  | cons y l ih =>
    obtain ⟨hy, hl⟩ := List.nodup_cons.1 hl
    rw [Dev.putRanks_cons]
    cases i with
    | zero =>
      obtain rfl : y = x := by simpa using hx
      rw [Dev.putRanks_get_other _ _ _ _ _ rfl hy, Dev.putRanks_get_other _ _ _ _ _ rfl hy]
      exact Dev.rankSet_get d y.cell y.cls n
    | succ i =>
      rw [show n + (i + 1) = n + 1 + i by omega]
      exact ih hl hx _ _

/-! ### The ranking of an arm -/

/-- Whether an arm is ranked for the negative polarity (R191). -/
def Dev.rankNeg (d : Dev) (a : Nat) : Bool := (d.armCtl a).polNeg && !d.halfBridge a

/-- Whether an arm is ranked for charging (R191). -/
def Dev.rankCharging (d : Dev) (a : Nat) (ik ip : Int) : Bool :=
  let i3 := ik + 2 * satS 40 (ik - ip) + shr (satS 40 (ik - ip)) 1
  decide (0 ≤ (if d.rankNeg a then -i3 else i3))

/-- The mean predicted voltage of the ranked cells (R197). -/
def Dev.rankMean (d : Dev) (a : Nat) : Int :=
  divZ (sumOver (d.rankedCells a) fun c => d.getS (CELL_W20_VPRED c)) (d.rankedCells a).length

/-- The class and key by which a ranking of arm a takes a cell (R197). -/
def Dev.rankKeyOf (d : Dev) (a : Nat) (ik ip : Int) (c : Nat) : RankKey :=
  d.rankKey a c (d.rankCharging a ik ip) (d.rankNeg a) (d.rankMean a)

/-- The order in which a ranking of arm a takes its cells (R197). -/
def Dev.rankOrder (d : Dev) (a : Nat) (ik ip : Int) : List RankKey := rankSort ((d.rankedCells a).map (d.rankKeyOf a ik ip))

/-- The registers in which a ranking reports its counts and its mean. -/
def rankCountRegs (a : Nat) : List Nat := [ARM_COUNT0 a, ARM_COUNT1 a, ARM_COUNT2 a, ARM_AGECNT a, ARM_VAVG a]

/-- Beside the entries of its ranked cells a ranking sets the arm's events and status, and then its counts. -/
theorem Dev.rankArm_changes (d : Dev) (a : Nat) (ik ip : Int) :
    ∃ e, Dev.Changes [.rcd] (At [ARM_EVT a, ARM_STAT a]) (d.putRanks (d.rankOrder a ik ip) 0) e ∧
      Dev.Changes [] (At (rankCountRegs a)) (e.setB (ARM_STAT_DIR a) (d.rankCharging a ik ip) |>.setB (ARM_STAT_POL a) (!d.rankNeg a))
        (d.rankArm a ik ip) := by
  unfold Dev.rankArm
  extract_lets dl neg i3 charging cells rk vavg order d1 short d2
  have hneg : neg = d.rankNeg a := rfl
  have hcharging : charging = d.rankCharging a ik ip := rfl
  have hd1 : d1 = d.putRanks (d.rankOrder a ik ip) 0 := rfl
  have hd2 : Dev.Changes [.rcd] (At [ARM_EVT a, ARM_STAT a]) d1 d2 := by
    unfold d2
    split
    · exact .trans (.set _ _ _ (by simp [ARM_EVT_SHORT])) ((Dev.recNote_changes _ 5).mono (by simp) (by simp))
    · exact .refl _
  rw [← hneg, ← hcharging, ← hd1]
  clear_value charging neg d1 d2 short rk
  refine ⟨_, .trans hd2 (.trans (.set d2 (ARM_STAT_ACTIVE a) 1 (by simp [ARM_STAT_ACTIVE]))
    (Dev.setB_changes _ (ARM_STAT_SHORT a) short (by simp [ARM_STAT_SHORT]))), Dev.Chg.changes ?_⟩
  unfold Dev.setSat Dev.setS
  repeat' constructor

/-- The status tells the direction for which the arm was ranked (R191). -/
theorem Dev.rankArm_dir (d : Dev) (a : Nat) (ik ip : Int) :
    (d.rankArm a ik ip).get (ARM_STAT_DIR a) = if d.rankCharging a ik ip then 1 else 0 := by
  obtain ⟨e, -, hcounts⟩ := d.rankArm_changes a ik ip
  have hkept : ARM_STAT a ∉ rankCountRegs a := by
    simp [rankCountRegs, ARM_STAT, ARM_COUNT0, ARM_COUNT1, ARM_COUNT2, ARM_AGECNT, ARM_VAVG]
  rw [hcounts.get (ARM_STAT_DIR a) hkept, Dev.setB, Dev.setB,
    Dev.get_set_disjoint _ (ARM_STAT_POL a) (ARM_STAT_DIR a) _ (by simp [ARM_STAT_POL]) (by simp [ARM_STAT_DIR]) rfl
      (.inr (by simp [ARM_STAT_POL, ARM_STAT_DIR])), Dev.get_set_same _ _ _ (by simp [ARM_STAT_DIR])]
  split <;> simp [ARM_STAT_DIR]

/-- A cell's word 0x3C holds after a ranking what the ranks put there. -/
theorem Dev.rankArm_get_cell (d : Dev) (a : Fin 12) (ik ip : Int) (c : Nat) (g : Fld) (hg : g.off = CELL_W3C c) :
    (d.rankArm a ik ip).get g = (d.putRanks (d.rankOrder a ik ip) 0).get g := by
  obtain ⟨e, hstatus, hcounts⟩ := d.rankArm_changes a ik ip
  have hpast : ∀ r < 0x400000, g.off ≠ r := by
    intro r hr
    rw [hg, CELL_W3C]
    omega
  have hregs : g.off ∉ rankCountRegs a ∧ g.off ∉ [ARM_EVT a, ARM_STAT a] := by
    simp only [rankCountRegs, List.mem_cons, List.not_mem_nil, or_false, not_or]
    refine ⟨⟨?_, ?_, ?_, ?_, ?_⟩, ?_, ?_⟩ <;> refine hpast _ ?_ <;>
      simp only [ARM_EVT, ARM_STAT, ARM_COUNT0, ARM_COUNT1, ARM_COUNT2, ARM_AGECNT, ARM_VAVG] <;> omega
  have hstat : g.off ≠ ARM_STAT a := fun h => hregs.2 (by simp [h])
  rw [hcounts.get g hregs.1, Dev.setB, Dev.setB, Dev.get_set_off _ _ _ _ hstat, Dev.get_set_off _ _ _ _ hstat,
    hstatus.get g hregs.2]

/-! ### What the entry of a ranked cell holds -/

/-- A class fits its field. -/
theorem Dev.rankKey_cls_lt (d : Dev) (a c : Nat) (charging neg : Bool) (vavg : Int) : (d.rankKey a c charging neg vavg).cls < 4 := by
  unfold Dev.rankKey
  extract_lets v ins insd band cls
  change cls < 4
  unfold cls
  split_ifs <;> decide

theorem Dev.rankOrder_perm (d : Dev) (a : Nat) (ik ip : Int) :
    ((d.rankOrder a ik ip).map (·.cell)).Perm (d.rankedCells a) := by
  have hcells : ((d.rankedCells a).map (d.rankKeyOf a ik ip)).map (·.cell) = d.rankedCells a := by
    rw [List.map_map]
    exact List.map_id _
  exact hcells ▸ (rankSort_perm _).map _

/-- After a ranking a ranked cell's entry holds its class and its place in the order. -/
theorem Dev.rankArm_entry {d : Dev} {a : Fin 12} {x : Nat} (hx : x ∈ d.rankedCells a) (hn : (d.armCells a).Nodup)
    (hlen : (d.armCells a).length ≤ 1024) (ik ip : Int) :
    (d.rankArm a ik ip).get (CELL_W3C_CLS x) = (d.rankKeyOf a ik ip x).cls ∧
      (d.rankOrder a ik ip)[(d.rankArm a ik ip).get (CELL_W3C_RANK x)]? = some (d.rankKeyOf a ik ip x) := by
  have hperm := d.rankOrder_perm a ik ip
  have hmem : d.rankKeyOf a ik ip x ∈ d.rankOrder a ik ip := (rankSort_perm _).mem_iff.2 (List.mem_map_of_mem hx)
  obtain ⟨i, hi⟩ := List.mem_iff_getElem?.1 hmem
  have hi1024 : i < 1024 :=
    calc i
      _ < (d.rankOrder a ik ip).length := (List.getElem?_eq_some_iff.1 hi).1
      _ = (d.rankedCells a).length := by rw [← hperm.length_eq, List.length_map]
      _ ≤ (d.armCells a).length := List.length_filter_le _ _
      _ ≤ 1024 := hlen
  obtain ⟨hcls, hrank⟩ := Dev.putRanks_get (hperm.nodup_iff.2 (hn.filter _)) hi d 0
  have hentry : (d.rankArm a ik ip).get (CELL_W3C_RANK x) = i := by
    rw [Dev.rankArm_get_cell _ _ _ _ x _ rfl]
    exact hrank.trans (by omega)
  refine ⟨?_, hentry ▸ hi⟩
  rw [Dev.rankArm_get_cell _ _ _ _ x _ rfl]
  exact hcls.trans (Nat.mod_eq_of_lt (d.rankKey_cls_lt ..))

/-! ### The statement -/

theorem Dev.rankKeyOf_key (d : Dev) (a : Nat) (ik ip : Int) (c : Nat) :
    (d.rankKeyOf a ik ip c).key = if d.rankCharging a ik ip then d.getS (CELL_W20_VPRED c) else -d.getS (CELL_W20_VPRED c) := rfl

theorem Dev.rankKeyOf_lidx (d : Dev) (a : Nat) (ik ip : Int) (c : Nat) : (d.rankKeyOf a ik ip c).lidx = d.get (CELL_W1C_LIDX c) := rfl

/-- Settles O9: it holds, since the ranks are places in a list sorted by class, key and arm-local index. -/
theorem rankingOrder : Obligations.RankingOrder := by
  intro d a ik ip x y hx hy hn hlen
  obtain ⟨hclsx, hplacex⟩ := Dev.rankArm_entry hx hn hlen ik ip
  obtain ⟨hclsy, hplacey⟩ := Dev.rankArm_entry hy hn hlen ik ip
  have hbefore := rankSort_lt_of_not_le hplacex hplacey
  rw [RankKey.le_iff, Dev.rankKeyOf_lidx, Dev.rankKeyOf_lidx] at hbefore
  rw [Dev.rankArm_dir, hclsx, hclsy]
  refine ⟨fun hcls hv hlidx => hbefore ?_, fun hcls => hbefore ?_, fun hcls hv => hbefore ?_⟩
  · have hkey : (d.rankKeyOf a ik ip x).key = (d.rankKeyOf a ik ip y).key := by rw [Dev.rankKeyOf_key, Dev.rankKeyOf_key, hv]
    omega
  · omega
  · have hkey : (d.rankKeyOf a ik ip x).key < (d.rankKeyOf a ik ip y).key := by
      rw [Dev.rankKeyOf_key, Dev.rankKeyOf_key]
      cases hdir : d.rankCharging a ik ip <;> simpa [hdir] using hv
    omega

end Sys2Proof.Machine
end

section
/-! What a step may do to the audit log in MRAM (R385, R386): AUDIT_ENTRY_WRITE appends an entry, and every other command, a reset
included, keeps the entries, their numbering and the value under which their chain starts. -/

namespace Sys2Proof.Machine

open Sys2Proof

/-! ### What a store but the audit log's leaves of the log -/

/-- The audit log and AUD_ANCHOR are the same in two non-volatile parts. -/
def Nonvol.SameLog (nv nv' : Nonvol) : Prop :=
  nv'.mram.log = nv.mram.log ∧ nv'.mram.nextSeq = nv.mram.nextSeq ∧ nv'.anchor = nv.anchor

theorem Nonvol.SameLog.refl (nv : Nonvol) : nv.SameLog nv := ⟨rfl, rfl, rfl⟩

theorem Nonvol.SameLog.trans {a b c : Nonvol} (h : a.SameLog b) (k : b.SameLog c) : a.SameLog c :=
  ⟨k.1.trans h.1, k.2.1.trans h.2.1, k.2.2.trans h.2.2⟩

theorem Nonvol.SameLog.ite {nv a b : Nonvol} {c : Prop} [Decidable c] (h : nv.SameLog a) (k : nv.SameLog b) :
    nv.SameLog (if c then a else b) := by
  split <;> assumption

theorem Nonvol.SameLog.logOk {nv nv' : Nonvol} (h : nv.SameLog nv') (hok : nv.LogOk) : nv'.LogOk := by
  obtain ⟨hlog, hseq, hanchor⟩ := h
  unfold Nonvol.LogOk
  rwa [hlog, hseq, hanchor]

/-- A key slot's fuses are not the identity, on which the first chain value rests. -/
theorem Nonvol.setSlot_sameLog (nv : Nonvol) (n : Nat) (f : KeySlot → KeySlot) : nv.SameLog (nv.setSlot n f) := ⟨rfl, rfl, rfl⟩

theorem Nonvol.raiseFloors_sameLog (nv : Nonvol) (svns : List Nat) : nv.SameLog (nv.raiseFloors svns) := ⟨rfl, rfl, rfl⟩

theorem Dev.cutFuses_sameLog (d : Dev) (nv : Nonvol) : nv.SameLog (d.cutFuses nv).1 := by
  unfold Dev.cutFuses
  split
  · split
    · exact nv.setSlot_sameLog _ _
    · exact .refl nv
  · exact .refl nv

theorem resetCut_sameLog (nv : Nonvol) (old new : Dev) : nv.SameLog (resetCut nv old new).1 := by
  unfold resetCut
  split
  · exact old.cutFuses_sameLog nv
  · exact .refl nv

theorem trimStored_sameLog (nv : Nonvol) (d : Dev) : nv.SameLog (trimStored nv d) := by
  unfold trimStored
  split
  · exact ⟨rfl, rfl, rfl⟩
  · exact .refl nv

theorem failoverStored_sameLog (nv : Nonvol) (d : Dev) (monitor : Bool) : nv.SameLog (failoverStored nv d monitor).1 := by
  unfold failoverStored
  split
  · exact .refl nv
  · exact trimStored_sameLog nv d

theorem bootEnd_sameLog (nv : Nonvol) (d : Dev) : nv.SameLog (bootEnd nv d).1 := by
  unfold bootEnd
  split
  · dsimp only
    split
    · exact nv.raiseFloors_sameLog _
    · exact .refl nv
  · exact .refl nv

/-! ### Security operations and attestations -/

theorem Dev.recordFuses_sameLog (d : Dev) (nv : Nonvol) : nv.SameLog (d.recordFuses nv) := by
  unfold Dev.recordFuses
  dsimp only
  split
  · exact nv.setSlot_sameLog _ _
  · exact nv.setSlot_sameLog _ _
  · exact .refl nv

theorem attestReserve_sameLog (nv : Nonvol) (d : Dev) (c : Cmd) : nv.SameLog (attestReserve nv d c).1 := ⟨rfl, rfl, rfl⟩

theorem attestStart_sameLog (nv : Nonvol) (d : Dev) (c : Cmd) : nv.SameLog (attestStart nv d c).1 := by
  unfold attestStart
  split
  · exact .refl nv
  · split
    · exact .refl nv
    · exact attestReserve_sameLog nv d c

theorem secComplete_sameLog (nv : Nonvol) (d : Dev) : nv.SameLog (secComplete nv d).1 := by
  unfold secComplete
  split
  · exact .refl nv
  · next op o _ =>
    have hfuses : nv.SameLog (if d.recordCode nv op = 0 then d.recordFuses nv else nv) := .ite (d.recordFuses_sameLog nv) (.refl nv)
    dsimp only
    split
    · exact hfuses.trans (attestReserve_sameLog _ _ _)
    · dsimp only
      exact hfuses

/-! ### Commands of the CMD ring and EPOCH messages -/

theorem Dev.confirm_sameLog (d : Dev) (nv : Nonvol) (v : BitVec 64) (o : Origin) : nv.SameLog (d.confirm nv v o).2.1 := by
  unfold Dev.confirm
  dsimp only
  split
  · exact .refl nv
  · exact ⟨rfl, rfl, rfl⟩

theorem cmdCcvconf_sameLog (nv : Nonvol) (d : Dev) (tag : BitVec 16) (v : BitVec 64) : nv.SameLog (cmdCcvconf nv d tag v).1 := by
  unfold cmdCcvconf
  dsimp only
  split <;> exact d.confirm_sameLog nv v .pcie

theorem runImmediate_sameLog (nv : Nonvol) (d : Dev) (c : Cmd) : nv.SameLog (runImmediate nv d c).1 := by
  unfold runImmediate
  split
  case h_4 => exact cmdCcvconf_sameLog nv d _ _
  all_goals exact .refl nv

theorem runSerial_sameLog (nv : Nonvol) (d : Dev) (c : Cmd) : nv.SameLog (runSerial nv d c).1 := by
  unfold runSerial
  split
  case h_4 => exact attestStart_sameLog nv d c
  all_goals exact .refl nv

theorem pump_sameLog (n : Nat) (nv : Nonvol) (d : Dev) : nv.SameLog (pump n nv d).1 := by
  induction n generalizing nv d with
  | zero => exact .refl nv
  | succ n ih =>
    unfold pump
    split
    · exact .refl nv
    · split
      · exact .refl nv
      · split
        · exact .refl nv
        · exact (runSerial_sameLog _ _ _).trans (ih _ _)

theorem pumpAll_sameLog (nv : Nonvol) (d : Dev) : nv.SameLog (pumpAll nv d).1 := pump_sameLog _ nv d

theorem submitSerial_sameLog (nv : Nonvol) (d : Dev) (c : Cmd) : nv.SameLog (submitSerial nv d c).1 := by
  unfold submitSerial
  split
  · exact pumpAll_sameLog nv _
  · exact .refl nv

theorem runCmd_sameLog (nv : Nonvol) (d : Dev) (c : Cmd) : nv.SameLog (runCmd nv d c).1 := by
  unfold runCmd
  split
  · exact submitSerial_sameLog nv d c
  · exact runImmediate_sameLog nv d c

theorem cmdFetch_sameLog (nv : Nonvol) (d : Dev) (b : List Byte) : nv.SameLog (cmdFetch nv d b).1 := by
  unfold cmdFetch
  split
  · exact .refl nv
  · dsimp only
    split
    · exact runCmd_sameLog nv _ _
    · exact .refl nv

theorem runGroup_sameLog (nv : Nonvol) (d : Dev) (c : Cmd) (b : List Byte) : nv.SameLog (runGroup nv d c b).1 := by
  unfold runGroup
  split
  · exact .refl nv
  · split
    · exact .refl nv
    · split
      · exact pumpAll_sameLog nv _
      · exact .refl nv

theorem runValidationEnd_sameLog (nv : Nonvol) (d : Dev) : nv.SameLog (runValidationEnd nv d).1 := by
  unfold runValidationEnd
  split
  · exact pumpAll_sameLog nv _
  · exact .refl nv

theorem runAttestDone_sameLog (nv : Nonvol) (d : Dev) (ok : Bool) : nv.SameLog (runAttestDone nv d ok).1 := by
  unfold runAttestDone
  split
  · exact pumpAll_sameLog nv _
  · exact .refl nv

theorem dmaTimeout_sameLog (nv : Nonvol) (d : Dev) (which : Nat) : nv.SameLog (dmaTimeout nv d which).1 := by
  unfold dmaTimeout
  split
  · exact .refl nv
  · split
    · split
      · exact pumpAll_sameLog nv _
      · exact .refl nv
    · exact .refl nv
  · exact .refl nv

theorem Dev.epochReceive_sameLog (d : Dev) (nv : Nonvol) (m : EpochMsg) : nv.SameLog (d.epochReceive nv m).1 := by
  unfold Dev.epochReceive
  split
  · exact .refl nv
  · cases m with
    | confirm v => exact d.confirm_sameLog nv v .partner
    | _ => exact .refl nv

theorem Dev.epochMessage_sameLog (d : Dev) (nv : Nonvol) (b : List Byte) : nv.SameLog (d.epochMessage nv b).1 := by
  unfold Dev.epochMessage
  split
  · exact d.epochReceive_sameLog nv _
  · exact .refl nv

theorem epochMessages_sameLog (l : List SolderIn) (x : Nonvol × Dev) :
    x.1.SameLog (l.foldl (fun x m => x.2.epochMessage x.1 m.bytes) x).1 := by
  induction l generalizing x with
  | nil => exact .refl x.1
  | cons m l ih => exact (x.2.epochMessage_sameLog x.1 m.bytes).trans (ih _)

/-! ### Frames of commands -/

/-- The frames in which a command keeps the audit log: those that leave the non-volatile part alone or let a reset cut a fuse
operation, and a store whose effect keeps the log. -/
inductive State.KeepsLog (s : State) : Out → Prop where
  | nothing : s.KeepsLog (.next s)
  | act (o : Origin) (f : Dev → Dev) : s.KeepsLog (s.act o f)
  | tap (f : Dev → Dev) : s.KeepsLog (s.tap f)
  | access (o : Origin) (f : Nonvol → Dev → Dev) : s.KeepsLog (s.access o f)
  | line (f : Dev → Dev) : s.KeepsLog (s.line f)
  | store (o : Origin) (f : Nonvol → Dev → Nonvol × Dev) (h : s.nv.SameLog (f s.nv s.dev).1) : s.KeepsLog (s.store o f)

theorem State.KeepsLog.look {s : State} (o : Origin) (f : Nonvol → Dev → Dev) : s.KeepsLog (s.look o f) := .act o (f s.nv)

theorem State.KeepsLog.write {s : State} (o : Origin) (off : Nat) (v : Word) : s.KeepsLog (s.write o off v) :=
  .access o fun nv d => d.writeReg nv o off v

theorem State.KeepsLog.writeF {s : State} (o : Origin) (f : Fld) (v : Nat) : s.KeepsLog (s.writeF o f v) :=
  .access o fun nv d => d.writeField nv o f v

theorem State.KeepsLog.sameLog {s t : State} {out : Out} (h : s.KeepsLog out) (ht : out = .next t) : s.nv.SameLog t.nv := by
  cases h with
  | nothing =>
    cases ht
    exact .refl _
  | act o f => exact (State.act_nv ht).1 ▸ .refl _
  | tap f => exact (State.tap_nv ht).1 ▸ .refl _
  | access o f =>
    cases ht
    split
    · exact .refl _
    · exact resetCut_sameLog _ _ _
  | line f =>
    cases ht
    exact resetCut_sameLog _ _ _
  | store o f h =>
    cases ht
    split
    · exact .refl _
    · exact h

theorem execSvcDone_keepsLog (o : Origin) (tie : Bool) (s : State) : s.KeepsLog (execSvcDone o tie s) := by
  unfold execSvcDone
  split
  · exact .act _ _
  · exact .writeF _ _ _

/-- R386: but for AUDIT_ENTRY_WRITE every command runs in a frame that keeps the audit log. -/
theorem exec_keepsLog (c : Instr) (s : State) (h : c ≠ .auditEntryWrite) : s.KeepsLog (exec c s) := by
  unfold exec
  cases c
  case auditEntryWrite => exact absurd rfl h
  case uartFrameTimeout => exact .nothing
  case failover monitor =>
    refine .store _ _ ?_
    exact failoverStored_sameLog _ _ monitor
  case trimStore =>
    refine .store _ _ ?_
    exact trimStored_sameLog _ _
  case bootEnd =>
    refine .store _ _ ?_
    exact bootEnd_sameLog _ _
  case secOperationComplete =>
    refine .store _ _ ?_
    exact secComplete_sameLog _ _
  case cmdFetch b =>
    refine .store _ _ ?_
    exact cmdFetch_sameLog _ _ b
  case ccvconf tag v =>
    refine .store _ _ ?_
    exact cmdCcvconf_sameLog _ _ tag v
  case epgroup tag addr len b =>
    refine .store _ _ ?_
    exact runGroup_sameLog _ _ _ b
  case validationEnd =>
    refine .store _ _ ?_
    exact runValidationEnd_sameLog _ _
  case epabort tag =>
    refine .store _ _ ?_
    exact pumpAll_sameLog _ _
  case attestCompletion ok =>
    refine .store _ _ ?_
    exact runAttestDone_sameLog _ _ ok
  case dmaReadTimeout which =>
    refine .store _ _ ?_
    exact dmaTimeout_sameLog _ _ which
  case epochReceive lines =>
    refine .store _ _ ?_
    exact epochMessages_sameLog _ _
  case epopen | epvalid | epcommit | attest =>
    refine .store _ _ ?_
    exact submitSerial_sameLog _ _ _
  case porstNAssert | porstNRelease | brownout | brownoutRelease | srstNAssert | internalResetEnd => exact .line _
  case extest | samplePreload | idcode | highz | clamp | bypass | jtagTapReset => exact .tap _
  case svcDone o tie => exact execSvcDone_keepsLog o tie s
  case registerWrite | unmapped | wideLowRead | wideUpperRead | rcFieldRead | cycNumRead | tbNsRead | adcResRead | snap |
      adcSwstart | uartFrame | arbPortWrite | regacc => exact .access _ _
  case wideLowWrite | wideUpperWrite | attnEnWrite | cycleTimerStart | cycleTimerStopRequest | loopGclrWrite | laneTxeqWrite |
      tb0Set | tb1Step | tb1Slew | tb1RateWrite | tb3Set | tb3Step | tb3RateWrite | armDeblockWrite | armBlockWrite |
      shadowWrite | adcOwWrite | ringEnWrite | auditReadLatch | svcEnqueue | svcCancel | arbSlotWrite | clockSourceSelect |
      clkMdllWrite | clkDivWrite | clkOutWrite | clkGateWrite | clkLsenWrite | perturbationWrite => exact .write _ _ _
  case swrst | deviceDiscover | ringDiscover | laneRestart | schEnableClear | recArm | recDisarm | recForce | recRead | armout |
      dpxFaultWrite | safAckWrite | semAcq | semRel | semClrpois | pairRestart | pairIrq | pairHaltWrite | mdllEnable |
      secUnlock | secKeyprog | secKeyrev | relock => exact .writeF _ _ _
  case boot | groupApply => exact .look _ _
  all_goals exact .act _ _

/-! ### The writing of an entry -/

/-- The entry that an item of the queue becomes (R385). -/
def Nonvol.nextEntry (nv : Nonvol) (e : AudItem) : AudEntry := ⟨nv.mram.nextSeq, e, chainNext nv.lastChain nv.mram.nextSeq e⟩

/-- A log that is not full gains an entry in front. -/
theorem Nonvol.append_of_room {nv : Nonvol} (e : AudItem) (h : nv.mram.log.length < logCapacity) :
    nv.append e = { nv with mram := { nv.mram with nextSeq := nv.mram.nextSeq + 1, log := nv.nextEntry e :: nv.mram.log } } := by
  unfold Nonvol.append
  dsimp only
  split
  · next hy => exact absurd (List.getElem?_eq_some_iff.1 hy).1 (Nat.not_lt.2 h)
  · rfl

/-- A full log gains an entry in front and loses its oldest, whose chain value becomes the anchor (R386). -/
theorem Nonvol.append_of_full {nv : Nonvol} {y : AudEntry} (e : AudItem) (h : nv.mram.log[65535]? = some y) :
    nv.append e = { nv with mram := { nv.mram with
      nextSeq := nv.mram.nextSeq + 1, log := (nv.nextEntry e :: nv.mram.log).take logCapacity, anchor := y.chain, wrapped := true } } := by
  unfold Nonvol.append
  dsimp only
  split
  · next z hz =>
    obtain rfl : y = z := Option.some.inj (h.symm.trans hz)
    rfl
  · next hz => exact absurd (h.symm.trans hz) (Option.some_ne_none y)

/-- The log has room, or it holds the entry that the next one drops. -/
theorem Nonvol.room_or_full (nv : Nonvol) : nv.mram.log.length < logCapacity ∨ ∃ y, nv.mram.log[65535]? = some y :=
  (Nat.lt_or_ge nv.mram.log.length logCapacity).imp_right fun h => ⟨_, List.getElem?_eq_getElem h⟩

/-- The log after an entry is appended: the entry in front, cut to the capacity. -/
theorem Nonvol.append_log (nv : Nonvol) (e : AudItem) :
    (nv.append e).mram.log = (nv.nextEntry e :: nv.mram.log).take logCapacity := by
  rcases nv.room_or_full with h | ⟨y, h⟩
  · rw [Nonvol.append_of_room e h, List.take_of_length_le (by simpa using h)]
  · rw [Nonvol.append_of_full e h]

theorem Nonvol.append_nextSeq (nv : Nonvol) (e : AudItem) : (nv.append e).mram.nextSeq = nv.mram.nextSeq + 1 := by
  rcases nv.room_or_full with h | ⟨y, h⟩
  · rw [Nonvol.append_of_room e h]
  · rw [Nonvol.append_of_full e h]

theorem Nonvol.append_fuses (nv : Nonvol) (e : AudItem) : (nv.append e).fuses = nv.fuses := by
  rcases nv.room_or_full with h | ⟨y, h⟩
  · rw [Nonvol.append_of_room e h]
  · rw [Nonvol.append_of_full e h]

/-- AUD_ANCHOR after a full log has lost its oldest entry (R386). -/
theorem Nonvol.append_anchor {nv : Nonvol} {y : AudEntry} (e : AudItem) (h : nv.mram.log[65535]? = some y) :
    (nv.append e).anchor = y.chain := by
  rw [Nonvol.append_of_full e h]
  rfl

/-- The device after the queue's front went to MRAM, but for the interrupt; `rose`: WRAPPED has risen (R386, R387). -/
def Dev.entryTaken (d : Dev) (rest : List AudItem) (rose : Bool) : Dev :=
  let d := { d with aud := ⟨rest⟩ }.audFull
  if rose then d.raise AUD_EVT_EVT 1 else d

/-- The same with the interrupt: vector 7 if IRQEN is set (R388). -/
def Dev.entryWritten (d : Dev) (rest : List AudItem) (rose : Bool) : Dev :=
  (d.entryTaken rest rose).when ((d.entryTaken rest rose).is AUD_CTRL_IRQEN) (·.emit (.msix 7))

/-- Whether WRAPPED rises with an entry. -/
def Nonvol.wraps (nv : Nonvol) (e : AudItem) : Bool := (nv.append e).mram.wrapped && !nv.mram.wrapped

theorem auditWrite_nil (nv : Nonvol) {d : Dev} (h : d.aud.queue = []) : auditWrite nv d = (nv, d) := by
  simp [auditWrite, h]

theorem auditWrite_cons (nv : Nonvol) {d : Dev} {e : AudItem} {rest : List AudItem} (h : d.aud.queue = e :: rest) :
    auditWrite nv d = (nv.append e, d.entryWritten rest (nv.wraps e)) := by
  simp [auditWrite, h, Dev.entryWritten, Dev.entryTaken, Nonvol.wraps]

theorem execAuditEntryWrite_eq (s : State) : exec .auditEntryWrite s = s.store .device auditWrite := rfl

/-- AUDIT_ENTRY_WRITE keeps the log or appends one entry (R387). -/
theorem auditEntryWrite_log {s t : State} (h : exec .auditEntryWrite s = .next t) :
    s.nv.SameLog t.nv ∨ ∃ e, t.nv = s.nv.append e := by
  rw [execAuditEntryWrite_eq] at h
  cases hheld : s.dev.held with
  | true =>
    rw [State.store_held _ _ _ hheld] at h
    cases h
    exact .inl (.refl _)
  | false =>
    rw [State.store_next _ _ _ hheld] at h
    cases h
    rw [State.with_nv]
    cases hq : s.dev.aud.queue with
    | nil =>
      rw [auditWrite_nil _ hq]
      exact .inl (.refl _)
    | cons e rest =>
      rw [auditWrite_cons _ hq]
      exact .inr ⟨e, rfl⟩

/-- What a step does to the audit log: nothing, or it appends one entry (R385, R386). -/
theorem step_log {s t : State} (h : step s = .next t) : s.nv.SameLog t.nv ∨ ∃ e, t.nv = s.nv.append e := by
  unfold step at h
  split at h
  · cases h
    exact .inl (.refl _)
  · next c rest _ =>
    by_cases hc : c = .auditEntryWrite
    · subst hc
      exact auditEntryWrite_log (s := s.withQueue rest) h
    · exact .inl ((exec_keepsLog c (s.withQueue rest) hc).sameLog h)

/-! ### The statement -/

theorem Dev.peek_AUD_ANCHOR_LO (d : Dev) (nv : Nonvol) (o : Origin) : d.peek nv o AUD_ANCHOR_LO = dw nv.anchor.toNat := rfl

theorem Dev.peek_AUD_ANCHOR_HI (d : Dev) (nv : Nonvol) (o : Origin) : d.peek nv o AUD_ANCHOR_HI = dw (nv.anchor.toNat / 2 ^ 32) := rfl

/-- Settles O58: it holds, since a step keeps the log or appends one entry to it. -/
theorem auditLogKept : Obligations.AuditLogKept := by
  intro s t y hstep hok
  rcases step_log hstep with hsame | ⟨e, happend⟩
  · exact ⟨hsame.logOk hok, .inl hsame.1, fun _ hne => absurd hsame.1 hne⟩
  · rw [happend]
    refine ⟨s.nv.append_logOk e hok, .inr ⟨_, s.nv.append_log e⟩, fun hy _ => ?_⟩
    rw [Dev.peek_AUD_ANCHOR_LO, Dev.peek_AUD_ANCHOR_HI, Nonvol.append_anchor e hy]
    exact ⟨rfl, rfl⟩

end Sys2Proof.Machine
end

section
/-! The audit log's commands (R385 to R388): the queue's oldest entry goes to MRAM, and AUD_RDSEQ latches an entry. -/

namespace Sys2Proof.Machine

open Sys2Proof

/-! ### AUDIT_ENTRY_WRITE -/

theorem Dev.entryTaken_changes (d : Dev) (rest : List AudItem) (rose : Bool) :
    Dev.Changes [.aud] (At audRegs) d (d.entryTaken rest rose) := by
  refine Dev.Chg.changes ?_
  unfold Dev.entryTaken Dev.audFull Dev.setB Dev.raise
  repeat' constructor

theorem Dev.entryTaken_queue (d : Dev) (rest : List AudItem) (rose : Bool) : (d.entryTaken rest rose).aud.queue = rest := by
  unfold Dev.entryTaken Dev.audFull Dev.setB Dev.raise
  dsimp only
  split <;> split <;> rfl

/-- A flag that was raised is set. -/
theorem Dev.bit_raise (d : Dev) (f : Fld) (n : Nat) (hf : f.hi < 32) (hn : f.lo + n ≤ f.hi) : (d.raise f n).bit f n = true := by
  have hwidth : n < f.hi + 1 - f.lo := by omega
  rw [Dev.raise, Dev.bit, Dev.get_set_same d f _ hf, Nat.testBit_mod_two_pow, Nat.testBit_or, Nat.testBit_two_pow_self]
  simp [hwidth]

theorem Dev.is_one_bit {d : Dev} {f : Fld} (hf : f.hi < 32) (hw : f.width = 1) : d.is f = true ↔ d.get f = 1 := by
  have hlt := d.get_lt f hf
  rw [hw] at hlt
  simp only [Dev.is, ne_eq, decide_not, Bool.not_eq_true', decide_eq_false_iff_not]
  omega

/-- What AUDIT_ENTRY_WRITE does to the log: the entry of the next number stands in front, with its chain value (R385, R386). -/
theorem Nonvol.append_entry (nv : Nonvol) (e : AudItem) :
    (nv.append e).mram.log.head? = some ⟨nv.mram.nextSeq, e, chainNext nv.lastChain nv.mram.nextSeq e⟩ ∧
      (nv.mram.log.length < logCapacity → (nv.append e).mram.log.tail = nv.mram.log ∧ (nv.append e).mram.wrapped = nv.mram.wrapped) := by
  refine ⟨?_, fun hroom => ?_⟩
  · rw [Nonvol.append_log]
    rfl
  · rw [Nonvol.append_of_room e hroom]
    exact ⟨rfl, rfl⟩

theorem Dev.entryWritten_changes (d : Dev) (rest : List AudItem) (rose : Bool) :
    Dev.Changes [.aud, .out] (At audRegs) d (d.entryWritten rest rose) := by
  refine .trans ((d.entryTaken_changes rest rose).mono (by simp) fun _ => id) ?_
  unfold Dev.entryWritten Dev.when
  split
  · exact .out_ _ _ (by decide)
  · exact .refl _

theorem Dev.entryWritten_queue (d : Dev) (rest : List AudItem) (rose : Bool) : (d.entryWritten rest rose).aud.queue = rest := by
  unfold Dev.entryWritten Dev.when
  split <;> exact d.entryTaken_queue rest rose

/-- AUD_EVT.1 is set with WRAPPED. -/
theorem Dev.entryWritten_rose (d : Dev) (rest : List AudItem) : (d.entryWritten rest true).bit AUD_EVT_EVT 1 = true := by
  have hraised : (d.entryTaken rest true).bit AUD_EVT_EVT 1 = true := Dev.bit_raise _ _ _ (by decide) (by decide)
  unfold Dev.entryWritten Dev.when
  split <;> exact hraised

theorem Dev.entryWritten_out (d : Dev) (rest : List AudItem) (rose : Bool) :
    (d.entryWritten rest rose).out = if d.get AUD_CTRL_IRQEN = 1 then .msix 7 :: d.out else d.out := by
  have hframe := d.entryTaken_changes rest rose
  have hirq : (d.entryTaken rest rose).is AUD_CTRL_IRQEN = true ↔ d.get AUD_CTRL_IRQEN = 1 := by
    rw [Dev.is_one_bit (by decide) rfl, hframe.get AUD_CTRL_IRQEN (by decide)]
  have hout : (d.entryTaken rest rose).out = d.out := hframe.1 .out (by decide)
  unfold Dev.entryWritten Dev.when
  simp only [hirq]
  split
  · exact congrArg (.msix 7 :: ·) hout
  · exact hout

/-- Without an item in the queue AUDIT_ENTRY_WRITE changes nothing. -/
theorem auditEntryWrite_empty (s : State) (h : s.dev.held = false) (hq : s.dev.aud.queue = []) :
    Stores .auditEntryWrite .device s fun nv d => nv = s.nv ∧ d = s.dev := by
  refine ⟨_, _, by rw [execAuditEntryWrite_eq, State.store_next _ _ _ h], ?_⟩
  rw [auditWrite_nil _ hq]
  exact ⟨rfl, rfl⟩

/-- The queue's oldest entry joins the log, with WRAPPED's flag when that rises and vector 7 if IRQEN is set. -/
theorem auditEntryWrite_stores (s : State) (e : AudItem) (rest : List AudItem) (h : s.dev.held = false) (hq : s.dev.aud.queue = e :: rest) :
    Stores .auditEntryWrite .device s fun nv d => nv = s.nv.append e ∧ d.aud.queue = rest ∧
      (nv.mram.wrapped = true → s.nv.mram.wrapped = false → d.bit AUD_EVT_EVT 1 = true) ∧
      d.out = (if s.dev.get AUD_CTRL_IRQEN = 1 then .msix 7 :: s.dev.out else s.dev.out) ∧
      s.dev.Changes [.aud, .out] (At audRegs) d := by
  refine ⟨_, _, by rw [execAuditEntryWrite_eq, State.store_next _ _ _ h], ?_⟩
  rw [auditWrite_cons _ hq]
  refine ⟨rfl, s.dev.entryWritten_queue rest _, fun hnow hwas => ?_, s.dev.entryWritten_out rest _, s.dev.entryWritten_changes rest _⟩
  have hrose : s.nv.wraps e = true := by
    rw [Nonvol.wraps, hwas]
    simpa using hnow
  rw [hrose]
  exact s.dev.entryWritten_rose rest

/-! ### AUD_RDSEQ -/

/-- A word written for each of the first n numbers stands at its place, if the places differ. -/
theorem Dev.word_each_setWord (d : Dev) {r : Nat → Nat} (hr : Function.Injective r) (w : Nat → Word) {n i : Nat} (hi : i < n) :
    (d.each (List.range n) fun i d => d.setWord (r i) (w i)).word (r i) = w i := by
  induction n with
  | zero => exact absurd hi (Nat.not_lt_zero i)
  | succ n ih =>
    rw [Dev.each, List.range_succ, List.foldl_append]
    by_cases hin : i = n
    · subst hin
      exact Dev.word_setWord_same _ _ _
    · exact (Dev.word_setWord_off _ _ _ _ fun he => hin (hr he)).trans (ih (by omega))

theorem AUD_RDATA_injective : Function.Injective AUD_RDATA := fun i j h => by
  simp only [AUD_RDATA] at h
  omega

/-- The registers that hold a latched entry. -/
abbrev latchRegs : Nat → Prop := Each (List.range 8) fun i => [AUD_RDATA i]

/-- The bytes that a write of AUD_RDSEQ latches: those of the entry of its number, or none. -/
def Nonvol.latchBytes (nv : Nonvol) (seq : Word) : List Byte :=
  match nv.mram.log.find? (fun e => e.seq == seq) with
  | some e => e.bytes
  | none => []

/-- The device after the data registers have taken bytes. -/
def Dev.latchData (d : Dev) (b : List Byte) : Dev :=
  d.each (List.range 8) fun i d => d.setWord (AUD_RDATA i) (dw (leAt b (4 * i) 4))

theorem Dev.latchData_changes (d : Dev) (b : List Byte) : Dev.Changes [] latchRegs d (d.latchData b) :=
  .each d _ _ fun i hi e => .setWord e _ _ ⟨i, hi, by simp⟩

theorem Dev.latchData_word (d : Dev) (b : List Byte) (i : Fin 8) : (d.latchData b).word (AUD_RDATA i) = dw (leAt b (4 * i) 4) :=
  d.word_each_setWord AUD_RDATA_injective _ i.isLt

theorem Dev.auditRead_eq (d : Dev) (nv : Nonvol) (seq : Word) :
    d.auditRead nv seq = ((d.setWord AUD_RDSEQ seq).setB AUD_RDSTAT_MISS
      (nv.mram.log.find? (fun e => e.seq == seq)).isNone).latchData (nv.latchBytes seq) := by
  unfold Dev.auditRead Nonvol.latchBytes
  rfl

theorem Dev.auditRead_miss (d : Dev) (nv : Nonvol) (seq : Word) : (d.auditRead nv seq).get AUD_RDSTAT_MISS =
    if (nv.mram.log.find? (fun e => e.seq == seq)).isNone then 1 else 0 := by
  rw [Dev.auditRead_eq, (Dev.latchData_changes _ _).get AUD_RDSTAT_MISS, Dev.setB, Dev.get_set_same _ _ _ (by decide)]
  · split <;> rfl
  · simp only [latchRegs, Each, List.mem_range, List.mem_singleton, AUD_RDSTAT_MISS, AUD_RDSTAT, AUD_RDATA, not_exists, not_and]
    omega

theorem Dev.auditRead_word (d : Dev) (nv : Nonvol) (seq : Word) (i : Fin 8) :
    (d.auditRead nv seq).word (AUD_RDATA i) = dw (leAt (nv.latchBytes seq) (4 * i) 4) := by
  rw [Dev.auditRead_eq, Dev.latchData_word]

theorem Dev.auditRead_changes (d : Dev) (nv : Nonvol) (seq : Word) :
    Dev.Changes [] (Either (At [AUD_RDSEQ, AUD_RDSTAT]) latchRegs) d (d.auditRead nv seq) := by
  rw [Dev.auditRead_eq]
  refine .trans (.trans (.setWord d _ _ ?_) (Dev.setB_changes _ _ _ ?_)) ((Dev.latchData_changes _ _).mono (by simp) fun _ => .inr)
  · exact .inl (by simp)
  · exact .inl (by simp [AUD_RDSTAT_MISS])

/-- A write of AUD_RDSEQ that is let through latches, or sets MISS, and answers. -/
theorem auditReadLatch_comes {s : State} {o : Origin} (seq : Word) (i : Fin 8) (h : s.Lets o AUD_RDSEQ) :
    Comes (.auditReadLatch o seq) o s fun d =>
      d.get AUD_RDSTAT_MISS = (if (s.nv.mram.log.find? (fun e => e.seq == seq)).isNone then 1 else 0) ∧
      d.word (AUD_RDATA i) = dw (leAt (s.nv.latchBytes seq) (4 * i) 4) ∧
      s.dev.Changes [.out] (Either (At [AUD_RDSEQ, AUD_RDSTAT]) latchRegs) d := by
  have hwrite := State.write_reaches s o AUD_RDSEQ seq ⟨h, .inr (by decide)⟩ (by decide) (by decide) regAt_AUD_RDSEQ
  rw [Dev.special_AUD_RDSEQ, Option.getD_some] at hwrite
  refine ⟨(s.dev.auditRead s.nv seq).emit (.answer o AUD_RDSEQ .written), hwrite, ?_, ?_, ?_⟩
  · rw [Dev.emit_get, Dev.auditRead_miss]
  · rw [Dev.emit_word, Dev.auditRead_word]
  · exact .trans ((s.dev.auditRead_changes s.nv seq).mono (by simp) fun _ => id) (.out_ _ _ (by decide))

theorem Nonvol.latchBytes_found {nv : Nonvol} {seq : Word} {x : AudEntry} (h : nv.mram.log.find? (fun e => e.seq == seq) = some x) :
    nv.latchBytes seq = x.bytes := by
  simp [Nonvol.latchBytes, h]

theorem Nonvol.latchBytes_none {nv : Nonvol} {seq : Word} (h : nv.mram.log.find? (fun e => e.seq == seq) = none) :
    nv.latchBytes seq = [] := by
  simp [Nonvol.latchBytes, h]

theorem leAt_nil (off n : Nat) : leAt [] off n = 0 := by
  simp [leAt, leNat]

/-! ### The statement -/

/-- Settles O38: it holds, since the front of the queue becomes the newest entry of the log, and AUD_RDSEQ latches what the log holds
under its number. -/
theorem auditLog : Obligations.AuditLog := by
  intro s o e rest seq x i
  refine ⟨fun hheld hq => ?_, auditEntryWrite_empty s, fun hlets => ?_⟩
  · obtain ⟨nv, d, hexec, rfl, hqueue, hflag, hout, hframe⟩ := auditEntryWrite_stores s e rest hheld hq
    obtain ⟨hhead, hroom⟩ := s.nv.append_entry e
    exact ⟨_, d, hexec, hqueue, hhead, s.nv.append_nextSeq e, s.nv.append_fuses e, hroom, hflag, hout, hframe⟩
  · obtain ⟨d, hexec, hmiss, hdata, hframe⟩ := auditReadLatch_comes seq i hlets
    refine ⟨fun hfound => ⟨d, hexec, ?_, ?_, hframe⟩, fun hnone => ⟨d, hexec, ?_, ?_⟩⟩
    · simpa [hfound] using hmiss
    · rw [hdata, Nonvol.latchBytes_found hfound]
    · simpa [hnone] using hmiss
    · rw [hdata, Nonvol.latchBytes_none hnone, leAt_nil]
      rfl

end Sys2Proof.Machine
end

section
/-! Semaphores (R407 to R409): what a write of SVC_SEMCTL does to its semaphore, and that DONE touches none. -/

namespace Sys2Proof.Machine

open Sys2Proof

/-! ### A write of a field with an effect of its own -/

/-- A write of one field that is let through, of a register without locked fields, has the register's effect and answers. -/
theorem Comes.writeF {c : Instr} {o : Origin} {s : State} {P : Dev → Prop} {f : Fld} {x : Nat} {e : Dev} (hc : exec c s = s.writeF o f x)
    (h : s.Lets o f.off) (hlock : rwlMask f.off = 0) (ha : f.off % 4 = 0) (hl : f.off < 0x400000) (hr : (regAt f.off).isSome = true)
    (he : s.dev.special s.nv o f.off (s.dev.fieldWord f x) = some e) (hP : P (e.emit (.answer o f.off .written))) : Comes c o s P := by
  refine ⟨_, hc.trans (State.writeF_lets s o f x h (.inr (by simp [hlock])) ha hl hr), ?_⟩
  rwa [he, Option.getD_some]

theorem rwlMask_SVC_SEMCTL : ∀ i : Fin 64, rwlMask (SVC_SEMCTL i) = 0 := by decide

/-- The operation that a write of OP alone hands to SVC_SEMCTL. -/
theorem SVC_SEMCTL_OP_fieldWord (d : Dev) (i op : Nat) : (SVC_SEMCTL_OP i).of (d.fieldWord (SVC_SEMCTL_OP i) op) = op % 4 :=
  Fld.of_into_same (SVC_SEMCTL_OP i) _ op (by simp [SVC_SEMCTL_OP])

theorem Dev.semWrite_discarded (d : Dev) (o : Origin) (i : Nat) : d.semWrite o i (d.fieldWord (SVC_SEMCTL_OP i) 0) = d := by
  simp [Dev.semWrite, SVC_SEMCTL_OP_fieldWord]

theorem Dev.semWrite_acq (d : Dev) (o : Origin) (i : Nat) : d.semWrite o i (d.fieldWord (SVC_SEMCTL_OP i) 1) = d.semAcq o i := by
  simp [Dev.semWrite, SVC_SEMCTL_OP_fieldWord]

theorem Dev.semWrite_rel (d : Dev) (o : Origin) (i : Nat) : d.semWrite o i (d.fieldWord (SVC_SEMCTL_OP i) 2) = d.semRel o i := by
  simp [Dev.semWrite, SVC_SEMCTL_OP_fieldWord]

theorem Dev.semWrite_clrpois (d : Dev) (o : Origin) (i : Nat) :
    d.semWrite o i (d.fieldWord (SVC_SEMCTL_OP i) 3) = d.semClrpois o i := by
  simp [Dev.semWrite, SVC_SEMCTL_OP_fieldWord]

/-- A command that writes OP of a semaphore's SVC_SEMCTL performs the operation and answers. -/
theorem Comes.semWrite {c : Instr} {o : Origin} {i : Fin 64} {op : Nat} {s : State} {P : Dev → Prop} {e : Dev}
    (hc : exec c s = s.writeF o (SVC_SEMCTL_OP i) op) (h : s.Lets o (SVC_SEMCTL i))
    (he : s.dev.semWrite o i (s.dev.fieldWord (SVC_SEMCTL_OP i) op) = e) (hP : P (e.emit (.answer o (SVC_SEMCTL i) .written))) :
    Comes c o s P := by
  have hi := i.isLt
  have hplace : (SVC_SEMCTL_OP i).off % 4 = 0 ∧ (SVC_SEMCTL_OP i).off < 0x400000 := by
    simp only [SVC_SEMCTL_OP, SVC_SEMCTL]
    omega
  exact .writeF hc h (rwlMask_SVC_SEMCTL i) hplace.1 hplace.2 (regAt_SVC_SEMCTL i)
    ((Dev.special_SVC_SEMCTL _ _ _ _ _).trans (congrArg some he)) hP

/-! ### The operations -/

theorem Dev.emit_changes {ps : List DevPart} {S : Nat → Prop} (d : Dev) (e : Emission) (h : .out ∈ ps) : Dev.Changes ps S d (d.emit e) :=
  .out_ d _ h

theorem Origin.code_lt (o : Origin) : o.code < 16 := by
  cases o with
  | svc n => simp only [Origin.code]; omega
  | _ => decide

theorem Dev.is_SVC_SEMST_HELD (d : Dev) (i : Nat) : d.is (SVC_SEMST_HELD i) = true ↔ d.get (SVC_SEMST_HELD i) = 1 :=
  Dev.is_one_bit (by simp [SVC_SEMST_HELD]) rfl

/-- ACQ of a free semaphore takes it for the origin, with the flow of the item that a pair has in service (R407). -/
theorem Dev.semAcq_free (d : Dev) (o : Origin) (i : Nat) (h : d.get (SVC_SEMST_HELD i) = 0) :
    (d.semAcq o i).get (SVC_SEMST_HELD i) = 1 ∧ (d.semAcq o i).get (SVC_SEMST_ORIGIN i) = o.code ∧
      (d.semAcq o i).get (SVC_SEMST_FLOW i) = d.flowOf o % 2 ^ 8 ∧
      (d.semAcq o i).get (SVC_SEMST_POISONED i) = d.get (SVC_SEMST_POISONED i) ∧
      d.Changes [] (At [SVC_SEMST i]) (d.semAcq o i) := by
  have hfree : ¬ d.is (SVC_SEMST_HELD i) = true := by simp [Dev.is_SVC_SEMST_HELD, h]
  have hcode : o.code % 16 = o.code := Nat.mod_eq_of_lt o.code_lt
  rw [Dev.semAcq, if_neg hfree]
  refine ⟨?_, ?_, ?_, ?_, .trans (.trans (.set d (SVC_SEMST_HELD i) 1 ?_) (.set _ (SVC_SEMST_ORIGIN i) o.code ?_))
    (.set _ (SVC_SEMST_FLOW i) (d.flowOf o) ?_)⟩ <;>
    simp [SVC_SEMST_HELD, SVC_SEMST_ORIGIN, SVC_SEMST_FLOW, SVC_SEMST_POISONED, Dev.get_set_same, Dev.get_set_disjoint, hcode]

theorem Dev.semAcq_held (d : Dev) (o : Origin) (i : Nat) (h : d.get (SVC_SEMST_HELD i) = 1) : d.semAcq o i = d := by
  rw [Dev.semAcq, if_pos ((d.is_SVC_SEMST_HELD i).2 h)]

/-- A freed semaphore has no owner; it is poisoned if it is to be or a poisoning waits, and else stays as it is (R408, R409, R412). -/
theorem Dev.semFree_fields (d : Dev) (i : Nat) (poison : Bool) :
    (d.semFree i poison).get (SVC_SEMST_HELD i) = 0 ∧ (d.semFree i poison).get (SVC_SEMST_FLOW i) = 0 ∧
      (d.semFree i poison).get (SVC_SEMST_ORIGIN i) = 0 ∧
      (d.semFree i poison).get (SVC_SEMST_POISONED i) =
        if poison || d.svc.poison.contains i then 1 else d.get (SVC_SEMST_POISONED i) := by
  unfold Dev.semFree
  cases hp : poison || d.svc.poison.contains i <;>
    simp [SVC_SEMST_HELD, SVC_SEMST_ORIGIN, SVC_SEMST_FLOW, SVC_SEMST_POISONED, Dev.get_set_same, Dev.get_set_disjoint]

theorem Dev.semFree_changes (d : Dev) (i : Nat) (poison : Bool) : d.Changes [.svc] (At [SVC_SEMST i]) (d.semFree i poison) := by
  refine Dev.Chg.changes ?_
  unfold Dev.semFree Dev.setSvc
  repeat' constructor

theorem Dev.semRel_owned {d : Dev} {o : Origin} {i : Nat} (h : d.semOwned o i = true) : d.semRel o i = d.semFree i false := if_pos h

theorem Dev.semClrpois_owned {d : Dev} {o : Origin} {i : Nat} (h : d.semOwned o i = true) :
    d.semClrpois o i = d.set (SVC_SEMST_POISONED i) 0 := if_pos h

theorem Dev.semOwned_held {d : Dev} {o : Origin} {i : Nat} (h : d.semOwned o i = true) : d.get (SVC_SEMST_HELD i) = 1 := by
  rw [Dev.semOwned, Bool.and_eq_true] at h
  exact (d.is_SVC_SEMST_HELD i).1 h.1

/-- REL and CLRPOIS of an origin that does not own the semaphore only set the flag (R408). -/
theorem Dev.semRel_other {d : Dev} {o : Origin} {i : Nat} (h : d.semOwned o i = false) : d.semRel o i = d.raise SVC_EVT_EVT 2 := by
  simp [Dev.semRel, h]

theorem Dev.semClrpois_other {d : Dev} {o : Origin} {i : Nat} (h : d.semOwned o i = false) :
    d.semClrpois o i = d.raise SVC_EVT_EVT 2 := by
  simp [Dev.semClrpois, h]

theorem Dev.clearPoison (d : Dev) (i : Nat) :
    (d.set (SVC_SEMST_POISONED i) 0).get (SVC_SEMST_POISONED i) = 0 ∧
      (d.set (SVC_SEMST_POISONED i) 0).get (SVC_SEMST_HELD i) = d.get (SVC_SEMST_HELD i) ∧
      d.Changes [] (At [SVC_SEMST i]) (d.set (SVC_SEMST_POISONED i) 0) := by
  refine ⟨?_, ?_, .set _ _ _ ?_⟩ <;> simp [SVC_SEMST_POISONED, SVC_SEMST_HELD, Dev.get_set_same, Dev.get_set_disjoint]

theorem Dev.foreignOp_flag (d : Dev) :
    (d.raise SVC_EVT_EVT 2).bit SVC_EVT_EVT 2 = true ∧ d.Changes [] (At [SVC_EVT]) (d.raise SVC_EVT_EVT 2) :=
  ⟨d.bit_raise SVC_EVT_EVT 2 (by decide) (by decide), .set _ _ _ (by decide)⟩

/-! ### What the end of an item and a dispatch write (R400, R402) -/

/-- The registers of pairs and flows that the scheduler writes, whatever the numbers of pair and flow. -/
abbrev servedRegs (off : Nat) : Prop := ∃ n f, off ∈ [SVC_PSTAT n, SVC_PCNT n, SVC_PSEQ n, SVC_FSTAT f]

/-- The registers of semaphores are at multiples of 16, where none of these stands. -/
theorem SVC_SEMST_not_served (i : Nat) : ¬ servedRegs (SVC_SEMST i) := by
  rintro ⟨n, f, h⟩
  simp only [SVC_SEMST, SVC_PSTAT, SVC_PCNT, SVC_PSEQ, SVC_FSTAT, List.mem_cons, List.not_mem_nil, or_false] at h
  omega

theorem SVC_PSTAT_served (n : Nat) : servedRegs (SVC_PSTAT n) := ⟨n, 0, by simp⟩
theorem SVC_PCNT_served (n : Nat) : servedRegs (SVC_PCNT n) := ⟨n, 0, by simp⟩
theorem SVC_PSEQ_served (n : Nat) : servedRegs (SVC_PSEQ n) := ⟨n, 0, by simp⟩
theorem SVC_FSTAT_served (f : Nat) : servedRegs (SVC_FSTAT f) := ⟨0, f, by simp⟩

theorem Dev.dispatchTo_changes (d : Dev) (n : Nat) (x : WorkItem) : d.Changes [.svc, .out] servedRegs (d.dispatchTo n x) := by
  have htaken : d.Changes [.svc, .out] servedRegs ((d.setSvc (fun s => { s with ready := s.ready.erase x })).setPair n
      (fun p => { p with item := some x, since := d.time.up, cut := false, lmem := putBytes p.lmem 0x3FFE0 x.bytes })) :=
    .trans (.svc_ _ _ (by decide)) (.svc_ _ _ (by decide))
  have hpair := htaken.trans (.trans (.trans (.set _ (SVC_PSTAT_STATE n) pRUN (SVC_PSTAT_served n))
    (.set _ (SVC_PSTAT_DEPTH n) 0 (SVC_PSTAT_served n))) (.set _ (SVC_PSTAT_FLOW n) x.flow (SVC_PSTAT_served n)))
  have hseq := hpair.trans (.set _ (SVC_PSEQ_SEQ n) x.seq (SVC_PSEQ_served n))
  have hflow := hseq.trans (.trans (.set _ (SVC_FSTAT_INSVC x.flow) 1 (SVC_FSTAT_served x.flow))
    (.set _ (SVC_FSTAT_LAST x.flow) n (SVC_FSTAT_served x.flow)))
  exact hflow.trans (Dev.emit_changes _ _ (by decide))

theorem Dev.dispatch_changes (d : Dev) : d.Changes [.svc, .out] servedRegs d.dispatch := by
  refine .each d _ _ fun n _ e => ?_
  split
  · split
    · exact e.dispatchTo_changes n _
    · exact .refl e
  · exact .refl e

theorem Dev.endItem_changes (d : Dev) (n : Nat) : d.Changes [.svc, .out] servedRegs (d.endItem n) := by
  unfold Dev.endItem
  split
  · exact .refl d
  next x _ =>
    exact .trans (.trans (.trans (.svc_ _ _ (by decide)) (.set _ (SVC_FSTAT_INSVC x.flow) 0 (SVC_FSTAT_served x.flow)))
      (.set _ (SVC_PSTAT_FLOW n) 0xFF (SVC_PSTAT_served n))) (.set _ (SVC_PSEQ_SEQ n) 0 (SVC_PSEQ_served n))

theorem Dev.svcDone_changes (d : Dev) (o : Origin) : d.Changes [.svc, .out] servedRegs (d.svcDone o) := by
  cases o with
  | svc n =>
    unfold Dev.svcDone
    dsimp only
    split
    · exact .refl d
    · have hcounted : d.Changes [.svc, .out] servedRegs ((d.endItem n).count (SVC_PCNT_ITEMS n) 1) :=
        (d.endItem_changes n).trans (.set _ _ _ (SVC_PCNT_served n))
      split
      · exact (hcounted.trans (.set _ _ _ (SVC_PSTAT_served n))).trans (Dev.dispatch_changes _)
      · exact hcounted.trans (Dev.dispatch_changes _)
  | _ => exact .refl d

/-- DONE leaves every semaphore as it is (R409). -/
theorem svcDone_comes (s : State) (o : Origin) (i : Nat) (h : s.Lets o SVC_DONE) :
    Comes (.svcDone o false) o s fun d => d.word (SVC_SEMST i) = s.dev.word (SVC_SEMST i) := by
  refine .writeF (f := SVC_DONE_DONE) rfl h (by decide) (by decide) (by decide) regAt_SVC_DONE (Dev.special_SVC_DONE _ _ _ _) ?_
  have hdone : SVC_DONE_DONE.of (s.dev.fieldWord SVC_DONE_DONE 1) = 1 := Fld.of_into_same SVC_DONE_DONE _ 1 (by decide)
  rw [if_neg (by rw [hdone]; decide)]
  exact (s.dev.svcDone_changes o).word _ (SVC_SEMST_not_served i)

/-! ### The commands -/

/-- Once an access has answered, only the answer has changed beside its effect. -/
theorem Dev.Changes.answered {ps : List DevPart} {S : Nat → Prop} {a b : Dev} (h : a.Changes ps S b) (e : Emission) :
    a.Changes (ps ++ [.out]) S (b.emit e) := (h.mono (fun _ => List.mem_append_left _) fun _ => id).trans (b.emit_changes e (by simp))

theorem semAcq_free_comes (s : State) (o : Origin) (i : Fin 64) (h : s.Lets o (SVC_SEMCTL i)) (hfree : s.dev.get (SVC_SEMST_HELD i) = 0) :
    Comes (.semAcq o i false) o s fun d => d.get (SVC_SEMST_HELD i) = 1 ∧ d.get (SVC_SEMST_ORIGIN i) = o.code ∧
      d.get (SVC_SEMST_FLOW i) = s.dev.flowOf o % 2 ^ 8 ∧ d.get (SVC_SEMST_POISONED i) = s.dev.get (SVC_SEMST_POISONED i) ∧
      s.dev.Changes [.out] (At [SVC_SEMST i]) d := by
  obtain ⟨hheld, horigin, hflow, hpoison, hframe⟩ := s.dev.semAcq_free o i hfree
  exact .semWrite rfl h (s.dev.semWrite_acq o i) ⟨hheld, horigin, hflow, hpoison, hframe.answered _⟩

theorem semAcq_held_comes (s : State) (o : Origin) (i : Fin 64) (h : s.Lets o (SVC_SEMCTL i)) (hheld : s.dev.get (SVC_SEMST_HELD i) = 1) :
    Comes (.semAcq o i false) o s fun d => s.dev.Changes [.out] (At []) d :=
  .semWrite rfl h ((s.dev.semWrite_acq o i).trans (s.dev.semAcq_held o i hheld)) (Dev.emit_changes _ _ (by decide))

theorem semAcq_discarded_comes (s : State) (o : Origin) (i : Fin 64) (h : s.Lets o (SVC_SEMCTL i)) :
    Comes (.semAcq o i true) o s fun d => s.dev.Changes [.out] (At []) d :=
  .semWrite rfl h (s.dev.semWrite_discarded o i) (Dev.emit_changes _ _ (by decide))

theorem semRel_owned_comes (s : State) (o : Origin) (i : Fin 64) (h : s.Lets o (SVC_SEMCTL i)) (hown : s.dev.semOwned o i = true) :
    Comes (.semRel o i) o s fun d => d.get (SVC_SEMST_HELD i) = 0 ∧ d.get (SVC_SEMST_FLOW i) = 0 ∧ d.get (SVC_SEMST_ORIGIN i) = 0 ∧
      (s.dev.svc.poison.contains i.val = true → d.get (SVC_SEMST_POISONED i) = 1) ∧
      (s.dev.svc.poison.contains i.val = false → d.get (SVC_SEMST_POISONED i) = s.dev.get (SVC_SEMST_POISONED i)) ∧
      s.dev.Changes [.svc, .out] (At [SVC_SEMST i]) d := by
  obtain ⟨hheld, hflow, horigin, hpoison⟩ := s.dev.semFree_fields i false
  refine .semWrite rfl h ((s.dev.semWrite_rel o i).trans (Dev.semRel_owned hown))
    ⟨hheld, hflow, horigin, fun hwaits => ?_, fun hnone => ?_, (s.dev.semFree_changes i false).answered _⟩
  · exact hpoison.trans (by rw [hwaits]; rfl)
  · exact hpoison.trans (by rw [hnone]; rfl)

theorem semClrpois_owned_comes (s : State) (o : Origin) (i : Fin 64) (h : s.Lets o (SVC_SEMCTL i)) (hown : s.dev.semOwned o i = true) :
    Comes (.semClrpois o i) o s fun d => d.get (SVC_SEMST_POISONED i) = 0 ∧ d.get (SVC_SEMST_HELD i) = 1 ∧
      s.dev.Changes [.out] (At [SVC_SEMST i]) d := by
  obtain ⟨hpoison, hheld, hframe⟩ := s.dev.clearPoison i
  exact .semWrite rfl h ((s.dev.semWrite_clrpois o i).trans (Dev.semClrpois_owned hown))
    ⟨hpoison, hheld.trans (Dev.semOwned_held hown), hframe.answered _⟩

theorem semRel_other_comes (s : State) (o : Origin) (i : Fin 64) (h : s.Lets o (SVC_SEMCTL i)) (hother : s.dev.semOwned o i = false) :
    Comes (.semRel o i) o s fun d => d.bit SVC_EVT_EVT 2 = true ∧ s.dev.Changes [.out] (At [SVC_EVT]) d :=
  have hflag := s.dev.foreignOp_flag
  .semWrite rfl h ((s.dev.semWrite_rel o i).trans (Dev.semRel_other hother)) ⟨hflag.1, hflag.2.answered _⟩

theorem semClrpois_other_comes (s : State) (o : Origin) (i : Fin 64) (h : s.Lets o (SVC_SEMCTL i)) (hother : s.dev.semOwned o i = false) :
    Comes (.semClrpois o i) o s fun d => d.bit SVC_EVT_EVT 2 = true ∧ s.dev.Changes [.out] (At [SVC_EVT]) d :=
  have hflag := s.dev.foreignOp_flag
  .semWrite rfl h ((s.dev.semWrite_clrpois o i).trans (Dev.semClrpois_other hother)) ⟨hflag.1, hflag.2.answered _⟩

/-! ### The statement -/

/-- Settles O46: it holds, operation by operation; DONE writes registers of pairs and flows alone. -/
theorem semaphores : Obligations.Semaphores := by
  intro s o i h
  exact ⟨semAcq_free_comes s o i h, semAcq_held_comes s o i h, semAcq_discarded_comes s o i h, semRel_owned_comes s o i h,
    semClrpois_owned_comes s o i h, fun hother => ⟨semRel_other_comes s o i h hother, semClrpois_other_comes s o i h hother⟩,
    svcDone_comes s o i⟩

end Sys2Proof.Machine
end

section
/-! The fault clauses of `Pairs` fail: nothing bounds the flow of a work item by the 256 flows of SVC, and the end of an item of a
flow beyond them writes past the block. -/

namespace Sys2Proof.Machine

open Sys2Proof

/-! ### An item of a flow that SVC does not have -/

/-- A flow whose SVC_FSTAT would stand past BAR0 (R26). -/
def strayFlow : Nat := 0x22F00

/-- A work item of that flow (R397). -/
def strayItem : WorkItem := ⟨strayFlow, 0, false, 0, 0, [], 0, none, false⟩

/-- A device whose pair 2 is in RUN with that item in service. -/
def strayState : State :=
  let d := State.reset.dev.set (SVC_PSTAT_STATE 2) pRUN |>.set (SVC_FSTAT_INSVC strayFlow) 1
  { State.reset with dev := d.setPair 2 (fun p => { p with item := some strayItem }) }

theorem strayState_ready : strayState.dev.held = false ∧ strayState.dev.rst.deep = false ∧ strayState.dev.pairRuns (2 : Fin 4) = true := by
  decide +kernel

/-- The reset of the pair ends the item and clears INSVC of its flow, past BAR0. -/
theorem strayState_pairFault : (strayState.dev.pairFault (2 : Fin 4) 0).word (SVC_FSTAT strayFlow) = 0 ∧
    strayState.dev.word (SVC_FSTAT strayFlow) = 0x80000000 ∧ (strayState.dev.pairFault (2 : Fin 4) 0).rst.deep = false := by decide +kernel

theorem exec_pairLockstepMismatch (n : Fin 4) (s : State) :
    exec (.pairLockstepMismatch n) s = s.act .device (·.pairFault n 0) := rfl

/-! ### The statement -/

/-- Refutes O47: its clause of a lockstep fault of pair 2 lets the item in service have any flow. With an item of flow 0x22F00 the pair's
reset clears INSVC at 0x460008, past every block, where the clause lets registers of SVC change alone. An enqueue takes the flow from
a byte (R398), but the statement speaks of every state. -/
theorem not_pairs : ¬ Obligations.Pairs := by
  unfold Obligations.Pairs
  intro h
  obtain ⟨hheld, hdeep0, hruns⟩ := strayState_ready
  obtain ⟨hcleared, hset, hdeep⟩ := strayState_pairFault
  obtain ⟨-, -, -, -, -, hfault, -⟩ := h strayState .pcie 2 strayItem 0 0
  obtain ⟨d, ⟨-, -, -, -, -, hframe⟩, hword⟩ := (hfault hheld hruns (by decide)).1.word_pastBar0 (off := SVC_FSTAT strayFlow)
    (exec_pairLockstepMismatch _ _) hheld hdeep (fun d ⟨_, _, _, _, _, hd⟩ => (congrArg RstState.deep (hd.1 .rst (by decide))).trans hdeep0)
    (by decide)
  have hkept : d.word (SVC_FSTAT strayFlow) = strayState.dev.word (SVC_FSTAT strayFlow) := hframe.word _ (by decide)
  have hclash : (0 : Word) = 0x80000000 :=
    calc (0 : Word)
      _ = d.word (SVC_FSTAT strayFlow) := (hword.trans hcleared).symm
      _ = 0x80000000 := hkept.trans hset
  exact absurd hclash (by decide)

end Sys2Proof.Machine
end

section
/-! What the clock commands share: fields of one bit and of a written value, time that passes until an instant of the cast-iron
oscillator, an event in the EVT ring, a write that is let through, and the block's smallest operations. -/

namespace Sys2Proof.Machine

open Sys2Proof

/-! ### Fields -/

/-- Two fields of different registers, or of other bits of one. -/
abbrev Fld.Apart (f g : Fld) : Prop := g.off ≠ f.off ∨ f.hi < 32 ∧ g.hi < 32 ∧ (g.hi < f.lo ∨ f.hi < g.lo)

/-- A field apart from every field of a list. -/
abbrev Fld.ApartFrom (g : Fld) (l : List Fld) : Prop := ∀ f ∈ l, f.Apart g

theorem Fld.ApartFrom.mono {g : Fld} {l l' : List Fld} (h : g.ApartFrom l) (hl : l' ⊆ l) : g.ApartFrom l' := fun f hf => h f (hl hf)

/-- A field apart from the one written keeps its value. -/
theorem Dev.get_set_apart (d : Dev) (f g : Fld) (v : Nat) (h : f.Apart g) : (d.set f v).get g = d.get g := by
  by_cases ho : g.off = f.off
  · obtain ⟨hf, hg, hbits⟩ := h.resolve_left (by simp [ho])
    exact d.get_set_disjoint f g v hf hg ho hbits
  · exact d.get_set_off f g v ho

/-- A value that fits a field is read back. -/
theorem Dev.get_set_fits (d : Dev) (f : Fld) (v : Nat) (h : f.hi < 32) (hv : v < 2 ^ f.width) : (d.set f v).get f = v :=
  (d.get_set_same f v h).trans (Nat.mod_eq_of_lt hv)

theorem Fld.of_lt (f : Fld) (w : Word) (h : f.hi < 32) : f.of w < 2 ^ f.width := by
  rw [Fld.of_eq_div_mod f w h]
  exact Nat.mod_lt _ (Nat.two_pow_pos _)

/-- A field set to what it is in a word. -/
theorem Dev.get_set_of (d : Dev) (f : Fld) (w : Word) (h : f.hi < 32) : (d.set f (f.of w)).get f = f.of w :=
  d.get_set_fits f _ h (f.of_lt w h)

theorem Fld.of_one_bit (f : Fld) (w : Word) (h : f.hi < 32) (hw : f.width = 1) : f.of w = 0 ∨ f.of w = 1 := by
  have := hw ▸ f.of_lt w h
  omega

theorem Dev.get_one_bit (d : Dev) (f : Fld) (h : f.hi < 32) (hw : f.width = 1) : d.get f = 0 ∨ d.get f = 1 :=
  f.of_one_bit _ h hw

theorem Dev.is_eq (d : Dev) (f : Fld) : d.is f = decide (d.get f ≠ 0) := by simp [Dev.is]

theorem Dev.get_setB_same (d : Dev) (f : Fld) (b : Bool) (h : f.hi < 32) (hw : f.lo ≤ f.hi) :
    (d.setB f b).get f = if b then 1 else 0 := by
  have h1 : 2 ^ 1 ≤ 2 ^ f.width := Nat.pow_le_pow_right (by decide) (by unfold Fld.width; omega)
  exact d.get_set_fits f _ h (by split <;> omega)

theorem Dev.get_setB_apart (d : Dev) (f g : Fld) (b : Bool) (h : f.Apart g) : (d.setB f b).get g = d.get g := d.get_set_apart f g _ h

/-- A number within a signed field's range is read back after a write with saturation. -/
theorem Dev.getS_setSat_same (d : Dev) (f : Fld) (v : Int) (h : f.hi < 32) (hw : f.lo ≤ f.hi) (hlo : -2 ^ (f.width - 1) ≤ v)
    (hhi : v < 2 ^ (f.width - 1)) : (d.setSat f v).getS f = v := by
  have hpow : (2 : Int) ^ f.width = 2 ^ (f.width - 1) * 2 := by
    rw [← pow_succ, Nat.sub_add_cancel (by unfold Fld.width; omega)]
  have hclamp : clampInt (-(2 ^ (f.width - 1))) (2 ^ (f.width - 1) - 1) v = v := by
    unfold clampInt
    split_ifs <;> omega
  rw [Dev.setSat, hclamp]
  exact d.getS_setS_same f v h (by omega) (by omega)

/-! ### Time -/

@[simp] theorem Dev.when_wrapped_time (d : Dev) (b : Bool) (n : Nat) : (d.when b (·.wrapped n)).time = d.time := by
  cases b <;> rfl

/-- Before the bases run they do not move (R160). -/
theorem Dev.basesOn_stopped (d : Dev) (ns : Nat) (h : d.time.on = false) : d.basesOn ns = d := if_pos (.inl h)

@[simp] theorem Dev.basesOn_cio (d : Dev) (ns : Nat) : (d.basesOn ns).time.cio = d.time.cio := by
  unfold Dev.basesOn
  split
  · rfl
  · simp

theorem Dev.basesOn_up (d : Dev) (ns : Nat) (h : d.time.on = true) : (d.basesOn ns).time.up = d.time.up + ns := by
  unfold Dev.basesOn
  split
  next hstop => rw [hstop.resolve_left (by simp [h]), Nat.add_zero]
  · simp

/-- Time that passes until an instant of the cast-iron oscillator, if that is to come. -/
theorem Dev.elapse_until (d : Dev) (t : Nat) : (d.elapse (t - d.time.cio)).time.cio = max d.time.cio t := by
  simp only [Dev.elapse, Dev.basesOn_cio]
  omega

theorem Dev.elapse_up (d : Dev) (ns : Nat) (h : d.time.on = true) : (d.elapse ns).time.up = d.time.up + ns := d.basesOn_up ns h

theorem Dev.elapse_stopped (d : Dev) (ns : Nat) (h : d.time.on = false) : (d.elapse ns).time.on = false := by
  rw [Dev.elapse, d.basesOn_stopped ns h]
  exact h

@[simp] theorem Dev.elapse_clk (d : Dev) (ns : Nat) : (d.elapse ns).clk = d.clk := (d.elapse_changes ns).1 .clk (by simp)

theorem Dev.elapse_get (d : Dev) (ns : Nat) (g : Fld) (h : g.off ≠ TIM_WRAP) : (d.elapse ns).get g = d.get g :=
  (d.elapse_changes ns).get g (by simpa using h)

/-! ### An event in the EVT ring (R371) -/

/-- Interrupts are no entries. -/
theorem Dev.coalesce_evt (d : Dev) (r : Nat) : (d.coalesce r).out.filterMap Emission.evt = d.out.filterMap Emission.evt := by
  unfold Dev.coalesce
  dsimp only
  split <;> rfl

/-- Code and origin stand in the first DW of an event, whatever the flag of lost entries. -/
theorem evt_firstDW (o : Origin) {code : Nat} (hcode : code < 2 ^ 16) (lost : Bool) :
    (dw (code + o.code * 2 ^ 16 + if lost then 2 ^ 24 else 0)).toNat % 2 ^ 16 = code ∧
      (dw (code + o.code * 2 ^ 16 + if lost then 2 ^ 24 else 0)).toNat / 2 ^ 16 % 16 = o.code := by
  have ho := o.code_lt
  rw [dw, BitVec.toNat_ofNat]
  constructor <;> split <;> omega

/-- An event that the ring takes is one entry more. -/
theorem Dev.event_posts (d : Dev) {code : Nat} (hcode : code < 2 ^ 16) (o : Origin) (arg : Nat) : d.Posts (d.event code o arg) code o := by
  rintro ⟨hen, hbme, hroom⟩
  have hfull : ¬ (d.is HIF_STAT_BME = false ∨ d.ringFill 2 = d.ringSize 2) := by simp [Dev.is_eq, hbme, hroom]
  obtain ⟨hlow, hhigh⟩ := evt_firstDW o hcode (nth d.hif.lost 2 false)
  rw [Dev.event, Dev.pushEntry, if_neg (by simp [Dev.is_eq, hen]), if_neg hfull, Dev.writeEntry, Dev.coalesce_evt]
  have hentry : ∀ i (l r : List Word), nth l 0 0 = dw (code + o.code * 2 ^ 16 + if nth d.hif.lost 2 false then 2 ^ 24 else 0) →
      Emission.evt (.hostEntry 2 i l r) = some (code, o.code) := fun i l r hl => by rw [Emission.evt, hl, hlow, hhigh]
  exact (List.filterMap_cons_none rfl).trans (List.filterMap_cons_some (hentry _ _ _ rfl))

/-- The registers on which it depends whether the EVT ring takes an entry. -/
def evtRoomRegs : List Nat := [HIF_RING_CTL 2, HIF_STAT, HIF_RING_DIDX 2, HIF_RING_HIDX 2]

/-- A frame that leaves those registers alone leaves the ring's room as it is. -/
theorem Dev.Changes.evtRoom {ps : List DevPart} {S : Nat → Prop} {a b : Dev} (h : a.Changes ps S b)
    (hS : ∀ r ∈ evtRoomRegs, ¬ S r) : b.EvtRoom ↔ a.EvtRoom := by
  have hctl := hS (HIF_RING_CTL 2) (by simp [evtRoomRegs])
  rw [Dev.EvtRoom, Dev.EvtRoom, Dev.ringFill, Dev.ringFill, Dev.ringSize, Dev.ringSize, h.get (HIF_RING_CTL_EN 2) hctl,
    h.get (HIF_RING_CTL_SIZE 2) hctl, h.get HIF_STAT_BME (hS HIF_STAT (by simp [evtRoomRegs])),
    h.get (HIF_RING_DIDX_DIDX 2) (hS (HIF_RING_DIDX 2) (by simp [evtRoomRegs])),
    h.get (HIF_RING_HIDX_HIDX 2) (hS (HIF_RING_HIDX 2) (by simp [evtRoomRegs]))]

/-- An event posted once some clock registers are written. -/
theorem Dev.Changes.posts {ps : List DevPart} {l : List Nat} {a b : Dev} (h : a.Changes ps (At l) b) (hout : .out ∉ ps)
    (hl : ∀ r ∈ evtRoomRegs, r ∉ l) {code : Nat} (hcode : code < 2 ^ 16) (o : Origin) (arg : Nat) :
    a.Posts (b.event code o arg) code o := by
  intro hroom
  have hsame : b.out = a.out := h.1 .out hout
  exact hsame ▸ b.event_posts hcode o arg ((h.evtRoom hl).2 hroom)

@[simp] theorem Dev.event_clk (d : Dev) (code : Nat) (o : Origin) (arg : Nat) : (d.event code o arg).clk = d.clk :=
  (d.event_changes code o arg).1 .clk (by simp)

@[simp] theorem Dev.event_time (d : Dev) (code : Nat) (o : Origin) (arg : Nat) : (d.event code o arg).time = d.time :=
  (d.event_changes code o arg).1 .time (by simp)

theorem Dev.event_get (d : Dev) (code : Nat) (o : Origin) (arg : Nat) (g : Fld) (h : g.off ∉ evtRegs) :
    (d.event code o arg).get g = d.get g := (d.event_changes code o arg).get g h

/-! ### How a command runs -/

/-- A write that is let through, of a register with an effect of its own, has the effect and answers. -/
theorem Comes.write {c : Instr} {o : Origin} {s : State} {P : Dev → Prop} {off : Nat} {v : Word} {e : Dev}
    (hc : exec c s = s.write o off v) (h : s.Lets o off) (hlock : s.dev.locked = false ∨ rwlMask off = 0) (ha : off % 4 = 0)
    (hl : off < 0x400000) (hr : (regAt off).isSome = true) (he : s.dev.special s.nv o off v = some e) (hP : P (e.emit (.answer o off .written))) :
    Comes c o s P := by
  refine ⟨_, hc.trans (State.write_reaches s o off v ⟨h, hlock⟩ ha hl hr), ?_⟩
  rwa [he, Option.getD_some]

/-- A command that may change MRAM runs out of reset. -/
theorem Stores.store {c : Instr} {o : Origin} {s : State} {P : Nonvol → Dev → Prop} (f : Nonvol → Dev → Nonvol × Dev)
    (hc : exec c s = s.store o f) (h : s.dev.held = false) (hP : P (f s.nv s.dev).1 (f s.nv s.dev).2) : Stores c o s P :=
  ⟨_, _, hc.trans (State.store_next s o f h), hP⟩

end Sys2Proof.Machine
end

section
/-! Writes of CLK_CTRL (R430, R438, R440, R443): MDLLEN starts and ends an acquisition, SEL moves the root to a source that is
READY and is refused otherwise. -/

namespace Sys2Proof.Machine

open Sys2Proof

/-! ### MDLLEN (R430) -/

theorem Dev.acquire_changes {S : Nat → Prop} (d : Dev) : d.Changes [.clk] S d.acquire := .clk_ _ _ (by simp)

theorem Dev.unready_changes (d : Dev) : d.Changes [.clk] (At [CLK_STAT]) d.unready :=
  .trans (.set _ _ _ (by simp [At, CLK_STAT_MDLLRDY])) (.clk_ _ _ (by simp))

@[simp] theorem Dev.acquire_get (d : Dev) (g : Fld) : d.acquire.get g = d.get g := rfl

theorem Dev.unready_get (d : Dev) (g : Fld) (h : CLK_STAT_MDLLRDY.Apart g) : d.unready.get g = d.get g := d.get_set_apart _ g 0 h

@[simp] theorem Dev.unready_mdllrdy (d : Dev) : d.unready.get CLK_STAT_MDLLRDY = 0 :=
  d.get_set_fits CLK_STAT_MDLLRDY 0 (by decide) (by decide)

theorem Dev.mdllEnable_same (d : Dev) (en : Bool) (h : d.is CLK_CTRL_MDLLEN = en) : d.mdllEnable en = d := if_pos h.symm

/-- MDLLEN set starts an acquisition. -/
theorem Dev.mdllEnable_start (d : Dev) (h : d.is CLK_CTRL_MDLLEN = false) : d.mdllEnable true = (d.set CLK_CTRL_MDLLEN 1).acquire := by
  simp [Dev.mdllEnable, h]

theorem Dev.mdllEnable_changes (d : Dev) (en : Bool) : d.Changes [.clk] (At [CLK_CTRL, CLK_STAT]) (d.mdllEnable en) := by
  unfold Dev.mdllEnable
  split_ifs
  · exact .refl d
  · exact .trans (.set d _ _ (by decide)) (Dev.acquire_changes _)
  · exact .trans (.set d _ _ (by decide)) ((Dev.unready_changes _).mono (by simp) (by simp))

/-- MDLLEN set leaves CLK_STAT as it is. -/
theorem Dev.mdllEnable_true_changes (d : Dev) : d.Changes [.clk] (At [CLK_CTRL]) (d.mdllEnable true) := by
  cases hon : d.is CLK_CTRL_MDLLEN with
  | true => exact (d.mdllEnable_same true hon).symm ▸ .refl d
  | false => exact d.mdllEnable_start hon ▸ .trans (.set d _ _ (by decide)) (Dev.acquire_changes _)

@[simp] theorem Dev.mdllEnable_switch (d : Dev) (en : Bool) : (d.mdllEnable en).clk.switch = d.clk.switch := by
  unfold Dev.mdllEnable
  split_ifs <;> rfl

theorem Dev.mdllEnable_mdllen (d : Dev) (en : Bool) : (d.mdllEnable en).get CLK_CTRL_MDLLEN = if en then 1 else 0 := by
  unfold Dev.mdllEnable
  split_ifs with hsame hen
  · exact (d.is_one_bit (by decide) rfl).1 (hsame ▸ hen)
  · simpa [Dev.is_eq, hen] using hsame
  · exact d.get_set_fits _ 1 (by decide) (by decide)
  · rw [Dev.unready_get _ _ (by decide)]
    exact d.get_set_fits _ 0 (by decide) (by decide)

theorem Dev.mdllEnable_mdllrdy (d : Dev) (en : Bool) : (d.mdllEnable en).get CLK_STAT_MDLLRDY =
    if en = false ∧ d.get CLK_CTRL_MDLLEN = 1 then 0 else d.get CLK_STAT_MDLLRDY := by
  cases hen : en <;> rcases d.get_one_bit CLK_CTRL_MDLLEN (by decide) rfl with h | h <;>
    simp (disch := decide) [Dev.mdllEnable, Dev.is_eq, h, Dev.get_set_apart]

theorem Dev.mdllEnable_get (d : Dev) (en : Bool) (g : Fld) (h : g.ApartFrom [CLK_CTRL_MDLLEN, CLK_STAT_MDLLRDY]) :
    (d.mdllEnable en).get g = d.get g := by
  have hset : ∀ v, (d.set CLK_CTRL_MDLLEN v).get g = d.get g := fun v => d.get_set_apart _ g v (h _ (by simp))
  unfold Dev.mdllEnable
  split_ifs
  · rfl
  · exact hset 1
  · exact (Dev.unready_get _ g (h _ (by simp))).trans (hset 0)

/-! ### SEL (R440) -/

/-- The root may move to a source: no switch is in progress, the source is READY, and away from the synthesiser every arm is BLOCKED. -/
def Dev.Selectable (d : Dev) (synth : Bool) : Prop :=
  d.get CLK_STAT_SWBUSY = 0 ∧ d.sourceReady synth = true ∧ (synth = false → d.allBlocked = true)

/-- Neither SEL nor the root names another source. -/
def Dev.Selected (d : Dev) (synth : Bool) : Prop := synth = d.is CLK_CTRL_SEL ∧ synth = d.is CLK_STAT_SRC

theorem Dev.selectSource_selected {d : Dev} {synth : Bool} (h : d.Selected synth) : d.selectSource synth = d := if_pos h

theorem Dev.selectSource_refused {d : Dev} {synth : Bool} (h : ¬ d.Selected synth) (hno : ¬ d.Selectable synth) :
    d.selectSource synth = d.set CLK_EVT_SWREF 1 := by
  refine (if_neg h).trans (if_pos ?_)
  by_contra hyes
  rw [Dev.is_eq] at hyes
  exact hno ⟨by simpa using mt .inl hyes, by simpa using fun x => hyes (.inr (.inl x)),
    fun hs => by simpa using fun x => hyes (.inr (.inr ⟨hs, x⟩))⟩

theorem Dev.selectSource_taken {d : Dev} {synth : Bool} (h : ¬ d.Selected synth) (hyes : d.Selectable synth) :
    d.selectSource synth =
      if synth = d.is CLK_STAT_SRC then d.setB CLK_CTRL_SEL synth else (d.setB CLK_CTRL_SEL synth).startSwitch synth := by
  obtain ⟨hidle, hready, hblocked⟩ := hyes
  have hno : ¬ (d.is CLK_STAT_SWBUSY = true ∨ d.sourceReady synth = false ∨ synth = false ∧ d.allBlocked = false) := by
    rintro (hbusy | hnot | ⟨hs, harms⟩)
    · simp [Dev.is_eq, hidle] at hbusy
    · simp [hready] at hnot
    · simp [hblocked hs] at harms
  refine (if_neg h).trans ((if_neg hno).trans ?_)
  simp only [Dev.is_eq, Dev.get_setB_apart d CLK_CTRL_SEL CLK_STAT_SRC synth (by decide)]

/-! ### A switch that starts (R439, R443) -/

theorem Dev.startSwitch_changes (d : Dev) (synth : Bool) : d.Changes [.clk] (At [CLK_STAT]) (d.startSwitch synth) := by
  refine Dev.Chg.changes ?_
  unfold Dev.startSwitch Dev.setClk
  repeat' constructor

@[simp] theorem Dev.startSwitch_clk (d : Dev) (synth : Bool) : (d.startSwitch synth).clk = { d.clk with switch := some synth } := by
  unfold Dev.startSwitch
  dsimp only
  split <;> rfl

@[simp] theorem Dev.startSwitch_time (d : Dev) (synth : Bool) : (d.startSwitch synth).time = d.time :=
  (d.startSwitch_changes synth).1 .time (by simp)

@[simp] theorem Dev.startSwitch_swbusy (d : Dev) (synth : Bool) : (d.startSwitch synth).get CLK_STAT_SWBUSY = 1 := by
  unfold Dev.startSwitch
  dsimp only
  split
  · rw [Dev.get_set_apart _ _ _ _ (by decide)]
    exact d.get_set_fits _ 1 (by decide) (by decide)
  · exact d.get_set_fits _ 1 (by decide) (by decide)

/-- Away from the synthesiser, once the root has run from it, clock-degraded mode runs. -/
theorem Dev.startSwitch_clkdeg (d : Dev) (h : d.clk.everSynth = true) : (d.startSwitch false).get CLK_STAT_CLKDEG = 1 := by
  refine (congrArg (Dev.get · CLK_STAT_CLKDEG) (if_pos ⟨rfl, h⟩)).trans ?_
  exact Dev.get_set_fits _ _ 1 (by decide) (by decide)

theorem Dev.startSwitch_get (d : Dev) (synth : Bool) (g : Fld) (h : g.ApartFrom [CLK_STAT_SWBUSY, CLK_STAT_CLKDEG]) :
    (d.startSwitch synth).get g = d.get g := by
  have hbusy : (d.set CLK_STAT_SWBUSY 1).get g = d.get g := d.get_set_apart _ g 1 (h _ (by simp))
  unfold Dev.startSwitch
  dsimp only
  split
  · exact (Dev.get_set_apart _ CLK_STAT_CLKDEG g 1 (h _ (by simp))).trans hbusy
  · exact hbusy

/-! ### What a write of SEL leaves alone -/

theorem Dev.selectSource_cases (d : Dev) (synth : Bool) {P : Dev → Prop} (hkept : P d) (hrefused : P (d.set CLK_EVT_SWREF 1))
    (hset : P (d.setB CLK_CTRL_SEL synth)) (hswitched : P ((d.setB CLK_CTRL_SEL synth).startSwitch synth)) : P (d.selectSource synth) := by
  by_cases hsel : d.Selected synth
  · rwa [Dev.selectSource_selected hsel]
  · by_cases hyes : d.Selectable synth
    · rw [Dev.selectSource_taken hsel hyes]
      split <;> assumption
    · rwa [Dev.selectSource_refused hsel hyes]

theorem Dev.selectSource_changes (d : Dev) (synth : Bool) : d.Changes [.clk] (At [CLK_CTRL, CLK_STAT, CLK_EVT]) (d.selectSource synth) := by
  have hsel : d.Changes [.clk] (At [CLK_CTRL, CLK_STAT, CLK_EVT]) (d.setB CLK_CTRL_SEL synth) := .set _ _ _ (by decide)
  refine d.selectSource_cases synth (.refl d) (.set _ _ _ (by decide)) hsel (hsel.trans ?_)
  exact (Dev.startSwitch_changes _ _).mono (by simp) (by simp)

theorem Dev.selectSource_clk (d : Dev) (synth : Bool) : ∃ sw, (d.selectSource synth).clk = { d.clk with switch := sw } :=
  d.selectSource_cases synth (P := fun e => ∃ sw, e.clk = { d.clk with switch := sw }) ⟨_, rfl⟩ ⟨_, rfl⟩ ⟨_, rfl⟩
    ⟨_, Dev.startSwitch_clk _ _⟩

theorem Dev.selectSource_get (d : Dev) (synth : Bool) (g : Fld)
    (h : g.ApartFrom [CLK_CTRL_SEL, CLK_STAT_SWBUSY, CLK_STAT_CLKDEG, CLK_EVT_SWREF]) : (d.selectSource synth).get g = d.get g := by
  have hset : (d.setB CLK_CTRL_SEL synth).get g = d.get g := d.get_setB_apart _ g synth (h _ (by simp))
  exact d.selectSource_cases synth (P := fun e => e.get g = d.get g) rfl (d.get_set_apart _ g 1 (h _ (by simp))) hset
    ((Dev.startSwitch_get _ synth g (h.mono (by simp))).trans hset)

/-! ### A write of CLK_CTRL -/

/-- The source that a value of CLK_CTRL names: whether it is the synthesiser. -/
def namesSynth (v : Word) : Bool := CLK_CTRL_SEL.of v ≠ 0

/-- The device once a write of CLK_CTRL has taken TRIMEN, AUTORET and MDLLEN. -/
def Dev.ctrlLoaded (d : Dev) (v : Word) : Dev :=
  (d.set CLK_CTRL_TRIMEN (CLK_CTRL_TRIMEN.of v) |>.set CLK_CTRL_AUTORET (CLK_CTRL_AUTORET.of v)).mdllEnable (CLK_CTRL_MDLLEN.of v ≠ 0)

theorem Dev.clkCtrl_eq (d : Dev) (v : Word) : d.clkCtrl v = (d.ctrlLoaded v).selectSource (namesSynth v) := rfl

theorem CLK_CTRL_SEL_cases (v : Word) :
    CLK_CTRL_SEL.of v = 0 ∧ namesSynth v = false ∨ CLK_CTRL_SEL.of v = 1 ∧ namesSynth v = true := by
  rcases CLK_CTRL_SEL.of_one_bit v (by decide) rfl with h | h <;> simp [namesSynth, h]

theorem namesSynth_toNat (v : Word) : (if namesSynth v then 1 else 0) = CLK_CTRL_SEL.of v := by
  rcases CLK_CTRL_SEL_cases v with ⟨h, hs⟩ | ⟨h, hs⟩ <;> simp [h, hs]

/-- A field of one bit agrees with SEL of a value. -/
theorem Dev.namesSynth_eq_is (d : Dev) (v : Word) (f : Fld) (h : f.hi < 32) (hw : f.width = 1) :
    namesSynth v = d.is f ↔ CLK_CTRL_SEL.of v = d.get f := by
  rcases CLK_CTRL_SEL_cases v with ⟨hv, hs⟩ | ⟨hv, hs⟩ <;> rcases d.get_one_bit f h hw with hf | hf <;> simp [Dev.is_eq, hv, hs, hf]

section
variable (d : Dev) (v : Word)

theorem Dev.ctrlLoaded_changes : d.Changes [.clk] (At [CLK_CTRL, CLK_STAT]) (d.ctrlLoaded v) :=
  .trans (.trans (.set _ _ _ (by decide)) (.set _ _ _ (by decide))) (Dev.mdllEnable_changes _ _)

@[simp] theorem Dev.ctrlLoaded_switch : (d.ctrlLoaded v).clk.switch = d.clk.switch := Dev.mdllEnable_switch _ _

theorem Dev.ctrlLoaded_trimen : (d.ctrlLoaded v).get CLK_CTRL_TRIMEN = CLK_CTRL_TRIMEN.of v := by
  rw [Dev.ctrlLoaded, Dev.mdllEnable_get _ _ _ (by decide), Dev.get_set_apart _ _ _ _ (by decide)]
  exact d.get_set_of _ v (by decide)

theorem Dev.ctrlLoaded_autoret : (d.ctrlLoaded v).get CLK_CTRL_AUTORET = CLK_CTRL_AUTORET.of v := by
  rw [Dev.ctrlLoaded, Dev.mdllEnable_get _ _ _ (by decide)]
  exact Dev.get_set_of _ _ v (by decide)

theorem Dev.ctrlLoaded_mdllen : (d.ctrlLoaded v).get CLK_CTRL_MDLLEN = CLK_CTRL_MDLLEN.of v := by
  rw [Dev.ctrlLoaded, Dev.mdllEnable_mdllen]
  rcases CLK_CTRL_MDLLEN.of_one_bit v (by decide) rfl with h | h <;> simp [h]

/-- The fields that a write of CLK_CTRL may change whatever it says of SEL. -/
abbrev loadedFields : List Fld := [CLK_CTRL_TRIMEN, CLK_CTRL_AUTORET, CLK_CTRL_MDLLEN, CLK_STAT_MDLLRDY]

theorem Dev.ctrlLoaded_get (g : Fld) (h : g.ApartFrom loadedFields) : (d.ctrlLoaded v).get g = d.get g := by
  rw [Dev.ctrlLoaded, Dev.mdllEnable_get _ _ g (h.mono (by simp)),
    Dev.get_set_apart _ CLK_CTRL_AUTORET g _ (h _ (by simp)), Dev.get_set_apart _ CLK_CTRL_TRIMEN g _ (h _ (by simp))]

theorem Dev.ctrlLoaded_mdllrdy : (d.ctrlLoaded v).get CLK_STAT_MDLLRDY =
    if CLK_CTRL_MDLLEN.of v = 0 ∧ d.get CLK_CTRL_MDLLEN = 1 then 0 else d.get CLK_STAT_MDLLRDY := by
  rw [Dev.ctrlLoaded, Dev.mdllEnable_mdllrdy]
  simp (disch := decide) only [Dev.get_set_apart, decide_eq_false_iff_not, not_not]

/-- MDLLEN from 0 to 1 starts an acquisition from the seed (R431). -/
theorem Dev.ctrlLoaded_acquires (hoff : d.get CLK_CTRL_MDLLEN = 0) (hon : CLK_CTRL_MDLLEN.of v = 1) :
    (d.ctrlLoaded v).clk.lockRun = 0 ∧ (d.ctrlLoaded v).clk.lfsr = d.seed := by
  have hseed : ∀ (e : Dev) (f : Fld) x, f.off = CLK_CTRL → (e.set f x).seed = e.seed := fun e f x ho => by
    rw [Dev.seed, Dev.get_set_off _ _ _ _ (by rw [ho]; decide), Dev.seed]
  rw [Dev.ctrlLoaded, show decide (CLK_CTRL_MDLLEN.of v ≠ 0) = true by simp [hon],
    Dev.mdllEnable_start _ (by simp (disch := decide) [Dev.is_eq, Dev.get_set_apart, hoff])]
  exact ⟨rfl, ((hseed _ _ _ rfl).trans (hseed _ _ _ rfl)).trans (hseed _ _ _ rfl)⟩

theorem Dev.ctrlLoaded_selected : (d.ctrlLoaded v).Selected (namesSynth v) ↔
    CLK_CTRL_SEL.of v = d.get CLK_CTRL_SEL ∧ CLK_CTRL_SEL.of v = d.get CLK_STAT_SRC := by
  rw [Dev.Selected, Dev.namesSynth_eq_is _ v _ (by decide) rfl, Dev.namesSynth_eq_is _ v _ (by decide) rfl,
    d.ctrlLoaded_get v _ (by decide), d.ctrlLoaded_get v _ (by decide)]

/-- A source is READY with the MDLLEN that the write takes (R438). -/
theorem Dev.ctrlLoaded_selectable : (d.ctrlLoaded v).Selectable (namesSynth v) ↔ d.mayRoot v := by
  have hblocked : (d.ctrlLoaded v).allBlocked = d.allBlocked := by
    have harm : ∀ a, (d.ctrlLoaded v).arm a = d.arm a := fun a => by
      have hoff : SCH_ASTAT a ∉ [CLK_CTRL, CLK_STAT] := by simp [SCH_ASTAT, CLK_CTRL, CLK_STAT]; omega
      rw [Dev.arm, (d.ctrlLoaded_changes v).get _ hoff, Dev.arm]
    simp only [Dev.allBlocked, harm]
  have hen := CLK_CTRL_MDLLEN.of_one_bit v (by decide) rfl
  have hen' := d.get_one_bit CLK_CTRL_MDLLEN (by decide) rfl
  have hcio := d.get_one_bit CLK_STAT_CIORDY (by decide) rfl
  have hrdy := d.get_one_bit CLK_STAT_MDLLRDY (by decide) rfl
  rw [Dev.Selectable, Dev.mayRoot, d.ctrlLoaded_get v _ (by decide), hblocked]
  rcases CLK_CTRL_SEL_cases v with ⟨hv, hs⟩ | ⟨hv, hs⟩
  · rw [hs, Dev.sourceReady, if_neg (by decide), Dev.is_eq, d.ctrlLoaded_get v CLK_STAT_CIORDY (by decide)]
    rcases hcio with h | h <;> simp [hv, h]
  · rw [hs, Dev.sourceReady, if_pos rfl, Dev.is_eq, d.ctrlLoaded_mdllrdy v]
    rcases hrdy with h | h <;> rcases hen with h2 | h2 <;> rcases hen' with h3 | h3 <;> simp [hv, h, h2, h3]

/-! ### What the whole write does -/

theorem Dev.clkCtrl_changes : d.Changes [.clk] (At [CLK_CTRL, CLK_STAT, CLK_EVT]) (d.clkCtrl v) :=
  ((d.ctrlLoaded_changes v).mono (by simp) (by simp)).trans (Dev.selectSource_changes _ _)

/-- TRIMEN, AUTORET and MDLLEN are taken whatever becomes of SEL. -/
theorem Dev.clkCtrl_fields : (d.clkCtrl v).get CLK_CTRL_TRIMEN = CLK_CTRL_TRIMEN.of v ∧
    (d.clkCtrl v).get CLK_CTRL_AUTORET = CLK_CTRL_AUTORET.of v ∧ (d.clkCtrl v).get CLK_CTRL_MDLLEN = CLK_CTRL_MDLLEN.of v ∧
    (d.clkCtrl v).get CLK_STAT_SRC = d.get CLK_STAT_SRC ∧
    (d.get CLK_CTRL_MDLLEN = 1 → CLK_CTRL_MDLLEN.of v = 0 → (d.clkCtrl v).get CLK_STAT_MDLLRDY = 0) := by
  simp (disch := decide) only [Dev.clkCtrl_eq, Dev.selectSource_get]
  exact ⟨d.ctrlLoaded_trimen v, d.ctrlLoaded_autoret v, d.ctrlLoaded_mdllen v, d.ctrlLoaded_get v _ (by decide),
    fun hen hof => (d.ctrlLoaded_mdllrdy v).trans (if_pos ⟨hof, hen⟩)⟩

theorem Dev.clkCtrl_acquires (hoff : d.get CLK_CTRL_MDLLEN = 0) (hon : CLK_CTRL_MDLLEN.of v = 1) :
    (d.clkCtrl v).clk.lockRun = 0 ∧ (d.clkCtrl v).clk.lfsr = d.seed := by
  obtain ⟨sw, hclk⟩ := (d.ctrlLoaded v).selectSource_clk (namesSynth v)
  rw [Dev.clkCtrl_eq, hclk]
  exact d.ctrlLoaded_acquires v hoff hon

theorem Dev.clkCtrl_selected (hsel : CLK_CTRL_SEL.of v = d.get CLK_CTRL_SEL) (hsrc : CLK_CTRL_SEL.of v = d.get CLK_STAT_SRC) :
    d.clkCtrl v = d.ctrlLoaded v :=
  Dev.selectSource_selected ((d.ctrlLoaded_selected v).2 ⟨hsel, hsrc⟩)

/-- A source that is READY and is not the root's is switched to. -/
theorem Dev.clkCtrl_switched (hsrc : CLK_CTRL_SEL.of v ≠ d.get CLK_STAT_SRC) (hmay : d.mayRoot v) :
    d.clkCtrl v = ((d.ctrlLoaded v).setB CLK_CTRL_SEL (namesSynth v)).startSwitch (namesSynth v) := by
  rw [Dev.clkCtrl_eq, Dev.selectSource_taken (fun h => hsrc ((d.ctrlLoaded_selected v).1 h).2) ((d.ctrlLoaded_selectable v).2 hmay), if_neg]
  rwa [Dev.namesSynth_eq_is _ v _ (by decide) rfl, d.ctrlLoaded_get v _ (by decide)]

/-- SEL follows the root without a switch. -/
theorem Dev.clkCtrl_follows (hsel : CLK_CTRL_SEL.of v ≠ d.get CLK_CTRL_SEL) (hsrc : CLK_CTRL_SEL.of v = d.get CLK_STAT_SRC)
    (hmay : d.mayRoot v) : d.clkCtrl v = (d.ctrlLoaded v).setB CLK_CTRL_SEL (namesSynth v) := by
  rw [Dev.clkCtrl_eq, Dev.selectSource_taken (fun h => hsel ((d.ctrlLoaded_selected v).1 h).1) ((d.ctrlLoaded_selectable v).2 hmay), if_pos]
  rwa [Dev.namesSynth_eq_is _ v _ (by decide) rfl, d.ctrlLoaded_get v _ (by decide)]

theorem Dev.clkCtrl_refused (hnew : CLK_CTRL_SEL.of v ≠ d.get CLK_CTRL_SEL ∨ CLK_CTRL_SEL.of v ≠ d.get CLK_STAT_SRC)
    (hno : ¬ d.mayRoot v) : d.clkCtrl v = (d.ctrlLoaded v).set CLK_EVT_SWREF 1 :=
  Dev.selectSource_refused (fun h => hnew.elim (fun x => x ((d.ctrlLoaded_selected v).1 h).1) fun x => x ((d.ctrlLoaded_selected v).1 h).2)
    fun h => hno ((d.ctrlLoaded_selectable v).1 h)

end

end Sys2Proof.Machine
end

section
/-! The commands that write clock registers (R430, R440, R445, R446, R448, R451): the register's effect of each, and how it completes. -/

namespace Sys2Proof.Machine

open Sys2Proof

/-! ### CLK_CTRL -/

theorem clockSourceSelect_comes {s : State} {o : Origin} {v : Word} {P : Dev → Prop} (h : s.Lets o CLK_CTRL)
    (hP : P ((s.dev.clkCtrl v).emit (.answer o CLK_CTRL .written))) : Comes (.clockSourceSelect o v) o s P :=
  .write rfl h (.inr (by decide)) (by decide) (by decide) regAt_CLK_CTRL (Dev.special_CLK_CTRL _ _ _ _) hP

section
variable (s : State) (o : Origin) (v : Word) (h : s.Lets o CLK_CTRL)
include h

theorem clockSourceSelect_fields_comes : Comes (.clockSourceSelect o v) o s fun d =>
    d.get CLK_CTRL_TRIMEN = CLK_CTRL_TRIMEN.of v ∧ d.get CLK_CTRL_AUTORET = CLK_CTRL_AUTORET.of v ∧
    d.get CLK_CTRL_MDLLEN = CLK_CTRL_MDLLEN.of v ∧ d.get CLK_STAT_SRC = s.dev.get CLK_STAT_SRC ∧
    (s.dev.get CLK_CTRL_MDLLEN = 0 → CLK_CTRL_MDLLEN.of v = 1 → d.clk.lockRun = 0 ∧ d.clk.lfsr = s.dev.seed) ∧
    (s.dev.get CLK_CTRL_MDLLEN = 1 → CLK_CTRL_MDLLEN.of v = 0 → d.get CLK_STAT_MDLLRDY = 0) ∧
    s.dev.Changes [.clk, .out] (At [CLK_CTRL, CLK_STAT, CLK_EVT]) d := by
  obtain ⟨htrim, hret, hen, hsrc, hrdy⟩ := s.dev.clkCtrl_fields v
  exact clockSourceSelect_comes h ⟨htrim, hret, hen, hsrc, s.dev.clkCtrl_acquires v, hrdy, (s.dev.clkCtrl_changes v).answered _⟩

theorem clockSourceSelect_selected_comes (hsel : CLK_CTRL_SEL.of v = s.dev.get CLK_CTRL_SEL)
    (hsrc : CLK_CTRL_SEL.of v = s.dev.get CLK_STAT_SRC) : Comes (.clockSourceSelect o v) o s fun d =>
      d.get CLK_CTRL_SEL = s.dev.get CLK_CTRL_SEL ∧ d.clk.switch = s.dev.clk.switch ∧
      s.dev.Changes [.clk, .out] (At [CLK_CTRL, CLK_STAT]) d := by
  refine clockSourceSelect_comes h ?_
  rw [s.dev.clkCtrl_selected v hsel hsrc]
  exact ⟨s.dev.ctrlLoaded_get v CLK_CTRL_SEL (by decide), s.dev.ctrlLoaded_switch v, (s.dev.ctrlLoaded_changes v).answered _⟩

theorem clockSourceSelect_switched_comes (hsrc : CLK_CTRL_SEL.of v ≠ s.dev.get CLK_STAT_SRC) (hmay : s.dev.mayRoot v) :
    Comes (.clockSourceSelect o v) o s fun d => d.get CLK_CTRL_SEL = CLK_CTRL_SEL.of v ∧ d.get CLK_STAT_SWBUSY = 1 ∧
      d.clk.switch = some (decide (CLK_CTRL_SEL.of v = 1)) ∧ s.dev.Changes [.clk, .out] (At [CLK_CTRL, CLK_STAT]) d := by
  refine clockSourceSelect_comes h ?_
  rw [s.dev.clkCtrl_switched v hsrc hmay]
  have hframe : s.dev.Changes [.clk] (At [CLK_CTRL, CLK_STAT])
      (((s.dev.ctrlLoaded v).setB CLK_CTRL_SEL (namesSynth v)).startSwitch (namesSynth v)) :=
    ((s.dev.ctrlLoaded_changes v).trans (.set _ _ _ (by decide))).trans ((Dev.startSwitch_changes _ _).mono (by simp) (by simp))
  refine ⟨?_, Dev.startSwitch_swbusy _ _, ?_, hframe.answered _⟩
  · exact (Dev.startSwitch_get _ _ CLK_CTRL_SEL (by decide)).trans
      ((Dev.get_setB_same _ _ _ (by decide) (by decide)).trans (namesSynth_toNat v))
  · have hname : namesSynth v = decide (CLK_CTRL_SEL.of v = 1) := by
      rcases CLK_CTRL_SEL_cases v with ⟨hv, hs⟩ | ⟨hv, hs⟩ <;> simp [hv, hs]
    simp [hname]

theorem clockSourceSelect_follows_comes (hsel : CLK_CTRL_SEL.of v ≠ s.dev.get CLK_CTRL_SEL)
    (hsrc : CLK_CTRL_SEL.of v = s.dev.get CLK_STAT_SRC) (hmay : s.dev.mayRoot v) : Comes (.clockSourceSelect o v) o s fun d =>
      d.get CLK_CTRL_SEL = CLK_CTRL_SEL.of v ∧ d.clk.switch = s.dev.clk.switch ∧
      s.dev.Changes [.clk, .out] (At [CLK_CTRL, CLK_STAT]) d := by
  refine clockSourceSelect_comes h ?_
  rw [s.dev.clkCtrl_follows v hsel hsrc hmay]
  exact ⟨(Dev.get_setB_same _ CLK_CTRL_SEL _ (by decide) (by decide)).trans (namesSynth_toNat v), s.dev.ctrlLoaded_switch v,
    ((s.dev.ctrlLoaded_changes v).trans (.set _ _ _ (by decide))).answered _⟩

theorem clockSourceSelect_refused_comes (hnew : CLK_CTRL_SEL.of v ≠ s.dev.get CLK_CTRL_SEL ∨ CLK_CTRL_SEL.of v ≠ s.dev.get CLK_STAT_SRC)
    (hno : ¬ s.dev.mayRoot v) : Comes (.clockSourceSelect o v) o s fun d => d.get CLK_EVT_SWREF = 1 ∧
      d.get CLK_CTRL_SEL = s.dev.get CLK_CTRL_SEL ∧ d.clk.switch = s.dev.clk.switch ∧
      d.get CLK_STAT_SWBUSY = s.dev.get CLK_STAT_SWBUSY := by
  refine clockSourceSelect_comes h ?_
  rw [s.dev.clkCtrl_refused v hnew hno]
  have hkept : ∀ g : Fld, CLK_EVT_SWREF.Apart g → g.ApartFrom loadedFields →
      ((s.dev.ctrlLoaded v).set CLK_EVT_SWREF 1).get g = s.dev.get g := fun g hevt hg =>
    (Dev.get_set_apart _ _ g 1 hevt).trans (s.dev.ctrlLoaded_get v g hg)
  exact ⟨Dev.get_set_fits _ CLK_EVT_SWREF 1 (by decide) (by decide), hkept _ (by decide) (by decide), s.dev.ctrlLoaded_switch v,
    hkept _ (by decide) (by decide)⟩

end

/-! ### MDLLEN alone -/

theorem Fld.of_and (f : Fld) (w m : Word) (h : m &&& f.mask = f.mask) : f.of (w &&& m) = f.of w := by
  rw [Fld.of, BitVec.and_assoc, h, Fld.of]

theorem Dev.fieldWord_mdllen (d : Dev) : CLK_CTRL_MDLLEN.of (d.fieldWord CLK_CTRL_MDLLEN 1) = 1 :=
  Fld.of_into_same CLK_CTRL_MDLLEN _ 1 (by decide)

/-- The other fields of CLK_CTRL are written as they stand. -/
theorem Dev.fieldWord_sel (d : Dev) : CLK_CTRL_SEL.of (d.fieldWord CLK_CTRL_MDLLEN 1) = d.get CLK_CTRL_SEL :=
  (Fld.of_into_disjoint CLK_CTRL_MDLLEN CLK_CTRL_SEL _ 1 (by decide) (by decide) (by decide)).trans
    (Fld.of_and CLK_CTRL_SEL _ _ (by decide))

/-- A write that names the source that SEL names leaves SEL as it is. -/
theorem Dev.clkCtrl_sel (d : Dev) (v : Word) (h : CLK_CTRL_SEL.of v = d.get CLK_CTRL_SEL) :
    (d.clkCtrl v).get CLK_CTRL_SEL = d.get CLK_CTRL_SEL := by
  have hkept := d.ctrlLoaded_get v CLK_CTRL_SEL (by decide)
  have hset : ((d.ctrlLoaded v).setB CLK_CTRL_SEL (namesSynth v)).get CLK_CTRL_SEL = d.get CLK_CTRL_SEL :=
    ((Dev.get_setB_same _ _ _ (by decide) (by decide)).trans (namesSynth_toNat v)).trans h
  exact (d.ctrlLoaded v).selectSource_cases (namesSynth v) (P := fun e => e.get CLK_CTRL_SEL = d.get CLK_CTRL_SEL) hkept
    ((Dev.get_set_off _ CLK_EVT_SWREF _ 1 (by decide)).trans hkept) hset ((Dev.startSwitch_get _ _ _ (by decide)).trans hset)

theorem mdllEnable_comes (s : State) (o : Origin) (h : s.Lets o CLK_CTRL) : Comes (.mdllEnable o) o s fun d =>
    d.get CLK_CTRL_MDLLEN = 1 ∧ d.get CLK_CTRL_SEL = s.dev.get CLK_CTRL_SEL ∧
    (s.dev.get CLK_CTRL_MDLLEN = 0 → d.clk.lockRun = 0 ∧ d.clk.lfsr = s.dev.seed) ∧
    (s.dev.get CLK_CTRL_SEL = s.dev.get CLK_STAT_SRC → s.dev.Changes [.clk, .out] (At [CLK_CTRL]) d) ∧
    s.dev.Changes [.clk, .out] (At [CLK_CTRL, CLK_STAT, CLK_EVT]) d := by
  have hen := s.dev.fieldWord_mdllen
  have hsel := s.dev.fieldWord_sel
  refine .writeF (f := CLK_CTRL_MDLLEN) rfl h (by decide) (by decide) (by decide) regAt_CLK_CTRL (Dev.special_CLK_CTRL _ _ _ _) ?_
  generalize s.dev.fieldWord CLK_CTRL_MDLLEN 1 = v at hen hsel ⊢
  obtain ⟨-, -, hmdllen, -, -⟩ := s.dev.clkCtrl_fields v
  refine ⟨hmdllen.trans hen, s.dev.clkCtrl_sel v hsel, fun hoff => s.dev.clkCtrl_acquires v hoff hen, fun hsrc => ?_,
    (s.dev.clkCtrl_changes v).answered _⟩
  have hframe : s.dev.Changes [.clk] (At [CLK_CTRL]) (s.dev.clkCtrl v) := by
    rw [s.dev.clkCtrl_selected v hsel (hsel.trans hsrc), Dev.ctrlLoaded, show decide (CLK_CTRL_MDLLEN.of v ≠ 0) = true by simp [hen]]
    exact .trans (.trans (.set _ _ _ (by decide)) (.set _ _ _ (by decide))) (Dev.mdllEnable_true_changes _)
  exact hframe.answered _

/-! ### CLK_MDLL and CLK_DIV -/

/-- A refused configuration raises CFGREF alone. -/
theorem Dev.cfgRef_flag (d : Dev) :
    (d.set CLK_EVT_CFGREF 1).get CLK_EVT_CFGREF = 1 ∧ d.Changes [] (At [CLK_EVT]) (d.set CLK_EVT_CFGREF 1) :=
  ⟨d.get_set_fits CLK_EVT_CFGREF 1 (by decide) (by decide), .set _ _ _ (by decide)⟩

section
variable (s : State) (o : Origin) (v : Word)

theorem clkMdllWrite_comes (h : s.Reaches o CLK_MDLL) (hen : s.dev.get CLK_CTRL_MDLLEN = 0) : Comes (.clkMdllWrite o v) o s fun d =>
    d.get CLK_MDLL_SEED = CLK_MDLL_SEED.of v ∧ d.get CLK_MDLL_LOCKWIN = CLK_MDLL_LOCKWIN.of v ∧
    d.get CLK_MDLL_DITHEN = CLK_MDLL_DITHEN.of v ∧ d.get CLK_MDLL_REFSEL = CLK_MDLL_REFSEL.of v ∧
    s.dev.Changes [.out] (At [CLK_MDLL]) d := by
  refine .write rfl h.1 h.2 (by decide) (by decide) regAt_CLK_MDLL (Dev.special_CLK_MDLL _ _ _ _) ?_
  rw [Dev.clkMdll, if_neg (by simp [Dev.is_eq, hen])]
  have hframe : s.dev.Changes [] (At [CLK_MDLL]) (s.dev.set CLK_MDLL_SEED (CLK_MDLL_SEED.of v)
      |>.set CLK_MDLL_LOCKWIN (CLK_MDLL_LOCKWIN.of v) |>.set CLK_MDLL_DITHEN (CLK_MDLL_DITHEN.of v)
      |>.set CLK_MDLL_REFSEL (CLK_MDLL_REFSEL.of v)) :=
    .trans (.trans (.trans (.set _ _ _ (by decide)) (.set _ _ _ (by decide))) (.set _ _ _ (by decide))) (.set _ _ _ (by decide))
  refine ⟨?_, ?_, ?_, ?_, hframe.answered _⟩ <;>
    simp (disch := decide) only [Dev.emit_get, Dev.get_set_apart, Dev.get_set_of]

theorem clkMdllWrite_refused_comes (h : s.Reaches o CLK_MDLL) (hen : s.dev.get CLK_CTRL_MDLLEN = 1) :
    Comes (.clkMdllWrite o v) o s fun d => d.get CLK_EVT_CFGREF = 1 ∧ s.dev.Changes [.out] (At [CLK_EVT]) d := by
  refine .write rfl h.1 h.2 (by decide) (by decide) regAt_CLK_MDLL (Dev.special_CLK_MDLL _ _ _ _) ?_
  rw [Dev.clkMdll, if_pos (by simp [Dev.is_eq, hen])]
  exact s.dev.cfgRef_flag.imp id (·.answered _)

theorem Dev.clkDiv_eq (d : Dev) : d.clkDiv v = if d.mayDivide v then
    d.set CLK_DIV_PDIV (CLK_DIV_PDIV.of v) |>.set CLK_DIV_FDIV (CLK_DIV_FDIV.of v) |>.set CLK_DIV_SDIV (CLK_DIV_SDIV.of v)
      |>.set CLK_DIV_ADIV (CLK_DIV_ADIV.of v) else d.set CLK_EVT_CFGREF 1 := by
  unfold Dev.clkDiv
  refine if_congr ?_ rfl rfl
  simp only [Dev.is_eq, Bool.and_eq_true, decide_eq_true_eq, decide_eq_false_iff_not, not_not, and_assoc]

theorem clkDivWrite_comes (h : s.Reaches o CLK_DIV) (hmay : s.dev.mayDivide v) : Comes (.clkDivWrite o v) o s fun d =>
    d.get CLK_DIV_PDIV = CLK_DIV_PDIV.of v ∧ d.get CLK_DIV_FDIV = CLK_DIV_FDIV.of v ∧ d.get CLK_DIV_SDIV = CLK_DIV_SDIV.of v ∧
    d.get CLK_DIV_ADIV = CLK_DIV_ADIV.of v ∧ s.dev.Changes [.out] (At [CLK_DIV]) d := by
  refine .write rfl h.1 h.2 (by decide) (by decide) regAt_CLK_DIV (Dev.special_CLK_DIV _ _ _ _) ?_
  rw [Dev.clkDiv_eq, if_pos hmay]
  have hframe : s.dev.Changes [] (At [CLK_DIV]) (s.dev.set CLK_DIV_PDIV (CLK_DIV_PDIV.of v) |>.set CLK_DIV_FDIV (CLK_DIV_FDIV.of v)
      |>.set CLK_DIV_SDIV (CLK_DIV_SDIV.of v) |>.set CLK_DIV_ADIV (CLK_DIV_ADIV.of v)) :=
    .trans (.trans (.trans (.set _ _ _ (by decide)) (.set _ _ _ (by decide))) (.set _ _ _ (by decide))) (.set _ _ _ (by decide))
  refine ⟨?_, ?_, ?_, ?_, hframe.answered _⟩ <;>
    simp (disch := decide) only [Dev.emit_get, Dev.get_set_apart, Dev.get_set_of]

theorem clkDivWrite_refused_comes (h : s.Reaches o CLK_DIV) (hno : ¬ s.dev.mayDivide v) : Comes (.clkDivWrite o v) o s fun d =>
    d.get CLK_EVT_CFGREF = 1 ∧ s.dev.Changes [.out] (At [CLK_EVT]) d := by
  refine .write rfl h.1 h.2 (by decide) (by decide) regAt_CLK_DIV (Dev.special_CLK_DIV _ _ _ _) ?_
  rw [Dev.clkDiv_eq, if_neg hno]
  exact s.dev.cfgRef_flag.imp id (·.answered _)

/-! ### CLK_OUT -/

/-- The device once CLK_OUT has taken a value. -/
def Dev.clkoutLoaded (d : Dev) : Dev :=
  d.set CLK_OUT_EN (CLK_OUT_EN.of v) |>.set CLK_OUT_SRC (CLK_OUT_SRC.of v) |>.set CLK_OUT_DIV (CLK_OUT_DIV.of v)

theorem Dev.clkoutLoaded_fields (d : Dev) : (d.clkoutLoaded v).get CLK_OUT_EN = CLK_OUT_EN.of v ∧
    (d.clkoutLoaded v).get CLK_OUT_SRC = CLK_OUT_SRC.of v ∧ (d.clkoutLoaded v).get CLK_OUT_DIV = CLK_OUT_DIV.of v ∧
    d.Changes [] (At [CLK_OUT]) (d.clkoutLoaded v) := by
  refine ⟨?_, ?_, ?_, .trans (.trans (.set _ _ _ (by decide)) (.set _ _ _ (by decide))) (.set _ _ _ (by decide))⟩ <;>
    simp (disch := decide) only [Dev.clkoutLoaded, Dev.get_set_apart, Dev.get_set_of]

theorem Dev.clkOut_eq (d : Dev) : d.clkOut v =
    if CLK_OUT_EN.of v ≠ 0 ∧ 250000 * (CLK_OUT_DIV.of v + 1) < d.clkoutSource (CLK_OUT_SRC.of v) then d.set CLK_EVT_OUTREF 1
    else (d.clkoutLoaded v).clkoutDrive := rfl

theorem Dev.clkoutDrive_get (d : Dev) (g : Fld) : d.clkoutDrive.get g = d.get g := by
  unfold Dev.clkoutDrive
  split_ifs <;> rfl

theorem Dev.clkoutDrive_changes (d : Dev) : d.Changes [.out] (At []) d.clkoutDrive := by
  unfold Dev.clkoutDrive
  split_ifs
  · exact .refl d
  · exact d.emit_changes _ (by decide)
  · exact d.emit_changes _ (by decide)

/-- Out of BOOT the ball carries its clock, or is low (R446, R459). -/
theorem Dev.clkoutDrive_out (d : Dev) (h : d.dstate ≠ .boot) : d.clkoutDrive.out =
    (if d.get CLK_OUT_EN = 0 then .pin .clkOut .low
      else .clock .clkOut (d.get CLK_OUT_SRC) (d.get CLK_OUT_DIV + 1) ((d.get CLK_OUT_DIV + 2) / 2)) :: d.out := by
  rw [Dev.clkoutDrive, if_neg h, Dev.is_eq]
  by_cases hen : d.get CLK_OUT_EN = 0
  · rw [if_neg (by simp [hen]), if_pos hen]
    rfl
  · rw [if_pos (by simp [hen]), if_neg hen]
    rfl

theorem clkOutWrite_comes (h : s.Lets o CLK_OUT)
    (hslow : CLK_OUT_EN.of v = 0 ∨ s.dev.clkoutSource (CLK_OUT_SRC.of v) ≤ 250000 * (CLK_OUT_DIV.of v + 1)) :
    Comes (.clkOutWrite o v) o s fun d => d.get CLK_OUT_EN = CLK_OUT_EN.of v ∧ d.get CLK_OUT_SRC = CLK_OUT_SRC.of v ∧
      d.get CLK_OUT_DIV = CLK_OUT_DIV.of v ∧
      (s.dev.dstate ≠ .boot → d.out = .answer o CLK_OUT .written :: (if CLK_OUT_EN.of v = 0 then .pin .clkOut .low else
        .clock .clkOut (CLK_OUT_SRC.of v) (CLK_OUT_DIV.of v + 1) ((CLK_OUT_DIV.of v + 2) / 2)) :: s.dev.out) ∧
      s.dev.Changes [.out] (At [CLK_OUT]) d := by
  refine .write rfl h (.inr (by decide)) (by decide) (by decide) regAt_CLK_OUT (Dev.special_CLK_OUT _ _ _ _) ?_
  obtain ⟨hen, hsrc, hdiv, hframe⟩ := s.dev.clkoutLoaded_fields v
  have hdstate : (s.dev.clkoutLoaded v).dstate = s.dev.dstate := congrArg DState.ofCode (hframe.get RST_STAT_DSTATE (by decide))
  rw [Dev.clkOut_eq, if_neg (by rintro ⟨hon, hfast⟩; rcases hslow with hoff | hle; exacts [hon hoff, Nat.not_lt.2 hle hfast])]
  refine ⟨(Dev.clkoutDrive_get _ _).trans hen, (Dev.clkoutDrive_get _ _).trans hsrc, (Dev.clkoutDrive_get _ _).trans hdiv, fun hboot => ?_, ?_⟩
  · have hout := (s.dev.clkoutLoaded v).clkoutDrive_out (hdstate ▸ hboot)
    rw [hen, hsrc, hdiv] at hout
    exact congrArg _ hout
  · exact ((hframe.mono (by simp) fun _ => id).trans ((Dev.clkoutDrive_changes _).mono (fun _ => id) (by simp))).trans
      (Dev.emit_changes _ _ (by decide))

theorem clkOutWrite_refused_comes (h : s.Lets o CLK_OUT) (hen : CLK_OUT_EN.of v = 1)
    (hfast : 250000 * (CLK_OUT_DIV.of v + 1) < s.dev.clkoutSource (CLK_OUT_SRC.of v)) : Comes (.clkOutWrite o v) o s fun d =>
      d.get CLK_EVT_OUTREF = 1 ∧ s.dev.Changes [.out] (At [CLK_EVT]) d := by
  refine .write rfl h (.inr (by decide)) (by decide) (by decide) regAt_CLK_OUT (Dev.special_CLK_OUT _ _ _ _) ?_
  rw [Dev.clkOut_eq, if_pos ⟨by omega, hfast⟩]
  exact ⟨s.dev.get_set_fits CLK_EVT_OUTREF 1 (by decide) (by decide), Dev.Changes.answered (ps := []) (.set _ _ _ (by decide)) _⟩

/-! ### Gates -/

/-- The gate register that a command names. -/
abbrev gateReg (one : Bool) : Nat := if one then CLK_GATE1 else CLK_GATE0

/-- Whether a value of a gate register is refused (R448). -/
abbrev Dev.gateRefused (d : Dev) (one : Bool) : Bool :=
  if one then d.gate1Refused (v.toNat % 2 ^ 26) else d.gate0Refused (v.toNat % 2 ^ 23)

theorem Comes.clkGate {one : Bool} {P : Dev → Prop} (h : s.Lets o (gateReg one))
    (hP : P ((s.dev.clkGate one v).emit (.answer o (gateReg one) .written))) : Comes (.clkGateWrite o one v) o s P := by
  cases one with
  | false => exact .write rfl h (.inr (by decide)) (by decide) (by decide) regAt_CLK_GATE0 (Dev.special_CLK_GATE0 _ _ _ _) hP
  | true => exact .write rfl h (.inr (by decide)) (by decide) (by decide) regAt_CLK_GATE1 (Dev.special_CLK_GATE1 _ _ _ _) hP

theorem Dev.clkGate_eq (d : Dev) (one : Bool) : d.clkGate one v =
    if d.gateRefused v one then d.set CLK_EVT_GATEREF 1 else d.setWord (gateReg one) (dw (v.toNat % 2 ^ (if one then 26 else 23))) := by
  cases one <;> rfl

theorem clkGateWrite_comes (one : Bool) (h : s.Lets o (gateReg one)) (hok : s.dev.gateRefused v one = false) :
    Comes (.clkGateWrite o one v) o s fun d => d.word (gateReg one) = dw (v.toNat % 2 ^ (if one then 26 else 23)) ∧
      s.dev.Changes [.out] (At [gateReg one]) d := by
  refine Comes.clkGate s o v h ?_
  rw [Dev.clkGate_eq, if_neg (by simp [hok])]
  exact ⟨s.dev.word_setWord_same _ _, Dev.Changes.answered (ps := []) (.setWord _ _ _ (by simp)) _⟩

theorem clkGateWrite_refused_comes (one : Bool) (h : s.Lets o (gateReg one)) (hno : s.dev.gateRefused v one = true) :
    Comes (.clkGateWrite o one v) o s fun d => d.get CLK_EVT_GATEREF = 1 ∧ s.dev.Changes [.out] (At [CLK_EVT]) d := by
  refine Comes.clkGate s o v h ?_
  rw [Dev.clkGate_eq, if_pos hno]
  exact ⟨s.dev.get_set_fits CLK_EVT_GATEREF 1 (by decide) (by decide), Dev.Changes.answered (ps := []) (.set _ _ _ (by decide)) _⟩

theorem clkLsenWrite_comes (h : s.Lets o CLK_LSEN) : Comes (.clkLsenWrite o v) o s fun d =>
    d.word CLK_LSEN = dw (v.toNat % 16) ∧ s.dev.Changes [.out] (At [CLK_LSEN]) d := by
  refine .write rfl h (.inr (by decide)) (by decide) (by decide) regAt_CLK_LSEN (Dev.special_CLK_LSEN _ _ _ _) ?_
  exact ⟨s.dev.word_setWord_same _ _, Dev.Changes.answered (ps := []) (.setWord _ _ _ (by simp)) _⟩

end

end Sys2Proof.Machine
end

section
/-! What the clocks do by themselves: lock windows and the reference (R431 to R434), failover, switches and the automatic return (R438 to
R444), the trim word (R435, R436), the cast-iron oscillator (R438). -/

namespace Sys2Proof.Machine

open Sys2Proof

/-! ### The reference (R434) -/

section
variable (d : Dev)

theorem Dev.refLoss_lost (h : d.get CLK_STAT_REFOK = 1) : d.refLoss =
    (d.set CLK_STAT_REFOK 0 |>.set CLK_EVT_REFLOSS 1).unready.acquire.setClk (fun c => { c with frozen := true, refRun := 0 }) :=
  if_pos (by simp [Dev.is_eq, h])

theorem Dev.refLoss_bad (h : d.get CLK_STAT_REFOK = 0) : d.refLoss = d.setClk (fun c => { c with refRun := 0 }) :=
  if_neg (by simp [Dev.is_eq, h])

/-- The loss of a good reference. -/
theorem Dev.refLoss_fields (h : d.get CLK_STAT_REFOK = 1) : d.refLoss.get CLK_STAT_REFOK = 0 ∧ d.refLoss.get CLK_STAT_MDLLRDY = 0 ∧
    d.refLoss.get CLK_EVT_REFLOSS = 1 ∧ d.refLoss.clk.frozen = true := by
  rw [d.refLoss_lost h]
  refine ⟨?_, Dev.unready_mdllrdy _, ?_, rfl⟩ <;>
    simp (disch := decide) only [Dev.setClk_get, Dev.acquire_get, Dev.unready_get, Dev.get_set_apart, Dev.get_set_fits]

theorem Dev.refLoss_changes : d.Changes [.clk] (At [CLK_STAT, CLK_EVT]) d.refLoss := by
  refine Dev.Chg.changes ?_
  unfold Dev.refLoss Dev.unready Dev.acquire Dev.setClk
  repeat' constructor

/-- A reference 1,000 ppm away is lost. -/
theorem Dev.refWindow_far {ppm : Nat} (h : 1000 < ppm) : d.refWindow ppm = d.refLoss := by
  unfold Dev.refWindow
  rw [if_pos h]
  rfl

theorem Dev.refWindow_held {ppm : Nat} (hok : d.get CLK_STAT_REFOK = 1) (h : ppm ≤ 1000) : d.refWindow ppm = d :=
  (if_neg (Nat.not_lt.2 h)).trans (if_pos (by simp [Dev.is_eq, hok]))

/-- What a window's distance does to the reference monitor. -/
theorem Dev.refWindow_cases (ppm : Nat) {P : Dev → Prop} (hlost : P d.refLoss) (hkept : P d)
    (hrun : ∀ n, P (d.setClk fun c => { c with refRun := n }))
    (hok : ∀ n x, P ((d.set CLK_STAT_REFOK 1).setClk fun c => { c with refRun := n, frozen := x })) : P (d.refWindow ppm) := by
  by_cases hfar : 1000 < ppm
  · rwa [d.refWindow_far hfar]
  unfold Dev.refWindow
  rw [if_neg hfar]
  dsimp only
  split_ifs
  · exact hkept
  · exact hok 0 _
  · exact hrun _
  · exact hrun 0

theorem Dev.refWindow_regained {ppm : Nat} (hbad : d.get CLK_STAT_REFOK = 0) (hnear : ppm ≤ 500) (hrun : 3 ≤ d.clk.refRun) :
    (d.refWindow ppm).get CLK_STAT_REFOK = 1 := by
  have hfull : 4 ≤ d.clk.refRun + 1 := by omega
  unfold Dev.refWindow
  rw [if_neg (by omega), if_neg (by simp [Dev.is_eq, hbad]), if_pos hnear]
  refine (congrArg (Dev.get · CLK_STAT_REFOK) (if_pos hfull)).trans ?_
  exact Dev.get_set_fits _ CLK_STAT_REFOK 1 (by decide) (by decide)

theorem Dev.refWindow_stays_bad {ppm : Nat} (hbad : d.get CLK_STAT_REFOK = 0) (hoff : 500 < ppm) :
    (d.refWindow ppm).get CLK_STAT_REFOK = 0 := by
  by_cases hfar : 1000 < ppm
  · rw [d.refWindow_far hfar, d.refLoss_bad hbad]
    exact hbad
  · unfold Dev.refWindow
    rw [if_neg hfar, if_neg (by simp [Dev.is_eq, hbad]), if_neg (by omega)]
    exact hbad

/-- The synthesiser's own fields stay unless a good reference is lost. -/
theorem Dev.refWindow_get {ppm : Nat} (h : d.get CLK_STAT_REFOK = 0 ∨ ppm ≤ 1000) (g : Fld) (hg : CLK_STAT_REFOK.Apart g) :
    (d.refWindow ppm).get g = d.get g := by
  by_cases hfar : 1000 < ppm
  · rw [d.refWindow_far hfar, d.refLoss_bad (h.resolve_right (by omega))]
    rfl
  have hset : (d.set CLK_STAT_REFOK 1).get g = d.get g := d.get_set_apart _ g 1 hg
  unfold Dev.refWindow
  rw [if_neg hfar]
  dsimp only
  split_ifs
  · rfl
  · exact hset
  · rfl
  · rfl

/-- No distance makes the synthesiser READY. -/
theorem Dev.refWindow_unready (ppm : Nat) (h : d.get CLK_STAT_MDLLRDY = 0) : (d.refWindow ppm).get CLK_STAT_MDLLRDY = 0 := by
  rcases d.get_one_bit CLK_STAT_REFOK (by decide) rfl with hbad | hok
  · rwa [d.refWindow_get (.inl hbad) _ (by decide)]
  · by_cases hfar : 1000 < ppm
    · obtain ⟨-, hrdy, -, -⟩ := d.refLoss_fields hok
      rwa [d.refWindow_far hfar]
    · rwa [d.refWindow_held hok (by omega)]

theorem Dev.refWindow_lockRun (ppm : Nat) : (d.refWindow ppm).clk.lockRun ≤ d.clk.lockRun := by
  refine d.refWindow_cases ppm (P := fun e => e.clk.lockRun ≤ d.clk.lockRun) ?_ le_rfl (fun _ => le_rfl) fun _ _ => le_rfl
  unfold Dev.refLoss
  split
  · exact Nat.zero_le _
  · exact le_rfl

theorem Dev.refLoss_time : d.refLoss.time = d.time := d.refLoss_changes.1 .time (by simp)

theorem Dev.refWindow_changes (ppm : Nat) : d.Changes [.clk] (At [CLK_STAT, CLK_EVT]) (d.refWindow ppm) :=
  d.refWindow_cases ppm d.refLoss_changes (.refl d) (fun _ => .clk_ _ _ (by simp))
    fun _ _ => .trans (.set d _ _ (by decide)) (.clk_ _ _ (by simp))

/-- An acquisition that starts counts its windows from now on. -/
theorem Dev.refWindow_winAt (ppm : Nat) (h : d.clk.winAt = d.time.cio) : (d.refWindow ppm).clk.winAt = (d.refWindow ppm).time.cio := by
  refine d.refWindow_cases ppm (P := fun e => e.clk.winAt = e.time.cio) ?_ h (fun _ => h) fun _ _ => h
  rw [Dev.refLoss_time]
  unfold Dev.refLoss
  split
  · rfl
  · exact h

/-! ### The lock detector (R433) -/

theorem Dev.declareLock_fields : d.declareLock.get CLK_STAT_MDLLRDY = 1 ∧ d.declareLock.get CLK_EVT_LOCK = 1 := by
  have hflags : ((d.set CLK_STAT_MDLLRDY 1).set CLK_EVT_LOCK 1).get CLK_STAT_MDLLRDY = 1 ∧
      ((d.set CLK_STAT_MDLLRDY 1).set CLK_EVT_LOCK 1).get CLK_EVT_LOCK = 1 := by
    simp (disch := decide) only [Dev.get_set_apart, Dev.get_set_fits, and_self]
  unfold Dev.declareLock
  dsimp only
  split <;> exact hflags

@[simp] theorem Dev.declareLock_clk : d.declareLock.clk = d.clk := by
  unfold Dev.declareLock
  dsimp only
  split <;> rfl

@[simp] theorem Dev.declareLock_cio : d.declareLock.time.cio = d.time.cio := by
  unfold Dev.declareLock
  dsimp only
  split <;> rfl

/-- The first lock starts the time bases at 0 (R160). -/
theorem Dev.declareLock_first (hoff : d.time.on = false) (hrun : d.sch.aclkStopped = false) : d.declareLock.time.on = true ∧
    d.declareLock.time.tb0 = 0 ∧ d.declareLock.time.tb1 = 0 ∧ d.declareLock.time.tb2 = 0 ∧ d.declareLock.time.tb3 = 0 := by
  unfold Dev.declareLock
  dsimp only
  rw [if_neg (by simp [hoff, hrun])]
  exact ⟨rfl, rfl, rfl, rfl, rfl⟩

theorem Dev.declareLock_changes : d.Changes [.time] (At [CLK_STAT, CLK_EVT]) d.declareLock := by
  refine Dev.Chg.changes ?_
  unfold Dev.declareLock
  repeat' constructor

theorem Dev.declareLock_get (g : Fld) (h : g.ApartFrom [CLK_STAT_MDLLRDY, CLK_EVT_LOCK]) : d.declareLock.get g = d.get g := by
  have hset : ((d.set CLK_STAT_MDLLRDY 1).set CLK_EVT_LOCK 1).get g = d.get g :=
    (Dev.get_set_apart _ _ g 1 (h _ (by simp))).trans (d.get_set_apart _ g 1 (h _ (by simp)))
  unfold Dev.declareLock
  dsimp only
  split <;> exact hset

/-- The device once the loop's error of a window stands in CLK_LOCKCNT. -/
abbrev Dev.windowCounted (dv : Int) : Dev := d.setSat CLK_LOCKCNT_D dv

/-- What the lock detector makes of a window. -/
theorem Dev.lockDetect_cases (dv : Int) {P : Dev → Prop} (hkept : P (d.windowCounted dv))
    (hlol : P (((d.windowCounted dv).unready.set CLK_EVT_LOL 1).acquire))
    (hrun : ∀ n, P ((d.windowCounted dv).setClk fun c => { c with lockRun := n }))
    (hlock : ∀ n, P ((d.windowCounted dv).setClk fun c => { c with lockRun := n }).declareLock) : P (d.lockDetect dv) := by
  unfold Dev.lockDetect
  dsimp only
  split_ifs
  · exact hkept
  · exact hlol
  · exact hkept
  · exact hlock _
  · exact hrun _
  · exact hrun 0

theorem Dev.windowCounted_get (dv : Int) (g : Fld) (h : CLK_LOCKCNT_D.Apart g) : (d.windowCounted dv).get g = d.get g :=
  d.get_set_apart _ g _ h

theorem Dev.windowCounted_is (dv : Int) (g : Fld) (h : CLK_LOCKCNT_D.Apart g) : (d.windowCounted dv).is g = d.is g := by
  rw [Dev.is_eq, d.windowCounted_get dv g h, Dev.is_eq]

/-- The device once a good window counts in the run. -/
abbrev Dev.goodWindow (dv : Int) : Dev := (d.windowCounted dv).setClk fun c => { c with lockRun := c.lockRun + 1 }

/-- The fourth good window in a row locks, if the reference is good. -/
theorem Dev.lockDetect_good {dv : Int} (hen : d.get CLK_CTRL_MDLLEN = 1) (hrdy : d.get CLK_STAT_MDLLRDY = 0) (hdv : dv.natAbs ≤ 1) :
    d.lockDetect dv = if 4 ≤ d.clk.lockRun + 1 ∧ d.get CLK_STAT_REFOK = 1 then (d.goodWindow dv).declareLock else d.goodWindow dv := by
  have hok : (d.goodWindow dv).is CLK_STAT_REFOK = true ↔ d.get CLK_STAT_REFOK = 1 :=
    (d.windowCounted_is dv CLK_STAT_REFOK (by decide)) ▸ Dev.is_one_bit (by decide) rfl
  unfold Dev.lockDetect
  dsimp only
  rw [d.windowCounted_is dv _ (by decide), d.windowCounted_is dv _ (by decide), if_neg (by simp [Dev.is_eq, hen]),
    if_neg (by simp [Dev.is_eq, hrdy]), if_pos hdv]
  exact if_congr (and_congr Iff.rfl hok) rfl rfl

/-- A window that is not good, or none while MDLLEN = 0, leaves the synthesiser not READY. -/
theorem Dev.lockDetect_idle {dv : Int} (hrdy : d.get CLK_STAT_MDLLRDY = 0) (h : 1 < dv.natAbs ∨ d.get CLK_CTRL_MDLLEN = 0) :
    (d.lockDetect dv).get CLK_STAT_MDLLRDY = 0 := by
  have hkept : (d.windowCounted dv).get CLK_STAT_MDLLRDY = 0 := (d.windowCounted_get dv _ (by decide)).trans hrdy
  unfold Dev.lockDetect
  dsimp only
  rw [d.windowCounted_is dv _ (by decide), d.windowCounted_is dv _ (by decide)]
  by_cases hen : d.get CLK_CTRL_MDLLEN = 0
  · rwa [if_pos (by simp [Dev.is_eq, hen])]
  · rw [if_neg (by simp [Dev.is_eq, hen]), if_neg (by simp [Dev.is_eq, hrdy]), if_neg (Nat.not_le.2 (h.resolve_right hen))]
    exact hkept

/-- One bad window unlocks. -/
theorem Dev.lockDetect_lol {dv : Int} (hen : d.get CLK_CTRL_MDLLEN = 1) (hrdy : d.get CLK_STAT_MDLLRDY = 1) (hdv : 2 < dv.natAbs) :
    d.lockDetect dv = ((d.windowCounted dv).unready.set CLK_EVT_LOL 1).acquire := by
  unfold Dev.lockDetect
  dsimp only
  rw [d.windowCounted_is dv _ (by decide), d.windowCounted_is dv _ (by decide), if_neg (by simp [Dev.is_eq, hen]),
    if_pos (by simp [Dev.is_eq, hrdy]), if_pos hdv]

/-- No lock without MDLLEN, REFOK and four good windows in a row. -/
theorem Dev.lockDetect_unlocked {dv : Int} (hrdy : d.get CLK_STAT_MDLLRDY = 0)
    (h : d.clk.lockRun < 3 ∨ 1 < dv.natAbs ∨ d.get CLK_STAT_REFOK = 0 ∨ d.get CLK_CTRL_MDLLEN = 0) :
    (d.lockDetect dv).get CLK_STAT_MDLLRDY = 0 := by
  by_cases hidle : 1 < dv.natAbs ∨ d.get CLK_CTRL_MDLLEN = 0
  · exact d.lockDetect_idle hrdy hidle
  · have hen := (d.get_one_bit CLK_CTRL_MDLLEN (by decide) rfl).resolve_left fun x => hidle (.inr x)
    rw [d.lockDetect_good hen hrdy (by omega), if_neg (by omega)]
    exact (d.windowCounted_get dv _ (by decide)).trans hrdy

theorem Dev.lockDetect_changes (dv : Int) : d.Changes [.clk, .time] (At [CLK_STAT, CLK_EVT, CLK_LOCKCNT]) (d.lockDetect dv) := by
  have hcounted : d.Changes [.clk, .time] (At [CLK_STAT, CLK_EVT, CLK_LOCKCNT]) (d.windowCounted dv) := .set _ _ _ (by decide)
  refine d.lockDetect_cases dv hcounted (hcounted.trans ?_) (fun _ => hcounted.trans (.clk_ _ _ (by simp))) fun _ => hcounted.trans ?_
  · exact .trans (.trans ((Dev.unready_changes _).mono (by simp) (by simp)) (.set _ _ _ (by decide))) (.clk_ _ _ (by simp))
  · exact .trans (.clk_ _ _ (by simp)) ((Dev.declareLock_changes _).mono (by simp) (by simp))

/-- The fields of the lock detector. -/
abbrev lockFields : List Fld := [CLK_LOCKCNT_D, CLK_STAT_MDLLRDY, CLK_EVT_LOCK, CLK_EVT_LOL]

theorem Dev.lockDetect_get (dv : Int) (g : Fld) (h : g.ApartFrom lockFields) : (d.lockDetect dv).get g = d.get g := by
  have hkept := d.windowCounted_get dv g (h _ (by simp))
  refine d.lockDetect_cases dv (P := fun e => e.get g = d.get g) hkept ?_ (fun _ => hkept)
    fun _ => (Dev.declareLock_get _ g (h.mono (by simp))).trans hkept
  exact (Dev.get_set_apart _ CLK_EVT_LOL g 1 (h _ (by simp))).trans ((Dev.unready_get _ g (h _ (by simp))).trans hkept)

theorem Dev.lockDetect_frozen (dv : Int) : (d.lockDetect dv).clk.frozen = d.clk.frozen :=
  d.lockDetect_cases dv (P := fun e => e.clk.frozen = d.clk.frozen) rfl rfl (fun _ => rfl) fun _ => by
    rw [Dev.declareLock_clk]
    rfl

theorem Dev.lockDetect_cio (dv : Int) : (d.lockDetect dv).time.cio = d.time.cio :=
  d.lockDetect_cases dv (P := fun e => e.time.cio = d.time.cio) rfl rfl (fun _ => rfl) fun _ => Dev.declareLock_cio _

theorem Dev.lockDetect_winAt (dv : Int) (h : d.clk.winAt = d.time.cio) : (d.lockDetect dv).clk.winAt = (d.lockDetect dv).time.cio := by
  refine d.lockDetect_cases dv (P := fun e => e.clk.winAt = e.time.cio) h rfl (fun _ => h) fun _ => ?_
  rw [Dev.declareLock_clk, Dev.declareLock_cio]
  exact h

/-! ### A lock window -/

/-- The device at the end of a lock window, before the reference monitor and the lock detector judge it. -/
def Dev.windowEnd : Dev :=
  let e := d.elapse (d.clk.winAt + 2 ^ d.lockWin * d.refPeriod - d.time.cio)
  let e := e.setClk (fun c => { c with winAt := e.time.cio })
  if e.is CLK_MDLL_DITHEN ∧ e.is CLK_CTRL_MDLLEN then e.setClk (fun c => { c with lfsr := lfsrSteps (2 ^ e.lockWin) c.lfsr }) else e

theorem Dev.lockWindow_eq (dv : Int) (ppm : Nat) : d.lockWindow dv ppm = ((d.windowEnd.refWindow ppm).lockDetect dv).qualify := rfl

/-- Only the dither register and the instant of the window's end differ. -/
theorem Dev.windowEnd_clk : ∃ r, d.windowEnd.clk = { d.clk with winAt := d.windowEnd.time.cio, lfsr := r } := by
  have hclk := d.elapse_clk (d.clk.winAt + 2 ^ d.lockWin * d.refPeriod - d.time.cio)
  unfold Dev.windowEnd
  generalize d.elapse (d.clk.winAt + 2 ^ d.lockWin * d.refPeriod - d.time.cio) = e at hclk ⊢
  rw [← hclk]
  dsimp only
  split <;> exact ⟨_, rfl⟩

theorem Dev.windowEnd_time : d.windowEnd.time = (d.elapse (d.clk.winAt + 2 ^ d.lockWin * d.refPeriod - d.time.cio)).time := by
  unfold Dev.windowEnd
  dsimp only
  split <;> rfl

theorem Dev.windowEnd_changes : d.Changes [.clk, .time] (At [TIM_WRAP]) d.windowEnd := by
  have htime : d.Changes [.clk, .time] (At [TIM_WRAP]) (d.elapse (d.clk.winAt + 2 ^ d.lockWin * d.refPeriod - d.time.cio)) :=
    (d.elapse_changes _).mono (by simp) fun _ => id
  unfold Dev.windowEnd
  dsimp only
  split
  · exact (htime.trans (.clk_ _ _ (by simp))).trans (.clk_ _ _ (by simp))
  · exact htime.trans (.clk_ _ _ (by simp))

theorem Dev.windowEnd_get (g : Fld) (h : g.off ≠ TIM_WRAP) : d.windowEnd.get g = d.get g := d.windowEnd_changes.get g (by simpa using h)

theorem Dev.lockWindow_changes (dv : Int) (ppm : Nat) :
    d.Changes [.clk, .time] (At [CLK_STAT, CLK_EVT, CLK_LOCKCNT, TIM_WRAP]) (d.lockWindow dv ppm) := by
  refine .trans (.trans (d.windowEnd_changes.mono (by simp) (by simp)) ?_) (.clk_ _ _ (by simp))
  exact ((Dev.refWindow_changes _ ppm).mono (by simp) (by simp)).trans ((Dev.lockDetect_changes _ dv).mono (by simp) (by simp))

/-- The window's end is the instant it was due, or now. -/
theorem Dev.lockWindow_winAt (dv : Int) (ppm : Nat) : d.clk.winAt + 2 ^ d.lockWin * d.refPeriod ≤ (d.lockWindow dv ppm).time.cio ∧
    (d.lockWindow dv ppm).clk.winAt = (d.lockWindow dv ppm).time.cio := by
  obtain ⟨r, hclk⟩ := d.windowEnd_clk
  have hend : d.windowEnd.clk.winAt = d.windowEnd.time.cio := by rw [hclk]
  have hcio : ((d.windowEnd.refWindow ppm).lockDetect dv).time.cio = d.windowEnd.time.cio :=
    (Dev.lockDetect_cio _ dv).trans (congrArg TimeState.cio ((Dev.refWindow_changes _ ppm).1 .time (by simp)))
  rw [Dev.lockWindow_eq]
  refine ⟨?_, Dev.lockDetect_winAt _ dv (Dev.refWindow_winAt _ ppm hend)⟩
  refine le_of_le_of_eq ?_ hcio.symm
  rw [d.windowEnd_time, d.elapse_until]
  exact le_max_right _ _

section
variable {d} {dv : Int} {ppm : Nat}

/-- Four good windows lock, and the first lock starts the time bases at 0. -/
theorem Dev.lockWindow_lock (hen : d.get CLK_CTRL_MDLLEN = 1) (hrdy : d.get CLK_STAT_MDLLRDY = 0) (hok : d.get CLK_STAT_REFOK = 1)
    (hnear : ppm ≤ 1000) (hdv : dv.natAbs ≤ 1) (hrun : 3 ≤ d.clk.lockRun) :
    (d.lockWindow dv ppm).get CLK_STAT_MDLLRDY = 1 ∧ (d.lockWindow dv ppm).get CLK_EVT_LOCK = 1 ∧
    (d.lockWindow dv ppm).getS CLK_LOCKCNT_D = dv ∧
    (d.time.on = false → d.sch.aclkStopped = false → (d.lockWindow dv ppm).time.on = true ∧ (d.lockWindow dv ppm).time.tb0 = 0 ∧
      (d.lockWindow dv ppm).time.tb1 = 0 ∧ (d.lockWindow dv ppm).time.tb2 = 0 ∧ (d.lockWindow dv ppm).time.tb3 = 0) := by
  obtain ⟨r, hclk⟩ := d.windowEnd_clk
  have hget := d.windowEnd_get
  rw [Dev.lockWindow_eq, Dev.refWindow_held _ ((hget _ (by decide)).trans hok) hnear,
    Dev.lockDetect_good _ ((hget _ (by decide)).trans hen) ((hget _ (by decide)).trans hrdy) hdv,
    if_pos ⟨by rw [hclk]; exact Nat.succ_le_succ hrun, (hget _ (by decide)).trans hok⟩]
  obtain ⟨hready, hlock⟩ := (d.windowEnd.goodWindow dv).declareLock_fields
  refine ⟨hready, hlock, ?_, fun hoff hclock => Dev.declareLock_first _ ?_ ?_⟩
  · refine (congrArg (toSigned CLK_LOCKCNT_D.width) (Dev.declareLock_get _ _ (by decide))).trans ?_
    exact Dev.getS_setSat_same _ CLK_LOCKCNT_D dv (by decide) (by decide) (by norm_num [Fld.width, CLK_LOCKCNT_D]; omega)
      (by norm_num [Fld.width, CLK_LOCKCNT_D]; omega)
  · exact (congrArg TimeState.on d.windowEnd_time).trans (d.elapse_stopped _ hoff)
  · exact (congrArg SchState.aclkStopped (d.windowEnd_changes.1 .sch (by simp))).trans hclock

theorem Dev.lockWindow_unlocked (hrdy : d.get CLK_STAT_MDLLRDY = 0)
    (h : d.clk.lockRun < 3 ∨ 1 < dv.natAbs ∨ 1000 < ppm ∨ d.get CLK_CTRL_MDLLEN = 0) :
    (d.lockWindow dv ppm).get CLK_STAT_MDLLRDY = 0 := by
  obtain ⟨r, hclk⟩ := d.windowEnd_clk
  have hrun : (d.windowEnd.refWindow ppm).clk.lockRun ≤ d.clk.lockRun := by
    have := d.windowEnd.refWindow_lockRun ppm
    rwa [hclk] at this
  have hfar : 1000 < ppm → (d.windowEnd.refWindow ppm).get CLK_STAT_REFOK = 0 := fun hppm => by
    rcases d.windowEnd.get_one_bit CLK_STAT_REFOK (by decide) rfl with hbad | hok
    · exact Dev.refWindow_stays_bad _ hbad (by omega)
    · obtain ⟨hlost, -, -, -⟩ := d.windowEnd.refLoss_fields hok
      rwa [d.windowEnd.refWindow_far hppm]
  have hen : (d.windowEnd.refWindow ppm).get CLK_CTRL_MDLLEN = d.get CLK_CTRL_MDLLEN :=
    ((Dev.refWindow_changes _ ppm).get _ (by decide)).trans (d.windowEnd_get _ (by decide))
  refine Dev.lockDetect_unlocked (d.windowEnd.refWindow ppm) (Dev.refWindow_unready _ ppm ((d.windowEnd_get _ (by decide)).trans hrdy)) ?_
  exact h.imp (fun x => by omega) fun h => h.imp id fun h => h.imp hfar hen.trans

/-- One bad window unlocks. -/
theorem Dev.lockWindow_lol (hen : d.get CLK_CTRL_MDLLEN = 1) (hrdy : d.get CLK_STAT_MDLLRDY = 1) (hdv : 2 < dv.natAbs)
    (h : d.get CLK_STAT_REFOK = 0 ∨ ppm ≤ 1000) :
    (d.lockWindow dv ppm).get CLK_STAT_MDLLRDY = 0 ∧ (d.lockWindow dv ppm).get CLK_EVT_LOL = 1 := by
  have hkept : ∀ g : Fld, g.off ≠ TIM_WRAP → CLK_STAT_REFOK.Apart g → (d.windowEnd.refWindow ppm).get g = d.get g := fun g hw hg =>
    (Dev.refWindow_get _ (h.imp (d.windowEnd_get _ (by decide)).trans id) g hg).trans (d.windowEnd_get g hw)
  rw [Dev.lockWindow_eq, Dev.lockDetect_lol _ ((hkept _ (by decide) (by decide)).trans hen) ((hkept _ (by decide) (by decide)).trans hrdy) hdv]
  refine ⟨?_, Dev.get_set_fits _ CLK_EVT_LOL 1 (by decide) (by decide)⟩
  exact (Dev.get_set_apart _ CLK_EVT_LOL CLK_STAT_MDLLRDY 1 (by decide)).trans (Dev.unready_mdllrdy _)

theorem Dev.lockWindow_get_ref (g : Fld) (h : g.ApartFrom lockFields) : (d.lockWindow dv ppm).get g = (d.windowEnd.refWindow ppm).get g :=
  Dev.lockDetect_get (d.windowEnd.refWindow ppm) dv g h

/-- A good reference 1,000 ppm away is lost. -/
theorem Dev.lockWindow_lost (hok : d.get CLK_STAT_REFOK = 1) (hfar : 1000 < ppm) : (d.lockWindow dv ppm).get CLK_STAT_REFOK = 0 ∧
    (d.lockWindow dv ppm).get CLK_EVT_REFLOSS = 1 ∧ (d.lockWindow dv ppm).get CLK_STAT_MDLLRDY = 0 ∧
    (d.lockWindow dv ppm).clk.frozen = true := by
  obtain ⟨hrefok, hrdy, hevt, hfrozen⟩ := d.windowEnd.refLoss_fields ((d.windowEnd_get _ (by decide)).trans hok)
  rw [← d.windowEnd.refWindow_far hfar] at hrefok hrdy hevt hfrozen
  exact ⟨(Dev.lockWindow_get_ref _ (by decide)).trans hrefok,
    (Dev.lockWindow_get_ref _ (by decide)).trans hevt, Dev.lockDetect_unlocked _ hrdy (.inr (.inr (.inl hrefok))),
    (Dev.lockDetect_frozen _ dv).trans hfrozen⟩

theorem Dev.lockWindow_regained (hbad : d.get CLK_STAT_REFOK = 0) (hnear : ppm ≤ 500) (hrun : 3 ≤ d.clk.refRun) :
    (d.lockWindow dv ppm).get CLK_STAT_REFOK = 1 := by
  obtain ⟨r, hclk⟩ := d.windowEnd_clk
  exact (Dev.lockWindow_get_ref _ (by decide)).trans
    (Dev.refWindow_regained _ ((d.windowEnd_get _ (by decide)).trans hbad) hnear (by rw [hclk]; exact hrun))

theorem Dev.lockWindow_stays_bad (hbad : d.get CLK_STAT_REFOK = 0) (hoff : 500 < ppm) : (d.lockWindow dv ppm).get CLK_STAT_REFOK = 0 :=
  (Dev.lockWindow_get_ref _ (by decide)).trans
    (Dev.refWindow_stays_bad _ ((d.windowEnd_get _ (by decide)).trans hbad) hoff)

end

end

end Sys2Proof.Machine
end

section
/-! Root switches (R439 to R444): failover, the end of a switch, the automatic return. The trim word (R435, R436) and the cast-iron
oscillator (R438). -/

namespace Sys2Proof.Machine

open Sys2Proof

section
variable (d : Dev)

/-! ### Failover (R442, R444) -/

/-- A cause of failover is present. -/
abbrev Dev.FailCause (mon : Bool) : Prop := d.get CLK_STAT_REFOK = 0 ∨ d.get CLK_STAT_MDLLRDY = 0 ∨ mon = true

/-- The root runs from the synthesiser, or is being switched to it. -/
abbrev Dev.OnSynth : Prop := d.get CLK_STAT_SRC = 1 ∧ d.clk.switch ≠ some false ∨ d.clk.switch = some true

/-- The device once a failover has been noted, before the switch starts. -/
def Dev.failNoted : Dev := (d.set CLK_EVT_FAILOVER 1 |>.event 9 .device 0).setClk fun c =>
  { c with frozen := true, everSynth := c.everSynth || d.is CLK_STAT_SRC }

/-- The device once it has failed over. -/
abbrev Dev.failedOver : Dev := d.failNoted.startSwitch false

theorem Dev.failover_eq (mon : Bool) : d.failover mon = if d.FailCause mon ∧ d.OnSynth then d.failedOver else d := by
  have hsrc : ((d.set CLK_EVT_FAILOVER 1).event 9 .device 0).is CLK_STAT_SRC = d.is CLK_STAT_SRC := by
    rw [Dev.is_eq, Dev.event_get _ _ _ _ _ (by decide), Dev.get_set_off _ _ _ _ (by decide), Dev.is_eq]
  have hone : d.get CLK_STAT_SRC ≠ 0 ↔ d.get CLK_STAT_SRC = 1 := by
    have := d.get_one_bit CLK_STAT_SRC (by decide) rfl
    omega
  unfold Dev.failover
  dsimp only
  rw [hsrc]
  refine if_congr (and_congr ?_ ?_) rfl rfl
  · simp [Dev.is_eq, or_assoc]
  · simp [Dev.is_eq, hone]

theorem Dev.OnSynth.switch_ne {d : Dev} (h : d.OnSynth) : d.clk.switch ≠ some false := by
  rcases h with ⟨-, h⟩ | h
  · exact h
  · simp [h]

theorem Dev.failNoted_clk : d.failNoted.clk = { d.clk with frozen := true, everSynth := d.clk.everSynth || d.is CLK_STAT_SRC } := by
  rw [Dev.failNoted, Dev.setClk, Dev.event_clk]
  rfl

theorem Dev.failNoted_changes : d.Changes [.clk, .hif, .out] (At ([CLK_STAT, CLK_EVT] ++ evtRegs)) d.failNoted := by
  have hevt : d.Changes [.clk, .hif, .out] (At ([CLK_STAT, CLK_EVT] ++ evtRegs)) (d.set CLK_EVT_FAILOVER 1) := .set _ _ _ (by decide)
  exact (hevt.trans ((Dev.event_changes _ _ _ _).mono (by simp) fun _ => List.mem_append_right _)).trans (.clk_ _ _ (by simp))

theorem Dev.failNoted_posts : d.Posts d.failNoted 9 .device :=
  Dev.Changes.posts (ps := []) (l := [CLK_EVT]) (.set d CLK_EVT_FAILOVER 1 (by decide)) (by simp) (by decide) (by decide) .device 0

@[simp] theorem Dev.startSwitch_out (synth : Bool) : (d.startSwitch synth).out = d.out := (d.startSwitch_changes synth).1 .out (by simp)

theorem Dev.failedOver_fields : d.failedOver.get CLK_EVT_FAILOVER = 1 ∧ d.Posts d.failedOver 9 .device ∧
    d.failedOver.get CLK_STAT_SWBUSY = 1 ∧ (d.get CLK_STAT_SRC = 1 → d.failedOver.get CLK_STAT_CLKDEG = 1) ∧
    d.failedOver.clk.switch = some false ∧ d.failedOver.clk.frozen = true := by
  refine ⟨?_, ?_, Dev.startSwitch_swbusy _ _, fun hsrc => Dev.startSwitch_clkdeg _ ?_, ?_, ?_⟩
  · rw [Dev.startSwitch_get _ _ _ (by decide), Dev.failNoted, Dev.setClk_get, Dev.event_get _ _ _ _ _ (by decide)]
    exact d.get_set_fits CLK_EVT_FAILOVER 1 (by decide) (by decide)
  · exact fun hroom => by simpa only [Dev.startSwitch_out] using d.failNoted_posts hroom
  · simp [Dev.failNoted_clk, Dev.is_eq, hsrc]
  · rw [Dev.startSwitch_clk]
  · simp [Dev.failNoted_clk]

theorem Dev.failedOver_changes : d.Changes [.clk, .hif, .out] (At ([CLK_STAT, CLK_EVT] ++ evtRegs)) d.failedOver :=
  d.failNoted_changes.trans ((Dev.startSwitch_changes _ _).mono (by simp) (by simp))

/-! ### The end of a switch (R439, R441, R443) -/

/-- The root runs from its new source. -/
def Dev.rootMoved (synth : Bool) : Dev := (d.set CLK_STAT_SWBUSY 0 |>.setB CLK_STAT_SRC synth).setClk fun c => { c with switch := none }

/-- What the switch costs: nothing but the interval without ACLK from a source that had stopped, and up to 0.5 ns else. -/
def Dev.switchCost (stopped : Bool) : Dev := if stopped then d.set CLK_EVT_FORCED 1 |>.event 8 .device 0 else d.switchLoss

/-- Clock-degraded mode ends on the synthesiser. -/
def Dev.degradedEnds : Dev :=
  ((if d.is CLK_STAT_CLKDEG then d.set CLK_EVT_RETURN 1 else d).set CLK_STAT_CLKDEG 0).setClk fun c =>
    { c with everSynth := true, frozen := false }

theorem Dev.switchComplete_eq {synth : Bool} (stopped : Bool) (h : d.clk.switch = some synth) : d.switchComplete stopped =
    if synth then ((d.rootMoved synth).switchCost stopped).degradedEnds else (d.rootMoved synth).switchCost stopped := by
  unfold Dev.switchComplete
  rw [h]
  rfl

theorem Dev.switchComplete_none (stopped : Bool) (h : d.clk.switch = none) : d.switchComplete stopped = d := by
  unfold Dev.switchComplete
  rw [h]

theorem Dev.rootMoved_fields (synth : Bool) : (d.rootMoved synth).get CLK_STAT_SRC = (if synth then 1 else 0) ∧
    (d.rootMoved synth).get CLK_STAT_SWBUSY = 0 ∧ (d.rootMoved synth).get CLK_STAT_CLKDEG = d.get CLK_STAT_CLKDEG := by
  unfold Dev.rootMoved
  simp (disch := decide) only [Dev.setClk_get, Dev.get_setB_same, Dev.get_setB_apart, Dev.get_set_apart, Dev.get_set_fits, and_self]

theorem Dev.rootMoved_changes (synth : Bool) : d.Changes [.clk] (At [CLK_STAT]) (d.rootMoved synth) :=
  .trans (.trans (.set _ _ _ (by decide)) (.set _ _ _ (by decide))) (.clk_ _ _ (by simp))

/-- A base loses at most 0.5 ns, and no more than it has counted. -/
theorem loseSwitch_bounds (n : Nat) (tb : BitVec 48) :
    (loseSwitch d n tb).toNat ≤ tb.toNat ∧ tb.toNat ≤ (loseSwitch d n tb).toNat + 0x8000 := by
  have hle : min (Config.switchLoss (d.free + n) % 0x8001) tb.toNat ≤ tb.toNat := min_le_right _ _
  have hloss : min (Config.switchLoss (d.free + n) % 0x8001) tb.toNat ≤ 0x8000 := (min_le_left _ _).trans (by omega)
  have hsub : (loseSwitch d n tb).toNat = tb.toNat - min (Config.switchLoss (d.free + n) % 0x8001) tb.toNat := by
    have hnat := BitVec.toNat_ofNat (min (Config.switchLoss (d.free + n) % 0x8001) tb.toNat) 48
    rw [Nat.mod_eq_of_lt (lt_of_le_of_lt hle tb.isLt)] at hnat
    rw [loseSwitch, BitVec.toNat_sub_of_le (by rwa [BitVec.le_def, hnat]), hnat]
  omega

theorem Dev.switchLoss_tb0 : d.switchLoss.time.tb0.toNat ≤ d.time.tb0.toNat ∧ d.time.tb0.toNat ≤ d.switchLoss.time.tb0.toNat + 0x8000 := by
  unfold Dev.switchLoss
  split
  · exact loseSwitch_bounds d 0 d.time.tb0
  · exact ⟨le_rfl, Nat.le_add_right _ _⟩

theorem Dev.switchLoss_changes : d.Changes [.time, .free] (At []) d.switchLoss := by
  unfold Dev.switchLoss
  split
  · exact .trans (.time_ d _ (by decide)) (.free_ { d with time := _ } _ (by decide))
  · exact .refl d

theorem Dev.switchCost_changes (stopped : Bool) : d.Changes [.time, .free, .hif, .out] (At (CLK_EVT :: evtRegs)) (d.switchCost stopped) := by
  cases stopped with
  | false =>
    rw [show d.switchCost false = d.switchLoss from rfl]
    exact d.switchLoss_changes.mono (by simp) (by simp)
  | true => exact .trans (.set d CLK_EVT_FORCED 1 (by simp [At, CLK_EVT_FORCED])) ((Dev.event_changes _ _ _ _).mono (by simp)
      fun _ => List.mem_cons_of_mem _)

theorem Dev.switchCost_stopped : (d.switchCost true).get CLK_EVT_FORCED = 1 ∧ d.Posts (d.switchCost true) 8 .device ∧
    (d.switchCost true).time = d.time := by
  refine ⟨?_, ?_, Dev.event_time _ _ _ _⟩
  · rw [Dev.switchCost, if_pos rfl, Dev.event_get _ _ _ _ _ (by decide)]
    exact d.get_set_fits CLK_EVT_FORCED 1 (by decide) (by decide)
  · exact Dev.Changes.posts (ps := []) (l := [CLK_EVT]) (.set d CLK_EVT_FORCED 1 (by decide)) (by simp) (by decide) (by decide) .device 0

theorem Dev.degradedEnds_fields : d.degradedEnds.get CLK_STAT_CLKDEG = 0 ∧
    (d.get CLK_STAT_CLKDEG = 1 → d.degradedEnds.get CLK_EVT_RETURN = 1) := by
  refine ⟨Dev.get_set_fits _ CLK_STAT_CLKDEG 0 (by decide) (by decide), fun hdeg => ?_⟩
  rw [Dev.degradedEnds, if_pos (by simp [Dev.is_eq, hdeg]), Dev.setClk_get, Dev.get_set_off _ _ _ _ (by decide)]
  exact d.get_set_fits CLK_EVT_RETURN 1 (by decide) (by decide)

theorem Dev.degradedEnds_get (g : Fld) (h : g.ApartFrom [CLK_STAT_CLKDEG, CLK_EVT_RETURN]) : d.degradedEnds.get g = d.get g := by
  have hret : (if d.is CLK_STAT_CLKDEG then d.set CLK_EVT_RETURN 1 else d).get g = d.get g := by
    split
    · exact d.get_set_apart _ g 1 (h _ (by simp))
    · rfl
  exact (Dev.get_set_apart _ CLK_STAT_CLKDEG g 0 (h _ (by simp))).trans hret

theorem Dev.degradedEnds_changes : d.Changes [.clk] (At [CLK_STAT, CLK_EVT]) d.degradedEnds := by
  refine Dev.Chg.changes ?_
  unfold Dev.degradedEnds Dev.setClk
  repeat' constructor

theorem Dev.degradedEnds_switch : d.degradedEnds.clk.switch = d.clk.switch := by
  unfold Dev.degradedEnds
  split <;> rfl

section
variable (stopped synth : Bool)

/-- The device on its new source, the switch paid for. -/
abbrev Dev.switchPaid : Dev := (d.rootMoved synth).switchCost stopped

theorem Dev.switchPaid_changes :
    d.Changes [.clk, .time, .free, .hif, .out] (At ([CLK_STAT, CLK_EVT] ++ evtRegs)) (d.switchPaid stopped synth) :=
  ((d.rootMoved_changes synth).mono (by simp) (by simp)).trans ((Dev.switchCost_changes _ stopped).mono (by simp) fun _ => List.mem_cons_of_mem _)

theorem Dev.switchPaid_fields : (d.switchPaid stopped synth).get CLK_STAT_SRC = (if synth then 1 else 0) ∧
    (d.switchPaid stopped synth).get CLK_STAT_SWBUSY = 0 ∧ (d.switchPaid stopped synth).get CLK_STAT_CLKDEG = d.get CLK_STAT_CLKDEG ∧
    (d.switchPaid stopped synth).clk.switch = none := by
  have hpaid := (d.rootMoved synth).switchCost_changes stopped
  have hclk : (d.switchPaid stopped synth).clk = (d.rootMoved synth).clk := hpaid.1 .clk (by simp)
  rw [hpaid.get _ (by decide), hpaid.get _ (by decide), hpaid.get _ (by decide), hclk]
  obtain ⟨hsrc, hbusy, hdeg⟩ := d.rootMoved_fields synth
  exact ⟨hsrc, hbusy, hdeg, rfl⟩

theorem Dev.switchPaid_stopped : (d.switchPaid true synth).get CLK_EVT_FORCED = 1 ∧ d.Posts (d.switchPaid true synth) 8 .device ∧
    (d.switchPaid true synth).time = d.time := by
  obtain ⟨hforced, hposts, htime⟩ := (d.rootMoved synth).switchCost_stopped
  refine ⟨hforced, fun hroom => hposts (((d.rootMoved_changes synth).evtRoom (by decide)).2 hroom), htime⟩

/-- A switch between running sources costs TB0 at most 0.5 ns. -/
theorem Dev.switchPaid_tb0 : (d.switchPaid false synth).time.tb0.toNat ≤ d.time.tb0.toNat ∧
    d.time.tb0.toNat ≤ (d.switchPaid false synth).time.tb0.toNat + 0x8000 := (d.rootMoved synth).switchLoss_tb0

end

/-! ### The automatic return (R443) -/

theorem Dev.autoReturn_due {t : Nat} (hsince : d.clk.retSince = some t) (hret : d.get CLK_CTRL_AUTORET = 1) (hdeg : d.get CLK_STAT_CLKDEG = 1)
    (hidle : d.clk.switch = none) (hsrc : d.get CLK_STAT_SRC = 0) :
    d.autoReturn = (d.elapse (t + ms (max (d.get CLK_RETQ_RETQUAL) 1) - d.time.cio)).startSwitch true := by
  unfold Dev.autoReturn
  rw [hsince]
  exact if_pos ⟨by simp [Dev.is_eq, hret], by simp [Dev.is_eq, hdeg], hidle, by simp [Dev.is_eq, hsrc]⟩

theorem Dev.autoReturn_not_due {b : Bool} (h : d.clk.retSince = none ∨ d.get CLK_CTRL_AUTORET = 0 ∨ d.get CLK_STAT_CLKDEG = 0 ∨
    d.clk.switch = some b ∨ d.get CLK_STAT_SRC = 1) : d.autoReturn = d := by
  unfold Dev.autoReturn
  cases hsince : d.clk.retSince with
  | none => rfl
  | some t =>
    refine if_neg ?_
    rintro ⟨hret, hdeg, hidle, hsrc⟩
    rcases h with hnone | hoff | hok | hbusy | hsynth
    · simp [hsince] at hnone
    · simp [Dev.is_eq, hoff] at hret
    · simp [Dev.is_eq, hok] at hdeg
    · simp [hbusy] at hidle
    · simp [Dev.is_eq, hsynth] at hsrc

/-! ### The trim word (R435, R436) -/

/-- The trim loop runs. -/
abbrev Dev.Trims : Prop :=
  d.get CLK_CTRL_TRIMEN = 1 ∧ d.get CLK_STAT_REFOK = 1 ∧ d.clk.frozen = false ∧ d.time.on = true

/-- The device at the end of a trim window, its error and the new trim word in their registers. -/
def Dev.trimMeasured (err : Int) : Dev :=
  let e := d.elapse (ms 1 - d.time.up % ms 1)
  e.setSat CLK_CIOERR_ERR err |>.set CLK_TRIM_TRIM (clampInt 0 0xFFFFFF ((e.get CLK_TRIM_TRIM : Int) - err)).toNat

/-- What the error says of TRIMOK. -/
def Dev.trimJudged (err : Int) : Dev :=
  if 200 < err.natAbs then
    let e := d.setClk (fun c => { c with trimRun := 0 })
    if e.is CLK_STAT_TRIMOK then e.set CLK_STAT_TRIMOK 0 |>.set CLK_EVT_TRIMERR 1 else e
  else if err.natAbs ≤ 100 then
    let e := d.setClk (fun c => { c with trimRun := min (c.trimRun + 1) 4 })
    if 4 ≤ e.clk.trimRun then e.set CLK_STAT_TRIMOK 1 else e
  else d.setClk (fun c => { c with trimRun := 0 })

theorem Dev.trimWindow_eq (err : Int) (h : d.Trims) : d.trimWindow err = (d.trimMeasured err).trimJudged err := by
  obtain ⟨hen, hok, hfrozen, hon⟩ := h
  unfold Dev.trimWindow
  rw [if_neg (by simp [Dev.is_eq, hen, hok, hfrozen, hon])]
  rfl

theorem Dev.trimWindow_idle (err : Int) (h : d.get CLK_CTRL_TRIMEN = 0 ∨ d.get CLK_STAT_REFOK = 0 ∨ d.clk.frozen = true ∨ d.time.on = false) :
    d.trimWindow err = d := if_pos (by simpa [Dev.is_eq] using h)

theorem Dev.trimJudged_changes (err : Int) : d.Changes [.clk] (At [CLK_STAT, CLK_EVT]) (d.trimJudged err) := by
  refine Dev.Chg.changes ?_
  unfold Dev.trimJudged Dev.setClk
  repeat' constructor

/-- More than 2 ppm off, the trim word is not good. -/
theorem Dev.trimJudged_far {err : Int} (h : 200 < err.natAbs) : (d.trimJudged err).get CLK_STAT_TRIMOK = 0 ∧
    (d.get CLK_STAT_TRIMOK = 1 → (d.trimJudged err).get CLK_EVT_TRIMERR = 1) := by
  unfold Dev.trimJudged
  rw [if_pos h]
  dsimp only
  split
  · refine ⟨?_, fun _ => Dev.get_set_fits _ CLK_EVT_TRIMERR 1 (by decide) (by decide)⟩
    simp (disch := decide) only [Dev.get_set_apart, Dev.get_set_fits]
  next hok =>
    have hoff : d.is CLK_STAT_TRIMOK = false := Bool.eq_false_iff.2 hok
    have hzero : d.get CLK_STAT_TRIMOK = 0 := by simpa [Dev.is_eq] using hoff
    exact ⟨hzero, fun hone => by simp [hzero] at hone⟩

/-- Four windows in a row within 1 ppm make the trim word good. -/
theorem Dev.trimJudged_near {err : Int} (h : err.natAbs ≤ 100) (hrun : 3 ≤ d.clk.trimRun) : (d.trimJudged err).get CLK_STAT_TRIMOK = 1 := by
  have hfour : 4 ≤ min (d.clk.trimRun + 1) 4 := by omega
  unfold Dev.trimJudged
  rw [if_neg (by omega), if_pos h]
  refine (congrArg (Dev.get · CLK_STAT_TRIMOK) (if_pos hfour)).trans ?_
  exact Dev.get_set_fits _ CLK_STAT_TRIMOK 1 (by decide) (by decide)

theorem Dev.trimMeasured_changes (err : Int) : d.Changes [.time] (At [CLK_TRIM, CLK_CIOERR, TIM_WRAP]) (d.trimMeasured err) :=
  .trans (.trans ((d.elapse_changes _).mono (by simp) (by simp)) (.set _ _ _ (by simp [At, CLK_CIOERR_ERR])))
    (.set _ _ _ (by simp [At, CLK_TRIM_TRIM]))

theorem clampInt_bounds {lo hi : Int} (h : lo ≤ hi) (v : Int) : lo ≤ clampInt lo hi v ∧ clampInt lo hi v ≤ hi := by
  unfold clampInt
  split_ifs <;> omega

/-- The trim word follows the error, within its field. -/
theorem Dev.trimMeasured_trim (err : Int) :
    ((d.trimMeasured err).get CLK_TRIM_TRIM : Int) = clampInt 0 0xFFFFFF (d.get CLK_TRIM_TRIM - err) := by
  obtain ⟨hlo, hhi⟩ := clampInt_bounds (lo := 0) (hi := 0xFFFFFF) (by decide) (d.get CLK_TRIM_TRIM - err)
  have hfits : (clampInt 0 0xFFFFFF (d.get CLK_TRIM_TRIM - err)).toNat < 2 ^ CLK_TRIM_TRIM.width := by
    rw [show CLK_TRIM_TRIM.width = 24 from rfl]
    omega
  unfold Dev.trimMeasured
  dsimp only
  rw [d.elapse_get _ _ (by decide), Dev.get_set_fits _ _ _ (by decide) hfits]
  exact Int.toNat_of_nonneg hlo

theorem Dev.trimMeasured_err {err : Int} (h : err.natAbs < 2 ^ 15) : (d.trimMeasured err).getS CLK_CIOERR_ERR = err := by
  have hw : CLK_CIOERR_ERR.width - 1 = 31 := rfl
  refine (congrArg (toSigned CLK_CIOERR_ERR.width) (Dev.get_set_off _ CLK_TRIM_TRIM CLK_CIOERR_ERR _ (by decide))).trans ?_
  exact Dev.getS_setSat_same _ CLK_CIOERR_ERR err (by decide) (by decide) (by rw [hw]; omega) (by rw [hw]; omega)

/-- The window ends at the next ms of TB2. -/
theorem Dev.trimMeasured_up (err : Int) (hon : d.time.on = true) :
    (d.trimMeasured err).time.up % 1000000 = 0 ∧ d.time.up < (d.trimMeasured err).time.up := by
  have hms : ms 1 = 1000000 := rfl
  have hup : (d.trimMeasured err).time.up = d.time.up + (ms 1 - d.time.up % ms 1) := d.elapse_up _ hon
  rw [hup, hms]
  omega

theorem Dev.trimDue_ok (h : d.get CLK_STAT_TRIMOK = 1) : d.trimDue =
    (d.elapse (d.clk.storeAt + ms 60000 - d.time.cio)).setClk fun c =>
      { c with storeAt := (d.elapse (d.clk.storeAt + ms 60000 - d.time.cio)).time.cio } := if_pos (by simp [Dev.is_eq, h])

theorem Dev.trimDue_bad (h : d.get CLK_STAT_TRIMOK = 0) : d.trimDue = d := if_neg (by simp [Dev.is_eq, h])

theorem trimStored_ok (nv : Nonvol) {d : Dev} (h : d.get CLK_STAT_TRIMOK = 1) :
    trimStored nv d = { nv with mram := { nv.mram with trim := some (BitVec.ofNat 24 (d.get CLK_TRIM_TRIM)) } } :=
  if_pos (by simp [Dev.is_eq, h])

theorem trimStored_bad (nv : Nonvol) {d : Dev} (h : d.get CLK_STAT_TRIMOK = 0) : trimStored nv d = nv := if_neg (by simp [Dev.is_eq, h])

theorem trimStored_fuses (nv : Nonvol) (d : Dev) : (trimStored nv d).fuses = nv.fuses := by
  unfold trimStored
  split <;> rfl

end

end Sys2Proof.Machine
end

section
/-! The clock block (R429 to R451): how the commands of the clocks complete, and the statement of the block's writes and commands. -/

namespace Sys2Proof.Machine

open Sys2Proof

/-! ### How the clocks' commands run -/

section
variable (s : State) (h : s.dev.held = false)
include h

theorem lockWindow_runs (dv : Int) (ppm : Nat) : Runs (.lockWindow dv ppm) .device s fun d =>
    s.dev.clk.winAt + 2 ^ s.dev.lockWin * s.dev.refPeriod ≤ d.time.cio ∧ d.clk.winAt = d.time.cio ∧
    (s.dev.get CLK_CTRL_MDLLEN = 1 → s.dev.get CLK_STAT_MDLLRDY = 0 → s.dev.get CLK_STAT_REFOK = 1 → ppm ≤ 1000 → dv.natAbs ≤ 1 →
      3 ≤ s.dev.clk.lockRun → d.get CLK_STAT_MDLLRDY = 1 ∧ d.get CLK_EVT_LOCK = 1 ∧ d.getS CLK_LOCKCNT_D = dv ∧
      (s.dev.time.on = false → s.dev.sch.aclkStopped = false → d.time.on = true ∧ d.time.tb0 = 0 ∧ d.time.tb1 = 0 ∧ d.time.tb2 = 0 ∧
        d.time.tb3 = 0)) ∧
    (s.dev.get CLK_STAT_MDLLRDY = 0 → s.dev.clk.lockRun < 3 ∨ 1 < dv.natAbs ∨ 1000 < ppm ∨ s.dev.get CLK_CTRL_MDLLEN = 0 →
      d.get CLK_STAT_MDLLRDY = 0) ∧
    (s.dev.get CLK_CTRL_MDLLEN = 1 → s.dev.get CLK_STAT_MDLLRDY = 1 → 2 < dv.natAbs → s.dev.get CLK_STAT_REFOK = 0 ∨ ppm ≤ 1000 →
      d.get CLK_STAT_MDLLRDY = 0 ∧ d.get CLK_EVT_LOL = 1) ∧
    (s.dev.get CLK_STAT_REFOK = 1 → 1000 < ppm → d.get CLK_STAT_REFOK = 0 ∧ d.get CLK_EVT_REFLOSS = 1 ∧ d.get CLK_STAT_MDLLRDY = 0 ∧
      d.clk.frozen = true) ∧
    (s.dev.get CLK_STAT_REFOK = 0 → ppm ≤ 500 → 3 ≤ s.dev.clk.refRun → d.get CLK_STAT_REFOK = 1) ∧
    (s.dev.get CLK_STAT_REFOK = 0 → 500 < ppm → d.get CLK_STAT_REFOK = 0) ∧
    s.dev.Changes [.clk, .time] (At [CLK_STAT, CLK_EVT, CLK_LOCKCNT, TIM_WRAP]) d := by
  obtain ⟨hend, hwin⟩ := s.dev.lockWindow_winAt dv ppm
  exact .act (·.lockWindow dv ppm) rfl h ⟨hend, hwin, Dev.lockWindow_lock, Dev.lockWindow_unlocked, Dev.lockWindow_lol, Dev.lockWindow_lost,
    Dev.lockWindow_regained, Dev.lockWindow_stays_bad, s.dev.lockWindow_changes dv ppm⟩

theorem refloss_good_runs (hok : s.dev.get CLK_STAT_REFOK = 1) : Runs .refloss .device s fun d => d.get CLK_STAT_REFOK = 0 ∧
    d.get CLK_STAT_MDLLRDY = 0 ∧ d.get CLK_EVT_REFLOSS = 1 ∧ d.clk.frozen = true ∧ s.dev.Changes [.clk] (At [CLK_STAT, CLK_EVT]) d := by
  obtain ⟨hrefok, hrdy, hevt, hfrozen⟩ := s.dev.refLoss_fields hok
  exact .act (·.refLoss) rfl h ⟨hrefok, hrdy, hevt, hfrozen, s.dev.refLoss_changes⟩

theorem refloss_bad_runs (hbad : s.dev.get CLK_STAT_REFOK = 0) : Runs .refloss .device s fun d => d.clk.refRun = 0 ∧
    s.dev.Changes [.clk] (At []) d := by
  refine .act (·.refLoss) rfl h ?_
  rw [s.dev.refLoss_bad hbad]
  exact ⟨rfl, .clk_ _ _ (by simp)⟩

theorem failover_stores (mon : Bool) (hcause : s.dev.FailCause mon) (hsynth : s.dev.OnSynth) :
    Stores (.failover mon) .device s fun nv d => d.get CLK_EVT_FAILOVER = 1 ∧ s.dev.Posts d 9 .device ∧ d.get CLK_STAT_SWBUSY = 1 ∧
      (s.dev.get CLK_STAT_SRC = 1 → d.get CLK_STAT_CLKDEG = 1) ∧ d.clk.switch = some false ∧ d.clk.frozen = true ∧
      (s.dev.get CLK_STAT_TRIMOK = 1 → nv.mram.trim = some (BitVec.ofNat 24 (s.dev.get CLK_TRIM_TRIM))) ∧
      (s.dev.get CLK_STAT_TRIMOK = 0 → nv = s.nv) ∧ nv.fuses = s.nv.fuses ∧ nv.mram.log = s.nv.mram.log ∧
      s.dev.Changes [.clk, .hif, .out] (At ([CLK_STAT, CLK_EVT] ++ evtRegs)) d := by
  obtain ⟨hflag, hposts, hbusy, hdeg, hswitch, hfrozen⟩ := s.dev.failedOver_fields
  have htaken : s.dev.failover mon = s.dev.failedOver := (s.dev.failover_eq mon).trans (if_pos ⟨hcause, hsynth⟩)
  have hstored : failoverStored s.nv s.dev mon = (trimStored s.nv s.dev, s.dev.failedOver) := by
    rw [failoverStored, htaken, hswitch, if_neg hsynth.switch_ne.symm]
  refine .store (failoverStored · · mon) rfl h ?_
  rw [hstored]
  exact ⟨hflag, hposts, hbusy, hdeg, hswitch, hfrozen, fun hok => by rw [trimStored_ok s.nv hok], trimStored_bad s.nv,
    trimStored_fuses s.nv s.dev, (trimStored_sameLog s.nv s.dev).1, s.dev.failedOver_changes⟩

theorem failover_none_stores (mon : Bool) (hno : s.dev.get CLK_STAT_REFOK = 1 ∧ s.dev.get CLK_STAT_MDLLRDY = 1 ∧ mon = false ∨
    s.dev.clk.switch ≠ some true ∧ (s.dev.get CLK_STAT_SRC = 0 ∨ s.dev.clk.switch = some false)) :
    Stores (.failover mon) .device s fun nv d => nv = s.nv ∧ d = s.dev := by
  have hnone : ¬ (s.dev.FailCause mon ∧ s.dev.OnSynth) := by
    rintro ⟨hcause, hsynth⟩
    rcases hno with ⟨hok, hrdy, hmon⟩ | ⟨hnot, hsrc⟩
    · simp [Dev.FailCause, hok, hrdy, hmon] at hcause
    · obtain ⟨hone, hne⟩ := hsynth.resolve_right hnot
      exact hsrc.elim (fun hzero => by omega) hne
  have hkept : failoverStored s.nv s.dev mon = (s.nv, s.dev) := by
    rw [failoverStored, s.dev.failover_eq, if_neg hnone, if_pos rfl]
  refine .store (failoverStored · · mon) rfl h ?_
  rw [hkept]
  exact ⟨rfl, rfl⟩

theorem clockSwitchComplete_runs (stop b : Bool) (hswitch : s.dev.clk.switch = some b) : Runs (.clockSwitchComplete stop) .device s fun d =>
    d.get CLK_STAT_SRC = (if b then 1 else 0) ∧ d.get CLK_STAT_SWBUSY = 0 ∧ d.clk.switch = none ∧
    (b = true → d.get CLK_STAT_CLKDEG = 0 ∧ (s.dev.get CLK_STAT_CLKDEG = 1 → d.get CLK_EVT_RETURN = 1)) ∧
    (stop = true → d.get CLK_EVT_FORCED = 1 ∧ s.dev.Posts d 8 .device ∧ d.time = s.dev.time) ∧
    (stop = false → d.time.tb0.toNat ≤ s.dev.time.tb0.toNat ∧ s.dev.time.tb0.toNat ≤ d.time.tb0.toNat + 0x8000) ∧
    s.dev.Changes [.clk, .time, .free, .hif, .out] (At ([CLK_STAT, CLK_EVT] ++ evtRegs)) d := by
  refine .act (·.switchComplete stop) rfl h ?_
  obtain ⟨hsrc, hbusy, hdeg, hnone⟩ := s.dev.switchPaid_fields stop b
  have hframe := s.dev.switchPaid_changes stop b
  have hstop : stop = true → (s.dev.switchPaid stop b).get CLK_EVT_FORCED = 1 ∧ s.dev.Posts (s.dev.switchPaid stop b) 8 .device ∧
      (s.dev.switchPaid stop b).time = s.dev.time := by
    rintro rfl
    exact s.dev.switchPaid_stopped b
  have hloss : stop = false → (s.dev.switchPaid stop b).time.tb0.toNat ≤ s.dev.time.tb0.toNat ∧
      s.dev.time.tb0.toNat ≤ (s.dev.switchPaid stop b).time.tb0.toNat + 0x8000 := by
    rintro rfl
    exact s.dev.switchPaid_tb0 b
  rw [s.dev.switchComplete_eq stop hswitch]
  cases b with
  | false => exact ⟨hsrc, hbusy, hnone, by simp, hstop, hloss, hframe⟩
  | true =>
    have hends := (s.dev.switchPaid stop true).degradedEnds_changes
    have htime : (s.dev.switchPaid stop true).degradedEnds.time = (s.dev.switchPaid stop true).time := hends.1 .time (by simp)
    have hout : (s.dev.switchPaid stop true).degradedEnds.out = (s.dev.switchPaid stop true).out := hends.1 .out (by simp)
    obtain ⟨hclear, hret⟩ := (s.dev.switchPaid stop true).degradedEnds_fields
    refine ⟨(Dev.degradedEnds_get _ _ (by decide)).trans hsrc, (Dev.degradedEnds_get _ _ (by decide)).trans hbusy,
      (Dev.degradedEnds_switch _).trans hnone, fun _ => ⟨hclear, fun hone => hret (hdeg.trans hone)⟩, fun hs => ?_, fun hs => ?_,
      hframe.trans (hends.mono (by simp) (by simp))⟩
    · obtain ⟨hforced, hposts, hkept⟩ := hstop hs
      exact ⟨(Dev.degradedEnds_get _ _ (by decide)).trans hforced,
        fun hroom => (congrArg (List.filterMap Emission.evt) hout).trans (hposts hroom), htime.trans hkept⟩
    · rw [if_pos rfl, htime]
      exact hloss hs

theorem clockSwitchComplete_none_runs (stop : Bool) (hnone : s.dev.clk.switch = none) :
    Runs (.clockSwitchComplete stop) .device s fun d => d = s.dev :=
  .act (·.switchComplete stop) rfl h (s.dev.switchComplete_none stop hnone)

theorem clockAutoReturn_runs {t : Nat} (hsince : s.dev.clk.retSince = some t) (hret : s.dev.get CLK_CTRL_AUTORET = 1)
    (hdeg : s.dev.get CLK_STAT_CLKDEG = 1) (hidle : s.dev.clk.switch = none) (hsrc : s.dev.get CLK_STAT_SRC = 0) :
    Runs .clockAutoReturn .device s fun d => d.clk.switch = some true ∧ d.get CLK_STAT_SWBUSY = 1 ∧
      d.time.cio = max s.dev.time.cio (t + 1000000 * max (s.dev.get CLK_RETQ_RETQUAL) 1) ∧
      s.dev.Changes [.clk, .time] (At [CLK_STAT, TIM_WRAP]) d := by
  refine .act (·.autoReturn) rfl h ?_
  rw [s.dev.autoReturn_due hsince hret hdeg hidle hsrc]
  refine ⟨by rw [Dev.startSwitch_clk], Dev.startSwitch_swbusy _ _, ?_, ?_⟩
  · rw [Dev.startSwitch_time, Dev.elapse_until, ms, Nat.mul_comm]
  · exact ((s.dev.elapse_changes _).mono (by simp) (by simp)).trans ((Dev.startSwitch_changes _ _).mono (by simp) (by simp))

theorem clockAutoReturn_none_runs {b : Bool} (hno : s.dev.clk.retSince = none ∨ s.dev.get CLK_CTRL_AUTORET = 0 ∨
    s.dev.get CLK_STAT_CLKDEG = 0 ∨ s.dev.clk.switch = some b ∨ s.dev.get CLK_STAT_SRC = 1) :
    Runs .clockAutoReturn .device s fun d => d = s.dev :=
  .act (·.autoReturn) rfl h (s.dev.autoReturn_not_due hno)

theorem trimWindow_runs (err : Int) (htrims : s.dev.Trims) : Runs (.trimWindow err) .device s fun d =>
    (d.get CLK_TRIM_TRIM : Int) = clampInt 0 0xFFFFFF (s.dev.get CLK_TRIM_TRIM - err) ∧ (err.natAbs < 2 ^ 15 → d.getS CLK_CIOERR_ERR = err) ∧
    (200 < err.natAbs → d.get CLK_STAT_TRIMOK = 0 ∧ (s.dev.get CLK_STAT_TRIMOK = 1 → d.get CLK_EVT_TRIMERR = 1)) ∧
    (err.natAbs ≤ 100 → 3 ≤ s.dev.clk.trimRun → d.get CLK_STAT_TRIMOK = 1) ∧ d.time.up % 1000000 = 0 ∧ s.dev.time.up < d.time.up ∧
    s.dev.Changes [.clk, .time] (At [CLK_STAT, CLK_EVT, CLK_TRIM, CLK_CIOERR, TIM_WRAP]) d := by
  refine .act (·.trimWindow err) rfl h ?_
  rw [s.dev.trimWindow_eq err htrims]
  have hmeasured := s.dev.trimMeasured_changes err
  have hjudged := (s.dev.trimMeasured err).trimJudged_changes err
  have htime : ((s.dev.trimMeasured err).trimJudged err).time = (s.dev.trimMeasured err).time := hjudged.1 .time (by simp)
  have hclk : (s.dev.trimMeasured err).clk = s.dev.clk := hmeasured.1 .clk (by simp)
  obtain ⟨-, -, -, hon⟩ := htrims
  obtain ⟨hms, hlater⟩ := s.dev.trimMeasured_up err hon
  rw [htime]
  refine ⟨?_, fun herr => ?_, fun hfar => ?_, fun hnear hrun => Dev.trimJudged_near _ hnear (hclk ▸ hrun), hms, hlater, ?_⟩
  · rw [hjudged.get _ (by decide)]
    exact s.dev.trimMeasured_trim err
  · rw [Dev.getS, hjudged.get _ (by decide)]
    exact s.dev.trimMeasured_err herr
  · obtain ⟨hbad, hflag⟩ := Dev.trimJudged_far (s.dev.trimMeasured err) hfar
    exact ⟨hbad, fun hok => hflag ((hmeasured.get _ (by decide)).trans hok)⟩
  · exact (hmeasured.mono (by simp) (by simp)).trans (hjudged.mono (by simp) (by simp))

theorem trimWindow_idle_runs (err : Int) (hidle : s.dev.get CLK_CTRL_TRIMEN = 0 ∨ s.dev.get CLK_STAT_REFOK = 0 ∨ s.dev.clk.frozen = true ∨
    s.dev.time.on = false) : Runs (.trimWindow err) .device s fun d => d = s.dev :=
  .act (·.trimWindow err) rfl h (s.dev.trimWindow_idle err hidle)

theorem trimStore_stores (hok : s.dev.get CLK_STAT_TRIMOK = 1) : Stores .trimStore .device s fun nv d =>
    nv = { s.nv with mram := { s.nv.mram with trim := some (BitVec.ofNat 24 (s.dev.get CLK_TRIM_TRIM)) } } ∧
    d.time.cio = max s.dev.time.cio (s.dev.clk.storeAt + 60000000000) ∧ d.clk.storeAt = d.time.cio ∧
    s.dev.Changes [.clk, .time] (At [TIM_WRAP]) d := by
  refine .store (fun nv d => (trimStored nv d, d.trimDue)) rfl h ⟨trimStored_ok s.nv hok, ?_⟩
  rw [s.dev.trimDue_ok hok]
  exact ⟨s.dev.elapse_until _, rfl, ((s.dev.elapse_changes _).mono (by simp) fun _ => id).trans (.clk_ _ _ (by simp))⟩

theorem trimStore_bad_stores (hbad : s.dev.get CLK_STAT_TRIMOK = 0) : Stores .trimStore .device s fun nv d => nv = s.nv ∧ d = s.dev :=
  .store (fun nv d => (trimStored nv d, d.trimDue)) rfl h ⟨trimStored_bad s.nv hbad, s.dev.trimDue_bad hbad⟩

theorem castIronOscillatorReady_runs : Runs .castIronOscillatorReady .device s fun d => d.get CLK_STAT_CIORDY = 1 ∧
    d.time.cio = max s.dev.time.cio 2000 ∧ s.dev.Changes [.time] (At [CLK_STAT, TIM_WRAP]) d :=
  .act (·.castReady) rfl h ⟨Dev.get_set_fits _ CLK_STAT_CIORDY 1 (by decide) (by decide), s.dev.elapse_until 2000,
    ((s.dev.elapse_changes _).mono (by simp) (by simp)).trans (.set _ _ _ (by decide))⟩

end

/-! ### The statement -/

/-- Settles O50: it holds, command by command. -/
theorem clocks : Obligations.Clocks := by
  refine ⟨fun s o v one => ⟨fun h => ?_, fun h => ?_, fun h => ?_, fun h => ?_, fun h => ?_, clkLsenWrite_comes s o v⟩,
    fun s dv err ppm t mon stop b h => ?_⟩
  · exact ⟨clockSourceSelect_fields_comes s o v h, clockSourceSelect_selected_comes s o v h, clockSourceSelect_switched_comes s o v h,
      clockSourceSelect_follows_comes s o v h, clockSourceSelect_refused_comes s o v h, mdllEnable_comes s o h⟩
  · exact ⟨clkMdllWrite_comes s o v h, clkMdllWrite_refused_comes s o v h⟩
  · exact ⟨clkDivWrite_comes s o v h, clkDivWrite_refused_comes s o v h⟩
  · exact ⟨clkOutWrite_comes s o v h, clkOutWrite_refused_comes s o v h⟩
  · exact ⟨clkGateWrite_comes s o v one h, clkGateWrite_refused_comes s o v one h⟩
  · exact ⟨lockWindow_runs s h dv ppm, refloss_good_runs s h, refloss_bad_runs s h, fun ⟨hcause, hsynth⟩ => failover_stores s h mon hcause hsynth,
      failover_none_stores s h mon, clockSwitchComplete_runs s h stop b, clockSwitchComplete_none_runs s h stop, clockAutoReturn_runs s h,
      clockAutoReturn_none_runs s h, fun hen hok hfrozen hon => trimWindow_runs s h err ⟨hen, hok, hfrozen, hon⟩, trimWindow_idle_runs s h err,
      trimStore_stores s h, trimStore_bad_stores s h, castIronOscillatorReady_runs s h⟩

end Sys2Proof.Machine
end

section
/-! The end of a delay-list stall breaks the frame of `Perturbations`: the entries that it releases let the scheduler choose (R402), and
the choice may fall on an item of a flow beyond the 256 of SVC, whose dispatch writes past the block. -/

namespace Sys2Proof.Machine

open Sys2Proof

/-! ### A stall that ends while an item of a stray flow waits -/

/-- A device that has stalled flow 0 for the two boundaries of DUR, with an entry of the flow held back; pair 2 is idle, may run the
stray flow, and an item of that flow is ready. -/
def stalledState : State :=
  let d := State.reset.dev.set DIAG_PDLY_EN 1 |>.set DIAG_PDLY_DUR 2 |>.set (SVC_PSTAT_STATE 2) pIDLE
    |>.set (SVC_FCFG_EN strayFlow) 1 |>.set (SVC_FCFG_PAIRS strayFlow) 1
  let d := d.setSvc (fun s => { s with ready := [strayItem], delays := [⟨{ strayItem with flow := 0 }, 0, 1⟩] })
  { State.reset with dev := d.setDiag (fun s => { s with active := [(.dly, 3)] }) }

theorem stalledState_due : stalledState.dev.diag.active.any
    (fun x => x.1 == .dly && stalledState.dev.get (Pert.dly).dur != 0 && decide (stalledState.dev.get (Pert.dly).dur < x.2)) = true := by
  decide +kernel

theorem stalledState_awake : stalledState.dev.held = false ∧ stalledState.dev.rst.deep = false ∧
    (stalledState.dev.pertEnd .dly).rst.deep = false := by decide +kernel

/-- The end of the stall dispatches the stray item to pair 2 and sets INSVC and LAST of its flow, past BAR0. -/
theorem stalledState_pertEnd : (stalledState.dev.pertEnd .dly).word (SVC_FSTAT strayFlow) = 0x80020000 ∧
    stalledState.dev.word (SVC_FSTAT strayFlow) = 0 := by decide +kernel

theorem exec_perturbationEnd (k : Pert) (s : State) : exec (.perturbationEnd k) s = s.act .device (·.pertEnd k) := rfl

/-! ### The statement -/

/-- Refutes O52: its clause of PERTURBATION_END names DIAG and SVC for what the end of a delay-list stall may change, and the release of
the entries held back lets the scheduler choose among all ready items, of any flow. With an item of flow 0x22F00 ready for pair 2 the
dispatch writes SVC_FSTAT of that flow at 0x460008, past every block. An enqueue takes the flow from a byte (R398), but the statement
speaks of every state. -/
theorem not_perturbations : ¬ Obligations.Perturbations := by
  unfold Obligations.Perturbations
  intro h
  obtain ⟨hheld, hdeep, hdeepEnd⟩ := stalledState_awake
  obtain ⟨hwritten, hzero⟩ := stalledState_pertEnd
  obtain ⟨-, -, -, hend⟩ := h stalledState .device .dly 0
  obtain ⟨d, ⟨-, -, -, -, hframe⟩, hword⟩ := ((hend hheld).1 stalledState_due).word_pastBar0 (off := SVC_FSTAT strayFlow)
    (exec_perturbationEnd _ _) hheld hdeepEnd (fun d ⟨_, _, _, _, hd⟩ => (congrArg RstState.deep (hd.1 .rst (by decide))).trans hdeep)
    (by decide)
  have hkept : d.word (SVC_FSTAT strayFlow) = stalledState.dev.word (SVC_FSTAT strayFlow) := hframe.word _ (by decide)
  have hclash : (0x80020000 : Word) = 0 :=
    calc (0x80020000 : Word)
      _ = d.word (SVC_FSTAT strayFlow) := (hword.trans hwritten).symm
      _ = 0 := hkept.trans hzero
  exact absurd hclash (by decide)

end Sys2Proof.Machine
end
